-- ==== Sys2Proof/Word.lean ====
section
/-! DEFINITION. The word types of Onaz revision 1: plain names for the widths that the manual uses. -/

namespace Sys2Proof

/-- A byte (R7: multi-byte values are little-endian sequences of these). -/
abbrev Byte := BitVec 8
/-- A scalar register's value (R65). -/
abbrev Word := BitVec 32
/-- A 64-bit value: a scalar pair (R65), a reference (R168), an accumulator word (R99), an instruction word (R270). -/
abbrev DWord := BitVec 64
/-- A 48-bit virtual or physical address (R13). -/
abbrev Addr := BitVec 48
/-- A vector register's value (R71). -/
abbrev VReg := BitVec 4096
/-- A predicate register's value (R75). -/
abbrev PReg := BitVec 1024

end Sys2Proof
end

