-- ==== Sys2Proof/Config.lean ====
section
/-! DEFINITION. What the manual leaves open, as opaque constants (free values): no proof can see what they are. The
cryptographic primitives that the manual names by their standards stand here too (log 9). -/

namespace Sys2Proof.Config

/-- The byte that the clear engine leaves at an offset of the pool when ZS = 0 (R82: it depends only on the offset;
log 6). Scratchpad offsets and, from 2^32 up, accumulator offsets. -/
opaque zs0Byte : Nat → Byte

/-- A fresh unconstrained byte, by the counter that State holds (log 7). -/
opaque freeByte : Nat → Byte

/-- A fresh unconstrained word, likewise. -/
opaque freeWord : Nat → Word

/-- ML-KEM-768 decapsulation under this device's key: the shared secret of a ciphertext, or none (R268; log 9). -/
opaque mlkemDecap : List Byte → Option (BitVec 256)

/-- Does an ML-DSA-44 signature over a digest verify under the Priziyx key (R267; log 9)? -/
opaque mldsaVerify : BitVec 256 → List Byte → Bool

/-- The fused security version of a boot stage (R267; log 9). -/
opaque fusedVersion : Nat → Nat

/-- Byte `i` of the device's ML-DSA-44 signature over a message (R269; log 9). -/
opaque mldsaSign : List Byte → Nat → Byte

/-- The key that the device derives from its identity key for cold objects (R179; log 9). -/
opaque coldKey : BitVec 256

end Sys2Proof.Config
end

