-- ==== Sys2Proof/Syntax.lean ====
section
/-! DEFINITION. The syntax: the operand structures of the ten payload formats (R274 to R278), what each event row
of the operation table brings with it, and `Instr`, one constructor per row of spec/opcode_table.json. An operand
structure keeps EVERY payload bit, reserved ones too, so that decoding loses nothing; `WellFormed` checks them. -/

namespace Sys2Proof

/-- The common header (R273): the end-of-bundle bit E, the guard predicate PG and its inversion PN. -/
structure Hdr where
  last : Bool
  pg   : BitVec 4
  pn   : Bool
  deriving DecidableEq, Repr

/-- Format SR (R274); `rz` is the field that must be zero. -/
structure SrOps where
  sd : BitVec 6
  sa : BitVec 6
  sb : BitVec 6
  ma : BitVec 6
  mb : BitVec 6
  md : BitVec 6
  rz : BitVec 7
  deriving DecidableEq, Repr

/-- Format SI (R274). -/
structure SiOps where
  sd  : BitVec 6
  sa  : BitVec 6
  imm : BitVec 31
  deriving DecidableEq, Repr

/-- Format VR (R275); `rz` is the field that must be zero. -/
structure VrOps where
  vd  : BitVec 8
  va  : BitVec 8
  vb  : BitVec 8
  vc  : BitVec 8
  ty  : BitVec 4
  rm  : BitVec 2
  sat : Bool
  ua  : Bool
  ub  : Bool
  rz  : BitVec 2
  deriving DecidableEq, Repr

/-- Format VS (R275). -/
structure VsOps where
  vd  : BitVec 8
  va  : BitVec 8
  ss  : BitVec 6
  ty  : BitVec 4
  rm  : BitVec 2
  sat : Bool
  imm : BitVec 14
  deriving DecidableEq, Repr

/-- Format M (R276). -/
structure MOps where
  dr  : BitVec 8
  bs  : BitVec 6
  ord : BitVec 2
  sc  : BitVec 2
  sz  : BitVec 3
  ch  : BitVec 2
  off : BitVec 20
  deriving DecidableEq, Repr

/-- Format K (R276). -/
structure KOps where
  kh  : BitVec 4
  kb  : BitVec 4
  dr  : BitVec 8
  ord : BitVec 2
  sz  : BitVec 3
  off : BitVec 22
  deriving DecidableEq, Repr

/-- Format E (R277). -/
structure EOps where
  tok  : BitVec 4
  ra   : BitVec 4
  rb   : BitVec 4
  sx   : BitVec 6
  sy   : BitVec 6
  sz   : BitVec 6
  eimm : BitVec 13
  deriving DecidableEq, Repr

/-- Format B (R277). -/
structure BOps where
  bf  : BitVec 3
  li  : BitVec 2
  sa  : BitVec 6
  off : BitVec 32
  deriving DecidableEq, Repr

/-- Format X (R278). -/
structure XOps where
  vd : BitVec 8
  va : BitVec 8
  vb : BitVec 8
  sa : BitVec 6
  sb : BitVec 6
  xf : BitVec 7
  deriving DecidableEq, Repr

/-- Format Y (R278). -/
structure YOps where
  sd  : BitVec 6
  sa  : BitVec 6
  srn : BitVec 12
  imm : BitVec 19
  deriving DecidableEq, Repr

/-- A context bank: core 0 to 31, bank 0 (A) or 1 (B) (R11, R17). -/
structure Ctx where
  core : Fin 32
  bank : Fin 2
  deriving DecidableEq, Repr

/-- A node slot index (R42). -/
abbrev NodeIx := Fin 65536

/-- The class of a node (R41). -/
inductive NodeClass where
  | single | gang | application | null
  deriving DecidableEq, Repr

/-- A store of an application-core hart that reaches a submission window (R40): the queue whose window it is, the
offset within the 4 KiB window, the size in bytes and the value. -/
structure PieceStore where
  hart : Nat
  q    : Fin 64
  off  : Fin 4096
  size : Nat
  val  : BitVec 64
  deriving DecidableEq, Repr

/-- A single 64-byte write of an application-core hart to a submission slot (R40). -/
structure LineStore where
  hart : Nat
  desc : BitVec 512
  deriving DecidableEq, Repr

/-- What an SFENCE.VMA or its Svinval form names (R131): an address space (by root page number) or all of them, a
virtual address or all of them. -/
structure Invalidate where
  root : Option (BitVec 44)
  va   : Option Addr
  deriving DecidableEq, Repr

/-- An agent outside the NPU that reaches device memory (R123, R128). -/
inductive ExtAgent where
  | application | pcie
  deriving DecidableEq, Repr

/-- An access of such an agent: `wr = none` reads `size` bytes, `wr = some bytes` writes them. -/
structure ExtAccess where
  agent : ExtAgent
  pa    : Addr
  size  : Nat
  wr    : Option (List Byte)
  deriving DecidableEq, Repr

/-- One bank of the main tier's DRAM (R122). -/
structure RowBank where
  channel : Fin 32
  sub     : Fin 2
  bank    : Fin 16
  deriving DecidableEq, Repr

/-- A value in a block of the Birith link (R114): sign, exponent less Emin, fraction, and its flag byte where the block has them. -/
structure LinkVal where
  sign  : Bool
  delta : Nat
  frac  : Nat
  flag  : Option Nat
  deriving DecidableEq, Repr

/-- A block of values: the 16-bit header (R114) and the values. -/
structure LinkBlock where
  head : BitVec 16
  vals : List LinkVal
  deriving DecidableEq, Repr

/-- Encoded elements as they cross the link (R114). -/
inductive Wire where
  | bytes (data : List Byte)
  | fp32 (blocks : List LinkBlock)
  | a56 (blocks : List LinkBlock)
  deriving DecidableEq, Repr

/-- A remote copy or reduction that arrives over the Birith link (R114, R257): the device it comes from, the physical
address it names, the reduction code, the destination format (BFMT bits [7:0]) and the encoded elements. -/
structure RemoteCopy where
  dev  : Fin 4
  pa   : Addr
  red  : BitVec 2
  fmt  : BitVec 8
  wire : Wire
  deriving DecidableEq, Repr

/-- A weight chunk that arrives in the pipelined distribution (R259): expert, far or main copy, chunk index, bytes. -/
structure DistChunk where
  xid  : BitVec 32
  far  : Bool
  idx  : Nat
  data : List Byte
  deriving DecidableEq, Repr

/-- A Birith port that goes up or down, and the devices that can then be reached (R254 LNKID, R258). -/
structure LinkChange where
  port  : Fin 2
  up    : Bool
  reach : BitVec 4
  deriving DecidableEq, Repr

/-- The six readings of a cluster's sensors (R249): four thermal, two of current. -/
structure SensorSet where
  t0 : BitVec 16
  t1 : BitVec 16
  t2 : BitVec 16
  t3 : BitVec 16
  i0 : BitVec 16
  i1 : BitVec 16
  deriving DecidableEq, Repr

/-- The causes of a wake (R254 WAKESRC), less the management port's, which has a row of its own. -/
inductive WakeSource where
  | pcie | timer | host
  deriving DecidableEq, Repr

/-- One firmware stage as boot finds it (R267): image, signature, security version. -/
structure BootStage where
  image   : List Byte
  sig     : List Byte
  version : Nat
  deriving DecidableEq, Repr

/-- What firmware writes at boot from the platform configuration (the registers whose reset value is "firmware"). -/
structure PlatformConfig where
  rmap     : List (Nat × BitVec 128)
  famBase  : Addr
  famFirst : Nat
  famCount : Nat
  otBase   : Addr
  ftBase   : Addr
  ctlBase  : Addr
  tvec     : Word
  fwBase   : Addr
  wdPeriod : Nat
  lnkid    : BitVec 12
  deriving DecidableEq, Repr

/-- What a boot finds (R267): its stages in order, and the platform configuration. -/
structure BootImage where
  stages : List BootStage
  cfg    : PlatformConfig
  deriving DecidableEq, Repr

/-- The operations of the device: the instruction words of R282 with their payloads, then the machine's own steps and
the host's, with what each brings; the rows that bring
nothing stand last. One constructor per row of spec/opcode_table.json. -/
inductive Instr where
  /-- Does nothing; a nonzero payload bit raises illegal instruction. (R313) -/
  | nop (h : Hdr) (o : YOps)
  /-- Reads 32 bits of a system register into a scalar. (R348) -/
  | sysr (h : Hdr) (o : YOps)
  /-- Writes scalar plus immediate to a system register; the write takes effect from the next bundle. (R348) -/
  | sysw (h : Hdr) (o : YOps)
  /-- Raises software trap 0x10 with EVAL set to the immediate; EPC names the following bundle. (R355) -/
  | trap (h : Hdr) (o : YOps)
  /-- Returns from monitor mode: restores loop state, ROT and PROT, clears MODE and resumes at EPC. (R340) -/
  | rte (h : Hdr) (o : YOps)
  /-- Blocks the bank until commands complete, a timeout passes or an engine fault is pending, then writes a code. (R314) -/
  | idle (h : Hdr) (o : YOps)
  /-- Writes a value to the core's SIGV register and raises event 8. (R307) -/
  | evsig (h : Hdr) (o : YOps)
  /-- In monitor mode, performs the firmware halt: writes a Crock record, copies the ring to flash and removes VDD_CORE. (R310) -/
  | halt (h : Hdr) (o : YOps)
  /-- Register-form lane-wise add. (R342) -/
  | sadd (h : Hdr) (o : SrOps)
  /-- Immediate-form 32-bit add. (R342) -/
  | saddSi (h : Hdr) (o : SiOps)
  /-- Register-form lane-wise subtract. (R342) -/
  | ssub (h : Hdr) (o : SrOps)
  /-- Immediate-form subtract. (R342) -/
  | ssubSi (h : Hdr) (o : SiOps)
  /-- Register-form low product. (R342) -/
  | smul (h : Hdr) (o : SrOps)
  /-- Immediate-form low product. (R342) -/
  | smulSi (h : Hdr) (o : SiOps)
  /-- Register-form signed high product. (R342) -/
  | smulh (h : Hdr) (o : SrOps)
  /-- Immediate-form signed high product. (R342) -/
  | smulhSi (h : Hdr) (o : SiOps)
  /-- Register-form signed quotient; interlocked; sets DZ on division by zero. (R342) -/
  | sdiv (h : Hdr) (o : SrOps)
  /-- Immediate-form signed quotient. (R342) -/
  | sdivSi (h : Hdr) (o : SiOps)
  /-- Register-form signed remainder; interlocked. (R342) -/
  | srem (h : Hdr) (o : SrOps)
  /-- Immediate-form signed remainder. (R342) -/
  | sremSi (h : Hdr) (o : SiOps)
  /-- Register-form bitwise AND. (R342) -/
  | sand (h : Hdr) (o : SrOps)
  /-- Immediate-form bitwise AND. (R342) -/
  | sandSi (h : Hdr) (o : SiOps)
  /-- Register-form bitwise OR. (R342) -/
  | sor (h : Hdr) (o : SrOps)
  /-- Immediate-form bitwise OR. (R342) -/
  | sorSi (h : Hdr) (o : SiOps)
  /-- Register-form bitwise XOR. (R342) -/
  | sxor (h : Hdr) (o : SrOps)
  /-- Immediate-form bitwise XOR. (R342) -/
  | sxorSi (h : Hdr) (o : SiOps)
  /-- Register-form left shift. (R342) -/
  | sshl (h : Hdr) (o : SrOps)
  /-- Immediate-form left shift. (R342) -/
  | sshlSi (h : Hdr) (o : SiOps)
  /-- Register-form logical right shift. (R342) -/
  | sshr (h : Hdr) (o : SrOps)
  /-- Immediate-form logical right shift. (R342) -/
  | sshrSi (h : Hdr) (o : SiOps)
  /-- Register-form arithmetic right shift. (R342) -/
  | ssra (h : Hdr) (o : SrOps)
  /-- Immediate-form arithmetic right shift. (R342) -/
  | ssraSi (h : Hdr) (o : SiOps)
  /-- Register-form signed minimum. (R342) -/
  | smin (h : Hdr) (o : SrOps)
  /-- Immediate-form signed minimum. (R342) -/
  | sminSi (h : Hdr) (o : SiOps)
  /-- Register-form signed maximum. (R342) -/
  | smax (h : Hdr) (o : SrOps)
  /-- Immediate-form signed maximum. (R342) -/
  | smaxSi (h : Hdr) (o : SiOps)
  /-- Register-form select: b if a is nonzero, otherwise the old destination. (R342) -/
  | ssel (h : Hdr) (o : SrOps)
  /-- Immediate-form select. (R342) -/
  | sselSi (h : Hdr) (o : SiOps)
  /-- Register-form move. (R342) -/
  | smov (h : Hdr) (o : SrOps)
  /-- Immediate-form move of a sign-extended immediate. (R342) -/
  | smovSi (h : Hdr) (o : SiOps)
  /-- Places a 16-bit immediate in the upper half above a source's low half. (R342) -/
  | slui (h : Hdr) (o : SiOps)
  /-- Counts leading zeros per lane. (R342) -/
  | sclz (h : Hdr) (o : SrOps)
  /-- Counts one bits per lane. (R342) -/
  | spop (h : Hdr) (o : SrOps)
  /-- Register-form bit-field extract with optional sign extension. (R343) -/
  | sext (h : Hdr) (o : SrOps)
  /-- Immediate-form bit-field extract. (R343) -/
  | sextSi (h : Hdr) (o : SiOps)
  /-- Register-form bit-field insert. (R343) -/
  | sins (h : Hdr) (o : SrOps)
  /-- Immediate-form bit-field insert. (R343) -/
  | sinsSi (h : Hdr) (o : SiOps)
  /-- Register-form conversion of a scratchpad offset into its window address. (R342) -/
  | slea (h : Hdr) (o : SrOps)
  /-- Immediate-form window address computation. (R342) -/
  | sleaSi (h : Hdr) (o : SiOps)
  /-- Compares scalar lanes and writes the results to predicate bits. (R344) -/
  | scmp (h : Hdr) (o : SrOps)
  /-- Combines two predicates bit by bit under a 4-bit truth table. (R330) -/
  | plog (h : Hdr) (o : SrOps)
  /-- Unconditional PC-relative branch. (R300) -/
  | br (h : Hdr) (o : BOps)
  /-- Branches when a signed comparison of a scalar with zero holds. (R300) -/
  | brc (h : Hdr) (o : BOps)
  /-- Indirect branch to the address formed from a scalar. (R300) -/
  | bri (h : Hdr) (o : BOps)
  /-- PC-relative call that writes the return address to s63. (R300) -/
  | call (h : Hdr) (o : BOps)
  /-- Call to the address in a scalar that writes the return address to s63. (R300) -/
  | callIndirect (h : Hdr) (o : BOps)
  /-- Branches to the address held in s63 or a named scalar. (R338) -/
  | ret (h : Hdr) (o : BOps)
  /-- Sets up a hardware loop from an immediate, scalar or stream count, optionally rotating; a zero trip branches past the body. (R322) -/
  | loop (h : Hdr) (o : BOps)
  /-- Deactivates a loop and the loops nested in it, then branches. (R324) -/
  | loopx (h : Hdr) (o : BOps)
  /-- Forms a region boundary: checkpoints the masked scalars and loop state, empties the logs and commits slots. (R336) -/
  | region (h : Hdr) (o : YOps)
  /-- Starts or restarts the helper context at the slice entry. (R345) -/
  | slice (h : Hdr) (o : YOps)
  /-- Reads a node descriptor and submits it to a queue, returning the handle or an error code. (R354) -/
  | tnode (h : Hdr) (o : YOps)
  /-- Checks a record array and queues it for consumption with an optional join. (R352) -/
  | tlaunch (h : Hdr) (o : YOps)
  /-- Forms a boundary and discards the thread itself when a ready node of at least equal priority can use the core. (R356) -/
  | tyield (h : Hdr) (o : YOps)
  /-- Waits for commands, commits slots, writes back, releases holds, pins and lease, and retires the thread. (R350) -/
  | texit (h : Hdr) (o : YOps)
  /-- Waits for a node to complete and returns a code. (R351) -/
  | tkw (h : Hdr) (o : YOps)
  /-- Loads 1 to 8 bytes into a scalar or pair. (R320) -/
  | ld (h : Hdr) (o : MOps)
  /-- Loads one vector or predicate register. (R320) -/
  | ldv (h : Hdr) (o : MOps)
  /-- Loads several vector or predicate registers in 64-byte steps, resumable by XFER. (R321) -/
  | ldm (h : Hdr) (o : MOps)
  /-- Requests a line into the L1 or system cache without faulting. (R331) -/
  | pref (h : Hdr) (o : MOps)
  /-- Stores 1 to 8 bytes. (R346) -/
  | st (h : Hdr) (o : MOps)
  /-- Stores one vector or predicate register. (R346) -/
  | stv (h : Hdr) (o : MOps)
  /-- Stores several vector or predicate registers in 64-byte steps, resumable by XFER. (R347) -/
  | stm (h : Hdr) (o : MOps)
  /-- Performs an atomic read-modify-write operation. (R297) -/
  | amo (h : Hdr) (o : MOps)
  /-- Atomic compare-and-swap. (R297) -/
  | cas (h : Hdr) (o : MOps)
  /-- Orders accesses at a scope and performs the cache operations of R151. (R308) -/
  | fence (h : Hdr) (o : MOps)
  /-- Acquiring 8-byte atomic read of a synchronisation object, then invalidates the bound ranges. (R295) -/
  | acq (h : Hdr) (o : MOps)
  /-- Writes back the bound ranges, then performs a releasing write of a synchronisation object. (R337) -/
  | rel (h : Hdr) (o : MOps)
  /-- Releases at domain scope and arrives at a named barrier without waiting. (R299) -/
  | bara (h : Hdr) (o : MOps)
  /-- Arrives at a named barrier and waits until the phase completes. (R299) -/
  | barw (h : Hdr) (o : MOps)
  /-- Waits for peer copies, fences, and arrives at the domain barrier, then forms a boundary. (R304) -/
  | dsync (h : Hdr) (o : MOps)
  /-- Scalar-base form: loads a reference word, resolves it and heals it by CAS. (R315) -/
  | kld (h : Hdr) (o : KOps)
  /-- Object-base form: loads a reference word from inside an object. (R315) -/
  | kldObject (h : Hdr) (o : KOps)
  /-- Scalar-base form: stores a reference. (R315) -/
  | kst (h : Hdr) (o : KOps)
  /-- Object-base form: stores a reference into an object. (R315) -/
  | kstObject (h : Hdr) (o : KOps)
  /-- Reads data at an offset in a referenced object. (R316) -/
  | kget (h : Hdr) (o : KOps)
  /-- Writes data at an offset in a referenced object, stalling on relocation. (R316) -/
  | kput (h : Hdr) (o : KOps)
  /-- Allocates and zeroes an object and returns its reference. (R317) -/
  | knew (h : Hdr) (o : KOps)
  /-- Pins an object and returns its raw address. (R318) -/
  | kpin (h : Hdr) (o : KOps)
  /-- Releases the thread's most recent usable pin on an object. (R318) -/
  | kunpin (h : Hdr) (o : KOps)
  /-- Compares the identity of two references. (R319) -/
  | keq (h : Hdr) (o : KOps)
  /-- Checks an address and opens a row hold, writing the hold status. (R160) -/
  | hopen (h : Hdr) (o : KOps)
  /-- Releases a held-row handle. (R165) -/
  | hrel (h : Hdr) (o : KOps)
  /-- Loads from a held row line at an offset. (R161) -/
  | hld (h : Hdr) (o : KOps)
  /-- Stores to a held row line at an offset. (R161) -/
  | hst (h : Hdr) (o : KOps)
  /-- Element-wise add. (R360) -/
  | vadd (h : Hdr) (o : VrOps)
  /-- Element-wise add with a broadcast operand. (R360) -/
  | vaddVs (h : Hdr) (o : VsOps)
  /-- Element-wise subtract. (R360) -/
  | vsub (h : Hdr) (o : VrOps)
  /-- Element-wise subtract with a broadcast operand. (R360) -/
  | vsubVs (h : Hdr) (o : VsOps)
  /-- Element-wise multiply. (R360) -/
  | vmul (h : Hdr) (o : VrOps)
  /-- Element-wise multiply with a broadcast operand. (R360) -/
  | vmulVs (h : Hdr) (o : VsOps)
  /-- Fused multiply-add with one rounding. (R360) -/
  | vfma (h : Hdr) (o : VrOps)
  /-- Fused multiply-add with a broadcast operand, accumulating into vd. (R360) -/
  | vfmaVs (h : Hdr) (o : VsOps)
  /-- Element-wise minimum. (R360) -/
  | vmin (h : Hdr) (o : VrOps)
  /-- Element-wise minimum with a broadcast operand. (R360) -/
  | vminVs (h : Hdr) (o : VsOps)
  /-- Element-wise maximum. (R360) -/
  | vmax (h : Hdr) (o : VrOps)
  /-- Element-wise maximum with a broadcast operand. (R360) -/
  | vmaxVs (h : Hdr) (o : VsOps)
  /-- Element-wise absolute value. (R360) -/
  | vabs (h : Hdr) (o : VrOps)
  /-- Bitwise AND. (R360) -/
  | vand (h : Hdr) (o : VrOps)
  /-- Bitwise AND with a broadcast operand. (R360) -/
  | vandVs (h : Hdr) (o : VsOps)
  /-- Bitwise OR. (R360) -/
  | vor (h : Hdr) (o : VrOps)
  /-- Bitwise OR with a broadcast operand. (R360) -/
  | vorVs (h : Hdr) (o : VsOps)
  /-- Bitwise XOR. (R360) -/
  | vxor (h : Hdr) (o : VrOps)
  /-- Bitwise XOR with a broadcast operand. (R360) -/
  | vxorVs (h : Hdr) (o : VsOps)
  /-- Element-wise left shift. (R360) -/
  | vshl (h : Hdr) (o : VrOps)
  /-- Element-wise left shift by a broadcast amount. (R360) -/
  | vshlVs (h : Hdr) (o : VsOps)
  /-- Element-wise right shift. (R360) -/
  | vshr (h : Hdr) (o : VrOps)
  /-- Element-wise right shift by a broadcast amount. (R360) -/
  | vshrVs (h : Hdr) (o : VsOps)
  /-- Compares elements into predicate bits. (R361) -/
  | vcmp (h : Hdr) (o : VrOps)
  /-- Compares elements with a broadcast value. (R361) -/
  | vcmpVs (h : Hdr) (o : VsOps)
  /-- Selects elements under a predicate register. (R361) -/
  | vsel (h : Hdr) (o : VrOps)
  /-- Selects between va and a broadcast value under the guard, writing every element. (R361) -/
  | vselVs (h : Hdr) (o : VsOps)
  /-- Copies a vector. (R361) -/
  | vmov (h : Hdr) (o : VrOps)
  /-- Broadcasts a value into the enabled elements. (R361) -/
  | vmovVs (h : Hdr) (o : VsOps)
  /-- Converts elements between types, widening or narrowing. (R362) -/
  | vcvt (h : Hdr) (o : VrOps)
  /-- Widening multiply into a register pair. (R363) -/
  | vwmul (h : Hdr) (o : VrOps)
  /-- Widening multiply by a broadcast value. (R363) -/
  | vwmulVs (h : Hdr) (o : VsOps)
  /-- Widening add into a register pair. (R363) -/
  | vwadd (h : Hdr) (o : VrOps)
  /-- Widening add of a broadcast value. (R363) -/
  | vwaddVs (h : Hdr) (o : VsOps)
  /-- Four-way 8-bit dot product accumulated into 32-bit lanes. (R364) -/
  | vdot4 (h : Hdr) (o : VrOps)
  /-- Four-way dot product with a broadcast byte, accumulating into vd. (R364) -/
  | vdot4Vs (h : Hdr) (o : VsOps)
  /-- Correctly rounded 2 to the power x. (R365) -/
  | vexp2 (h : Hdr) (o : VrOps)
  /-- Correctly rounded base-2 logarithm. (R365) -/
  | vlog2 (h : Hdr) (o : VrOps)
  /-- Correctly rounded reciprocal. (R365) -/
  | vrcp (h : Hdr) (o : VrOps)
  /-- Correctly rounded reciprocal square root. (R365) -/
  | vrsq (h : Hdr) (o : VrOps)
  /-- Correctly rounded hyperbolic tangent. (R365) -/
  | vtanh (h : Hdr) (o : VrOps)
  /-- Tree sum of the elements into element 0. (R366) -/
  | vrsum (h : Hdr) (o : VrOps)
  /-- Tree maximum of the elements. (R366) -/
  | vrmax (h : Hdr) (o : VrOps)
  /-- Tree minimum of the elements. (R366) -/
  | vrmin (h : Hdr) (o : VrOps)
  /-- Returns the greatest element and its lowest index. (R368) -/
  | vmaxi (h : Hdr) (o : VrOps)
  /-- Returns the least element and its lowest index. (R368) -/
  | vmini (h : Hdr) (o : VrOps)
  /-- Serial prefix add, max or min. (R367) -/
  | vscan (h : Hdr) (o : VrOps)
  /-- Permutes elements from two sources by index. (R369) -/
  | vperm (h : Hdr) (o : VrOps)
  /-- Packs the guarded elements and writes their count. (R370) -/
  | vcomp (h : Hdr) (o : VrOps)
  /-- Per-lane histogram increments into bin registers. (R371) -/
  | vhist (h : Hdr) (o : VrOps)
  /-- Sums each bin across lanes. (R372) -/
  | vhmerge (h : Hdr) (o : VrOps)
  /-- Hashes a seed and a counter into per-lane random values. (R373) -/
  | vrng (h : Hdr) (o : VrOps)
  /-- Reads a chain descriptor and pushes an element-stream command into the data FIFO. (R374) -/
  | vchain (h : Hdr) (o : VrOps)
  /-- Records a request for the cluster matrix array lease. (R209) -/
  | mlease (h : Hdr) (o : EOps)
  /-- Ends the lease once queued lease commands complete and withdraws any request. (R209) -/
  | mfree (h : Hdr) (o : EOps)
  /-- Checks and pushes a matrix multiply-accumulate command. (R326) -/
  | mma (h : Hdr) (o : EOps)
  /-- Pushes a matrix multiply with a sparse operand B. (R327) -/
  | mmas (h : Hdr) (o : EOps)
  /-- Pushes a command that ranks rows of scores and optionally writes top-k lists. (R327) -/
  | mrank (h : Hdr) (o : EOps)
  /-- Pushes a drain of accumulator words into scratchpad rows. (R328) -/
  | mrd (h : Hdr) (o : EOps)
  /-- Pushes a command that zeroes accumulator words. (R217) -/
  | mzero (h : Hdr) (o : EOps)
  /-- Reads a copy descriptor and pushes a copy command. (R302) -/
  | cpy (h : Hdr) (o : EOps)
  /-- Binds a stream register to a copy or generator, or unbinds it. (R332) -/
  | qbind (h : Hdr) (o : EOps)
  /-- Initialises a ring's base, slot size, count and tags. (R339) -/
  | rinit (h : Hdr) (o : EOps)
  /-- Waits on a ring, or advances a ring's consumer or producer position. (R335) -/
  | radv (h : Hdr) (o : EOps)
  /-- Waits for the oldest unpopped command of a FIFO and returns its completion word. (R305) -/
  | epop (h : Hdr) (o : EOps)
  /-- Samples engine state into a scalar. (R306) -/
  | estat (h : Hdr) (o : EOps)
  /-- Pushes a sparse-fibre merge command to the data FIFO. (R329) -/
  | merge (h : Hdr) (o : EOps)
  /-- Pushes a hash-accumulate command, or resumes a stopped one in monitor mode. (R309) -/
  | hacc (h : Hdr) (o : EOps)
  /-- Routes up to 128 token-expert pairs and returns route words. (R386) -/
  | xroute (h : Hdr) (o : XOps)
  /-- Commits the thread's slots and closes an expert's open batches. (R379) -/
  | xclose (h : Hdr) (o : XOps)
  /-- Commits slots and sets FIN for a layer, leaving the final close to the Colander. (R379) -/
  | xcloseFinal (h : Hdr) (o : XOps)
  /-- Requests a fill of a near copy and returns its status. (R381) -/
  | xfetch (h : Hdr) (o : XOps)
  /-- Increments an expert's pin count, optionally requesting a fill. (R382) -/
  | xpin (h : Hdr) (o : XOps)
  /-- Decrements an expert's pin count. (R382) -/
  | xunpin (h : Hdr) (o : XOps)
  /-- Predicts next-layer experts from scores and requests their fills. (R383) -/
  | xpred (h : Hdr) (o : XOps)
  /-- Returns an expert's tag-entry status word. (R384) -/
  | xqry (h : Hdr) (o : XOps)
  /-- Atomically copies and clears routed-token counters into memory. (R388) -/
  | xsnap (h : Hdr) (o : XOps)
  /-- Adds a replica queue for an expert and returns its status. (R385) -/
  | xrepl (h : Hdr) (o : XOps)
  /-- IMM times 64 cycles pass during an IDLE wait, which ends with code 1. (R314) -/
  | idleTimeout (c : Ctx)
  /-- The timeout of a TKW wait expires and the wait ends with code 4. (R351) -/
  | tkwTimeout (c : Ctx)
  /-- Once every claim of the layer is committed or returned, closes all the layer's open batches. (R195) -/
  | finalClose (slot : Fin 8) (layer : Nat)
  /-- An interlocked result arrives in its register, releasing bundles stalled on it. (R85) -/
  | interlockedWriteLand (c : Ctx)
  /-- After its latency in issue cycles, a fixed-latency result becomes visible. (R84) -/
  | fixedLatencyVisible (c : Ctx)
  /-- The matrix FIFO head starts after pacing, tokens, lease and ring waits are satisfied. (R326) -/
  | matrixCommandStart (c : Ctx)
  /-- One K step of a sub-tile is accumulated; the last step retires rings, pushes tokens and completes. (R326) -/
  | matrixMicroStep (c : Ctx)
  /-- The copy engine starts the head of a copy FIFO whose start conditions hold. (R206) -/
  | copyCommandStart (c : Ctx)
  /-- Copies elements with decode, reduce and encode; the last step advances TAIL and completes. (R302) -/
  | copyMicroStep (c : Ctx)
  /-- The data FIFO head (MERGE, HACC or VCHAIN) starts, MERGE when the cluster merge tree takes it. (R206) -/
  | dataCommandStart (c : Ctx)
  /-- One merge pair, hash key or VCHAIN group is processed; the last step completes the command. (R376) -/
  | dataMicroStep (c : Ctx)
  /-- A pending engine fault is taken at a task-mode bundle boundary and enters monitor code. (R229) -/
  | engineFaultTaken (c : Ctx)
  /-- FRESP with ACTION 00 clears the record, retries the access and makes the bank ready. (R133) -/
  | frespRetry (c : Ctx) (seq : BitVec 16)
  /-- FRESP with ACTION 01 clears the record and delivers the cause as a trap. (R133) -/
  | frespDeliver (c : Ctx) (seq : BitVec 16)
  /-- A bank stays in monitor mode for 2^22 issue cycles, which is a double fault. (R234) -/
  | monitorLimitExpiry (c : Ctx)
  /-- The issuing bank's 20 µs quantum expires and the bank switches or the count restarts. (R403) -/
  | quantumExpiry (core : Fin 32)
  /-- The issuing bank stalls for more than 64 consecutive cycles and switches to a ready bank. (R403) -/
  | stallLimitExpiry (core : Fin 32)
  /-- A correctable error freezes the core and its engines while the word is corrected. (R138) -/
  | eccCorrectableFreeze (core : Fin 32) (st : Fin 5)
  /-- The 24-cycle ECC freeze ends. (R138) -/
  | freezeEnd (core : Fin 32)
  /-- A single 64-byte write to a submission slot submits a descriptor. (R40) -/
  | windowSubmit64 (q : Fin 64) (slot : Fin 64) (desc : LineStore)
  /-- An 8-byte store to a submission slot is gathered; the last piece submits or BAD_WRITE is raised. (R40) -/
  | windowPieceStore (p : PieceStore)
  /-- The clear engine finishes, the launch registers are set, and the thread becomes ready. (R83) -/
  | clearEngineDone (c : Ctx)
  /-- A ready node that has waited a full AGE period rises one effective priority level. (R48) -/
  | nodeAgeing (n : NodeIx)
  /-- The first node of a class has waited WAIT cycles, so lower-priority victims are discarded. (R53) -/
  | preemptTrigger (cls : NodeClass)
  /-- The host's application-core pool claims a ready application-class node. (R45) -/
  | appNodeClaim (n : NodeIx)
  /-- The host writes completion of an application-class node, which runs its completion walk. (R45) -/
  | appNodeComplete (n : NodeIx)
  /-- A write of QCTL.EN enables or disables a queue's acceptance and selection. (R57) -/
  | queueEnable (q : Fin 64) (on : Bool)
  /-- Clearing QCTL.STOP resumes stopped or deferred completion walks. (R47) -/
  | queueStopClear (q : Fin 64)
  /-- Sets a queue's static slot range unless the queue is enabled or the range overlaps. (R54) -/
  | qslotWrite (q : Fin 64) (val : BitVec 32)
  /-- A write to any control-block register that has no row of its own. (R252) -/
  | registerWrite (off : BitVec 24) (val : BitVec 64)
  /-- The L1 evicts a line and writes back its dirty bytes at any time. (R118) -/
  | l1CapacityEviction (core : Fin 32) (line : Nat)
  /-- A broadcast SFENCE.VMA invalidates matching NPU translations and is acknowledged. (R131) -/
  | shootdown (inv : Invalidate)
  /-- An application-core or PCIe access to device memory is served or refused with an error response. (R123) -/
  | externalAccess (a : ExtAccess)
  /-- An external access to a compressed frame records CFADDR and raises the compressed-frame event. (R128) -/
  | compressedFrameFault (pa : BitVec 48)
  /-- Changes a frame's PSN, CMP or MPIN bits, held while MIG is 1. (R125) -/
  | famcmd (val : BitVec 64)
  /-- SWPCTL.GO checks the frames, sets MIG, breaks holds and starts the exchange. (R134) -/
  | swapGo (val : BitVec 32)
  /-- The frame arbiter answers a migration request with GRANT, COMMON or PINNED and counts bounces. (R136) -/
  | migrationRequest (val : BitVec 64)
  /-- HOLDMAX passes after a hold is taken and the hold breaks. (R164) -/
  | holdExpiry (r : RowBank)
  /-- Another agent's request has waited HOLDQ cycles and the hold breaks. (R164) -/
  | holdQueueLimit (r : RowBank)
  /-- The DRAM controller closes a held row for refresh or the open-time limit without breaking the hold. (R163) -/
  | rowAutoClose (r : RowBank)
  /-- The controller reopens the held row and waiting accesses proceed. (R163) -/
  | rowReopen (r : RowBank)
  /-- Invalidates a flipped cycle's forwarding entries and frees its emptied granules. (R176) -/
  | retire (n : BitVec 8)
  /-- Frees a POISON object-table entry and increments its generation. (R171) -/
  | heapcmdFree (oti : Nat)
  /-- The Colander chooses an old, unpinned object and sets it EVICT. (R179) -/
  | coldEvictionStart (oti : Nat)
  /-- The recalled object is written and forwarded, set LIVE, and the bank made ready, or it becomes POISON. (R180) -/
  | recallComplete (oti : Nat)
  /-- MSCTL.INST checks the descriptors and creates tag entries, setting NM on the main-copy frames. (R184) -/
  | modelInstall (m : Fin 8)
  /-- MSCTL.UNINST removes the slot's entries, frees frames, clears NM and erases the key. (R184) -/
  | modelUninstall (m : Fin 8)
  /-- A remote fetch-and-add claim arrives over the Birith link at an expert's home queue. (R192) -/
  | remoteClaim (xid : BitVec 32) (row : BitVec 32)
  /-- A remote copy or reduction arrives at a peer and is performed at its system cache in push order. (R257) -/
  | remoteCommand (cmd : RemoteCopy)
  /-- A weight chunk arrives, is forwarded down the ring and processed under the local key. (R259) -/
  | distributionChunk (d : DistChunk)
  /-- A Birith link goes down or up, updating LNKID, raising event 10 and writing a Crock record. (R258) -/
  | linkChange (l : LinkChange)
  /-- The free matrix array grants the lease to the next requester in round-robin order. (R209) -/
  | leaseGrant (cl : Fin 8)
  /-- 65,536 cycles after grant, the lease ends and the array re-arbitrates. (R209) -/
  | leaseTimeout (cl : Fin 8)
  /-- Each cluster cycle refills the bucket and grants requesters in round-robin order with reservations. (R241) -/
  | bucketCycle (cl : Fin 8)
  /-- Each microsecond, CUR ramps up or down according to refusals and the bucket level. (R243) -/
  | refillTick (cl : Fin 8)
  /-- A write of BB hops to the reduced clock and starts the generator settling. (R246) -/
  | biasWrite (cl : Fin 8) (bb : BitVec 4)
  /-- After 20 µs of settling, BUSY clears and the cluster hops back. (R246) -/
  | biasSettleDone (cl : Fin 8)
  /-- A CLK.SRC or CLK.HALF write requests a clock hop. (R247) -/
  | clockHopRequest (cl : Fin 8) (src : Bool) (half : Bool)
  /-- After 8 reference periods a hop finishes and merged requests start one more hop. (R247) -/
  | hopComplete (cl : Fin 8)
  /-- A hop abandoned for droop is retried after 256 droop-free cycles. (R248) -/
  | hopRetry (cl : Fin 8)
  /-- VDD_CORE falls below the threshold and the cluster's clock period doubles. (R248) -/
  | droopDetect (cl : Fin 8)
  /-- After 16 stretched cycles above threshold, the stretch ends. (R248) -/
  | droopRecover (cl : Fin 8)
  /-- Every 100 µs, sensors are read, failed ones marked, and the throttle stage and cap updated. (R250) -/
  | sensorReading (cl : Fin 8) (r : SensorSet)
  /-- Clearing a SENSF bit returns the sensor to service at the next reading. (R249) -/
  | sensfClear (cl : Fin 8) (mask : BitVec 6)
  /-- A wake request powers up, restores training, firmware and tables. (R262) -/
  | wake (src : WakeSource)
  /-- The side-band port returns up to 64 Crock records. (R263) -/
  | mgmtReadCrock (start : BitVec 16) (count : BitVec 16)
  /-- On power-up or reset, boot stages are verified and measured in order. (R267) -/
  | boot (b : BootImage)
  /-- A gang member that is still running takes the pending domain fault (0x12) at its next bundle boundary and enters monitor code. (R27) -/
  | domainFaultTaken (c : Ctx)
  /-- Supply is lost, for example during sleep, so the main tier, the saved tables and the slot keys are lost, and always-on time restarts if the always-on domain loses power. (R262) -/
  | powerLoss (aon : Bool)
  /-- Each cycle, selects at most one single, gang and application node and reserves gang spans. (R49) -/
  | distributorSelection
  /-- Two cycles after selection, binds the node, checks the partition word, reads the side table and starts the clear engine. (R16) -/
  | binding
  /-- The scheduler starts consuming the next queued TLAUNCH or residency record array. (R60) -/
  | recordConsumption
  /-- A dynamic slot is available and one tile node is created from a record and template, with its join. (R60) -/
  | tileNodeCreate
  /-- A FAMCMD write held on MIG takes effect when MIG clears. (R125) -/
  | famcmdHeldApply
  /-- EXPCTL.GO checks the ranges and starts a Steamer expansion, setting MIG. (R128) -/
  | expandGo
  /-- The expansion writes the decoded bytes and sets DONE. (R128) -/
  | expandDone
  /-- Clearing EXPCTL.DONE clears MIG on both ranges. (R128) -/
  | expandDoneClear
  /-- The exchange and PTE swap finish, TLBs are invalidated and DONE is set. (R134) -/
  | swapDone
  /-- Clearing SWPCTL.DONE clears MIG and lets stalled accesses proceed. (R134) -/
  | swapDoneClear
  /-- A write of HEAPCTL.COMPACT requests a compaction cycle. (R175) -/
  | heapCompact
  /-- The Spatula starts a cycle itself when free granules are below FREELOW and a useful granule exists. (R175) -/
  | compactionAutostart
  /-- Once cycle n-2's forwarding entries are retired, sets FROM for the chosen granules. (R175) -/
  | compactionCycleStart
  /-- Takes the next object of a FROM granule to free, skip or set RELOC and copy. (R175) -/
  | compactionObject
  /-- After the last 4 KiB unit, installs forwarding and sets ADDR and LIVE in one action. (R171) -/
  | relocationCommit
  /-- Flips the good colour, clears FROM and rewrites every bound k register. (R175) -/
  | compactionFlip
  /-- The object is written to the far tier and becomes COLD, leaving its stub. (R171) -/
  | coldEvictionDone
  /-- The Steamer reads, authenticates, decodes, converts and writes one chunk of a fill, stream, recall or eviction. (R197) -/
  | steamerChunk
  /-- Every XREP.DECAY ms, each near copy's frequency halves. (R201) -/
  | frequencyDecay
  /-- SLPCTL.ENTER is refused, or the device saves its tables, breaks holds and powers down the NPU domain. (R260) -/
  | sleepEnter
  /-- Wake finishes, event 11 is raised, and the warm fill and watchdog start. (R262) -/
  | wakeComplete
  /-- KEYCTL.GO starts decapsulating and unwrapping a slot key blob. (R268) -/
  | keyLoad
  /-- The key load finishes with DONE, or ERR and an error code. (R268) -/
  | keyLoadDone
  /-- ATTCTL.GO reads a nonce and requests a signed report. (R269) -/
  | attestation
  /-- After any slot change completes, the signed report is written. (R269) -/
  | attestationDone
  /-- RSCTL.GO starts a 4 KiB re-sync record to RSADDR. (R266) -/
  | resync
  /-- The re-sync record is written within 100 µs and DONE is set. (R266) -/
  | resyncDone
  /-- The side-band port returns 16 bytes of device status. (R263) -/
  | mgmtStatus
  /-- The side-band port returns a re-sync record. (R263) -/
  | mgmtResync
  /-- The side-band port requests a wake with WAKESRC 2. (R263) -/
  | mgmtWake
  /-- Firmware sends a heartbeat to the always-on controller. (R265) -/
  | heartbeat
  /-- A WDPERIOD passes without a heartbeat, which is a fatal error of cause 4. (R265) -/
  | watchdogExpiry
  /-- The main-tier data rate changes, which breaks every row hold and counts in HBRK.PWR. (R164) -/
  | mainTierRateChange
  deriving DecidableEq, Repr

end Sys2Proof
end

