-- ==== Sys2Proof/WellFormed.lean ====
section
/-! DEFINITION. Well-formed instructions: the checks of a word's fields that need nothing but the word (R67, R68, R272,
R279, R281 and each reference entry's own). A word that fails one raises illegal instruction (0x01) at issue. The checks
that need the thread's state (registers beyond 32·RF, ring states, descriptors) stand with the meanings. -/

namespace Sys2Proof

/-- n, the number of W-bit elements of a scalar register, by the modifier's SIZE code (R66). -/
def lanesOfSize (sz : BitVec 2) : Nat :=
  match sz.toNat with
  | 0 => 1
  | 1 => 2
  | 2 => 4
  | _ => 8

/-- SIZE, SW and IX of a modifier (R66). -/
def modSize (m : BitVec 6) : BitVec 2 := m.extractLsb' 4 2
def modSw (m : BitVec 6) : Bool := m.getLsbD 3
def modIx (m : BitVec 6) : Nat := (m.extractLsb' 0 3).toNat

/-- Which swizzle patterns exist for n lanes (R68). -/
def patternFor (n ix : Nat) : Bool :=
  match ix with
  | 3 => 4 ≤ n
  | 4 => n == 8
  | _ => 2 ≤ n

/-- A source modifier agrees with the width that the destination modifier sets (R67). -/
def srcModOk (md m : BitVec 6) : Bool :=
  modSize m == modSize md &&
  (let n := lanesOfSize (modSize m)
   if n == 1 then !modSw m && modIx m == 0
   else if modSw m then patternFor n (modIx m) else decide (modIx m < n))

/-- A destination modifier (R67): all lanes (swizzle, IX 000) or one element. -/
def dstModOk (md : BitVec 6) : Bool :=
  let n := lanesOfSize (modSize md)
  if n == 1 then !modSw md && modIx md == 0
  else if modSw md then modIx md == 0 else decide (modIx md < n)

/-- The SR shapes: two sources, one source, and no modifiers at all (R67, R341). -/
def srBinOk (o : SrOps) : Bool := o.rz == 0 && dstModOk o.md && srcModOk o.md o.ma && srcModOk o.md o.mb
def srUnOk (o : SrOps) : Bool := o.rz == 0 && dstModOk o.md && srcModOk o.md o.ma && o.sb == 0 && o.mb == 0
def srPlainOk (o : SrOps) : Bool := o.rz == 0 && o.ma == 0 && o.mb == 0 && o.md == 0
/-- SCMP: a predicate destination has no select mode (R344). -/
def scmpOk (o : SrOps) : Bool :=
  o.rz == 0 && srcModOk o.md o.ma && srcModOk o.md o.mb &&
  (if modSize o.md == 0 then o.md == 0 else modSw o.md && modIx o.md == 0)

/-- DSYNC, REGION, SLICE, RTE and TEXIT carry no guard (R272). -/
def noGuard (h : Hdr) : Bool := h.pg == 0 && !h.pn

/-- Element types (R279): integers 0 to 7, bf16 8, fp32 9. -/
def tyOk (ty : BitVec 4) : Bool := decide (ty.toNat ≤ 9)
def tyInt (ty : BitVec 4) : Bool := decide (ty.toNat ≤ 7)
def tyFloat (ty : BitVec 4) : Bool := ty == 8 || ty == 9
/-- log2 of an element's width: 4, 8, 16 or 32 bits. -/
def tyLogW (ty : BitVec 4) : Nat :=
  match ty.toNat with
  | 0 => 2 | 1 => 2 | 2 => 3 | 3 => 3 | 4 => 4 | 5 => 4 | 8 => 4 | _ => 5

/-- RM is used only when a float result is rounded, SAT only when the result is an integer (R358). -/
def rmOk (ty : BitVec 4) (rm : BitVec 2) : Bool := tyFloat ty || rm == 0
def satOk (ty : BitVec 4) (sat : Bool) : Bool := tyInt ty || !sat

/-- VR words with sources a and b that round (VADD, VSUB, VMUL) and that do not. -/
def vr2Round (o : VrOps) : Bool := o.rz == 0 && tyOk o.ty && o.vc == 0 && rmOk o.ty o.rm && satOk o.ty o.sat
def vr2Plain (o : VrOps) : Bool := o.rz == 0 && tyOk o.ty && o.vc == 0 && o.rm == 0 && !o.sat
/-- VR words with source a only. A reuse hint on the source that the word lacks is a field that it does not use (R281, R357); R87
calls such a hint ignored (log 54). -/
def vr1 (o : VrOps) : Bool := o.rz == 0 && tyOk o.ty && o.vb == 0 && !o.ub
def vr1Plain (o : VrOps) : Bool := vr1 o && o.vc == 0 && o.rm == 0 && !o.sat
def even8 (v : BitVec 8) : Bool := !v.getLsbD 0
def even6 (v : BitVec 6) : Bool := !v.getLsbD 0

/-- VS words (R283): not both a scalar and an immediate. -/
def vsSrc (o : VsOps) : Bool := o.ss == 0 || o.imm == 0
def vsRound (o : VsOps) : Bool := vsSrc o && tyOk o.ty && rmOk o.ty o.rm && satOk o.ty o.sat
def vsPlain (o : VsOps) : Bool := vsSrc o && tyOk o.ty && o.rm == 0 && !o.sat

/-- VCVT (R362): the source type, the width ratio, the groups' alignment, RM and SAT. -/
def vcvtOk (o : VrOps) : Bool :=
  let ts := o.vc.extractLsb' 0 4
  let wd := tyLogW o.ty
  let ws := tyLogW ts
  o.rz == 0 && tyOk o.ty && o.vb == 0 && !o.ub && o.vc.extractLsb' 4 4 == 0 && tyOk ts &&
  decide (wd ≤ ws + 2) && decide (ws ≤ wd + 2) &&
  decide (o.vd.toNat % (2 ^ (wd - ws)) = 0) && decide (o.va.toNat % (2 ^ (ws - wd)) = 0) &&
  (!(tyInt o.ty && tyInt ts) || o.rm == 0) &&
  (!o.sat || (tyInt o.ty && tyInt ts && decide (wd < ws)))

/-- VWMUL and VWADD (R363). -/
def widenTy (ty : BitVec 4) : Bool := decide (ty.toNat ≤ 5) || ty == 8

/-- M-format ORD and SC of loads and stores (R142), and the cache hint (R280). -/
def mOrdOk (o : MOps) : Bool := o.ord != 3 && (o.ord != 0 || o.sc == 0) && o.ch != 3
/-- DR read by the size code (R279): scalar, pair, vector, predicate. -/
def drOk (sz : BitVec 3) (dr : BitVec 8) : Bool :=
  match sz.toNat with
  | 3 => decide (dr.toNat < 64) && even8 dr
  | 6 => true
  | 7 => decide (dr.toNat < 16)
  | _ => decide (dr.toNat < 64)
def rangeOk (o : MOps) : Bool :=
  let n := (o.off.extractLsb' 12 8).toNat
  if o.sz == 6 then decide (o.dr.toNat + n ≤ 255) else o.sz == 7 && decide (o.dr.toNat + n ≤ 15)
def vecSz (sz : BitVec 3) : Bool := sz == 6 || sz == 7

/-- The K-format access sizes (R311, R316). -/
def kLoadSz (sz : BitVec 3) : Bool := decide (sz.toNat ≤ 6)
def kStoreSz (sz : BitVec 3) : Bool := decide (sz.toNat ≤ 3) || sz == 6

/-- The system-register numbers of R80. -/
def srnKnown (n : BitVec 12) : Bool :=
  let k := n.toNat
  decide (k ≤ 0x004) || (decide (0x010 ≤ k) && decide (k ≤ 0x01C)) || (decide (0x020 ≤ k) && decide (k ≤ 0x022)) ||
  (decide (0x024 ≤ k) && decide (k ≤ 0x026)) || (decide (0x030 ≤ k) && decide (k ≤ 0x03F)) ||
  (decide (0x040 ≤ k) && decide (k ≤ 0x05F) && decide (k % 8 ≤ 5))

/-- REGION's mask names no scalar beyond s63 (R336). -/
def maskOk (sa : BitVec 6) (mask : BitVec 16) : Bool := decide (mask.toNat < 2 ^ (64 - sa.toNat))

/-- `Instr.WellFormed i`: every check of the word's own fields holds. -/
def Instr.wf : Instr → Bool
  | .nop _ o => o.sd == 0 && o.sa == 0 && o.srn == 0 && o.imm == 0
  | .sysr _ o => o.sa == 0 && o.imm == 0 && srnKnown o.srn
  | .sysw _ o => o.sd == 0 && srnKnown o.srn
  | .trap _ o => o.sd == 0 && o.sa == 0 && o.srn == 0
  | .rte h o => noGuard h && o.sd == 0 && o.sa == 0 && o.srn == 0 && o.imm == 0
  | .idle _ o => o.sa == 0 && o.srn == 0
  | .evsig _ o => o.sd == 0 && o.srn == 0
  | .halt _ o => o.sd == 0 && o.sa == 0 && o.srn == 0 && o.imm == 0
  | .sadd _ o => srBinOk o
  | .saddSi _ _ => true
  | .ssub _ o => srBinOk o
  | .ssubSi _ _ => true
  | .smul _ o => srBinOk o
  | .smulSi _ _ => true
  | .smulh _ o => srBinOk o
  | .smulhSi _ _ => true
  | .sdiv _ o => srBinOk o
  | .sdivSi _ _ => true
  | .srem _ o => srBinOk o
  | .sremSi _ _ => true
  | .sand _ o => srBinOk o
  | .sandSi _ _ => true
  | .sor _ o => srBinOk o
  | .sorSi _ _ => true
  | .sxor _ o => srBinOk o
  | .sxorSi _ _ => true
  | .sshl _ o => srBinOk o
  | .sshlSi _ _ => true
  | .sshr _ o => srBinOk o
  | .sshrSi _ _ => true
  | .ssra _ o => srBinOk o
  | .ssraSi _ _ => true
  | .smin _ o => srBinOk o
  | .sminSi _ _ => true
  | .smax _ o => srBinOk o
  | .smaxSi _ _ => true
  | .ssel _ o => srBinOk o
  | .sselSi _ _ => true
  | .smov _ o => srUnOk o
  | .smovSi _ o => o.sa == 0
  | .slui _ o => o.imm.extractLsb' 16 15 == 0
  | .sclz _ o => srUnOk o
  | .spop _ o => srUnOk o
  | .sext _ o => srPlainOk o
  | .sextSi _ _ => true
  | .sins _ o => srPlainOk o
  | .sinsSi _ _ => true
  | .slea _ o => srPlainOk o
  | .sleaSi _ _ => true
  | .scmp _ o => scmpOk o
  | .plog _ o => srPlainOk o && o.sb.extractLsb' 4 2 == 0
  | .br _ o => o.bf == 0 && o.li == 0 && o.sa == 0
  | .brc _ o => decide (o.bf.toNat ≤ 5) && o.li == 0
  | .bri _ o => o.bf == 0 && o.li == 0 && o.off == 0
  | .call _ o => o.bf == 0 && o.li == 0 && o.sa == 0
  | .callIndirect _ o => o.bf == 1 && o.li == 0 && o.off == 0
  | .ret _ o => o.bf == 0 && o.li == 0 && o.off == 0
  | .loop _ o =>
    let src := o.bf.extractLsb' 1 2
    src != 3 && (!o.bf.getLsbD 0 || src == 1) && (src != 2 || decide (o.sa.toNat ≤ 15))
  | .loopx _ o => o.bf == 0 && o.sa == 0
  | .region h o => noGuard h && o.sd == 0 && o.srn == 0 && o.imm.extractLsb' 16 3 == 0 && maskOk o.sa (o.imm.extractLsb' 0 16)
  | .slice h o => noGuard h && o.sd == 0 && o.sa == 0 && o.srn == 0
  | .tnode _ o => o.srn == 0 && o.imm.extractLsb' 6 13 == 0
  | .tlaunch _ o => o.srn == 0 && o.imm.extractLsb' 6 13 == 0 && even6 o.sa
  | .tyield _ o => o.sd == 0 && o.sa == 0 && o.srn == 0 && o.imm == 0
  | .texit h o => noGuard h && o.sd == 0 && o.sa == 0 && o.srn == 0 && o.imm == 0
  | .tkw _ o => o.srn == 0
  | .ld _ o => decide (o.sz.toNat ≤ 5) && drOk o.sz o.dr && mOrdOk o
  | .ldv _ o => vecSz o.sz && drOk o.sz o.dr && mOrdOk o
  | .ldm _ o => rangeOk o && mOrdOk o
  | .pref _ o => o.ord == 0 && o.sz == 0 && o.dr == 0 && o.ch != 3
  | .st _ o => decide (o.sz.toNat ≤ 3) && drOk o.sz o.dr && mOrdOk o
  | .stv _ o => vecSz o.sz && drOk o.sz o.dr && mOrdOk o
  | .stm _ o => rangeOk o && mOrdOk o
  | .amo _ o => (o.sz == 2 || o.sz == 3) && drOk o.sz o.dr && o.ch != 3 && decide ((o.off.extractLsb' 16 4).toNat ≤ 8)
  | .cas _ o => ((o.sz == 2 && even8 o.dr) || (o.sz == 3 && decide (o.dr.toNat % 4 = 0))) && decide (o.dr.toNat < 64) && o.ch != 3
  | .fence _ o => o.ord != 0 && o.dr == 0 && o.bs == 0 && o.sz == 0 && o.ch == 0 && o.off == 0
  | .acq _ o => o.ord == 0 && o.sz == 0 && o.ch == 0 && drOk 3 o.dr
  | .rel _ o => o.ord == 0 && o.sz == 0 && o.ch == 0 && drOk 3 o.dr
  | .bara _ o => o.dr == 0 && o.ord == 0 && o.sc == 0 && o.sz == 0 && o.ch == 0 && o.off.extractLsb' 10 10 == 0
  | .barw _ o => o.dr == 0 && o.ord == 0 && o.sc == 0 && o.sz == 0 && o.ch == 0 && o.off.extractLsb' 10 10 == 0
  | .dsync h o => noGuard h && o.dr == 0 && o.bs == 0 && o.ord == 0 && o.sc == 0 && o.sz == 0 && o.ch == 0 && o.off == 0
  | .kld _ o => o.sz == 3 && o.kb == 0 && decide (o.dr.toNat < 64) && o.ord != 3
  | .kldObject _ o => o.sz == 7 && o.dr == 0 && o.ord != 3
  | .kst _ o => o.sz == 3 && o.kb == 0 && decide (o.dr.toNat < 64) && o.ord != 3
  | .kstObject _ o => o.sz == 7 && o.dr == 0 && o.ord != 3
  | .kget _ o => o.kh == 0 && kLoadSz o.sz && drOk o.sz o.dr && o.ord != 3
  | .kput _ o => o.kh == 0 && kStoreSz o.sz && drOk o.sz o.dr && o.ord != 3
  | .knew _ o => o.kb == 0 && drOk 3 o.dr && o.ord == 0 && o.sz == 0 && o.off.extractLsb' 1 21 == 0
  | .kpin _ o => o.kh == 0 && drOk 3 o.dr && o.ord == 0 && o.sz == 0 && o.off == 0
  | .kunpin _ o => o.kh == 0 && o.dr == 0 && o.ord == 0 && o.sz == 0 && o.off == 0
  | .keq _ o => decide (o.dr.toNat < 64) && o.ord == 0 && o.sz == 0 && o.off == 0
  | .hopen _ o => decide (o.kh.toNat < 8) && o.kb == 0 && drOk 3 o.dr && o.dr != 0 && o.ord == 0 && o.sz == 0 && o.off == 0
  | .hrel _ o => decide (o.kh.toNat < 8) && o.kb == 0 && o.dr == 0 && o.ord == 0 && o.sz == 0 && o.off == 0
  | .hld _ o => decide (o.kh.toNat < 8) && o.kb == 0 && kLoadSz o.sz && drOk o.sz o.dr && o.ord != 3
  | .hst _ o => decide (o.kh.toNat < 8) && o.kb == 0 && kStoreSz o.sz && drOk o.sz o.dr && o.ord != 3
  | .vadd _ o => vr2Round o
  | .vaddVs _ o => vsRound o
  | .vsub _ o => vr2Round o
  | .vsubVs _ o => vsRound o
  | .vmul _ o => vr2Round o
  | .vmulVs _ o => vsRound o
  | .vfma _ o => o.rz == 0 && tyOk o.ty && rmOk o.ty o.rm && satOk o.ty o.sat
  | .vfmaVs _ o => vsRound o
  | .vmin _ o => vr2Plain o
  | .vminVs _ o => vsPlain o
  | .vmax _ o => vr2Plain o
  | .vmaxVs _ o => vsPlain o
  | .vabs _ o => vr1 o && o.vc == 0 && o.rm == 0 && satOk o.ty o.sat
  | .vand _ o => vr2Plain o
  | .vandVs _ o => vsPlain o
  | .vor _ o => vr2Plain o
  | .vorVs _ o => vsPlain o
  | .vxor _ o => vr2Plain o
  | .vxorVs _ o => vsPlain o
  | .vshl _ o => vr2Plain o && tyInt o.ty
  | .vshlVs _ o => vsPlain o && tyInt o.ty
  | .vshr _ o => vr2Plain o && tyInt o.ty
  | .vshrVs _ o => vsPlain o && tyInt o.ty
  | .vcmp _ o => o.rz == 0 && tyOk o.ty && o.vc == 0 && o.vd.extractLsb' 4 4 == 0 && !(o.rm == 3 && o.sat)
  | .vcmpVs _ o => vsSrc o && tyOk o.ty && o.vd.extractLsb' 4 4 == 0 && !(o.rm == 3 && o.sat)
  | .vsel _ o => o.rz == 0 && tyOk o.ty && o.vc.extractLsb' 4 4 == 0 && o.rm == 0 && !o.sat
  | .vselVs _ o => vsPlain o
  | .vmov _ o => vr1Plain o
  | .vmovVs _ o => vsPlain o && o.va == 0
  | .vcvt _ o => vcvtOk o
  | .vwmul _ o => o.rz == 0 && widenTy o.ty && o.vc == 0 && rmOk o.ty o.rm && !o.sat && even8 o.vd
  | .vwmulVs _ o => vsSrc o && widenTy o.ty && rmOk o.ty o.rm && !o.sat && even8 o.vd
  | .vwadd _ o => o.rz == 0 && widenTy o.ty && o.vc == 0 && rmOk o.ty o.rm && !o.sat && even8 o.vd
  | .vwaddVs _ o => vsSrc o && widenTy o.ty && rmOk o.ty o.rm && !o.sat && even8 o.vd
  | .vdot4 _ o => o.rz == 0 && (o.ty == 2 || o.ty == 3) && o.rm == 0
  | .vdot4Vs _ o => vsSrc o && (o.ty == 2 || o.ty == 3) && o.rm == 0
  | .vexp2 _ o => vr1Plain o && tyFloat o.ty
  | .vlog2 _ o => vr1Plain o && tyFloat o.ty
  | .vrcp _ o => vr1Plain o && tyFloat o.ty
  | .vrsq _ o => vr1Plain o && tyFloat o.ty
  | .vtanh _ o => vr1Plain o && tyFloat o.ty
  | .vrsum _ o => vr1 o && o.vc == 0 && rmOk o.ty o.rm && satOk o.ty o.sat
  | .vrmax _ o => vr1Plain o
  | .vrmin _ o => vr1Plain o
  | .vmaxi _ o => vr1Plain o && even8 o.vd
  | .vmini _ o => vr1Plain o && even8 o.vd
  | .vscan _ o => vr1 o && decide (o.vc.toNat ≤ 2) && (if o.vc == 0 then rmOk o.ty o.rm else o.rm == 0) && satOk o.ty o.sat
  | .vperm _ o => o.rz == 0 && tyOk o.ty && o.rm == 0 && !o.sat && tyLogW o.ty != 2 && (tyLogW o.ty != 3 || even8 o.vb)
  | .vcomp _ o => vr1Plain o && even8 o.vd
  | .vhist _ o => o.rz == 0 && o.ty == 7 && o.vb.extractLsb' 5 3 == 0 && o.vc == 0 && o.rm == 0 && !o.ub
  | .vhmerge _ o => o.rz == 0 && o.ty == 7 && o.vb.extractLsb' 5 3 == 0 && o.vc == 0 && o.rm == 0 && !o.ub
  | .vrng _ o => o.rz == 0 && o.ty == 7 && o.vc == 0 && o.rm == 0 && !o.sat
  | .vchain _ o =>
    o.rz == 0 && o.vd == 0 && o.vb == 0 && o.vc == 0 && !o.ua && !o.ub && o.va.extractLsb' 6 2 == 0 &&
    decide (6 ≤ o.ty.toNat) && tyOk o.ty && rmOk o.ty o.rm && satOk o.ty o.sat
  | .mlease _ o => o.tok == 0 && o.ra == 0 && o.rb == 0 && o.sx == 0 && o.sy == 0 && o.sz == 0 && o.eimm == 0
  | .mfree _ o => o.tok == 0 && o.ra == 0 && o.rb == 0 && o.sx == 0 && o.sy == 0 && o.sz == 0 && o.eimm == 0
  | .mma _ o => o.eimm.extractLsb' 10 3 == 0 && !o.eimm.getLsbD 6 && (o.eimm.getLsbD 8 || o.sz == 0)
  | .mmas _ o => o.eimm.extractLsb' 10 3 == 0 && !o.eimm.getLsbD 8 && !o.eimm.getLsbD 6 && even6 o.sz
  | .mrank _ o => o.rb == 0 && o.eimm.extractLsb' 10 3 == 0 && !o.eimm.getLsbD 8 && decide ((o.eimm.extractLsb' 3 5).toNat ≤ 16) && even6 o.sz
  | .mrd _ o => o.ra == 0 && o.rb == 0 && !o.eimm.getLsbD 10 && o.eimm.extractLsb' 0 9 == 0 && even6 o.sz
  | .mzero _ o => o.ra == 0 && o.rb == 0 && o.sz == 0 && (o.eimm == 0 || o.eimm == 0x200)
  | .cpy _ o => o.rb == 0 && o.sy == 0 && o.sz == 0 && o.eimm == 0
  | .qbind _ o => o.tok == 0 && o.ra == 0 && o.rb == 0 && o.sy == 0 && o.sz == 0 && o.eimm.extractLsb' 6 7 == 0
  | .rinit _ o => o.tok == 0 && o.rb == 0 && o.eimm == 0
  | .radv _ o =>
    o.tok == 0 && o.rb == 0 && o.sx == 0 && o.sy == 0 && o.sz == 0 &&
    (o.eimm.extractLsb' 11 2 == 3 || o.eimm.extractLsb' 8 3 == 0)
  | .epop _ o => o.tok == 0 && o.ra == 0 && o.rb == 0 && o.sy == 0 && o.sz == 0 && o.eimm.extractLsb' 2 11 == 0
  | .estat _ o => o.tok == 0 && o.ra == 0 && o.rb == 0 && o.sy == 0 && o.sz == 0 && decide (o.eimm.toNat < 8)
  | .merge _ o => o.ra == 0 && o.rb == 0 && decide (o.eimm.toNat ≤ 1) && o.sz != 63
  | .hacc _ o => o.ra == 0 && o.rb == 0 && o.sy == 0 && o.sz == 0 && decide (o.eimm.toNat ≤ 1)
  | .xroute _ o => o.sb == 0 && o.xf == 0 && even8 o.vd
  | .xclose _ o => o.vd == 0 && o.va == 0 && o.vb == 0 && o.sb == 0 && o.xf == 0
  | .xcloseFinal _ o => o.vd == 0 && o.va == 0 && o.vb == 0 && o.sb == 0 && o.xf == 1
  | .xfetch _ o => o.vd == 0 && o.va == 0 && o.vb == 0 && decide (o.xf.toNat ≤ 1)
  | .xpin _ o => o.vd == 0 && o.va == 0 && o.vb == 0 && decide (o.xf.toNat ≤ 1)
  | .xunpin _ o => o.vd == 0 && o.va == 0 && o.vb == 0 && o.xf == 0
  | .xpred _ o => o.va == 0 && o.vb == 0 && o.xf.extractLsb' 4 3 == 0
  | .xqry _ o => o.vd == 0 && o.va == 0 && o.vb == 0 && o.xf == 0 && even6 o.sb
  | .xsnap _ o => o.vd == 0 && o.va == 0 && o.vb == 0 && o.xf == 0 && even6 o.sb
  | .xrepl _ o => o.vd == 0 && o.va == 0 && o.vb == 0 && o.xf == 0
  | .idleTimeout _ => true
  | .tkwTimeout _ => true
  | .finalClose _ _ => true
  | .interlockedWriteLand _ => true
  | .fixedLatencyVisible _ => true
  | .matrixCommandStart _ => true
  | .matrixMicroStep _ => true
  | .copyCommandStart _ => true
  | .copyMicroStep _ => true
  | .dataCommandStart _ => true
  | .dataMicroStep _ => true
  | .engineFaultTaken _ => true
  | .frespRetry _ _ => true
  | .frespDeliver _ _ => true
  | .monitorLimitExpiry _ => true
  | .quantumExpiry _ => true
  | .stallLimitExpiry _ => true
  | .eccCorrectableFreeze _ _ => true
  | .freezeEnd _ => true
  | .windowSubmit64 _ _ _ => true
  | .windowPieceStore _ => true
  | .distributorSelection => true
  | .binding => true
  | .clearEngineDone _ => true
  | .nodeAgeing _ => true
  | .preemptTrigger _ => true
  | .appNodeClaim _ => true
  | .appNodeComplete _ => true
  | .recordConsumption => true
  | .tileNodeCreate => true
  | .queueEnable _ _ => true
  | .queueStopClear _ => true
  | .qslotWrite _ _ => true
  | .registerWrite _ _ => true
  | .l1CapacityEviction _ _ => true
  | .shootdown _ => true
  | .externalAccess _ => true
  | .compressedFrameFault _ => true
  | .famcmd _ => true
  | .famcmdHeldApply => true
  | .expandGo => true
  | .expandDone => true
  | .expandDoneClear => true
  | .swapGo _ => true
  | .swapDone => true
  | .swapDoneClear => true
  | .migrationRequest _ => true
  | .holdExpiry _ => true
  | .holdQueueLimit _ => true
  | .rowAutoClose _ => true
  | .rowReopen _ => true
  | .heapCompact => true
  | .compactionAutostart => true
  | .compactionCycleStart => true
  | .compactionObject => true
  | .relocationCommit => true
  | .compactionFlip => true
  | .retire _ => true
  | .heapcmdFree _ => true
  | .coldEvictionStart _ => true
  | .coldEvictionDone => true
  | .recallComplete _ => true
  | .modelInstall _ => true
  | .modelUninstall _ => true
  | .steamerChunk => true
  | .frequencyDecay => true
  | .remoteClaim _ _ => true
  | .remoteCommand _ => true
  | .distributionChunk _ => true
  | .linkChange _ => true
  | .leaseGrant _ => true
  | .leaseTimeout _ => true
  | .bucketCycle _ => true
  | .refillTick _ => true
  | .biasWrite _ _ => true
  | .biasSettleDone _ => true
  | .clockHopRequest _ _ _ => true
  | .hopComplete _ => true
  | .hopRetry _ => true
  | .droopDetect _ => true
  | .droopRecover _ => true
  | .sensorReading _ _ => true
  | .sensfClear _ _ => true
  | .sleepEnter => true
  | .wake _ => true
  | .wakeComplete => true
  | .keyLoad => true
  | .keyLoadDone => true
  | .attestation => true
  | .attestationDone => true
  | .resync => true
  | .resyncDone => true
  | .mgmtStatus => true
  | .mgmtReadCrock _ _ => true
  | .mgmtResync => true
  | .mgmtWake => true
  | .heartbeat => true
  | .watchdogExpiry => true
  | .boot _ => true
  | .domainFaultTaken _ => true
  | .mainTierRateChange => true
  | .powerLoss _ => true

/-- The instruction's own fields are as its reference entry requires. -/
def Instr.WellFormed (i : Instr) : Prop := i.wf = true

end Sys2Proof
end

