-- ==== Sys2Proof/Decode.lean ====
section
/-! DEFINITION. The decoder and the encoder (R270 to R282). `decodeWord` reads one 64-bit word: the header (R273), then
the major's function code, then the payload in the major's format. It is total: a word that names no instruction is
rejected by name. `encode` writes the word of an instruction from the same tables. -/

namespace Sys2Proof

/-- Why a word names no instruction (R282). -/
inductive DecodeError where
  /-- a major opcode that belongs to no slot (R271, R282) -/
  | noSlot (maj : Nat)
  /-- a function code that the major's row does not list (R282) -/
  | noFunction (maj fn : Nat)
  /-- fewer than eight bytes were given -/
  | shortBytes
  deriving DecidableEq, Repr

/-- A Boolean as one bit. -/
def bit1 (b : Bool) : BitVec 1 := BitVec.ofBool b

/-- The payload bits of format SR, from the highest field down, and back. -/
def SrOps.bits (o : SrOps) : BitVec 43 :=
  (o.sd ++ o.sa ++ o.sb ++ o.ma ++ o.mb ++ o.md ++ o.rz)

def SrOps.ofBits (p : BitVec 43) : SrOps where
  sd := p.extractLsb' 37 6
  sa := p.extractLsb' 31 6
  sb := p.extractLsb' 25 6
  ma := p.extractLsb' 19 6
  mb := p.extractLsb' 13 6
  md := p.extractLsb' 7 6
  rz := p.extractLsb' 0 7

/-- The payload bits of format SI, from the highest field down, and back. -/
def SiOps.bits (o : SiOps) : BitVec 43 :=
  (o.sd ++ o.sa ++ o.imm)

def SiOps.ofBits (p : BitVec 43) : SiOps where
  sd := p.extractLsb' 37 6
  sa := p.extractLsb' 31 6
  imm := p.extractLsb' 0 31

/-- The payload bits of format VR, from the highest field down, and back. -/
def VrOps.bits (o : VrOps) : BitVec 43 :=
  (o.vd ++ o.va ++ o.vb ++ o.vc ++ o.ty ++ o.rm ++ bit1 o.sat ++ bit1 o.ua ++ bit1 o.ub ++ o.rz)

def VrOps.ofBits (p : BitVec 43) : VrOps where
  vd := p.extractLsb' 35 8
  va := p.extractLsb' 27 8
  vb := p.extractLsb' 19 8
  vc := p.extractLsb' 11 8
  ty := p.extractLsb' 7 4
  rm := p.extractLsb' 5 2
  sat := p.getLsbD 4
  ua := p.getLsbD 3
  ub := p.getLsbD 2
  rz := p.extractLsb' 0 2

/-- The payload bits of format VS, from the highest field down, and back. -/
def VsOps.bits (o : VsOps) : BitVec 43 :=
  (o.vd ++ o.va ++ o.ss ++ o.ty ++ o.rm ++ bit1 o.sat ++ o.imm)

def VsOps.ofBits (p : BitVec 43) : VsOps where
  vd := p.extractLsb' 35 8
  va := p.extractLsb' 27 8
  ss := p.extractLsb' 21 6
  ty := p.extractLsb' 17 4
  rm := p.extractLsb' 15 2
  sat := p.getLsbD 14
  imm := p.extractLsb' 0 14

/-- The payload bits of format M, from the highest field down, and back. -/
def MOps.bits (o : MOps) : BitVec 43 :=
  (o.dr ++ o.bs ++ o.ord ++ o.sc ++ o.sz ++ o.ch ++ o.off)

def MOps.ofBits (p : BitVec 43) : MOps where
  dr := p.extractLsb' 35 8
  bs := p.extractLsb' 29 6
  ord := p.extractLsb' 27 2
  sc := p.extractLsb' 25 2
  sz := p.extractLsb' 22 3
  ch := p.extractLsb' 20 2
  off := p.extractLsb' 0 20

/-- The payload bits of format K, from the highest field down, and back. -/
def KOps.bits (o : KOps) : BitVec 43 :=
  (o.kh ++ o.kb ++ o.dr ++ o.ord ++ o.sz ++ o.off)

def KOps.ofBits (p : BitVec 43) : KOps where
  kh := p.extractLsb' 39 4
  kb := p.extractLsb' 35 4
  dr := p.extractLsb' 27 8
  ord := p.extractLsb' 25 2
  sz := p.extractLsb' 22 3
  off := p.extractLsb' 0 22

/-- The payload bits of format E, from the highest field down, and back. -/
def EOps.bits (o : EOps) : BitVec 43 :=
  (o.tok ++ o.ra ++ o.rb ++ o.sx ++ o.sy ++ o.sz ++ o.eimm)

def EOps.ofBits (p : BitVec 43) : EOps where
  tok := p.extractLsb' 39 4
  ra := p.extractLsb' 35 4
  rb := p.extractLsb' 31 4
  sx := p.extractLsb' 25 6
  sy := p.extractLsb' 19 6
  sz := p.extractLsb' 13 6
  eimm := p.extractLsb' 0 13

/-- The payload bits of format B, from the highest field down, and back. -/
def BOps.bits (o : BOps) : BitVec 43 :=
  (o.bf ++ o.li ++ o.sa ++ o.off)

def BOps.ofBits (p : BitVec 43) : BOps where
  bf := p.extractLsb' 40 3
  li := p.extractLsb' 38 2
  sa := p.extractLsb' 32 6
  off := p.extractLsb' 0 32

/-- The payload bits of format X, from the highest field down, and back. -/
def XOps.bits (o : XOps) : BitVec 43 :=
  (o.vd ++ o.va ++ o.vb ++ o.sa ++ o.sb ++ o.xf)

def XOps.ofBits (p : BitVec 43) : XOps where
  vd := p.extractLsb' 35 8
  va := p.extractLsb' 27 8
  vb := p.extractLsb' 19 8
  sa := p.extractLsb' 13 6
  sb := p.extractLsb' 7 6
  xf := p.extractLsb' 0 7

/-- The payload bits of format Y, from the highest field down, and back. -/
def YOps.bits (o : YOps) : BitVec 43 :=
  (o.sd ++ o.sa ++ o.srn ++ o.imm)

def YOps.ofBits (p : BitVec 43) : YOps where
  sd := p.extractLsb' 37 6
  sa := p.extractLsb' 31 6
  srn := p.extractLsb' 19 12
  imm := p.extractLsb' 0 19

/-- The header's fields of a word (R273). -/
def Hdr.ofWord (w : DWord) : Hdr where
  last := w.getLsbD 63
  pg   := w.extractLsb' 52 4
  pn   := w.getLsbD 51

/-- A word from its header, major, function code and payload (R273). -/
def assemble (h : Hdr) (maj : BitVec 7) (fn : BitVec 8) (p : BitVec 43) : DWord :=
  bit1 h.last ++ maj ++ h.pg ++ bit1 h.pn ++ fn ++ p

/-- The function codes of major 0x00 (R282). -/
def decodeMaj00 (fn : Nat) (h : Hdr) (p : BitVec 43) : Option Instr :=
  match fn with
  | 0 => some (.nop h (.ofBits p))
  | 1 => some (.sysr h (.ofBits p))
  | 2 => some (.sysw h (.ofBits p))
  | 3 => some (.trap h (.ofBits p))
  | 4 => some (.rte h (.ofBits p))
  | 5 => some (.idle h (.ofBits p))
  | 6 => some (.evsig h (.ofBits p))
  | 7 => some (.halt h (.ofBits p))
  | _ => none

/-- The function codes of major 0x01 (R282). -/
def decodeMaj01 (fn : Nat) (h : Hdr) (p : BitVec 43) : Option Instr :=
  match fn with
  | 0 => some (.sadd h (.ofBits p))
  | 1 => some (.ssub h (.ofBits p))
  | 2 => some (.smul h (.ofBits p))
  | 3 => some (.smulh h (.ofBits p))
  | 4 => some (.sdiv h (.ofBits p))
  | 5 => some (.srem h (.ofBits p))
  | 6 => some (.sand h (.ofBits p))
  | 7 => some (.sor h (.ofBits p))
  | 8 => some (.sxor h (.ofBits p))
  | 9 => some (.sshl h (.ofBits p))
  | 10 => some (.sshr h (.ofBits p))
  | 11 => some (.ssra h (.ofBits p))
  | 12 => some (.smin h (.ofBits p))
  | 13 => some (.smax h (.ofBits p))
  | 14 => some (.ssel h (.ofBits p))
  | 15 => some (.smov h (.ofBits p))
  | 17 => some (.sclz h (.ofBits p))
  | 18 => some (.spop h (.ofBits p))
  | 19 => some (.sext h (.ofBits p))
  | 20 => some (.sins h (.ofBits p))
  | 21 => some (.slea h (.ofBits p))
  | _ => none

/-- The function codes of major 0x02 (R282). -/
def decodeMaj02 (fn : Nat) (h : Hdr) (p : BitVec 43) : Option Instr :=
  match fn with
  | 0 => some (.saddSi h (.ofBits p))
  | 1 => some (.ssubSi h (.ofBits p))
  | 2 => some (.smulSi h (.ofBits p))
  | 3 => some (.smulhSi h (.ofBits p))
  | 4 => some (.sdivSi h (.ofBits p))
  | 5 => some (.sremSi h (.ofBits p))
  | 6 => some (.sandSi h (.ofBits p))
  | 7 => some (.sorSi h (.ofBits p))
  | 8 => some (.sxorSi h (.ofBits p))
  | 9 => some (.sshlSi h (.ofBits p))
  | 10 => some (.sshrSi h (.ofBits p))
  | 11 => some (.ssraSi h (.ofBits p))
  | 12 => some (.sminSi h (.ofBits p))
  | 13 => some (.smaxSi h (.ofBits p))
  | 14 => some (.sselSi h (.ofBits p))
  | 15 => some (.smovSi h (.ofBits p))
  | 16 => some (.slui h (.ofBits p))
  | 19 => some (.sextSi h (.ofBits p))
  | 20 => some (.sinsSi h (.ofBits p))
  | 21 => some (.sleaSi h (.ofBits p))
  | _ => none

/-- The function codes of major 0x03 (R282). -/
def decodeMaj03 (fn : Nat) (h : Hdr) (p : BitVec 43) : Option Instr :=
  match fn with
  | 0 => some (.scmp h (.ofBits p))
  | 1 => some (.plog h (.ofBits p))
  | _ => none

/-- The function codes of major 0x04 (R282). -/
def decodeMaj04 (fn : Nat) (h : Hdr) (p : BitVec 43) : Option Instr :=
  match fn with
  | 0 => some (.br h (.ofBits p))
  | 1 => some (.brc h (.ofBits p))
  | 2 => some (if p.getLsbD 40 then .callIndirect h (.ofBits p) else .call h (.ofBits p))
  | 3 => some (.ret h (.ofBits p))
  | 4 => some (.bri h (.ofBits p))
  | 5 => some (.loop h (.ofBits p))
  | 6 => some (.loopx h (.ofBits p))
  | _ => none

/-- The function codes of major 0x05 (R282). -/
def decodeMaj05 (fn : Nat) (h : Hdr) (p : BitVec 43) : Option Instr :=
  match fn with
  | 0 => some (.region h (.ofBits p))
  | 1 => some (.slice h (.ofBits p))
  | 2 => some (.tnode h (.ofBits p))
  | 3 => some (.tlaunch h (.ofBits p))
  | 4 => some (.tyield h (.ofBits p))
  | 5 => some (.texit h (.ofBits p))
  | 6 => some (.tkw h (.ofBits p))
  | _ => none

/-- The function codes of major 0x08 (R282). -/
def decodeMaj08 (fn : Nat) (h : Hdr) (p : BitVec 43) : Option Instr :=
  match fn with
  | 0 => some (.ld h (.ofBits p))
  | 1 => some (.ldv h (.ofBits p))
  | 2 => some (.ldm h (.ofBits p))
  | 3 => some (.pref h (.ofBits p))
  | _ => none

/-- The function codes of major 0x09 (R282). -/
def decodeMaj09 (fn : Nat) (h : Hdr) (p : BitVec 43) : Option Instr :=
  match fn with
  | 0 => some (.st h (.ofBits p))
  | 1 => some (.stv h (.ofBits p))
  | 2 => some (.stm h (.ofBits p))
  | _ => none

/-- The function codes of major 0x0A (R282). -/
def decodeMaj0A (fn : Nat) (h : Hdr) (p : BitVec 43) : Option Instr :=
  match fn with
  | 0 => some (.amo h (.ofBits p))
  | 1 => some (.cas h (.ofBits p))
  | _ => none

/-- The function codes of major 0x0B (R282). -/
def decodeMaj0B (fn : Nat) (h : Hdr) (p : BitVec 43) : Option Instr :=
  match fn with
  | 0 => some (.fence h (.ofBits p))
  | 1 => some (.acq h (.ofBits p))
  | 2 => some (.rel h (.ofBits p))
  | 3 => some (.bara h (.ofBits p))
  | 4 => some (.barw h (.ofBits p))
  | 5 => some (.dsync h (.ofBits p))
  | _ => none

/-- The function codes of major 0x0C (R282). -/
def decodeMaj0C (fn : Nat) (h : Hdr) (p : BitVec 43) : Option Instr :=
  match fn with
  | 0 => some (if p.extractLsb' 22 3 == 7 then .kldObject h (.ofBits p) else .kld h (.ofBits p))
  | 1 => some (if p.extractLsb' 22 3 == 7 then .kstObject h (.ofBits p) else .kst h (.ofBits p))
  | 2 => some (.kget h (.ofBits p))
  | 3 => some (.kput h (.ofBits p))
  | 4 => some (.knew h (.ofBits p))
  | 5 => some (.kpin h (.ofBits p))
  | 6 => some (.kunpin h (.ofBits p))
  | 7 => some (.keq h (.ofBits p))
  | _ => none

/-- The function codes of major 0x0D (R282). -/
def decodeMaj0D (fn : Nat) (h : Hdr) (p : BitVec 43) : Option Instr :=
  match fn with
  | 0 => some (.hopen h (.ofBits p))
  | 1 => some (.hrel h (.ofBits p))
  | 2 => some (.hld h (.ofBits p))
  | 3 => some (.hst h (.ofBits p))
  | _ => none

/-- The function codes of major 0x10 (R282). -/
def decodeMaj10 (fn : Nat) (h : Hdr) (p : BitVec 43) : Option Instr :=
  match fn with
  | 0 => some (.vadd h (.ofBits p))
  | 1 => some (.vsub h (.ofBits p))
  | 2 => some (.vmul h (.ofBits p))
  | 3 => some (.vfma h (.ofBits p))
  | 4 => some (.vmin h (.ofBits p))
  | 5 => some (.vmax h (.ofBits p))
  | 6 => some (.vabs h (.ofBits p))
  | 7 => some (.vand h (.ofBits p))
  | 8 => some (.vor h (.ofBits p))
  | 9 => some (.vxor h (.ofBits p))
  | 10 => some (.vshl h (.ofBits p))
  | 11 => some (.vshr h (.ofBits p))
  | 12 => some (.vcmp h (.ofBits p))
  | 13 => some (.vsel h (.ofBits p))
  | 14 => some (.vcvt h (.ofBits p))
  | 15 => some (.vwmul h (.ofBits p))
  | 16 => some (.vwadd h (.ofBits p))
  | 17 => some (.vdot4 h (.ofBits p))
  | 18 => some (.vmov h (.ofBits p))
  | _ => none

/-- The function codes of major 0x11 (R282). -/
def decodeMaj11 (fn : Nat) (h : Hdr) (p : BitVec 43) : Option Instr :=
  match fn with
  | 0 => some (.vaddVs h (.ofBits p))
  | 1 => some (.vsubVs h (.ofBits p))
  | 2 => some (.vmulVs h (.ofBits p))
  | 3 => some (.vfmaVs h (.ofBits p))
  | 4 => some (.vminVs h (.ofBits p))
  | 5 => some (.vmaxVs h (.ofBits p))
  | 7 => some (.vandVs h (.ofBits p))
  | 8 => some (.vorVs h (.ofBits p))
  | 9 => some (.vxorVs h (.ofBits p))
  | 10 => some (.vshlVs h (.ofBits p))
  | 11 => some (.vshrVs h (.ofBits p))
  | 12 => some (.vcmpVs h (.ofBits p))
  | 13 => some (.vselVs h (.ofBits p))
  | 15 => some (.vwmulVs h (.ofBits p))
  | 16 => some (.vwaddVs h (.ofBits p))
  | 17 => some (.vdot4Vs h (.ofBits p))
  | 18 => some (.vmovVs h (.ofBits p))
  | _ => none

/-- The function codes of major 0x12 (R282). -/
def decodeMaj12 (fn : Nat) (h : Hdr) (p : BitVec 43) : Option Instr :=
  match fn with
  | 0 => some (.vexp2 h (.ofBits p))
  | 1 => some (.vlog2 h (.ofBits p))
  | 2 => some (.vrcp h (.ofBits p))
  | 3 => some (.vrsq h (.ofBits p))
  | 4 => some (.vtanh h (.ofBits p))
  | 5 => some (.vrsum h (.ofBits p))
  | 6 => some (.vrmax h (.ofBits p))
  | 7 => some (.vrmin h (.ofBits p))
  | 8 => some (.vmaxi h (.ofBits p))
  | 9 => some (.vmini h (.ofBits p))
  | 10 => some (.vscan h (.ofBits p))
  | _ => none

/-- The function codes of major 0x13 (R282). -/
def decodeMaj13 (fn : Nat) (h : Hdr) (p : BitVec 43) : Option Instr :=
  match fn with
  | 0 => some (.vperm h (.ofBits p))
  | 1 => some (.vcomp h (.ofBits p))
  | 2 => some (.vhist h (.ofBits p))
  | 3 => some (.vhmerge h (.ofBits p))
  | 4 => some (.vrng h (.ofBits p))
  | 5 => some (.vchain h (.ofBits p))
  | _ => none

/-- The function codes of major 0x18 (R282). -/
def decodeMaj18 (fn : Nat) (h : Hdr) (p : BitVec 43) : Option Instr :=
  match fn with
  | 0 => some (.mlease h (.ofBits p))
  | 1 => some (.mfree h (.ofBits p))
  | 2 => some (.mma h (.ofBits p))
  | 3 => some (.mmas h (.ofBits p))
  | 4 => some (.mrank h (.ofBits p))
  | 5 => some (.mrd h (.ofBits p))
  | 6 => some (.mzero h (.ofBits p))
  | _ => none

/-- The function codes of major 0x19 (R282). -/
def decodeMaj19 (fn : Nat) (h : Hdr) (p : BitVec 43) : Option Instr :=
  match fn with
  | 0 => some (.cpy h (.ofBits p))
  | 1 => some (.qbind h (.ofBits p))
  | 2 => some (.rinit h (.ofBits p))
  | 3 => some (.radv h (.ofBits p))
  | 4 => some (.epop h (.ofBits p))
  | 5 => some (.estat h (.ofBits p))
  | _ => none

/-- The function codes of major 0x1A (R282). -/
def decodeMaj1A (fn : Nat) (h : Hdr) (p : BitVec 43) : Option Instr :=
  match fn with
  | 0 => some (.merge h (.ofBits p))
  | 1 => some (.hacc h (.ofBits p))
  | _ => none

/-- The function codes of major 0x1C (R282). -/
def decodeMaj1C (fn : Nat) (h : Hdr) (p : BitVec 43) : Option Instr :=
  match fn with
  | 0 => some (.xroute h (.ofBits p))
  | 1 => some (if p.getLsbD 0 then .xcloseFinal h (.ofBits p) else .xclose h (.ofBits p))
  | 2 => some (.xfetch h (.ofBits p))
  | 3 => some (.xpin h (.ofBits p))
  | 4 => some (.xunpin h (.ofBits p))
  | 5 => some (.xpred h (.ofBits p))
  | 6 => some (.xqry h (.ofBits p))
  | 7 => some (.xsnap h (.ofBits p))
  | 8 => some (.xrepl h (.ofBits p))
  | _ => none

/-- The function table of a major opcode; none where the major belongs to no slot. Major 0x1B has no function code. -/
def decodeMajor (maj fn : Nat) (h : Hdr) (p : BitVec 43) : Option (Option Instr) :=
  match maj with
  | 0x00 => some (decodeMaj00 fn h p)
  | 0x01 => some (decodeMaj01 fn h p)
  | 0x02 => some (decodeMaj02 fn h p)
  | 0x03 => some (decodeMaj03 fn h p)
  | 0x04 => some (decodeMaj04 fn h p)
  | 0x05 => some (decodeMaj05 fn h p)
  | 0x08 => some (decodeMaj08 fn h p)
  | 0x09 => some (decodeMaj09 fn h p)
  | 0x0A => some (decodeMaj0A fn h p)
  | 0x0B => some (decodeMaj0B fn h p)
  | 0x0C => some (decodeMaj0C fn h p)
  | 0x0D => some (decodeMaj0D fn h p)
  | 0x10 => some (decodeMaj10 fn h p)
  | 0x11 => some (decodeMaj11 fn h p)
  | 0x12 => some (decodeMaj12 fn h p)
  | 0x13 => some (decodeMaj13 fn h p)
  | 0x18 => some (decodeMaj18 fn h p)
  | 0x19 => some (decodeMaj19 fn h p)
  | 0x1A => some (decodeMaj1A fn h p)
  | 0x1C => some (decodeMaj1C fn h p)
  | 0x1B => some none
  | _ => none

/-- Decode one instruction word. -/
def decodeWord (w : DWord) : Except DecodeError Instr :=
  let maj := (w.extractLsb' 56 7).toNat
  let fn := (w.extractLsb' 43 8).toNat
  match decodeMajor maj fn (.ofWord w) (w.extractLsb' 0 43) with
  | none => .error (.noSlot maj)
  | some none => .error (.noFunction maj fn)
  | some (some i) => .ok i

/-- The slots of a bundle (R270): S, M, V, E are 0 to 3; none where the major belongs to no slot (R282). -/
def slotOf (w : DWord) : Option Nat :=
  match (w.extractLsb' 56 7).toNat with
  | 0x00 | 0x01 | 0x02 | 0x03 | 0x04 | 0x05 => some 0
  | 0x08 | 0x09 | 0x0A | 0x0B | 0x0C | 0x0D => some 1
  | 0x10 | 0x11 | 0x12 | 0x13 => some 2
  | 0x18 | 0x19 | 0x1A | 0x1B | 0x1C => some 3
  | _ => none

/-- Eight bytes, lowest address first, as a word (R270: little-endian). -/
def wordOfBytes (b : List Byte) : DWord :=
  b.foldr (fun x acc => (acc <<< 8) ||| x.setWidth 64) 0

/-- Decode from bytes: the instruction and the bytes that follow it. -/
def decodeBytes (b : List Byte) : Except DecodeError (Instr × List Byte) :=
  if b.length < 8 then .error .shortBytes
  else match decodeWord (wordOfBytes (b.take 8)) with
    | .ok i => .ok (i, b.drop 8)
    | .error e => .error e

/-- Header, major, function code and payload of an instruction word; none for an event row, which has no word. -/
def Instr.parts : Instr → Option (Hdr × BitVec 7 × BitVec 8 × BitVec 43)
  | .nop h o => some (h, 0x00, 0x00, o.bits)
  | .sysr h o => some (h, 0x00, 0x01, o.bits)
  | .sysw h o => some (h, 0x00, 0x02, o.bits)
  | .trap h o => some (h, 0x00, 0x03, o.bits)
  | .rte h o => some (h, 0x00, 0x04, o.bits)
  | .idle h o => some (h, 0x00, 0x05, o.bits)
  | .evsig h o => some (h, 0x00, 0x06, o.bits)
  | .halt h o => some (h, 0x00, 0x07, o.bits)
  | .sadd h o => some (h, 0x01, 0x00, o.bits)
  | .ssub h o => some (h, 0x01, 0x01, o.bits)
  | .smul h o => some (h, 0x01, 0x02, o.bits)
  | .smulh h o => some (h, 0x01, 0x03, o.bits)
  | .sdiv h o => some (h, 0x01, 0x04, o.bits)
  | .srem h o => some (h, 0x01, 0x05, o.bits)
  | .sand h o => some (h, 0x01, 0x06, o.bits)
  | .sor h o => some (h, 0x01, 0x07, o.bits)
  | .sxor h o => some (h, 0x01, 0x08, o.bits)
  | .sshl h o => some (h, 0x01, 0x09, o.bits)
  | .sshr h o => some (h, 0x01, 0x0A, o.bits)
  | .ssra h o => some (h, 0x01, 0x0B, o.bits)
  | .smin h o => some (h, 0x01, 0x0C, o.bits)
  | .smax h o => some (h, 0x01, 0x0D, o.bits)
  | .ssel h o => some (h, 0x01, 0x0E, o.bits)
  | .smov h o => some (h, 0x01, 0x0F, o.bits)
  | .sclz h o => some (h, 0x01, 0x11, o.bits)
  | .spop h o => some (h, 0x01, 0x12, o.bits)
  | .sext h o => some (h, 0x01, 0x13, o.bits)
  | .sins h o => some (h, 0x01, 0x14, o.bits)
  | .slea h o => some (h, 0x01, 0x15, o.bits)
  | .saddSi h o => some (h, 0x02, 0x00, o.bits)
  | .ssubSi h o => some (h, 0x02, 0x01, o.bits)
  | .smulSi h o => some (h, 0x02, 0x02, o.bits)
  | .smulhSi h o => some (h, 0x02, 0x03, o.bits)
  | .sdivSi h o => some (h, 0x02, 0x04, o.bits)
  | .sremSi h o => some (h, 0x02, 0x05, o.bits)
  | .sandSi h o => some (h, 0x02, 0x06, o.bits)
  | .sorSi h o => some (h, 0x02, 0x07, o.bits)
  | .sxorSi h o => some (h, 0x02, 0x08, o.bits)
  | .sshlSi h o => some (h, 0x02, 0x09, o.bits)
  | .sshrSi h o => some (h, 0x02, 0x0A, o.bits)
  | .ssraSi h o => some (h, 0x02, 0x0B, o.bits)
  | .sminSi h o => some (h, 0x02, 0x0C, o.bits)
  | .smaxSi h o => some (h, 0x02, 0x0D, o.bits)
  | .sselSi h o => some (h, 0x02, 0x0E, o.bits)
  | .smovSi h o => some (h, 0x02, 0x0F, o.bits)
  | .sextSi h o => some (h, 0x02, 0x13, o.bits)
  | .sinsSi h o => some (h, 0x02, 0x14, o.bits)
  | .sleaSi h o => some (h, 0x02, 0x15, o.bits)
  | .slui h o => some (h, 0x02, 0x10, o.bits)
  | .scmp h o => some (h, 0x03, 0x00, o.bits)
  | .plog h o => some (h, 0x03, 0x01, o.bits)
  | .br h o => some (h, 0x04, 0x00, o.bits)
  | .brc h o => some (h, 0x04, 0x01, o.bits)
  | .call h o => some (h, 0x04, 0x02, o.bits)
  | .callIndirect h o => some (h, 0x04, 0x02, o.bits)
  | .ret h o => some (h, 0x04, 0x03, o.bits)
  | .bri h o => some (h, 0x04, 0x04, o.bits)
  | .loop h o => some (h, 0x04, 0x05, o.bits)
  | .loopx h o => some (h, 0x04, 0x06, o.bits)
  | .region h o => some (h, 0x05, 0x00, o.bits)
  | .slice h o => some (h, 0x05, 0x01, o.bits)
  | .tnode h o => some (h, 0x05, 0x02, o.bits)
  | .tlaunch h o => some (h, 0x05, 0x03, o.bits)
  | .tyield h o => some (h, 0x05, 0x04, o.bits)
  | .texit h o => some (h, 0x05, 0x05, o.bits)
  | .tkw h o => some (h, 0x05, 0x06, o.bits)
  | .ld h o => some (h, 0x08, 0x00, o.bits)
  | .ldv h o => some (h, 0x08, 0x01, o.bits)
  | .ldm h o => some (h, 0x08, 0x02, o.bits)
  | .pref h o => some (h, 0x08, 0x03, o.bits)
  | .st h o => some (h, 0x09, 0x00, o.bits)
  | .stv h o => some (h, 0x09, 0x01, o.bits)
  | .stm h o => some (h, 0x09, 0x02, o.bits)
  | .amo h o => some (h, 0x0A, 0x00, o.bits)
  | .cas h o => some (h, 0x0A, 0x01, o.bits)
  | .fence h o => some (h, 0x0B, 0x00, o.bits)
  | .acq h o => some (h, 0x0B, 0x01, o.bits)
  | .rel h o => some (h, 0x0B, 0x02, o.bits)
  | .bara h o => some (h, 0x0B, 0x03, o.bits)
  | .barw h o => some (h, 0x0B, 0x04, o.bits)
  | .dsync h o => some (h, 0x0B, 0x05, o.bits)
  | .kld h o => some (h, 0x0C, 0x00, o.bits)
  | .kldObject h o => some (h, 0x0C, 0x00, o.bits)
  | .kst h o => some (h, 0x0C, 0x01, o.bits)
  | .kstObject h o => some (h, 0x0C, 0x01, o.bits)
  | .kget h o => some (h, 0x0C, 0x02, o.bits)
  | .kput h o => some (h, 0x0C, 0x03, o.bits)
  | .knew h o => some (h, 0x0C, 0x04, o.bits)
  | .kpin h o => some (h, 0x0C, 0x05, o.bits)
  | .kunpin h o => some (h, 0x0C, 0x06, o.bits)
  | .keq h o => some (h, 0x0C, 0x07, o.bits)
  | .hopen h o => some (h, 0x0D, 0x00, o.bits)
  | .hrel h o => some (h, 0x0D, 0x01, o.bits)
  | .hld h o => some (h, 0x0D, 0x02, o.bits)
  | .hst h o => some (h, 0x0D, 0x03, o.bits)
  | .vadd h o => some (h, 0x10, 0x00, o.bits)
  | .vsub h o => some (h, 0x10, 0x01, o.bits)
  | .vmul h o => some (h, 0x10, 0x02, o.bits)
  | .vfma h o => some (h, 0x10, 0x03, o.bits)
  | .vmin h o => some (h, 0x10, 0x04, o.bits)
  | .vmax h o => some (h, 0x10, 0x05, o.bits)
  | .vabs h o => some (h, 0x10, 0x06, o.bits)
  | .vand h o => some (h, 0x10, 0x07, o.bits)
  | .vor h o => some (h, 0x10, 0x08, o.bits)
  | .vxor h o => some (h, 0x10, 0x09, o.bits)
  | .vshl h o => some (h, 0x10, 0x0A, o.bits)
  | .vshr h o => some (h, 0x10, 0x0B, o.bits)
  | .vcmp h o => some (h, 0x10, 0x0C, o.bits)
  | .vsel h o => some (h, 0x10, 0x0D, o.bits)
  | .vcvt h o => some (h, 0x10, 0x0E, o.bits)
  | .vwmul h o => some (h, 0x10, 0x0F, o.bits)
  | .vwadd h o => some (h, 0x10, 0x10, o.bits)
  | .vdot4 h o => some (h, 0x10, 0x11, o.bits)
  | .vmov h o => some (h, 0x10, 0x12, o.bits)
  | .vaddVs h o => some (h, 0x11, 0x00, o.bits)
  | .vsubVs h o => some (h, 0x11, 0x01, o.bits)
  | .vmulVs h o => some (h, 0x11, 0x02, o.bits)
  | .vfmaVs h o => some (h, 0x11, 0x03, o.bits)
  | .vminVs h o => some (h, 0x11, 0x04, o.bits)
  | .vmaxVs h o => some (h, 0x11, 0x05, o.bits)
  | .vandVs h o => some (h, 0x11, 0x07, o.bits)
  | .vorVs h o => some (h, 0x11, 0x08, o.bits)
  | .vxorVs h o => some (h, 0x11, 0x09, o.bits)
  | .vshlVs h o => some (h, 0x11, 0x0A, o.bits)
  | .vshrVs h o => some (h, 0x11, 0x0B, o.bits)
  | .vcmpVs h o => some (h, 0x11, 0x0C, o.bits)
  | .vselVs h o => some (h, 0x11, 0x0D, o.bits)
  | .vwmulVs h o => some (h, 0x11, 0x0F, o.bits)
  | .vwaddVs h o => some (h, 0x11, 0x10, o.bits)
  | .vdot4Vs h o => some (h, 0x11, 0x11, o.bits)
  | .vmovVs h o => some (h, 0x11, 0x12, o.bits)
  | .vexp2 h o => some (h, 0x12, 0x00, o.bits)
  | .vlog2 h o => some (h, 0x12, 0x01, o.bits)
  | .vrcp h o => some (h, 0x12, 0x02, o.bits)
  | .vrsq h o => some (h, 0x12, 0x03, o.bits)
  | .vtanh h o => some (h, 0x12, 0x04, o.bits)
  | .vrsum h o => some (h, 0x12, 0x05, o.bits)
  | .vrmax h o => some (h, 0x12, 0x06, o.bits)
  | .vrmin h o => some (h, 0x12, 0x07, o.bits)
  | .vmaxi h o => some (h, 0x12, 0x08, o.bits)
  | .vmini h o => some (h, 0x12, 0x09, o.bits)
  | .vscan h o => some (h, 0x12, 0x0A, o.bits)
  | .vperm h o => some (h, 0x13, 0x00, o.bits)
  | .vcomp h o => some (h, 0x13, 0x01, o.bits)
  | .vhist h o => some (h, 0x13, 0x02, o.bits)
  | .vhmerge h o => some (h, 0x13, 0x03, o.bits)
  | .vrng h o => some (h, 0x13, 0x04, o.bits)
  | .vchain h o => some (h, 0x13, 0x05, o.bits)
  | .mlease h o => some (h, 0x18, 0x00, o.bits)
  | .mfree h o => some (h, 0x18, 0x01, o.bits)
  | .mma h o => some (h, 0x18, 0x02, o.bits)
  | .mmas h o => some (h, 0x18, 0x03, o.bits)
  | .mrank h o => some (h, 0x18, 0x04, o.bits)
  | .mrd h o => some (h, 0x18, 0x05, o.bits)
  | .mzero h o => some (h, 0x18, 0x06, o.bits)
  | .cpy h o => some (h, 0x19, 0x00, o.bits)
  | .qbind h o => some (h, 0x19, 0x01, o.bits)
  | .rinit h o => some (h, 0x19, 0x02, o.bits)
  | .radv h o => some (h, 0x19, 0x03, o.bits)
  | .epop h o => some (h, 0x19, 0x04, o.bits)
  | .estat h o => some (h, 0x19, 0x05, o.bits)
  | .merge h o => some (h, 0x1A, 0x00, o.bits)
  | .hacc h o => some (h, 0x1A, 0x01, o.bits)
  | .xroute h o => some (h, 0x1C, 0x00, o.bits)
  | .xclose h o => some (h, 0x1C, 0x01, o.bits)
  | .xfetch h o => some (h, 0x1C, 0x02, o.bits)
  | .xpin h o => some (h, 0x1C, 0x03, o.bits)
  | .xunpin h o => some (h, 0x1C, 0x04, o.bits)
  | .xpred h o => some (h, 0x1C, 0x05, o.bits)
  | .xqry h o => some (h, 0x1C, 0x06, o.bits)
  | .xsnap h o => some (h, 0x1C, 0x07, o.bits)
  | .xrepl h o => some (h, 0x1C, 0x08, o.bits)
  | .xcloseFinal h o => some (h, 0x1C, 0x01, o.bits)
  | .idleTimeout _ => none
  | .tkwTimeout _ => none
  | .finalClose _ _ => none
  | .interlockedWriteLand _ => none
  | .fixedLatencyVisible _ => none
  | .matrixCommandStart _ => none
  | .matrixMicroStep _ => none
  | .copyCommandStart _ => none
  | .copyMicroStep _ => none
  | .dataCommandStart _ => none
  | .dataMicroStep _ => none
  | .engineFaultTaken _ => none
  | .frespRetry _ _ => none
  | .frespDeliver _ _ => none
  | .monitorLimitExpiry _ => none
  | .quantumExpiry _ => none
  | .stallLimitExpiry _ => none
  | .eccCorrectableFreeze _ _ => none
  | .freezeEnd _ => none
  | .windowSubmit64 _ _ _ => none
  | .windowPieceStore _ => none
  | .distributorSelection => none
  | .binding => none
  | .clearEngineDone _ => none
  | .nodeAgeing _ => none
  | .preemptTrigger _ => none
  | .appNodeClaim _ => none
  | .appNodeComplete _ => none
  | .recordConsumption => none
  | .tileNodeCreate => none
  | .queueEnable _ _ => none
  | .queueStopClear _ => none
  | .qslotWrite _ _ => none
  | .registerWrite _ _ => none
  | .l1CapacityEviction _ _ => none
  | .shootdown _ => none
  | .externalAccess _ => none
  | .compressedFrameFault _ => none
  | .famcmd _ => none
  | .famcmdHeldApply => none
  | .expandGo => none
  | .expandDone => none
  | .expandDoneClear => none
  | .swapGo _ => none
  | .swapDone => none
  | .swapDoneClear => none
  | .migrationRequest _ => none
  | .holdExpiry _ => none
  | .holdQueueLimit _ => none
  | .rowAutoClose _ => none
  | .rowReopen _ => none
  | .heapCompact => none
  | .compactionAutostart => none
  | .compactionCycleStart => none
  | .compactionObject => none
  | .relocationCommit => none
  | .compactionFlip => none
  | .retire _ => none
  | .heapcmdFree _ => none
  | .coldEvictionStart _ => none
  | .coldEvictionDone => none
  | .recallComplete _ => none
  | .modelInstall _ => none
  | .modelUninstall _ => none
  | .steamerChunk => none
  | .frequencyDecay => none
  | .remoteClaim _ _ => none
  | .remoteCommand _ => none
  | .distributionChunk _ => none
  | .linkChange _ => none
  | .leaseGrant _ => none
  | .leaseTimeout _ => none
  | .bucketCycle _ => none
  | .refillTick _ => none
  | .biasWrite _ _ => none
  | .biasSettleDone _ => none
  | .clockHopRequest _ _ _ => none
  | .hopComplete _ => none
  | .hopRetry _ => none
  | .droopDetect _ => none
  | .droopRecover _ => none
  | .sensorReading _ _ => none
  | .sensfClear _ _ => none
  | .sleepEnter => none
  | .wake _ => none
  | .wakeComplete => none
  | .keyLoad => none
  | .keyLoadDone => none
  | .attestation => none
  | .attestationDone => none
  | .resync => none
  | .resyncDone => none
  | .mgmtStatus => none
  | .mgmtReadCrock _ _ => none
  | .mgmtResync => none
  | .mgmtWake => none
  | .heartbeat => none
  | .watchdogExpiry => none
  | .boot _ => none
  | .domainFaultTaken _ => none
  | .mainTierRateChange => none
  | .powerLoss _ => none

/-- The word of an instruction (R273 to R278); none for an event row. -/
def encode (i : Instr) : Option DWord :=
  i.parts.map fun x => assemble x.1 x.2.1 x.2.2.1 x.2.2.2

/-- The word of an instruction, 0 for an event row: what EVAL shows of it (R230). -/
def wordOf (i : Instr) : DWord := (encode i).getD 0

/-- An event row: no word of the instruction stream decodes to it. -/
def Instr.isEvent (i : Instr) : Bool := i.parts.isNone

/-- The header of an instruction word (an event row is governed by p0). -/
def Instr.hdr (i : Instr) : Hdr :=
  match i.parts with
  | some x => x.1
  | none => { last := true, pg := 0, pn := false }

/-- What the decoder reads from an instruction whose bits are `w`, numbered as spec/opcode_table.json numbers them:
bit 0 is the least significant bit of the (one) word, and bits above `nbits` are zero. -/
def decodeTableWord (nbits w : Nat) : Option Instr :=
  match decodeWord (BitVec.ofNat 64 (w % 2 ^ nbits)) with
  | .ok i => some i
  | .error _ => none

end Sys2Proof
end

