-- ==== Sys2Proof/Machine/Tab.lean ====
section
/-! DEFINITION. Sparse tables: plain lists of (key, value) pairs in strictly rising key order. `Tab` holds banks of
registers, nodes, lines and the like; `Mem` is the byte memory of a storage level in its one canonical form: strictly
rising addresses and no entry equal to the byte 0 that an unlisted address reads as. Bit-slice helpers stand here too. -/

namespace Sys2Proof.Machine

/-- A table by number, sparse and sorted. -/
abbrev Tab (α : Type) := List (Nat × α)

/-- The entry of key `k`, if the table lists one. -/
def tabGet? {α : Type} (t : Tab α) (k : Nat) : Option α :=
  match t with
  | [] => none
  | (j, v) :: r => if j = k then some v else tabGet? r k

/-- The entry of key `k`, or `d`. -/
def tabGet {α : Type} (t : Tab α) (k : Nat) (d : α) : α := (tabGet? t k).getD d

/-- Write the entry of key `k`, keeping the order. -/
def tabSet {α : Type} (t : Tab α) (k : Nat) (v : α) : Tab α :=
  match t with
  | [] => [(k, v)]
  | (j, w) :: r => if j = k then (k, v) :: r else if k < j then (k, v) :: (j, w) :: r else (j, w) :: tabSet r k v

/-- Remove every entry of key `k`. -/
def tabDel {α : Type} (t : Tab α) (k : Nat) : Tab α :=
  match t with
  | [] => []
  | (j, w) :: r => if j = k then tabDel r k else (j, w) :: tabDel r k

/-- Change every entry. -/
def tabMap {α β : Type} (t : Tab α) (f : Nat → α → β) : Tab β := t.map fun x => (x.1, f x.1 x.2)

/-- The keys of a table rise strictly. -/
def tabSorted {α : Type} (t : Tab α) : Bool :=
  match t with
  | [] => true
  | [_] => true
  | (j, _) :: (k, w) :: r => decide (j < k) && tabSorted ((k, w) :: r)

/-- The bytes of one storage level (main tier, near tier, far tier, a scratchpad): Host.Cell pairs. -/
abbrev Mem := List Host.Cell

/-- What an unlisted address reads as (log 5). -/
def unlistedByte : Byte := 0

/-- Read one byte. -/
def memByte (m : Mem) (a : Nat) : Byte := tabGet m a unlistedByte

/-- Write one byte, keeping the canonical form. -/
def memSetByte (m : Mem) (a : Nat) (v : Byte) : Mem :=
  if v = unlistedByte then tabDel m a else tabSet m a v

/-- Read `n` bytes from `a` upward. -/
def memBytes (m : Mem) (a n : Nat) : List Byte := (List.range n).map fun i => memByte m (a + i)

/-- Write bytes from `a` upward. -/
def memSetBytes (m : Mem) (a : Nat) : List Byte → Mem
  | [] => m
  | b :: r => memSetBytes (memSetByte m a b) (a + 1) r

/-- The canonical form of memory: strictly rising addresses, no entry equal to the unlisted byte. -/
def Memory.wf (m : Mem) : Bool := tabSorted m && m.all fun x => decide (x.2 ≠ unlistedByte)

/-- Little-endian (R7): bytes to a number, lowest address first. -/
def leNat (b : List Byte) : Nat := b.foldr (fun x acc => acc * 256 + x.toNat) 0

/-- A number as `n` little-endian bytes. -/
def natLe (n x : Nat) : List Byte :=
  match n with
  | 0 => []
  | k + 1 => BitVec.ofNat 8 x :: natLe k (x / 256)

/-- Read `n` bytes as a little-endian number. -/
def memLe (m : Mem) (a n : Nat) : Nat := leNat (memBytes m a n)

/-- Bits `[lo + n - 1 : lo]` of a number. -/
def bits (x lo n : Nat) : Nat := x / 2 ^ lo % 2 ^ n

/-- Bit `i` of a number. -/
def bitOf (x i : Nat) : Bool := x / 2 ^ i % 2 == 1

/-- A number of `n` bits read as two's complement. -/
def signed (n x : Nat) : Int := if 2 * (x % 2 ^ n) < 2 ^ n then (x % 2 ^ n : Nat) else (x % 2 ^ n : Nat) - (2 ^ n : Nat)

/-- An integer as an `n`-bit pattern. -/
def wrapInt (n : Nat) (x : Int) : Nat := (x % (2 ^ n : Nat)).toNat

/-- A Boolean as a number. -/
def b2n (b : Bool) : Nat := if b then 1 else 0

end Sys2Proof.Machine
end

