-- ==== Sys2Proof/Machine/State.lean ====
section
/-! DEFINITION. The state of the device: everything the manual gives it, as plain data. The parts are named after the
chapters that define them; INVENTORY.md lists every field with its rule and its reset value. -/

namespace Sys2Proof.Machine

/-! ### A context bank (R64: a complete, separate copy of every register) -/

/-- A hardware loop register (R76). -/
structure LoopReg where
  ls     : Addr
  le     : Addr
  lc     : Word
  active : Bool
  deriving DecidableEq, Repr

/-- l0 to l3, ROT and PROT: what restart control (R58) and a trap's saved copies (R232) hold. -/
structure Loops where
  l0   : LoopReg
  l1   : LoopReg
  l2   : LoopReg
  l3   : LoopReg
  rot  : Word
  prot : Word
  deriving DecidableEq, Repr

/-- A generator descriptor (R333), with the nibble mode that QBIND found. -/
structure GenDesc where
  vec  : Bool
  nib  : Bool
  base : Nat
  cnt  : List Nat
  str  : List Int
  deriving DecidableEq, Repr

/-- The state of a stream register (R77). A copy stream holds what has arrived and how many elements have not. -/
inductive Stream where
  | unbound
  | waiting (vec : Bool)
  | copy (vec : Bool) (cmd : Nat) (elems : List Word) (bytes : List Byte) (left : Nat)
  | gen (d : GenDesc) (pos : Nat)
  deriving DecidableEq, Repr

/-- A ring (R78). -/
structure Ring where
  base : Nat
  ssz  : Nat
  cnt  : Nat
  head : Nat
  tail : Nat
  tags : Tab (BitVec 16)
  deriving DecidableEq, Repr

/-- A cached translation of a row line (R159): its physical address and the PTE's permissions. -/
structure Xlate where
  pa : Nat
  r  : Bool
  w  : Bool
  deriving DecidableEq, Repr

/-- A held-row handle (R159). -/
structure Handle where
  rowv : Bool
  held : Bool
  va   : Addr
  xl   : Option Xlate
  obj  : Option Nat
  deriving DecidableEq, Repr

/-- The kinds of engine command (R206). -/
inductive CmdKind where
  | mma | mmas | mrank | mrd | mzero | merge | hacc | chain | cpy
  deriving DecidableEq, Repr

/-- A queued engine command: the word's fields, the scalars it names as read at push, the bank formats in force at push
(R348), its descriptor, its number among the split commands of the phase (R216), and whether monitor code pushed it. -/
structure Cmd where
  id    : Nat
  kind  : CmdKind
  tok   : BitVec 4
  ra    : Nat
  rb    : Nat
  x     : Word
  y     : Word
  z     : Word
  z1    : Word
  imm   : BitVec 13
  ty    : BitVec 4
  rm    : BitVec 2
  sat   : Bool
  fmts  : Tab Word
  desc  : BitVec 512
  split : Option Nat
  mon   : Bool
  deriving DecidableEq, Repr

/-- The progress of the command at the head of a FIFO: the micro-step (R19 STEP), bytes, keys or pairs written, the
merge tree's fibre cursors and last output pair; `done` once only its token pushes are left (R207). -/
structure Prog where
  step   : Nat
  count  : Nat
  taken  : Nat
  fibres : List (Nat × Nat)
  last   : Option (Word × Word)
  done   : Bool
  deriving DecidableEq, Repr

/-- An engine FIFO (R206): its commands, whether the head has started, its progress, whether an engine fault has stopped
it, the unpopped count and the completions waiting for EPOP (R305). -/
structure Fifo where
  q        : List Cmd
  run      : Bool
  prog     : Prog
  stopped  : Bool
  unpopped : Nat
  comp     : List (Word × Cmd)
  deriving DecidableEq, Repr

/-- The four engine FIFOs of a thread. -/
inductive FifoId where
  | mx | de | ci | co
  deriving DecidableEq, Repr

/-- A pending engine fault (R229): its FIFO, cause, EVAL and VAH; a page fault (0x07) carries the address and CF. -/
structure EngFault where
  fifo : FifoId
  code : BitVec 8
  eval : Word
  vah  : BitVec 16
  cf   : Bool
  deriving DecidableEq, Repr

/-- The engines' state of one thread: FIFOs, token channels (R207: load to compute, compute to load, compute to store,
store to compute), ESTAT's two records (R306), faults, lease request and release marks (R209), and the count and
signatures of the split commands of the phase (R216). -/
structure Engines where
  mx     : Fifo
  de     : Fifo
  ci     : Fifo
  co     : Fifo
  lc     : Nat
  cl     : Nat
  cs     : Nat
  sc     : Nat
  mergeE : Word
  haccE  : Word
  faults : List EngFault
  wantMx : Bool
  freeMx : Bool
  phases : Nat
  split  : Nat
  sigs   : List (Nat × List Word)
  nextId : Nat
  lastCi : Bool
  deriving DecidableEq, Repr

/-- A register write that has not become visible: the bits of `mask` take the bits of `val` (R73: physical names).
`sys` is a system register's write (R81: effective from the next bundle). -/
inductive RegWrite where
  | s (n : Nat) (val mask : Word)
  | v (n : Nat) (val mask : VReg)
  | p (n : Nat) (val mask : PReg)
  | k (n : Nat) (val : DWord)
  | sys (n : Nat) (val : Word)
  deriving DecidableEq, Repr

/-- A fixed-latency write in flight (R84): visible to bundles that issue at issue cycle `due` or later, with the sticky
flags that become visible with it (R89). -/
structure Inflight where
  w   : RegWrite
  af  : BitVec 6
  due : Nat
  deriving DecidableEq, Repr

/-- An outstanding interlocked result (R85). `ready` is false while the result does not exist yet (TLAUNCH, R352). -/
structure Lock where
  id    : Nat
  ws    : List RegWrite
  af    : BitVec 6
  ready : Bool
  deriving DecidableEq, Repr

/-- A wait in which a word holds its bank (R314, R351, R299, R304, R350), and REGION's cycles (R336). A TKW has not issued: it
keeps the handle it waits on, when it began, its timeout and whether that has expired. Nor has a bundle that pops `n` elements
of stream `q` before they have arrived (R77). -/
inductive Wait where
  | none
  | idle (sd : BitVec 6) (since : Nat) (imm : Nat)
  | tkw (a : Word) (since : Nat) (imm : Nat) (expired : Bool)
  | pop (q n : Nat)
  | barw (b : Nat)
  | dsync
  | texit
  | hold (left : Nat)
  deriving DecidableEq, Repr

/-- What a bank is doing (R17, R132, R180, R27); `bound`: its node is bound and the side table is still to be read (R16 step 2). -/
inductive Phase where
  | free
  | bound
  | clearing (left : Nat)
  | ready
  | pageFault
  | cold (oti : Nat)
  | exited
  deriving DecidableEq, Repr

/-- A fault record (R133), and the slot of the word that met the fault, for a delivery as a trap (R228). -/
structure Frec where
  v     : Bool
  cause : BitVec 8
  va    : Addr
  seq   : BitVec 16
  src   : BitVec 4
  cf    : Bool
  slot  : BitVec 2
  deriving DecidableEq, Repr

/-- The registers (R65, R71, R75, R79); v and p by physical number. -/
structure Regs where
  s : Tab Word
  v : Tab VReg
  p : Tab PReg
  k : Tab DWord
  deriving DecidableEq, Repr

/-- The thread that a bank holds: node slot, rank, code entry, next bundle, ARGS, address space and queue. -/
structure Thread where
  node  : Nat
  rank  : Nat
  entry : Addr
  pc    : Addr
  args  : Addr
  satp  : DWord
  queue : Nat
  deriving DecidableEq, Repr

/-- System registers of a thread (R80). -/
structure SysRegs where
  partw  : DWord
  phase  : BitVec 16
  mask   : Word
  level  : BitVec 2
  nodeh  : Word
  rowm   : Word
  helpd  : Word
  xpol   : Word
  leaseq : Word
  paceMx : Word
  paceCp : Word
  paceDe : Word
  bfmt   : Tab Word
  deriving DecidableEq, Repr

/-- STATUS and the trap registers (R226 to R230). -/
structure TrapRegs where
  mode   : Bool
  xfer   : BitVec 9
  af     : BitVec 6
  epc    : Word
  ecause : Word
  eval   : Word
  tvec   : Word
  deriving DecidableEq, Repr

/-- Closings of one loop, named by its LS and LE, since the thread's last SLICE (R30). -/
structure LoopCount where
  ls : Addr
  le : Addr
  n  : Nat
  deriving DecidableEq, Repr

/-- Where an access lands: at a scratchpad offset, or at a physical address. -/
inductive Loc where
  | sp (off : Nat)
  | pa (a : Nat)
  deriving DecidableEq, Repr

/-- A 64-byte step of an issued LDV, LDM, STV or STM that waits for its charge (R241): its class, where it lands, whether the L1 serves
it, and its scope. A store's carries its bytes; a load's fills the bits from byte `off` of result `lock`. With the last step of a word that
acquires, the acquire is complete. -/
structure MemStep where
  cls  : Nat
  loc  : Loc
  l1   : Bool
  sc   : BitVec 2
  data : Option (List Byte)
  lock : Nat
  off  : Nat
  last : Bool
  acq  : Option (BitVec 2)
  deriving DecidableEq, Repr

/-- A load that has read before the loads and stores that precede it in program order (R146, R147): its bytes, and how many loads of the
same bytes come before the one that takes them. `row`: a load of the K format, which reads at the system cache (R155). -/
structure Early where
  pa     : Nat
  n      : Nat
  strong : Bool
  row    : Bool
  skip   : Nat
  data   : List Byte
  deriving DecidableEq, Repr

/-- A pair of an XROUTE that has still to be routed (R386): its lane, the result that it fills, and XPOL as it stood at issue. -/
structure RouteStep where
  row  : Word
  xid  : Word
  xpol : Word
  lock : Nat
  lane : Nat
  last : Bool
  deriving DecidableEq, Repr

/-- Writes in flight, counts and the wait of a bank (R84, R85, R403, R234, R30); `routes` the pairs of its XROUTEs; `lost` is the object
whose recall failed while the bank waited for it (R180), `steps` the 64-byte steps that its issued words have not performed (R241), and `early` the loads that read ahead
(R146, R147). -/
structure Pipe where
  inflight : List Inflight
  locks    : List Lock
  cyc      : Nat
  stall    : Nat
  since    : Nat
  mon      : Nat
  wait     : Wait
  closings : List LoopCount
  lost     : Option Nat
  steps    : List MemStep
  early    : List Early
  routes   : List RouteStep
  deriving DecidableEq, Repr

/-- A KIND 011 write that has reached the receiving member, which holds it but does not see it yet (R25), and its writer. -/
structure PeerWrite where
  src : Ctx
  off : Nat
  val : List Byte
  deriving DecidableEq, Repr

/-- One context bank. -/
structure Bank where
  phase   : Phase
  th      : Thread
  regs    : Regs
  loops   : Loops
  saved   : Loops
  sys     : SysRegs
  tr      : TrapRegs
  q       : Tab Stream
  n       : Tab Ring
  h       : Tab Handle
  scr     : Tab Byte
  acc     : Tab DWord
  eng     : Engines
  frec    : Frec
  pipe    : Pipe
  peerW   : List PeerWrite
  dfault  : Option Nat
  discard : Bool
  deriving DecidableEq, Repr

/-! ### A core -/

/-- The helper context (R28): its private copies, the loop that its first LOOP set up, and its closings of that loop (R30). -/
structure Helper where
  on       : Bool
  owner    : Fin 2
  pc       : Addr
  s        : Tab Word
  loops    : Loops
  p        : BitVec 16
  counted  : Option (Fin 4 × Addr × Addr)
  closings : Nat
  deriving DecidableEq, Repr

/-- An L1 line (R118). -/
structure Line where
  data  : BitVec 1024
  dirty : BitVec 128
  tag   : BitVec 2
  deriving DecidableEq, Repr

/-- An open named barrier (R298). -/
structure Barrier where
  node : Word
  mask : Word
  deriving DecidableEq, Repr

/-- A TLB entry (R130): an address space by root page number, the first virtual page and the number of 4 KiB pages it
covers, the first physical page, the leaf's permissions and D bit. -/
structure TlbEntry where
  root  : Nat
  vpn   : Nat
  pages : Nat
  ppn   : Nat
  r     : Bool
  w     : Bool
  x     : Bool
  u     : Bool
  d     : Bool
  deriving DecidableEq, Repr

/-- What one core holds beside its banks. `issued`: a bundle has issued in this cluster cycle. `woke`: when a bank last became
ready while none of the core was, and which bank was the issuing bank until then (R17). `outCp` and `outDe`: when a command last left
a FIFO for the copy engine and for the data engine (R208). -/
structure Core where
  issuing : Option (Fin 2)
  woke    : Option (Nat × Option (Fin 2))
  switch  : Nat
  issued  : Bool
  helper  : Helper
  l1      : Tab Line
  bars    : Tab Barrier
  tlb     : List TlbEntry
  freeze  : Nat
  alloc   : Option (Nat × Nat)
  outCp   : Option Nat
  outDe   : Option Nat
  deriving DecidableEq, Repr

/-! ### A cluster: the matrix lease, the merge tree, power and clocks -/

/-- A matrix lease (R209). -/
structure Lease where
  holder : Ctx
  left   : Nat
  since  : Nat
  deriving DecidableEq, Repr

/-- A request for charge (R241): requester 0 to 18 of the cluster, the bank that it works for, by number, and the weight. -/
structure ChargeReq where
  who    : Nat
  bank   : Nat
  weight : Nat
  deriving DecidableEq, Repr

/-- The charge-budget bucket (R241 to R244), with the units granted in this millisecond and in the ones before (R249), and the
microsecond of the last tick (R243). -/
structure Bucket where
  level   : Nat
  cap     : Nat
  cur     : Nat
  min     : Nat
  ramp    : Nat
  target  : Nat
  reqs    : List ChargeReq
  granted : List ChargeReq
  refused : Tab Nat
  resv    : List Nat
  last    : Nat
  anyRef  : Bool
  full    : Bool
  units   : Nat
  hist    : List Nat
  tickAt  : Nat
  deriving DecidableEq, Repr

/-- Body bias, clock, droop and sensors of a cluster (R246 to R251); `cycles` counts its clock cycles, `phase` the
reference periods since the last one. `ask`: a hop waits for the next cycle boundary (R247). `sensIn`: sensors whose SENSF bit has been
cleared and that are back in service at the next reading; `sensAt`: when the sensors were last read (R249). -/
structure Clocking where
  bb        : BitVec 4
  busy      : Bool
  biasSince : Nat
  src       : Bool
  half      : Bool
  curSrc    : Bool
  curHalf   : Bool
  ask       : Bool
  hop       : Bool
  tgtSrc    : Bool
  tgtHalf   : Bool
  hopSince  : Nat
  stretch   : Bool
  droopAt   : Nat
  retry     : Bool
  droop     : BitVec 32
  dhop      : BitVec 32
  thrCap    : Option Nat
  stage     : Nat
  sensCap   : Bool
  sensv     : SensorSet
  sensf     : BitVec 6
  sensIn    : BitVec 6
  sensAt    : Option Nat
  lastChg   : Tab Nat
  cycles    : Nat
  phase     : Nat
  deriving DecidableEq, Repr

/-- What one cluster holds. `tree`: the banks whose MERGE has reached the merge tree, in that order (R222); `outMx` and `outTree`: when a
command last left a FIFO for the array and for the tree (R208). -/
structure Cluster where
  lease   : Option Lease
  lastH   : Nat
  tree    : List Ctx
  outMx   : Option Nat
  outTree : Option Nat
  bucket : Bucket
  clsw   : Tab Nat
  clk    : Clocking
  deriving DecidableEq, Repr

/-! ### The scheduler (R40 to R63) -/

/-- A node's descriptor (R41); a created tile node carries its record's launch values (R62). -/
structure NodeDesc where
  entry : Addr
  cls   : NodeClass
  gsize : Nat
  aff   : BitVec 8
  args  : Addr
  slot  : BitVec 16
  partw : DWord
  side  : Addr
  nbind : Nat
  nops  : Nat
  pred0 : Word
  pred1 : Word
  lv    : List Word
  deriving DecidableEq, Repr

/-- The six states of a node slot (R45). -/
inductive NodeState where
  | free | waiting | ready | bound | running | done
  deriving DecidableEq, Repr

/-- A binding entry (R149). -/
structure BindEntry where
  start : Nat
  size  : Nat
  sync  : Addr
  scope : BitVec 2
  deriving DecidableEq, Repr

/-- A restart slot and restart control (R32, R58). -/
structure Restart where
  words : List Word
  rpc   : Addr
  mask  : DWord
  loops : Loops
  deriving DecidableEq, Repr

/-- A pin-set entry (R178); `logged` says that the pin log of R32 holds it. -/
structure PinEntry where
  oti       : Nat
  releasing : Bool
  logged    : Bool
  deriving DecidableEq, Repr

/-- A slot-log record (R387): tag-store index, queue (0 home, 1 to 4 replicas 0 to 3), claim slot. -/
structure SlotRec where
  tix  : Nat
  qix  : Nat
  slot : Nat
  deriving DecidableEq, Repr

/-- What a gang member keeps in scheduler SRAM: restart, REGION's mask register field, pin set, slot log. -/
structure MemberRec where
  restart : Option Restart
  maskSa  : Nat
  mask    : BitVec 16
  pins    : List PinEntry
  slots   : List SlotRec
  deriving DecidableEq, Repr

/-- A node slot (R42 to R47). `phase` keeps PHASE over a discard (R37), `xp` the TAG and OP1 of a residency record. -/
structure Node where
  gen     : BitVec 16
  st      : NodeState
  failed  : Bool
  pend    : Bool
  desc    : NodeDesc
  queue   : Nat
  cnt     : Nat
  succ    : List Word
  ovf     : List (Nat × List Word)
  dyn     : Bool
  since   : Nat
  aged    : Nat
  floor   : Nat
  bprio   : Nat
  bseq    : Nat
  members : List Ctx
  exited  : List Nat
  binds   : List BindEntry
  dsync   : Word
  phase   : BitVec 16
  mrec    : Tab MemberRec
  rowm    : Word
  xp      : Option (Word × Word)
  batch   : Option (Nat × Nat × Nat)
  deriving DecidableEq, Repr

/-- A submission queue (R54, R55). -/
structure Queue where
  en    : Bool
  stop  : Bool
  ecode : BitVec 8
  prio  : BitVec 3
  size  : BitVec 16
  base  : BitVec 16
  qerr  : Word
  qskip : Word
  qsub  : Word
  qdone : Word
  qdrop : Word
  rlist : List Nat
  deriving DecidableEq, Repr

/-- A selection between its cycle and binding (R49, R50). -/
structure Selection where
  node  : Nat
  at_   : Nat
  banks : List Ctx
  prio  : Nat
  deriving DecidableEq, Repr

/-- A staging buffer of an application-core hart (R40): the slot it gathers and the pieces so far. -/
structure Staging where
  q      : Nat
  slot   : Nat
  pieces : Tab (BitVec 64)
  deriving DecidableEq, Repr

/-- A consumption of tile records (R60, R352): a TLAUNCH's (`who`, join, the lock it will fill) or a batch's. -/
structure Launch where
  who     : Option Ctx
  node    : Nat
  queue   : Nat
  join    : Word
  lock    : Nat
  pages   : List Nat
  addr    : Nat
  count   : Nat
  recs    : List (BitVec 256)
  batch   : Option (Nat × Nat × Nat)
  i       : Nat
  j       : Nat
  prev    : Word
  created : Nat
  deriving DecidableEq, Repr

/-- The scheduler block. -/
structure Sched where
  nodes   : Tab Node
  queues  : Tab Queue
  tbase   : Addr
  tcnt    : Nat
  ovfa    : Addr
  ovfn    : Nat
  ovfUsed : List Nat
  age     : Word
  preempt : Word
  dynres  : Word
  pool    : List Nat
  sel     : List Selection
  resv    : Option (Nat × List Nat)
  first   : Tab (Nat × Nat)
  staging : Tab Staging
  launch  : List Launch
  resid   : List Launch
  bindSeq : Nat
  stalled : List Nat
  deriving DecidableEq, Repr

/-! ### The memory block (R117 to R140) -/

/-- A migration request that is pending or recent (R136): the form asked for, and the form that its page is to reach. -/
structure MigReq where
  frame : Nat
  form  : BitVec 2
  dest  : BitVec 2
  side  : Bool
  at_   : Nat
  pend  : Bool
  deriving DecidableEq, Repr

/-- A row of the bounce table (R136): a frame, its bounces, when the first fell. -/
structure Bounce where
  frame : Nat
  n     : Nat
  first : Nat
  deriving DecidableEq, Repr

/-- A command register with GO, BUSY, DONE, ERR and ECODE (EXPCTL, SWPCTL, KEYCTL, ATTCTL, RSCTL). -/
structure Ctl where
  busy  : Bool
  done  : Bool
  err   : Bool
  ecode : BitVec 4
  deriving DecidableEq, Repr

/-- What an exchange works on from its GO until its DONE is cleared (R134): bases, PTE addresses, SIZE and PTE. -/
structure SwapOp where
  a   : Addr
  b   : Addr
  pa  : Addr
  pb  : Addr
  sz  : BitVec 2
  pte : Bool
  deriving DecidableEq, Repr

/-- What synchronises with a reader of an aligned 8-byte word (R148): the cores of the RELs whose value it holds, through atomics also,
those of every REL of the word, which an atomic that follows hands on, and whether a strong store or atomic of another kind has written it
since. -/
structure SyncWord where
  rels : List (Fin 32)
  past : List (Fin 32)
  full : Bool
  deriving DecidableEq, Repr

/-- Storage levels and the memory block's registers. `expRun` and `swpRun` are what the running commands work on. `bad` lists the places
(structure of R140, key) where an uncorrectable error waits to be found (R139): structure 0 a pool word (bank number x 2^24 + the word of
`poolWord`), 1 an L1 line (core x 2^48 + line), 2 an 8-byte word of the near tier, 3 a frame's bytes in the system cache, 4 a main-tier
frame. `held` holds the bytes whose write waits for a frame that migrates (R134), oldest first; `sync` what a reader of a word
synchronises with (R148), by 8-byte word. -/
structure MemBlk where
  main    : Mem
  near    : Mem
  far     : Tab Mem
  rmap    : Tab (BitVec 128)
  famBase : Addr
  famFirst : Nat
  famCount : Nat
  fam     : Tab Byte
  famHeld : List (BitVec 64)
  expsrc  : Addr
  expdst  : Addr
  expctl  : Ctl
  expRun  : Addr × Addr
  expWait : Bool
  swpa    : Addr
  swpb    : Addr
  swppa   : Addr
  swppb   : Addr
  swpctl  : Ctl
  swpsz   : BitVec 2
  swppte  : Bool
  swpRun  : SwapOp
  mreqs   : List MigReq
  bounce  : List Bounce
  mrsp    : BitVec 2
  cfaddr  : Option Addr
  cflost  : DWord
  qatp    : Tab DWord
  eccce  : Tab DWord
  eccue   : Tab DWord
  bad     : List (Nat × Nat)
  held    : List (Nat × Byte)
  sync    : Tab SyncWord
  deriving DecidableEq, Repr

/-! ### Held rows and the managed heap (R159 to R182) -/

/-- A row held open by the row hold unit (R160): who holds it and since when, in reference periods and (`at_`) in cycles of the holder's
cluster (R240); `closed` while the controller has it closed
for refresh or its open-time limit (R163). -/
structure Hold where
  rb     : RowBank
  row    : Nat
  ctx    : Ctx
  hs     : List Nat
  since  : Nat
  at_    : Nat
  closed : Bool
  deriving DecidableEq, Repr

/-- The states of an object-table entry (R170). -/
inductive ObjState where
  | free | live | reloc | evict | cold | recall | dead | poison
  deriving DecidableEq, Repr

/-- An object-table entry (R170). -/
structure Obj where
  pins : Nat
  last : BitVec 16
  st   : ObjState
  gen  : BitVec 12
  addr : Nat
  deriving DecidableEq, Repr

/-- A forwarding-table entry (R170). -/
structure Fwd where
  cyc : Nat
  new : Nat
  old : Nat
  deriving DecidableEq, Repr

/-- What a heap granule is used for: nothing, an allocation region, objects, or emptied in a cycle and not retired. -/
inductive Gran where
  | free
  | region (core : Nat)
  | used
  | emptied (cycle : Nat)
  deriving DecidableEq, Repr

/-- A relocation or recall copy in progress: the object, its old and new headers, the bytes copied. -/
structure Reloc where
  oti  : Nat
  old  : Nat
  new  : Nat
  deriving DecidableEq, Repr

/-- The compaction engine (R175). -/
structure Spatula where
  want    : Bool
  busy    : Bool
  todo    : List Nat
  cur     : Option Reloc
  dest    : Option (Nat × Nat)
  chosen  : List Nat
  deriving DecidableEq, Repr

/-- The heap block. -/
structure Heap where
  base     : Addr
  size     : BitVec 16
  va       : Addr
  en       : Bool
  ce       : Bool
  goodc    : BitVec 2
  cycle    : BitVec 8
  freelow  : Word
  livepct  : BitVec 7
  coldage  : BitVec 16
  coldmin  : BitVec 16
  colddrv  : BitVec 3
  coldns   : Word
  coldlba  : DWord
  coldlen  : DWord
  coldNext : Nat
  holdmax  : BitVec 7
  holdq    : BitVec 16
  hbExp    : BitVec 16
  hbQ      : BitVec 16
  hbPwr    : BitVec 16
  hbSwp    : BitVec 16
  hbBusy   : Word
  hbLimit  : Word
  reloc    : Word
  spwait   : Word
  evictN   : BitVec 16
  recallN  : BitVec 16
  rcwait   : BitVec 16
  evfull   : BitVec 16
  knewfail : Word
  otbase   : Addr
  ftbase   : Addr
  ot       : Tab Obj
  fwd      : List Fwd
  from_    : List Nat
  gran     : Tab Gran
  spat     : Spatula
  recalls  : List Nat
  evict    : Option Nat
  coldAt   : Tab (Nat × Nat)
  recallTo : Tab (Option Nat)
  holds    : List Hold
  deriving DecidableEq, Repr

/-! ### The residency unit and the fetch engine (R183 to R205) -/

/-- A copy descriptor (R185). -/
structure CopyDesc where
  tab   : Addr
  nch   : Nat
  fmt   : BitVec 15
  scoff : Nat
  deriving DecidableEq, Repr

/-- The states of a near copy (R187, R188). -/
inductive CopySt where
  | absent | filling | resident | none
  deriving DecidableEq, Repr

/-- A near copy: its state, its near frames in chunk order, last use, frequency. -/
structure NearCopy where
  st     : CopySt
  frames : List Nat
  last   : Nat
  freq   : Nat
  deriving DecidableEq, Repr

/-- A closed batch (R194): id, mode, its ring positions in order, whether its records are held back, its unfinished nodes and
whether all its records have been consumed, whether XCLOSE.final closed it, and the frames of its copy that it keeps since an
uncorrectable error struck them (R139, R188). -/
structure Batch where
  id    : Nat
  mode  : Nat
  pos   : List Nat
  held  : Bool
  left  : Nat
  allIn : Bool
  final : Bool
  kept  : List Nat
  deriving DecidableEq, Repr

/-- A claim slot in use (R192). -/
structure Claim where
  row       : Word
  committed : Bool
  seq       : Nat
  deriving DecidableEq, Repr

/-- An expert's home queue or a replica queue (R192); `kept`: frames that its open batch keeps since an uncorrectable error struck its
copy (R139, R188). -/
structure XQueue where
  dev     : BitVec 2
  clu     : BitVec 3
  ctr     : Word
  slots   : Tab Claim
  bmode   : Nat
  kept    : List Nat
  ringPos : Nat
  ringUse : Nat
  batches : List Batch
  deriving DecidableEq, Repr

/-- A tag-store entry (R185, R187). `nm` holds the frames that its install has marked NM (R184). -/
structure Tag where
  xid    : Word
  ca     : CopyDesc
  cb     : CopyDesc
  cm     : CopyDesc
  cf     : CopyDesc
  rpb    : Addr
  subst  : Option Word
  bthr   : Nat
  nel    : Nat
  pins   : Nat
  psn    : Bool
  fin    : Bool
  pred   : Bool
  a      : NearCopy
  b      : NearCopy
  home   : XQueue
  reps   : List XQueue
  routed : Word
  nm     : List Nat
  deriving DecidableEq, Repr

/-- A model slot (R184, R205); `inst` while an install waits for MIG to clear. -/
structure Slot where
  dir    : Addr
  lay    : Addr
  layN   : Nat
  drive  : BitVec 3
  ns     : Word
  ver    : Word
  v      : Bool
  err    : Bool
  ecode  : BitVec 4
  ndesc  : BitVec 16
  key    : Option (BitVec 256)
  inst   : Bool
  deriving DecidableEq, Repr

/-- What the Steamer is asked for (R197): a fill of copy B (or A), a stream chunk, a recall or an eviction. -/
inductive FillWhat where
  | fill (tix : Nat) (copyB : Bool)
  | stream (tix : Nat)
  | recall (oti : Nat)
  | evict (oti : Nat)
  | dist (tix : Nat) (far : Bool)
  deriving DecidableEq, Repr

/-- A Steamer request (R197) of class 1 to 6. `cl` is the cluster that its writes are charged to, `paid` counts the 64-byte writes of the
chunk in flight that charge has been granted for (R241), `img` holds the plain bytes of a fill's chunks so far (R197), of a
distribution's chunk its ciphertext (R259), and `askers` the CPYs that asked for a stream chunk, as in `StreamFrame.readers`. -/
structure FillReq where
  cls    : Nat
  what   : FillWhat
  chunk  : Nat
  seq    : Nat
  cl     : Nat
  paid   : Nat
  img    : List Byte
  askers : List (Ctx × Nat × Bool)
  deriving DecidableEq, Repr

/-- A stream frame in use (R196): which expert and chunk it holds, once decoded; `bad` if the chunk failed. `readers`: the CPYs that have
read it and not passed it, by bank and command, with whether they read a scale there. -/
structure StreamFrame where
  frame : Nat
  tix   : Nat
  chunk : Nat
  bad   : Bool
  readers : List (Ctx × Nat × Bool)
  deriving DecidableEq, Repr

/-- The residency block. `dist` holds the decoded chunks of a distribution in progress, by TIX x 2^16 + chunk (R259); `emits` names closed
batches whose records wait for a table that migrates (R134). -/
structure Resid where
  slots   : Tab Slot
  tags    : Tab Tag
  xpoldef : Word
  xrepPol : BitVec 2
  xrepDec : BitVec 16
  streamf : BitVec 12
  warmEn  : Bool
  warmN   : BitVec 12
  wconv   : Word
  drop    : Word
  pfIss   : BitVec 16
  pfHit   : BitVec 16
  pfWrong : BitVec 16
  pfDrop  : BitVec 16
  xpsnTix : BitVec 15
  xpsnN   : BitVec 16
  finals  : List (Nat × Nat)
  reqs    : List FillReq
  seq     : Nat
  retry   : List (Nat × Bool)
  streams : List StreamFrame
  decayAt : Nat
  claims  : List Nat
  dist    : Tab (List Byte)
  emits   : List (Nat × Nat × Nat)
  deriving DecidableEq, Repr

/-! ### Platform (R252 to R269) -/

/-- The power states of the device (R260, R262, R264, R267). -/
inductive Power where
  | off | booting | on | asleep | waking | dead
  deriving DecidableEq, Repr

/-- A message that leaves the device over the Birith link (R257), towards another device; `own` is the bank and command that is still
filling the word of a packed row (R114). -/
inductive LinkMsg where
  | copy (dev : Nat) (pa : Nat) (red : BitVec 2) (fmt : BitVec 8) (own : Option (Nat × Nat)) (wire : Wire)
  | claim (dev : Nat) (xid : Word) (row : Word)
  | chunk (dev : Nat) (xid : Word) (far : Bool) (idx : Nat) (data : List Byte)
  deriving DecidableEq, Repr

/-- An MSI that has gone out (R253): its event, and the identity and target hart of EVTRT (R254). -/
structure Msi where
  event : Nat
  ident : BitVec 12
  hart  : BitVec 12
  deriving DecidableEq, Repr

/-- The platform block and the always-on domain; the firmware image in device-private memory with its digest, and when the device
went to sleep (R262). `aonUp`: the always-on domain has power (R404); `joined`: the devices that have joined over the Birith link (R257);
`wakeHeld`: a wake request that arrived during sleep entry (R260). `keyRun`, `attRun` and `rsRun`: what a key load, an attestation and a
re-sync were started on. -/
structure Platform where
  evtst   : BitVec 13
  evten   : BitVec 13
  evtrt   : Tab Word
  msi     : List Msi
  slp     : Ctl
  wakesrc : BitVec 4
  keySlot : BitVec 3
  key     : Ctl
  keyaddr : Addr
  att     : Ctl
  attaddr : Addr
  rs      : Ctl
  rsaddr  : Addr
  rsSeq   : Word
  rsSaved : List Byte
  lnkid   : BitVec 12
  links   : Tab Nat
  wdPer   : Nat
  wdRun   : Bool
  wdLast  : Nat
  crkHead : BitVec 12
  crkN    : BitVec 16
  crkSeq  : BitVec 16
  crock   : Tab (BitVec 256)
  sigv    : Tab DWord
  flash   : List (BitVec 256)
  mgmt    : List Byte
  power   : Power
  bootOk  : BitVec 8
  meas    : List (BitVec 256)
  ctlBase : Addr
  out     : List LinkMsg
  fwBase  : Addr
  fwLen   : Nat
  fwDig   : List Byte
  sleptAt : Nat
  aonUp   : Bool
  joined  : BitVec 4
  wakeHeld : Option (BitVec 4)
  keyRun  : BitVec 3 × Addr
  attRun  : Addr
  rsRun   : Addr
  deriving DecidableEq, Repr

/-- An open handshake of a clock-domain crossing between two clusters; `slow` once a droop stretches both until it completes (R248). -/
structure Crossing where
  a    : Fin 8
  b    : Fin 8
  slow : Bool
  deriving DecidableEq, Repr

/-- Power-block registers that are not per cluster (R251), and the open clock-domain crossings (R248). -/
structure PowerBlk where
  pacedef : BitVec 48
  ttrip   : BitVec 16
  hystT   : BitVec 16
  tcrit   : BitVec 16
  ilim    : BitVec 16
  hystI   : BitVec 16
  disagT  : BitVec 16
  disagI  : BitVec 16
  marginT : BitVec 16
  marginI : BitVec 16
  cross   : List Crossing
  deriving DecidableEq, Repr

/-! ### The step's own bookkeeping -/

/-- What became of the word that ran last: it took effect; its bundle waits and has not issued; or it took the bundle
elsewhere (a trap, a fault, a return, an exit), so that the bundle's ordinary end does not apply. -/
inductive Verdict where
  | done | stalled | diverted
  deriving DecidableEq, Repr

/-- The word being run: its bank, its bundle's address, the address of the bundle that follows, the target of a taken
branch, the verdict, and the cause that was raised, if any. Results whose number is `fresh` or more were started by words of this
bundle, and hold none of them up. -/
structure Iss where
  ctx     : Ctx
  pc      : Addr
  fall    : Addr
  target  : Option Addr
  slot    : Nat
  verdict : Verdict
  cause   : Option (BitVec 8)
  fresh   : Option Nat
  deriving DecidableEq, Repr

/-- A move of the device (log 1): an issue attempt of a core, an event row, or the passage of reference time; the end of sleep entry
(R260); and what the event rows do not name but the manual describes: an NVMe write of the host to a drive (R12), a Birith message that a
neighbour hands on (R257), the opening and completion of a clock-domain-crossing handshake between two clusters (R248), an uncorrectable
error that strikes a place of `MemBlk.bad` (R139), a load of a thread that reads before its turn in program order (R146, R147), and the
next pair of a thread's XROUTE (R386). -/
inductive Move where
  | issue (core : Fin 32)
  | event (i : Instr)
  | elapse (periods : Nat)
  | sleepDone
  | hostNvme (drive : BitVec 3) (ns : Word) (block : Nat) (data : List Byte)
  | transit (m : LinkMsg)
  | crossingOpen (a b : Fin 8)
  | crossingDone (a b : Fin 8)
  | strike (strc : Fin 5) (key : Nat)
  | loadEarly (c : Ctx) (va n : Nat) (strong : Bool) (skip : Nat)
  | rowEarly (c : Ctx) (pa n : Nat) (strong : Bool) (skip : Nat)
  | routePair (c : Ctx)
  deriving DecidableEq, Repr

/-- The whole device. `time` counts reference periods (R240), `aon` the always-on domain's nanoseconds (R404), `freeCtr`
feeds the free values (the model's own), `agenda` says which agents move next. -/
structure State where
  banks    : Tab Bank
  cores    : Tab Core
  clusters : Tab Cluster
  sched    : Sched
  mem      : MemBlk
  heap     : Heap
  res      : Resid
  plat     : Platform
  pwr      : PowerBlk
  time     : Nat
  aon      : Nat
  iss      : Iss
  agenda   : List Move
  freeCtr  : Nat
  deriving DecidableEq, Repr

/-- Why the machine stops. -/
inductive Fault where
  /-- Raised by `step` when the NPU domain has no power (never booted, HALT, a fatal error, sleep or loss of supply) and
  a core is asked to issue: the manual gives no instruction any effect then. Safe. -/
  | noPower
  deriving DecidableEq, Repr

/-- Why an instruction is given no meaning. -/
inductive Refusal where
  /-- Raised by an arm of `exec` whose instruction has no meaning yet. Safe. -/
  | notModelled (mnemonic : String)
  deriving DecidableEq, Repr

/-! ### Reset -/

def LoopReg.reset : LoopReg := { ls := 0, le := 0, lc := 0, active := false }
def Loops.reset : Loops := { l0 := .reset, l1 := .reset, l2 := .reset, l3 := .reset, rot := 0, prot := 0 }
def Ring.reset : Ring := { base := 0, ssz := 0, cnt := 0, head := 0, tail := 0, tags := [] }
def Handle.reset : Handle := { rowv := false, held := false, va := 0, xl := none, obj := none }
def Prog.reset : Prog := { step := 0, count := 0, taken := 0, fibres := [], last := none, done := false }
def Fifo.reset : Fifo :=
  { q := [], run := false, prog := .reset, stopped := false, unpopped := 0, comp := [] }
def Engines.reset : Engines :=
  { mx := .reset, de := .reset, ci := .reset, co := .reset, lc := 0, cl := 0, cs := 0, sc := 0, mergeE := 0, haccE := 0,
    faults := [], wantMx := false, freeMx := false, phases := 0, split := 0, sigs := [], nextId := 0, lastCi := false }
def Frec.reset : Frec := { v := false, cause := 0, va := 0, seq := 0, src := 0, cf := false, slot := 0 }
def Regs.reset : Regs := { s := [], v := [], p := [], k := [] }
def Thread.reset : Thread := { node := 0, rank := 0, entry := 0, pc := 0, args := 0, satp := 0, queue := 0 }
/-- HELPD and LEASEQ have reset values (R31, R210); the rest is set at dispatch. -/
def SysRegs.reset : SysRegs :=
  { partw := 0, phase := 0, mask := 0, level := 0, nodeh := 0, rowm := 0, helpd := 0x10, xpol := 0, leaseq := 64,
    paceMx := 0, paceCp := 0, paceDe := 0, bfmt := [] }
def TrapRegs.reset : TrapRegs := { mode := false, xfer := 0, af := 0, epc := 0, ecause := 0, eval := 0, tvec := 0 }
def Pipe.reset : Pipe :=
  { inflight := [], locks := [], cyc := 0, stall := 0, since := 0, mon := 0, wait := .none, closings := [], lost := none, steps := [],
    early := [], routes := [] }
def Bank.reset : Bank :=
  { phase := .free, th := .reset, regs := .reset, loops := .reset, saved := .reset, sys := .reset, tr := .reset, q := [],
    n := [], h := [], scr := [], acc := [], eng := .reset, frec := .reset, pipe := .reset, peerW := [], dfault := none,
    discard := false }
def Helper.reset : Helper :=
  { on := false, owner := 0, pc := 0, s := [], loops := .reset, p := 0, counted := none, closings := 0 }
def Core.reset : Core :=
  { issuing := none, woke := none, switch := 0, issued := false, helper := .reset, l1 := [], bars := [], tlb := [], freeze := 0, alloc := none,
    outCp := none, outDe := none }
/-- BUCK and REFILL at the values of R251; CUR starts at MIN (log 4). -/
def Bucket.reset : Bucket :=
  { level := 32768, cap := 32768, cur := 512, min := 512, ramp := 256, target := 4096, reqs := [], granted := [],
    refused := [], resv := [], last := 18, anyRef := false, full := true, units := 0, hist := [], tickAt := 0 }
def sensorSetZero : SensorSet := { t0 := 0, t1 := 0, t2 := 0, t3 := 0, i0 := 0, i1 := 0 }
def Clocking.reset : Clocking :=
  { bb := 0, busy := false, biasSince := 0, src := false, half := false, curSrc := false, curHalf := false, ask := false, hop := false,
    tgtSrc := false, tgtHalf := false, hopSince := 0, stretch := false, droopAt := 0, retry := false, droop := 0, dhop := 0, thrCap := none, stage := 0,
    sensCap := false, sensv := sensorSetZero, sensf := 0, sensIn := 0x3F, sensAt := none, lastChg := [], cycles := 0, phase := 0 }
def Cluster.reset : Cluster :=
  { lease := none, lastH := 7, tree := [], outMx := none, outTree := none, bucket := .reset, clsw := [], clk := .reset }
def NodeDesc.reset : NodeDesc :=
  { entry := 0, cls := .single, gsize := 0, aff := 0, args := 0, slot := 0, partw := 0, side := 0, nbind := 0, nops := 0,
    pred0 := 0, pred1 := 0, lv := [] }
/-- Every slot keeps a generation, which is 1 after reset (R42); NSTAT reads 0x0001_0000 (R54). -/
def Node.reset : Node :=
  { gen := 1, st := .free, failed := false, pend := false, desc := .reset, queue := 0, cnt := 0, succ := [], ovf := [],
    dyn := false, since := 0, aged := 0, floor := 0, bprio := 0, bseq := 0, members := [], exited := [], binds := [],
    dsync := 0, phase := 0, mrec := [], rowm := 0, xp := none, batch := none }
def Queue.reset : Queue :=
  { en := false, stop := false, ecode := 0, prio := 0, size := 0, base := 0, qerr := 0, qskip := 0, qsub := 0, qdone := 0,
    qdrop := 0, rlist := [] }
/-- AGE, PREEMPT and DYNRES at the values of R54. -/
def Sched.reset : Sched :=
  { nodes := [], queues := [], tbase := 0, tcnt := 0, ovfa := 0, ovfn := 0, ovfUsed := [], age := 0x400000,
    preempt := 0x10000, dynres := 2048, pool := [], sel := [], resv := none, first := [], staging := [], launch := [],
    resid := [], bindSeq := 0, stalled := [] }
def Ctl.reset : Ctl := { busy := false, done := false, err := false, ecode := 0 }
def MemBlk.reset : MemBlk :=
  { main := [], near := [], far := [], rmap := [], famBase := 0, famFirst := 0, famCount := 0, fam := [], famHeld := [],
    expsrc := 0, expdst := 0, expctl := .reset, expRun := (0, 0), expWait := false,
    swpa := 0, swpb := 0, swppa := 0, swppb := 0, swpctl := .reset, swpsz := 0,
    swppte := false, swpRun := { a := 0, b := 0, pa := 0, pb := 0, sz := 0, pte := false }, mreqs := [], bounce := [], mrsp := 0,
    cfaddr := none, cflost := 0, qatp := [], eccce := [], eccue := [], bad := [], held := [], sync := [] }
/-- An object-table entry at reset: FREE, generation 1 (R170). -/
def Obj.reset : Obj := { pins := 0, last := 0, st := .free, gen := 1, addr := 0 }
def Spatula.reset : Spatula :=
  { want := false, busy := false, todo := [], cur := none, dest := none, chosen := [] }
/-- The heap block at the values of R182. -/
def Heap.reset : Heap :=
  { base := 0, size := 0, va := 0, en := false, ce := false, goodc := 1, cycle := 0, freelow := 16, livepct := 50,
    coldage := 60000, coldmin := 64, colddrv := 0, coldns := 0, coldlba := 0, coldlen := 0, coldNext := 0, holdmax := 16,
    holdq := 2048, hbExp := 0, hbQ := 0, hbPwr := 0, hbSwp := 0, hbBusy := 0, hbLimit := 0, reloc := 0, spwait := 0,
    evictN := 0, recallN := 0, rcwait := 0, evfull := 0, knewfail := 0, otbase := 0, ftbase := 0, ot := [], fwd := [],
    from_ := [], gran := [], spat := .reset, recalls := [], evict := none, coldAt := [], recallTo := [], holds := [] }
def Slot.reset : Slot :=
  { dir := 0, lay := 0, layN := 0, drive := 0, ns := 0, ver := 0, v := false, err := false, ecode := 0, ndesc := 0,
    key := none, inst := false }
/-- XPOLDEF 1 and STREAMF 64 (R205). -/
def Resid.reset : Resid :=
  { slots := [], tags := [], xpoldef := 1, xrepPol := 0, xrepDec := 0, streamf := 64, warmEn := false, warmN := 0,
    wconv := 0, drop := 0, pfIss := 0, pfHit := 0, pfWrong := 0, pfDrop := 0, xpsnTix := 0, xpsnN := 0, finals := [],
    reqs := [], seq := 0, retry := [], streams := [], decayAt := 0, claims := [], dist := [], emits := [] }
/-- A device without Birith peers reads device 0, no port up and mask 0b0001 in LNKID (R254). -/
def Platform.reset : Platform :=
  { evtst := 0, evten := 0, evtrt := [], msi := [], slp := .reset, wakesrc := 0, keySlot := 0, key := .reset, keyaddr := 0,
    att := .reset, attaddr := 0, rs := .reset, rsaddr := 0, rsSeq := 0, rsSaved := [], lnkid := 0x100, links := [], wdPer := 0,
    wdRun := false, wdLast := 0, crkHead := 0, crkN := 0, crkSeq := 0, crock := [], sigv := [], flash := [], mgmt := [],
    power := .booting, bootOk := 0, meas := [0, 0, 0, 0], ctlBase := 0, out := [], fwBase := 0, fwLen := 0, fwDig := [], sleptAt := 0,
    aonUp := true, joined := 1, wakeHeld := none, keyRun := (0, 0), attRun := 0,
    rsRun := 0 }
/-- TTRIP 100 °C, HYST 5 °C, TCRIT 115 °C in eighths; ILIM 72 A, HYST 4 A in sixteenths; DISAG 10 °C and 8 A; MARGIN 5 °C
and 4 A (R251). -/
def PowerBlk.reset : PowerBlk :=
  { pacedef := 0, ttrip := 800, hystT := 40, tcrit := 920, ilim := 1152, hystI := 64, disagT := 80, disagI := 128,
    marginT := 40, marginI := 64, cross := [] }
def Iss.reset : Iss :=
  { ctx := { core := 0, bank := 0 }, pc := 0, fall := 8, target := none, slot := 0, verdict := .done, cause := none, fresh := none }

/-- The device right after reset: no thread, no node, no program; the boot of R267 is the next thing to happen. -/
def State.reset : State :=
  { banks := [], cores := [], clusters := [], sched := .reset, mem := .reset, heap := .reset, res := .reset, plat := .reset,
    pwr := .reset, time := 0, aon := 0, iss := .reset, agenda := [], freeCtr := 0 }

end Sys2Proof.Machine
end

