-- ==== Sys2Proof/Machine/Num.lean ====
section
/-! DEFINITION. Exact numbers and the rounding helpers of chapter 05: a number is NaN, an infinity, or a signed dyadic
value m x 2^e; `round` is Round of R102, `encode8` is Encode8 of R103, `stepAdd` is StepAdd of R110. Flag sets are the six
bits of STATUS.AF (R89). -/

namespace Sys2Proof.Machine

/-- The bits of STATUS.AF (R89). -/
def afNV : BitVec 6 := 1
def afDZ : BitVec 6 := 2
def afOF : BitVec 6 := 4
def afUF : BitVec 6 := 8
def afNX : BitVec 6 := 16
def afSA : BitVec 6 := 32

/-- An exact value or special: (-1)^neg x m x 2^e; m = 0 is a zero with its sign. -/
inductive Num where
  | nan
  | inf (neg : Bool)
  | fin (neg : Bool) (m : Nat) (e : Int)
  deriving DecidableEq, Repr

/-- The rounding modes of R88. -/
inductive Rm where
  | rne | rtz | rdn | rup
  deriving DecidableEq, Repr

def rmOf (c : BitVec 2) : Rm :=
  match c.toNat with
  | 0 => .rne
  | 1 => .rtz
  | 2 => .rdn
  | _ => .rup

/-- A target format of R102: precision, smallest normal exponent, and the largest finite value maxM x 2^maxE. -/
structure Fmt where
  p    : Nat
  emin : Int
  maxM : Nat
  maxE : Int
  deriving DecidableEq, Repr

def fmtF32 : Fmt := { p := 24, emin := -126, maxM := 2 ^ 24 - 1, maxE := 104 }
def fmtB16 : Fmt := { p := 8, emin := -126, maxM := 2 ^ 8 - 1, maxE := 120 }
def fmtA56 : Fmt := { p := 46, emin := -510, maxM := 2 ^ 46 - 1, maxE := 466 }

/-- 2^x for an integer exponent that is not negative (0 otherwise; the callers shift only upward). -/
def pow2 (x : Int) : Nat := 2 ^ x.toNat

/-- m x 2^e against n x 2^f: is the first greater? -/
def magGt (m : Nat) (e : Int) (n : Nat) (f : Int) : Bool :=
  if e ≤ f then decide (n * pow2 (f - e) < m) else decide (n < m * pow2 (e - f))

/-- Round the magnitude m x 2^e to a multiple k of 2^q under a mode; the answer is k and whether it is inexact. Even means an even k: in
binary8p1, whose significands are all 1, a tie between two normal values goes to the larger (DESIGN CHOICE, log 22: R102 says no more). -/
def roundTo (rm : Rm) (neg : Bool) (m : Nat) (e q : Int) : Nat × Bool :=
  if q ≤ e then (m * pow2 (e - q), false)
  else
    let d := pow2 (q - e)
    let k := m / d
    let r := m % d
    let up := match rm with
      | .rne => decide (d < 2 * r) || (2 * r == d && k % 2 == 1)
      | .rtz => false
      | .rdn => neg && r != 0
      | .rup => !neg && r != 0
    (if up then k + 1 else k, r != 0)

/-- Round(x, F, mode) (R102) with the flags it sets (R89). -/
def round (f : Fmt) (rm : Rm) (x : Num) : Num × BitVec 6 :=
  match x with
  | .nan => (.nan, 0)
  | .inf n => (.inf n, 0)
  | .fin n m e =>
    if m = 0 then (.fin n 0 0, 0)
    else
      let top := (Nat.log2 m : Int) + e
      let q := max (top - (f.p : Int) + 1) (f.emin - (f.p : Int) + 1)
      let (k, inex) := roundTo rm n m e q
      if magGt k q f.maxM f.maxE then
        let toInf := match rm with
          | .rne => true
          | .rtz => false
          | .rdn => n
          | .rup => !n
        (if toInf then .inf n else .fin n f.maxM f.maxE, afOF ||| afNX)
      else
        let tiny := magGt 1 f.emin k q
        (.fin n k q, if inex then (if tiny then afNX ||| afUF else afNX) else 0)

/-- An IEEE-style pattern with `eb` exponent bits and precision `p` (fp32, bf16, A56) decoded (R94, R100). -/
def decodeIeee (p eb : Nat) (x : Nat) : Num :=
  let fr := x % 2 ^ (p - 1)
  let ex := bits x (p - 1) eb
  let n := bitOf x (p - 1 + eb)
  let emin : Int := 2 - (2 ^ (eb - 1) : Nat)
  if ex = 2 ^ eb - 1 then (if fr = 0 then .inf n else .nan)
  else if ex = 0 then .fin n fr (emin - (p : Int) + 1)
  else .fin n (fr + 2 ^ (p - 1)) ((ex : Int) - 1 + emin - (p : Int) + 1)

/-- The pattern of a value that the format holds exactly; NaN is canonical (R95). -/
def encodeIeee (p eb : Nat) (x : Num) : Nat :=
  let top := 2 ^ eb - 1
  let emin : Int := 2 - (2 ^ (eb - 1) : Nat)
  let sgn (n : Bool) : Nat := if n then 2 ^ (p - 1 + eb) else 0
  match x with
  | .nan => top * 2 ^ (p - 1) + 2 ^ (p - 2)
  | .inf n => sgn n + top * 2 ^ (p - 1)
  | .fin n m e =>
    if m = 0 then sgn n
    else
      let hi := (Nat.log2 m : Int) + e
      let q := max (hi - (p : Int) + 1) (emin - (p : Int) + 1)
      let k := if q ≤ e then m * pow2 (e - q) else m / pow2 (q - e)
      if hi < emin then sgn n + k
      else sgn n + (hi - emin + 1).toNat * 2 ^ (p - 1) + (k - 2 ^ (p - 1))

def ofF32 (x : Nat) : Num := decodeIeee 24 8 x
def ofB16 (x : Nat) : Num := decodeIeee 8 8 x
def ofA56 (x : Nat) : Num := decodeIeee 46 10 x
def toF32 (x : Num) : Nat := encodeIeee 24 8 x
def toB16 (x : Num) : Nat := encodeIeee 8 8 x
def toA56 (x : Num) : Nat := encodeIeee 46 10 x

/-- Round and encode: fp32, bf16, A56. -/
def roundF32 (rm : Rm) (x : Num) : Nat × BitVec 6 := let r := round fmtF32 rm x; (toF32 r.1, r.2)
def roundB16 (rm : Rm) (x : Num) : Nat × BitVec 6 := let r := round fmtB16 rm x; (toB16 r.1, r.2)

/-- An integer as an exact value. -/
def numOfInt (x : Int) : Num := .fin (decide (x < 0)) x.natAbs 0

def Num.neg : Num → Num
  | .nan => .nan
  | .inf n => .inf (!n)
  | .fin n m e => .fin (!n) m e

def Num.isZero : Num → Bool
  | .fin _ m _ => m == 0
  | _ => false

def Num.isNan : Num → Bool
  | .nan => true
  | _ => false

def Num.isInf : Num → Bool
  | .inf _ => true
  | _ => false

def Num.sign : Num → Bool
  | .nan => false
  | .inf n => n
  | .fin n _ _ => n

/-- The exact signed sum of two finite values, on the finer of their grids. -/
def dyAdd (n1 : Bool) (m1 : Nat) (e1 : Int) (n2 : Bool) (m2 : Nat) (e2 : Int) : Int × Int :=
  let e := min e1 e2
  let a : Int := (m1 * pow2 (e1 - e) : Nat)
  let b : Int := (m2 * pow2 (e2 - e) : Nat)
  ((if n1 then -a else a) + (if n2 then -b else b), e)

/-- Exact addition; an exact zero of unlike signs is +0, or -0 toward minus infinity (IEEE 754, R94). -/
def numAdd (rm : Rm) (x y : Num) : Num × BitVec 6 :=
  match x, y with
  | .nan, _ => (.nan, 0)
  | _, .nan => (.nan, 0)
  | .inf a, .inf b => if a == b then (.inf a, 0) else (.nan, afNV)
  | .inf a, .fin .. => (.inf a, 0)
  | .fin .., .inf b => (.inf b, 0)
  | .fin n1 m1 e1, .fin n2 m2 e2 =>
    let (v, e) := dyAdd n1 m1 e1 n2 m2 e2
    if v = 0 then (.fin (if n1 == n2 then n1 else rm == .rdn) 0 0, 0)
    else (.fin (decide (v < 0)) v.natAbs e, 0)

/-- Exact multiplication. -/
def numMul (x y : Num) : Num × BitVec 6 :=
  match x, y with
  | .nan, _ => (.nan, 0)
  | _, .nan => (.nan, 0)
  | .inf a, .inf b => (.inf (a != b), 0)
  | .inf a, .fin b m _ => if m = 0 then (.nan, afNV) else (.inf (a != b), 0)
  | .fin a m _, .inf b => if m = 0 then (.nan, afNV) else (.inf (a != b), 0)
  | .fin n1 m1 e1, .fin n2 m2 e2 => (.fin (n1 != n2) (m1 * m2) (e1 + e2), 0)

/-- Exact a x b + c; a NaN operand gives NaN and no NV (R95). -/
def numFma (rm : Rm) (a b c : Num) : Num × BitVec 6 :=
  if a.isNan || b.isNan || c.isNan then (.nan, 0)
  else
    let (p, f) := numMul a b
    if p.isNan then (.nan, f) else numAdd rm p c

/-- Value comparison of two numbers that are not NaN: is x < y? The zeros are equal. -/
def numLt (x y : Num) : Bool :=
  match x, y with
  | .inf a, .inf b => a && !b
  | .inf a, .fin .. => a
  | .fin .., .inf b => !b
  | .fin n1 m1 e1, .fin n2 m2 e2 => decide ((dyAdd n1 m1 e1 (!n2) m2 e2).1 < 0)
  | _, _ => false

/-- The orders of R96: `x` is before `y` in the order for maximum (`mx`) or for minimum. -/
def numBefore (mx : Bool) (x y : Num) : Bool :=
  match x, y with
  | .nan, .nan => false
  | .nan, _ => mx
  | _, .nan => !mx
  | _, _ => numLt x y || (!numLt y x && x.isZero && y.isZero && x.sign && !y.sign)

def numMax (x y : Num) : Num := if numBefore true x y then y else x
def numMin (x y : Num) : Num := if numBefore false y x then y else x

/-- Round to an integer under a mode, for a conversion to `w` bits: NaN gives 0 with NV, a value beyond the range gives
the nearest limit with NV (R104). This clamping is the conversion's own and sets no SA (DESIGN CHOICE, log 22: R104 names NV, R89's SA is
for results that SAT clamps). -/
def numToInt (rm : Rm) (sg : Bool) (w : Nat) (x : Num) : Int × BitVec 6 :=
  let lo : Int := if sg then -(2 ^ (w - 1) : Nat) else 0
  let hi : Int := if sg then (2 ^ (w - 1) : Nat) - 1 else (2 ^ w : Nat) - 1
  match x with
  | .nan => (0, afNV)
  | .inf n => (if n then lo else hi, afNV)
  | .fin n m e =>
    let (k, inex) := roundTo rm n m e 0
    let v : Int := if n then -(k : Int) else k
    if v < lo then (lo, afNV) else if hi < v then (hi, afNV) else (v, if inex then afNX else 0)

/-! ### binary8 (R97, R98, R103) -/

/-- A binary8 format: precision, signed, extended. -/
structure B8 where
  p   : Nat
  sg  : Bool
  ext : Bool
  deriving DecidableEq, Repr

def B8.bias (f : B8) : Int := (2 ^ ((if f.sg then 8 - f.p else 9 - f.p) - 1) : Nat)
def B8.nanCode (f : B8) : Nat := if f.sg then 0x80 else 0xFF
def B8.maxCode (f : B8) : Nat := if f.sg then (if f.ext then 0x7E else 0x7F) else if f.ext then 0xFD else 0xFE

/-- The value of a code by the rows E = 0 and E >= 1. -/
def B8.finite (f : B8) (c : Nat) : Num :=
  let t := f.p - 1
  let fr := c % 2 ^ t
  let ew := if f.sg then 7 - t else 8 - t
  let ex := bits c t ew
  let n := f.sg && bitOf c 7
  if ex = 0 then .fin n fr (1 - f.bias - (t : Int))
  else .fin n (fr + 2 ^ t) ((ex : Int) - f.bias - (t : Int))

/-- R98, first row that matches. -/
def decode8 (f : B8) (c : Nat) : Num :=
  if c = 0 then .fin false 0 0
  else if f.sg && c == 0x80 then .nan
  else if c = 0xFF ∧ !f.sg then .nan
  else if c = 0xFF ∧ f.ext then .inf true
  else if c = 0x7F ∧ f.sg ∧ f.ext then .inf false
  else if c = 0xFE ∧ !f.sg ∧ f.ext then .inf false
  else f.finite c

/-- The target of R102 for a binary8 format. -/
def B8.fmt (f : B8) : Fmt :=
  match f.finite f.maxCode with
  | .fin _ m e => { p := f.p, emin := 1 - f.bias, maxM := m, maxE := e }
  | _ => { p := f.p, emin := 1 - f.bias, maxM := 0, maxE := 0 }

/-- The code of a finite value that the format holds exactly. -/
def B8.code (f : B8) (n : Bool) (m : Nat) (e : Int) : Nat :=
  if m = 0 then 0
  else
    let t := f.p - 1
    let emin := 1 - f.bias
    let hi := (Nat.log2 m : Int) + e
    let q := max (hi - (t : Int)) (emin - (t : Int))
    let k := if q ≤ e then m * pow2 (e - q) else m / pow2 (q - e)
    let mag := if hi < emin then k else (hi - emin + 1).toNat * 2 ^ t + (k - 2 ^ t)
    if n then 0x80 + mag else mag

def B8.infCode (f : B8) (n : Bool) : Nat := if n then 0xFF else if f.sg then 0x7F else 0xFE
def B8.limit (f : B8) (n : Bool) : Nat := if n then 0x80 + f.maxCode else f.maxCode

/-- Encode8(x, F, sat) (R103). -/
def encode8 (f : B8) (sat : Bool) (rm : Rm) (x : Num) : Nat × BitVec 6 :=
  match x with
  | .nan => (f.nanCode, 0)
  | .inf n =>
    if n && !f.sg then (if sat then (0, afNV) else (f.nanCode, afNV))
    else if f.ext then (f.infCode n, 0)
    else if sat then (f.limit n, 0)
    else (f.nanCode, afNV)
  | .fin n m e =>
    if m = 0 then (0, 0)
    else if n && !f.sg then (if sat then (0, afNV) else (f.nanCode, afNV))
    else
      let (r, fl) := round f.fmt rm (.fin n m e)
      if fl &&& afOF = 0 then
        match r with
        | .fin n' m' e' => (f.code n' m' e', fl)
        | _ => (f.nanCode, fl)
      else if sat then (f.limit n, fl)
      else match r with
        | .inf n' => (if f.ext then f.infCode n' else f.nanCode, fl)
        | _ => (f.limit n, fl)

/-! ### A56 and StepAdd (R99 to R101, R110) -/

/-- RoundRNE45(x, st) on the magnitude m x 2^e (R102). -/
def roundA56 (neg : Bool) (m : Nat) (e : Int) (st : Bool) : Num × BitVec 6 :=
  if m = 0 then (.fin false 0 0, if st then afNX else 0)
  else
    let (r, f) := round fmtA56 .rne (.fin neg (if st then m * 2 ^ 64 + 1 else m) (if st then e - 64 else e))
    (r, if st then f ||| afNX else f)

/-- The largest floor(log2 |y|) among the nonzero finite values, if any. -/
def topExp : List Num → Option Int
  | [] => none
  | .fin _ m e :: r =>
    if m = 0 then topExp r
    else
      let h := (Nat.log2 m : Int) + e
      match topExp r with
      | none => some h
      | some k => some (max h k)
  | _ :: r => topExp r

/-- The sum of TruncToZero(y / u) in units of u = 2^lu, and whether anything was cut off. -/
def truncSum (lu : Int) : List Num → Int × Bool
  | [] => (0, false)
  | .fin n m e :: r =>
    let (t, st) := truncSum lu r
    let k : Nat := if lu ≤ e then m * pow2 (e - lu) else m / pow2 (lu - e)
    let cut : Bool := if lu ≤ e then false else m % pow2 (lu - e) != 0
    ((if n then -(k : Int) else (k : Int)) + t, st || cut)
  | _ :: r => truncSum lu r

/-- The sticky flags of an accumulator word: bits 63:60 are written zero by every engine (R99). -/
def accFlags (acc : Nat) : Nat := acc / 2 ^ 56 % 16

/-- StepAdd(acc, x) (R110): one rounding per step; flags OV 56, NX 57, NV 58 are sticky. -/
def stepAdd (acc : Nat) (xs : List Num) : Nat :=
  let fl := accFlags acc
  let ys := ofA56 (acc % 2 ^ 56) :: xs
  let put (v : Num) (g : Nat) : Nat := toA56 v + 2 ^ 56 * (fl ||| g)
  if ys.any Num.isNan then put .nan 0
  else if ys.any (fun y => y == .inf false) then
    (if ys.any (fun y => y == .inf true) then put .nan 4 else put (.inf false) 0)
  else if ys.any (fun y => y == .inf true) then put (.inf true) 0
  else
    match topExp ys with
    | none => put (.fin (ys.all Num.sign) 0 0) 0
    | some t =>
      let lu := t - 119
      let (v, st) := truncSum lu ys
      let (r, f) := roundA56 (decide (v < 0)) v.natAbs lu st
      put r ((if f &&& afOF = 0 then 0 else 1) + (if f &&& afNX = 0 then 0 else 2))

/-- An integer-mode step (R101, R110): the saturation of sext(acc[55:0]) + T, setting OV on saturation. -/
def stepAddInt (acc : Nat) (t : Int) : Nat :=
  let fl := accFlags acc
  let v := signed 56 acc + t
  let hi : Int := (2 ^ 55 : Nat) - 1
  let lo : Int := -(2 ^ 55 : Nat)
  if hi < v then wrapInt 56 hi + 2 ^ 56 * (fl ||| 1)
  else if v < lo then wrapInt 56 lo + 2 ^ 56 * (fl ||| 1)
  else wrapInt 56 v + 2 ^ 56 * fl

/-! ### Bank formats (R91, R105, R107) -/

/-- A decoded bank format. -/
structure Bf where
  fmt : Nat
  sg  : Bool
  inf : Bool
  sat : Bool
  grp : Nat
  sf  : Bool
  sb  : Nat
  deriving DecidableEq, Repr

def bfOf (w : Word) : Bf :=
  let x := w.toNat
  { fmt := bits x 0 4, sg := bitOf x 5, inf := bitOf x 6, sat := bitOf x 7, grp := bits x 8 3, sf := bitOf x 11,
    sb := bits x 12 3 }

/-- FMT 7 and 8 and GRP 101 to 111 are reserved (R105, R106). -/
def Bf.reserved (b : Bf) : Bool := b.fmt == 7 || b.fmt == 8 || decide (5 ≤ b.grp)

/-- The group size G, 1 where GRP is 000. -/
def Bf.g (b : Bf) : Nat := if b.grp = 0 then 1 else 16 * 2 ^ b.grp

/-- Element width in bits; raw counts as bytes. -/
def Bf.width (b : Bf) : Nat :=
  match b.fmt with
  | 1 => 4
  | 3 => 16
  | 5 => 16
  | 4 => 32
  | 6 => 32
  | _ => 8

def Bf.isInt (b : Bf) : Bool := decide (1 ≤ b.fmt) && decide (b.fmt ≤ 4)
def Bf.b8 (b : Bf) : B8 := { p := b.fmt - 8, sg := b.sg, ext := b.inf }

/-- A decoded element: an integer or an exact floating value. -/
inductive Elem where
  | int (x : Int)
  | flt (x : Num)
  deriving DecidableEq, Repr

def Elem.num : Elem → Num
  | .int x => numOfInt x
  | .flt x => x

/-- Decode an element's pattern exactly (R104). Raw bytes are unsigned integers. -/
def Bf.decode (b : Bf) (x : Nat) : Elem :=
  match b.fmt with
  | 0 => .int (x % 256 : Nat)
  | 1 => .int (if b.sg then signed 4 x else (x % 16 : Nat))
  | 2 => .int (if b.sg then signed 8 x else (x % 256 : Nat))
  | 3 => .int (if b.sg then signed 16 x else (x % 65536 : Nat))
  | 4 => .int (if b.sg then signed 32 x else (x % 2 ^ 32 : Nat))
  | 5 => .flt (ofB16 x)
  | 6 => .flt (ofF32 x)
  | _ => .flt (decode8 b.b8 (x % 256))

/-- Clamp or wrap an integer to `w` bits. -/
def narrow (sg sat : Bool) (w : Nat) (x : Int) : Nat × BitVec 6 :=
  let lo : Int := if sg then -(2 ^ (w - 1) : Nat) else 0
  let hi : Int := if sg then (2 ^ (w - 1) : Nat) - 1 else (2 ^ w : Nat) - 1
  if sat && decide (x < lo) then (wrapInt w lo, afSA)
  else if sat && decide (hi < x) then (wrapInt w hi, afSA)
  else (wrapInt w x, 0)

/-- Encode a value into a bank format under RNE and the destination SAT (R104, R108). `sw` is the width of an integer source: into a wider
integer it is extended, and SAT does not clamp it. R104 has no row for an integer of the same width and the other signedness: under SAT it
is clamped to the destination's range (DESIGN CHOICE, log 22). -/
def Bf.encode (b : Bf) (sw : Nat) (v : Elem) : Nat :=
  match b.fmt with
  | 0 => match v with
    | .int x => wrapInt 8 x
    | .flt _ => 0
  | 5 => (roundB16 .rne v.num).1
  | 6 => (roundF32 .rne v.num).1
  | k =>
    if k ≤ 4 then
      match v with
      | .int x => (narrow b.sg (b.sat && decide (b.width ≤ sw)) b.width x).1
      | .flt x => wrapInt b.width (numToInt .rne b.sg b.width x).1
    else (encode8 b.b8 b.sat .rne v.num).1

/-- Encode the result of a reduction (R220): an exact value, wider than any integer format; an integer destination without SAT wraps the
sum, rounded once. -/
def Bf.encodeSum (b : Bf) (v : Elem) : Nat :=
  match v with
  | .flt (.fin n m e) =>
    if 1 ≤ b.fmt ∧ b.fmt ≤ 4 then
      (let k := (roundTo .rne n m e 0).1
       b.encode 64 (.int (if n then -(k : Int) else k)))
    else b.encode 64 v
  | _ => b.encode 64 v

/-- A scale's value: bf16, or unsigned finite binary8p3 (R105). -/
def Bf.scale (b : Bf) (x : Nat) : Num :=
  if b.sf then decode8 { p := 3, sg := false, ext := false } (x % 256) else ofB16 (x % 65536)

/-- An element's value times its group's scale, formed exactly; a NaN scale makes NaN and a zero scale zero (R107). -/
def scaleElem (v : Elem) (sc : Num) : Elem :=
  match sc with
  | .nan => .flt .nan
  | _ => .flt (numMul v.num sc).1

/-- The product of an element and its scale is 0 x infinity: an invalid operation (R110). -/
def scaleInvalid (v : Elem) (sc : Num) : Bool := (numMul v.num sc).2 != 0

end Sys2Proof.Machine
end

