-- ==== Sys2Proof/Machine/Special.lean ====
section
/-! DEFINITION. The special functions of R113 in fixed point. Each result is Round of a value that stands nearer to the
exact one than any rounding boundary of fp32 or bf16 can: `fw` fraction bits, with a sticky last bit where the exact value
is not representable (log 10). -/

namespace Sys2Proof.Machine

/-- Fraction bits of the fixed-point numbers below. -/
def fw : Nat := 320

/-- Integer square root, one result bit at a time from bit k - 1 down. -/
def isqrtFrom (n : Nat) (k r : Nat) : Nat :=
  match k with
  | 0 => r
  | j + 1 =>
    let c := r + 2 ^ j
    isqrtFrom n j (if c * c ≤ n then c else r)

def isqrt (n : Nat) : Nat := isqrtFrom n (Nat.log2 n / 2 + 1) 0

/-- Sum of z^(2k+1) / (2k+1), `fuel` terms: atanh z, with z2 = z squared and t the running power, all at `fw` bits. -/
def atanhSum (z2 : Nat) (fuel k t : Nat) : Nat :=
  match fuel with
  | 0 => 0
  | n + 1 => t / (2 * k + 1) + atanhSum z2 n (k + 1) (t * z2 / 2 ^ fw)

def atanhFix (z : Nat) : Nat := atanhSum (z * z / 2 ^ fw) 110 0 z

/-- ln 2 = 2 atanh (1/3). -/
def ln2Fix : Nat := 2 * atanhFix (2 ^ fw / 3)

/-- Sum of t^k / k!, `fuel` terms: e^x for 0 <= x < 1, with t the running term. -/
def expSum (x : Nat) (fuel k t : Nat) : Nat :=
  match fuel with
  | 0 => 0
  | n + 1 => t + expSum x n (k + 1) (t * x / 2 ^ fw / (k + 1))

def expFix (x : Nat) : Nat := expSum x 80 0 (2 ^ fw)

/-- 2^f at `fw` bits for a fraction f of `fw` bits, 0 <= f < 1. -/
def exp2Fix (f : Nat) : Nat := expFix (f * ln2Fix / 2 ^ fw)

/-- A value known to `fw` bits below the true one, made inexact by a sticky last bit. -/
def sticky (neg : Bool) (m : Nat) (e : Int) : Num := .fin neg (2 * m + 1) (e - 1)

/-- A finite value at `fw` bits, floored; the exponents that occur leave nothing below the last bit. -/
def fixOf (neg : Bool) (m : Nat) (e : Int) : Int :=
  let k : Nat := if -(fw : Int) ≤ e then m * pow2 (e + fw) else m / pow2 (-(fw : Int) - e)
  if neg then -(k : Int) else k

/-- 2^x, exact for an integer x. -/
def exp2Num (neg : Bool) (m : Nat) (e : Int) : Num :=
  if m = 0 then .fin false 1 0
  else if 12 < (Nat.log2 m : Int) + e then (if neg then sticky false 1 (-4096) else sticky false 1 4096)
  else
    let v := fixOf neg m e
    let n := v / (2 ^ fw : Nat)
    let f := (v % (2 ^ fw : Nat)).toNat
    if f = 0 then .fin false 1 n else sticky false (exp2Fix f) (n - fw)

/-- log2 of a positive value, exact for a power of two. -/
def log2Num (m : Nat) (e : Int) : Num :=
  let k := Nat.log2 m
  let n : Int := (k : Int) + e
  if m = 2 ^ k then numOfInt n
  else
    let z := (m - 2 ^ k) * 2 ^ fw / (m + 2 ^ k)
    let l : Int := n * (2 ^ fw : Nat) + (2 * atanhFix z * 2 ^ fw / ln2Fix : Nat)
    sticky (decide (l < 0)) l.natAbs (-(fw : Int))

/-- 1 / x, rounded from the quotient and its remainder. -/
def rcpNum (neg : Bool) (m : Nat) (e : Int) : Num :=
  let q := 2 ^ fw / m
  if q * m = 2 ^ fw then .fin neg q (-(fw : Int) - e) else sticky neg q (-(fw : Int) - e)

/-- 1 / sqrt x of a positive value. -/
def rsqNum (m : Nat) (e : Int) : Num :=
  let m' := if e % 2 = 0 then m else 2 * m
  let e' := if e % 2 = 0 then e else e - 1
  let r := isqrt (2 ^ (2 * fw) / m')
  let ex := -(fw : Int) - e' / 2
  if r * r * m' = 2 ^ (2 * fw) then .fin false r ex else sticky false r ex

/-- tanh |x| with the sign of x: x(1 - tiny) below 2^-40, 1 - tiny from 64 up, else (y - 1) / (y + 1) with y = e^(2x). -/
def tanhNum (neg : Bool) (m : Nat) (e : Int) : Num :=
  let h := (Nat.log2 m : Int) + e
  if h < -40 then .fin neg (m * 2 ^ 64 - 1) (e - 64)
  else if 6 ≤ h then .fin neg (2 ^ 64 - 1) (-64)
  else
    let x2 := 2 * (fixOf false m e).toNat
    let n := x2 / ln2Fix
    let y := expFix (x2 - n * ln2Fix) * 2 ^ n
    sticky neg ((y - 2 ^ fw) * 2 ^ fw / (y + 2 ^ fw)) (-(fw : Int))

/-- The five special functions. -/
inductive SpecFn where
  | exp2 | log2 | rcp | rsq | tanh
  deriving DecidableEq, Repr

/-- f(x) before rounding, with the flags of the special operands (R113). -/
def specialNum (f : SpecFn) (x : Num) : Num × BitVec 6 :=
  match f, x with
  | _, .nan => (.nan, 0)
  | .exp2, .inf n => (if n then .fin false 0 0 else .inf false, 0)
  | .exp2, .fin n m e => (exp2Num n m e, 0)
  | .log2, .inf n => if n then (.nan, afNV) else (.inf false, 0)
  | .log2, .fin n m e => if m = 0 then (.inf true, afDZ) else if n then (.nan, afNV) else (log2Num m e, 0)
  | .rcp, .inf n => (.fin n 0 0, 0)
  | .rcp, .fin n m e => if m = 0 then (.inf n, afDZ) else (rcpNum n m e, 0)
  | .rsq, .inf n => if n then (.nan, afNV) else (.fin false 0 0, 0)
  | .rsq, .fin n m e => if m = 0 then (.inf n, afDZ) else if n then (.nan, afNV) else (rsqNum m e, 0)
  | .tanh, .inf n => (.fin n 1 0, 0)
  | .tanh, .fin n m e => if m = 0 then (.fin n 0 0, 0) else (tanhNum n m e, 0)

end Sys2Proof.Machine
end

