-- ==== Sys2Proof/Machine/Flags.lean ====
section
/-! DEFINITION. Results of one element with the sticky flags they raise (R89, R92 to R96): integer results that wrap or
saturate, floating results that round, and the packed-lane results of the scalar words. -/

namespace Sys2Proof.Machine

/-- A pattern and the flags raised in forming it. -/
structure Flagged where
  val : Nat
  af  : BitVec 6
  deriving DecidableEq, Repr

/-- An element type of R279: integer (signed, log2 width), bf16 or fp32. -/
inductive ETy where
  | int (sg : Bool) (w : Nat)
  | bf16
  | f32
  deriving DecidableEq, Repr

def etyOf (ty : BitVec 4) : ETy :=
  match ty.toNat with
  | 0 => .int true 4
  | 1 => .int false 4
  | 2 => .int true 8
  | 3 => .int false 8
  | 4 => .int true 16
  | 5 => .int false 16
  | 6 => .int true 32
  | 7 => .int false 32
  | 8 => .bf16
  | _ => .f32

def ETy.width : ETy → Nat
  | .int _ w => w
  | .bf16 => 16
  | .f32 => 32

def ETy.isFloat : ETy → Bool
  | .int _ _ => false
  | _ => true

/-- The integer value of a pattern. -/
def intOf (sg : Bool) (w x : Nat) : Int := if sg then signed w x else (x % 2 ^ w : Nat)

/-- The exact value of a pattern. -/
def ETy.num (t : ETy) (x : Nat) : Num :=
  match t with
  | .int sg w => numOfInt (intOf sg w x)
  | .bf16 => ofB16 x
  | .f32 => ofF32 x

/-- Round an exact value into a floating type. -/
def ETy.roundTo (t : ETy) (rm : Rm) (x : Num) : Flagged :=
  match t with
  | .bf16 => let r := roundB16 rm x; { val := r.1, af := r.2 }
  | .f32 => let r := roundF32 rm x; { val := r.1, af := r.2 }
  | .int sg w => let r := numToInt rm sg w x; { val := wrapInt w r.1, af := r.2 }

/-- The canonical NaN of a floating type (R95). -/
def ETy.nan (t : ETy) : Nat := (t.roundTo .rne .nan).val

/-- An integer result that wraps, or saturates with SA (R92). -/
def intResult (sg sat : Bool) (w : Nat) (x : Int) : Flagged :=
  let r := narrow sg sat w x
  { val := r.1, af := r.2 }

/-- Signed division of R93: quotient. -/
def sdivLane (w : Nat) (a b : Nat) : Flagged :=
  let x := signed w a
  let y := signed w b
  if y = 0 then { val := if x < 0 then 2 ^ (w - 1) else 2 ^ (w - 1) - 1, af := afDZ }
  else { val := wrapInt w (x.tdiv y), af := 0 }

/-- Signed remainder of R93: the sign of the dividend. -/
def sremLane (w : Nat) (a b : Nat) : Flagged :=
  let x := signed w a
  let y := signed w b
  if y = 0 then { val := a % 2 ^ w, af := afDZ } else { val := wrapInt w (x.tmod y), af := 0 }

/-- Leading zeros of a W-bit lane. -/
def clzLane (w x : Nat) : Nat := if x = 0 then w else w - 1 - Nat.log2 x

/-- One bits among the low `w`. -/
def popLane (w x : Nat) : Nat :=
  match w with
  | 0 => 0
  | k + 1 => x % 2 + popLane k (x / 2)

/-- Two operands of a float result: add, subtract, multiply, fused, with one rounding (R94, R95). -/
def fAdd (t : ETy) (rm : Rm) (a b : Nat) : Flagged :=
  let s := numAdd rm (t.num a) (t.num b)
  let r := t.roundTo rm s.1
  { r with af := r.af ||| s.2 }

def fSub (t : ETy) (rm : Rm) (a b : Nat) : Flagged :=
  let s := numAdd rm (t.num a) (t.num b).neg
  let r := t.roundTo rm s.1
  { r with af := r.af ||| s.2 }

def fMul (t : ETy) (rm : Rm) (a b : Nat) : Flagged :=
  let s := numMul (t.num a) (t.num b)
  let r := t.roundTo rm s.1
  { r with af := r.af ||| s.2 }

def fFma (t : ETy) (rm : Rm) (a b c : Nat) : Flagged :=
  let s := numFma rm (t.num a) (t.num b) (t.num c)
  let r := t.roundTo rm s.1
  { r with af := r.af ||| s.2 }

/-- A special function of one element, correctly rounded to nearest even (R113). -/
def fSpecial (t : ETy) (f : SpecFn) (a : Nat) : Flagged :=
  let s := specialNum f (t.num a)
  let r := t.roundTo .rne s.1
  { r with af := r.af ||| s.2 }

/-- Maximum and minimum (R96); a NaN result is canonical. -/
def eMax (t : ETy) (a b : Nat) : Nat :=
  match t with
  | .int sg w => if intOf sg w a < intOf sg w b then b else a
  | _ => (t.roundTo .rne (numMax (t.num a) (t.num b))).val

def eMin (t : ETy) (a b : Nat) : Nat :=
  match t with
  | .int sg w => if intOf sg w b < intOf sg w a then b else a
  | _ => (t.roundTo .rne (numMin (t.num a) (t.num b))).val

end Sys2Proof.Machine
end

