-- ==== Sys2Proof/Machine/Ops.lean ====
section
/-! DEFINITION. The named operations that every meaning is written over: the parts of the state by number, registers by
name and by physical number (R65, R71, R72, R75), results in flight (R84, R85), system registers (R80), events and
black-box records (R253, R237), taking a trap and returning from one (R232, R340), blocking on a fault (R132), and how a
word's outcome becomes the next state. -/

namespace Sys2Proof.Machine

/-! ### Parts of the state -/

def ctxIx (c : Ctx) : Nat := 2 * c.core.val + c.bank.val
def ctxOf (k : Nat) : Ctx := { core := Fin.ofNat 32 (k / 2), bank := Fin.ofNat 2 k }
def otherBank (c : Ctx) : Ctx := { core := c.core, bank := Fin.ofNat 2 (c.bank.val + 1) }
def clusterOf (core : Fin 32) : Nat := core.val / 4

def State.bank (s : State) (c : Ctx) : Bank := tabGet s.banks (ctxIx c) .reset
def State.setBank (s : State) (c : Ctx) (b : Bank) : State := { s with banks := tabSet s.banks (ctxIx c) b }
def State.core (s : State) (k : Fin 32) : Core := tabGet s.cores k.val .reset
def State.setCore (s : State) (k : Fin 32) (x : Core) : State := { s with cores := tabSet s.cores k.val x }
def State.cluster (s : State) (k : Nat) : Cluster := tabGet s.clusters k .reset
def State.setCluster (s : State) (k : Nat) (x : Cluster) : State := { s with clusters := tabSet s.clusters k x }
def State.node (s : State) (k : Nat) : Node := tabGet s.sched.nodes k .reset
def State.setNode (s : State) (k : Nat) (n : Node) : State :=
  { s with sched := { s.sched with nodes := tabSet s.sched.nodes k n } }
def State.queue (s : State) (k : Nat) : Queue := tabGet s.sched.queues k .reset
def State.setQueue (s : State) (k : Nat) (q : Queue) : State :=
  { s with sched := { s.sched with queues := tabSet s.sched.queues k q } }

/-- The bank whose word is being run. -/
def State.cur (s : State) : Bank := s.bank s.iss.ctx
def State.setCur (s : State) (b : Bank) : State := s.setBank s.iss.ctx b

/-- The clock cycles of a core's cluster so far: what waits and stalls are counted in (R403). -/
def State.now (s : State) (core : Fin 32) : Nat := (s.cluster (clusterOf core)).clk.cycles

/-- A fresh number for a free value (log 7). -/
def State.bump (s : State) : State := { s with freeCtr := s.freeCtr + 1 }
def State.bumpBy (s : State) (n : Nat) : State := { s with freeCtr := s.freeCtr + n }

/-- ECAUSE.SLOT of a cause that no word raised: the manual states none, a free value (log 49). -/
def State.freeSlot (s : State) : BitVec 2 := (Config.freeWord s.freeCtr).extractLsb' 0 2

/-! ### Registers -/

/-- The null reference (R79). -/
def nullRef : DWord := 0x1000000000000000#64
def allOnesP : PReg := BitVec.allOnes 1024
def allOnesV : VReg := BitVec.allOnes 4096

/-- ROT and PROT as the bank's names use them: 0 in monitor mode (R225). -/
def Bank.rotv (b : Bank) : Nat := if b.tr.mode then 0 else b.loops.rot.toNat
def Bank.protv (b : Bank) : Nat := if b.tr.mode then 0 else b.loops.prot.toNat

/-- PARTW's fields (R69). -/
def Bank.rf (b : Bank) : Nat := bits b.sys.partw.toNat 0 4
def Bank.accG (b : Bank) : Nat := bits b.sys.partw.toNat 8 8
def Bank.spu (b : Bank) : Nat := bits b.sys.partw.toNat 24 4
def Bank.zs (b : Bank) : Bool := b.sys.partw.getLsbD 63

/-- The size multiplier M of a 2-bit bank code (R69). -/
def bankMult (code : Nat) : Nat := if code = 0 then 0 else 2 ^ (code - 1)

/-- Granules of scratchpad bank `k` under a partition word; banks 8 to 15 have size zero. -/
def partBank (w : DWord) (k : Nat) : Nat :=
  let x := w.toNat
  if k < 4 then bankMult (bits x (28 + 2 * k) 2) * bits x 24 4
  else if k < 8 then bankMult (bits x (16 + 2 * (k - 4)) 2) * bits x 24 4
  else 0

/-- A granule: 16 KiB (R70). -/
def granule : Nat := 16384

/-- The scratchpad offset at which bank `k` begins, and its bytes. -/
def Bank.spBase (b : Bank) (k : Nat) : Nat := granule * ((List.range k).map (partBank b.sys.partw)).sum
def Bank.spSize (b : Bank) (k : Nat) : Nat := granule * partBank b.sys.partw k
def Bank.spTotal (b : Bank) : Nat := b.spBase 8
def Bank.accBytes (b : Bank) : Nat := granule * b.accG

/-- Does a partition word fit (R70)? -/
def partFits (w : DWord) : Bool :=
  let x := w.toNat
  let rf := bits x 0 4
  let spu := bits x 24 4
  let any := bits x 28 8 != 0 || bits x 16 8 != 0
  decide (1 ≤ rf) && decide (rf ≤ 8) && (!any || decide (1 ≤ spu)) &&
  decide (rf + bits x 8 8 + ((List.range 8).map (partBank w)).sum ≤ 128)

/-- Physical vector register of a name (R72). -/
def Bank.physV (b : Bank) (n : Nat) : Nat :=
  let sz := 32 * (b.rf - 1)
  if n < 32 ∨ sz = 0 then n else 32 + (n - 32 + b.rotv) % sz

/-- Physical predicate register of a name (R72). -/
def Bank.physP (b : Bank) (n : Nat) : Nat := if n < 8 then n else 8 + (n - 8 + b.protv) % 8

/-- Registers by physical number: s0 reads zero and p0 all ones (R65, R75). -/
def Bank.sreg (b : Bank) (n : Nat) : Word := if n = 0 then 0 else tabGet b.regs.s n 0
def Bank.vphys (b : Bank) (n : Nat) : VReg := tabGet b.regs.v n 0
def Bank.pphys (b : Bank) (n : Nat) : PReg := if n = 0 then allOnesP else tabGet b.regs.p n 0
def Bank.kreg (b : Bank) (n : Nat) : DWord := tabGet b.regs.k n nullRef
/-- Registers by name. -/
def Bank.vreg (b : Bank) (n : Nat) : VReg := b.vphys (b.physV n)
def Bank.preg (b : Bank) (n : Nat) : PReg := b.pphys (b.physP n)
/-- A 64-bit scalar operand named by its lower register. -/
def Bank.dreg (b : Bank) (n : Nat) : DWord := b.sreg (n + 1) ++ b.sreg n

/-- The guard of a word (R272): predicate PG under PN. -/
def Bank.guard (b : Bank) (h : Hdr) : PReg :=
  let p := b.preg h.pg.toNat
  if h.pn then ~~~p else p

/-- Bit 0 of the guard governs every word but a vector word. -/
def Bank.enabled (b : Bank) (h : Hdr) : Bool := (b.guard h).getLsbD 0

/-- Held-row handle, ring and stream of a number. -/
def Bank.hreg (b : Bank) (n : Nat) : Handle := tabGet b.h n .reset
def Bank.ring (b : Bank) (n : Nat) : Ring := tabGet b.n n .reset
def Bank.stream (b : Bank) (n : Nat) : Stream := tabGet b.q n .unbound
def Bank.bfmt (b : Bank) (n : Nat) : Word := tabGet b.sys.bfmt n 0

def Bank.loop (b : Bank) (n : Nat) : LoopReg :=
  match n with
  | 0 => b.loops.l0
  | 1 => b.loops.l1
  | 2 => b.loops.l2
  | _ => b.loops.l3

def Loops.get (l : Loops) (n : Nat) : LoopReg :=
  match n with
  | 0 => l.l0
  | 1 => l.l1
  | 2 => l.l2
  | _ => l.l3

def Loops.set (l : Loops) (n : Nat) (x : LoopReg) : Loops :=
  match n with
  | 0 => { l with l0 := x }
  | 1 => { l with l1 := x }
  | 2 => { l with l2 := x }
  | _ => { l with l3 := x }

/-! ### System registers -/

/-- STATUS (R226). -/
def Bank.status (b : Bank) (bankNo : Nat) : Word :=
  bit1 b.tr.mode ++ BitVec.ofNat 1 bankNo ++ (0 : BitVec 3) ++ b.tr.xfer ++ (0 : BitVec 12) ++ b.tr.af

/-- DOM (R23). RANK is the thread's. -/
def Bank.dom (b : Bank) : DWord :=
  b.sys.phase ++ (0 : BitVec 8) ++ b.sys.mask ++ b.sys.level ++ (0 : BitVec 1) ++ BitVec.ofNat 5 b.th.rank

/-- V and STEP of an engine command (R19). -/
def mpcWord (v : Bool) (step : Nat) : Word := bit1 v ++ (0 : BitVec 7) ++ BitVec.ofNat 24 step

def Fifo.partly (f : Fifo) : Bool := f.run && decide (0 < f.prog.step)
def Fifo.mpc (f : Fifo) : Word := if f.partly then mpcWord true f.prog.step else 0
def Engines.mpcCp (e : Engines) : Word := if e.ci.run then e.ci.mpc else e.co.mpc

/-- The loop state that SYSR and SYSW reach: the task's saved copies in monitor mode (R225). -/
def Bank.sysLoops (b : Bank) : Loops := if b.tr.mode then b.saved else b.loops
def Bank.setSysLoops (b : Bank) (l : Loops) : Bank := if b.tr.mode then { b with saved := l } else { b with loops := l }

/-- One half of a loop register (R80). -/
def loopSysRead (x : LoopReg) (k : Nat) : Word :=
  match k with
  | 0 => x.ls.extractLsb' 0 32
  | 1 => (x.ls.extractLsb' 32 16).setWidth 32
  | 2 => x.le.extractLsb' 0 32
  | 3 => (x.le.extractLsb' 32 16).setWidth 32
  | 4 => x.lc
  | _ => (bit1 x.active).setWidth 32

def loopSysWrite (x : LoopReg) (k : Nat) (v : Word) : LoopReg :=
  match k with
  | 0 => { x with ls := x.ls.extractLsb' 32 16 ++ v }
  | 1 => { x with ls := v.extractLsb' 0 16 ++ x.ls.extractLsb' 0 32 }
  | 2 => { x with le := x.le.extractLsb' 32 16 ++ v }
  | 3 => { x with le := v.extractLsb' 0 16 ++ x.le.extractLsb' 0 32 }
  | 4 => { x with lc := v }
  | _ => { x with active := v.getLsbD 0 }

/-- SYSR of a number of R80. -/
def sysRead (s : State) (c : Ctx) (b : Bank) (n : Nat) : Word :=
  match n with
  | 0x000 => b.status c.bank.val
  | 0x001 => b.tr.epc
  | 0x002 => b.tr.ecause
  | 0x003 => b.tr.eval
  | 0x004 => b.tr.tvec
  | 0x010 => b.sys.partw.extractLsb' 0 32
  | 0x011 => b.sys.partw.extractLsb' 32 32
  | 0x012 => b.dom.extractLsb' 0 32
  | 0x013 => b.dom.extractLsb' 32 32
  | 0x014 => b.sys.nodeh
  | 0x015 => b.sys.rowm
  | 0x016 => b.sysLoops.rot
  | 0x017 => b.sysLoops.prot
  | 0x018 => b.sys.helpd
  | 0x019 => b.sys.xpol
  | 0x01A => b.sys.leaseq
  | 0x01B => s.sched.age
  | 0x01C => s.sched.preempt
  | 0x020 => b.sys.paceMx
  | 0x021 => b.sys.paceCp
  | 0x022 => b.sys.paceDe
  | 0x024 => b.eng.mx.mpc
  | 0x025 => b.eng.mpcCp
  | 0x026 => b.eng.de.mpc
  | k =>
    if 0x030 ≤ k ∧ k ≤ 0x03F then b.bfmt (k - 0x030)
    else if 0x040 ≤ k ∧ k ≤ 0x05F ∧ k % 8 ≤ 5 then loopSysRead (b.sysLoops.get ((k - 0x040) / 8)) (k % 8)
    else 0

/-- The bits of PARTW that are fields (R69); the others read 0 (R5). -/
def partwMask : DWord := 0x8000000FFFFFFF0F#64
/-- The bits of XPOL (R191) and of LEASEQ and the pace registers (R210, R245) that are fields. -/
def xpolMask : Word := 0x1FF#32
def lowHalf : Word := 0xFFFF#32

/-- The landing of a SYSW: reserved bits keep their reset value, read-only fields are not written (R19, R23, R31, R80,
R105, R226, R228). -/
def sysWrite (b : Bank) (n : Nat) (v : Word) : Bank :=
  match n with
  | 0x000 => { b with tr := { b.tr with xfer := v.extractLsb' 18 9, af := v.extractLsb' 0 6 } }
  | 0x001 => { b with tr := { b.tr with epc := v } }
  | 0x002 => { b with tr := { b.tr with ecause := v &&& 0xFFFF3FFF#32 } }
  | 0x003 => { b with tr := { b.tr with eval := v } }
  | 0x004 => { b with tr := { b.tr with tvec := v &&& 0xFFFFFFF8#32 } }
  | 0x016 => b.setSysLoops { b.sysLoops with rot := v }
  | 0x017 => b.setSysLoops { b.sysLoops with prot := v }
  | 0x018 => { b with sys := { b.sys with helpd := v &&& 0xFF#32 } }
  | 0x019 => { b with sys := { b.sys with xpol := v &&& xpolMask } }
  | 0x01A => { b with sys := { b.sys with leaseq := v &&& lowHalf } }
  | 0x020 => { b with sys := { b.sys with paceMx := v &&& lowHalf } }
  | 0x021 => { b with sys := { b.sys with paceCp := v &&& lowHalf } }
  | 0x022 => { b with sys := { b.sys with paceDe := v &&& lowHalf } }
  | k =>
    if 0x030 ≤ k ∧ k ≤ 0x03F then
      { b with sys := { b.sys with bfmt := tabSet b.sys.bfmt (k - 0x030) (v &&& 0x7FEF#32) } }
    else if 0x040 ≤ k ∧ k ≤ 0x05F ∧ k % 8 ≤ 5 then
      let i := (k - 0x040) / 8
      b.setSysLoops (b.sysLoops.set i (loopSysWrite (b.sysLoops.get i) (k % 8) v))
    else b

/-- System registers that a task may not touch, and those that are read-only in each mode (R80). -/
def sysTaskNone (n : Nat) : Bool := decide (1 ≤ n) && decide (n ≤ 4)
def sysAlwaysRo (n : Nat) : Bool :=
  (decide (0x010 ≤ n) && decide (n ≤ 0x015)) || n == 0x01B || n == 0x01C || (decide (0x024 ≤ n) && decide (n ≤ 0x026))
def sysTaskRo (n : Nat) : Bool := n == 0 || sysAlwaysRo n || (decide (0x020 ≤ n) && decide (n ≤ 0x022))

/-! ### Results in flight -/

/-- Put the bits of `val` under `mask` into `old`. -/
def mergeBits {w : Nat} (old val mask : BitVec w) : BitVec w := (old &&& ~~~mask) ||| (val &&& mask)

/-- A write becomes visible; writes to s0 and p0 are discarded (R65, R75). -/
def landWrite (b : Bank) (w : RegWrite) : Bank :=
  match w with
  | .s n v m => if n = 0 then b else { b with regs := { b.regs with s := tabSet b.regs.s n (mergeBits (b.sreg n) v m) } }
  | .v n v m => { b with regs := { b.regs with v := tabSet b.regs.v n (mergeBits (b.vphys n) v m) } }
  | .p n v m => if n = 0 then b else { b with regs := { b.regs with p := tabSet b.regs.p n (mergeBits (b.pphys n) v m) } }
  | .k n v => { b with regs := { b.regs with k := tabSet b.regs.k n v } }
  | .sys n v => sysWrite b n v

def Bank.orAf (b : Bank) (f : BitVec 6) : Bank := { b with tr := { b.tr with af := b.tr.af ||| f } }

/-- Land the fixed-latency writes that are due by issue cycle `t`, in issue order (R84). -/
def landDue (b : Bank) (t : Nat) : Bank :=
  let due := b.pipe.inflight.filter fun x => decide (x.due ≤ t)
  let b1 := { b with pipe := { b.pipe with inflight := b.pipe.inflight.filter fun x => decide (t < x.due) } }
  due.foldl (fun b x => (landWrite b x.w).orAf x.af) b1

/-- Land one interlocked result (R85). -/
def landLock (b : Bank) (l : Lock) : Bank :=
  let b1 := { b with pipe := { b.pipe with locks := b.pipe.locks.filter fun x => x.id != l.id } }
  (l.ws.foldl landWrite b1).orAf l.af

/-- Drain everything in flight (R132 step 2): the fixed-latency writes in the order in which they become visible, then
the interlocked results that exist. -/
def drain (b : Bank) : Bank :=
  let b1 := (List.range 14).foldl (fun b k => landDue b (b.pipe.cyc + k)) b
  (b1.pipe.locks.filter fun l => l.ready).foldl landLock b1

/-- Start a fixed-latency write (R84): visible `lat` issue cycles on. -/
def Bank.later (b : Bank) (lat : Nat) (w : RegWrite) (af : BitVec 6) : Bank :=
  { b with pipe := { b.pipe with inflight := b.pipe.inflight ++ [{ w := w, af := af, due := b.pipe.cyc + lat }] } }

/-- The number of the next interlocked result. -/
def Bank.lockId (b : Bank) : Nat := b.pipe.locks.foldl (fun m l => max m (l.id + 1)) 0

/-- Start an interlocked result (R85). -/
def Bank.lockWrites (b : Bank) (ws : List RegWrite) (af : BitVec 6) (ready : Bool) : Bank :=
  { b with pipe := { b.pipe with locks := b.pipe.locks ++ [{ id := b.lockId, ws := ws, af := af, ready := ready }] } }

/-- An interlocked scalar result, and one of a pair. -/
def Bank.lockS (b : Bank) (n : Nat) (v : Word) : Bank := b.lockWrites [.s n v (BitVec.allOnes 32)] 0 true
def Bank.lockD (b : Bank) (n : Nat) (v : DWord) : Bank :=
  b.lockWrites [.s n (v.extractLsb' 0 32) (BitVec.allOnes 32), .s (n + 1) (v.extractLsb' 32 32) (BitVec.allOnes 32)] 0 true

/-! ### Events and black-box records -/

/-- The MSI of event `e` as EVTRT `w` routes it (R254). -/
def msiOf (e : Nat) (w : Word) : Msi := { event := e, ident := w.extractLsb' 0 12, hart := w.extractLsb' 16 12 }

/-- Raise event `e` (R253): an MSI goes out on a 0-to-1 change of an enabled, routed bit. -/
def raiseEvent (e : Nat) (s : State) : State :=
  let p := s.plat
  let was := p.evtst.getLsbD e
  let w := tabGet p.evtrt e 0
  let sends := !was && p.evten.getLsbD e && w.getLsbD 31
  { s with plat := { p with evtst := p.evtst ||| (1#13 <<< e), msi := if sends then p.msi ++ [msiOf e w] else p.msi } }

/-- The fields of a Crock record that its writer chooses (R237). -/
structure CrockRec where
  kind : Nat
  code : Nat
  info : Nat
  addr : Nat
  epc  : Nat
  node : Nat
  core : Nat
  bank : Nat
  strc : Nat
  deriving DecidableEq, Repr

def crockBase (kind code : Nat) : CrockRec :=
  { kind := kind, code := code, info := 0, addr := 0, epc := 0, node := 0xFFFF, core := 0, bank := 0, strc := 0xF }

/-- A record's 32 bytes (R237). -/
def crockBits (r : CrockRec) (time seq : Nat) : BitVec 256 :=
  BitVec.ofNat 64 time ++ BitVec.ofNat 48 r.addr ++ (0 : BitVec 16) ++ BitVec.ofNat 32 r.info ++ BitVec.ofNat 32 r.epc ++
  BitVec.ofNat 8 r.kind ++ BitVec.ofNat 8 r.code ++ BitVec.ofNat 16 seq ++ BitVec.ofNat 16 r.node ++ (0 : BitVec 2) ++
  BitVec.ofNat 5 r.core ++ BitVec.ofNat 1 r.bank ++ BitVec.ofNat 4 r.strc ++ (0 : BitVec 4)

/-- Write a record into the Crock ring (R237, R238, CRKHEAD of R254). -/
def crock (r : CrockRec) (s : State) : State :=
  let p := s.plat
  { s with plat := { p with crock := tabSet p.crock p.crkHead.toNat (crockBits r s.aon p.crkSeq.toNat)
                            crkHead := p.crkHead + 1, crkN := p.crkN + 1, crkSeq := p.crkSeq + 1 } }

/-- A fatal error (R264): a record of kind 14, the whole ring copied to the management flash, oldest first, and VDD_CORE
removed. -/
def fatalError (cause : Nat) (s : State) : State :=
  let s1 := crock { crockBase 14 0 with info := cause } s
  let p := s1.plat
  let ring := (List.range 4096).filterMap fun i => tabGet? p.crock ((p.crkHead.toNat + i) % 4096)
  { s1 with plat := { p with flash := p.flash ++ ring, power := .dead } }

/-- A record about a thread: its EPC, node slot, core and bank. -/
def crockThread (s : State) (c : Ctx) (kind code info : Nat) : CrockRec :=
  let b := s.bank c
  { kind := kind, code := code, info := info, addr := 0, epc := b.tr.epc.toNat, node := b.th.node, core := c.core.val,
    bank := c.bank.val, strc := 0xF }

/-! ### Waits -/

/-- A handle and its parts (R42). -/
def handleOf (gen : BitVec 16) (i : Nat) : Word := gen ++ BitVec.ofNat 16 i
def handleIx (h : Word) : Nat := (h.extractLsb' 0 16).toNat
def handleGen (h : Word) : BitVec 16 := h.extractLsb' 16 16

/-- Every command pushed to the four FIFOs has completed. -/
def Engines.idle (e : Engines) : Bool := e.mx.q.isEmpty && e.de.q.isEmpty && e.ci.q.isEmpty && e.co.q.isEmpty

/-- The code with which an IDLE issued at `since` ends now, if it does (R314). -/
def idleCode (b : Bank) (now since imm : Nat) : Option Word :=
  if !b.eng.faults.isEmpty then some 2
  else if b.eng.idle then some 0
  else if imm ≠ 0 ∧ since + 64 * imm ≤ now then some 1
  else none

/-- The code with which a TKW ends, if it does (R351). -/
def tkwCode (s : State) (c : Ctx) (a : Word) (expired : Bool) : Option Word :=
  let n := s.node (handleIx a)
  if a = 0 ∨ n.gen ≠ handleGen a then some 2
  else if a = (s.bank c).sys.nodeh then some 3
  else if n.st = .done ∧ n.failed then some 1
  else if n.st = .done ∨ n.st = .free then some 0
  else if expired then some 4
  else none

/-- Fewer than `n` pops of a copy stream have arrived, and more elements are to come (R77). -/
def Stream.starved (st : Stream) (n : Nat) : Bool :=
  match st with
  | .copy true _ _ bs left => left != 0 && decide (bs.length < 512 * n)
  | .copy false _ es _ left => left != 0 && decide (es.length < n)
  | _ => false

/-- The thread of the bank waits in a wait instruction or on a stalled stream, which blocks its bank (R17, R314, R351). TEXIT's wait and
REGION's cycles are stalls that leave it ready (log 45). -/
def State.inWait (s : State) (c : Ctx) : Bool :=
  let b := s.bank c
  match b.pipe.wait with
  | .none => false
  | .texit => false
  | .hold _ => false
  | .barw _ => true
  | .dsync => true
  | .idle _ since imm => (idleCode b (s.now c.core) since imm).isNone
  | .tkw a _ _ expired => (tkwCode s c a expired).isNone
  | .pop q n => (b.stream q).starved n

/-! ### Bank switches -/

/-- Ready in the sense of R17: the thread can issue. -/
def State.isReady (s : State) (c : Ctx) : Bool := (s.bank c).phase == .ready && !s.inWait c

/-- Blocked on a page fault or a cold-object fault. -/
def Bank.onFault (b : Bank) : Bool :=
  match b.phase with
  | .pageFault => true
  | .cold _ => true
  | _ => false

/-- Make `c` the issuing bank: 4 cycles during which neither issues, the quantum and stall counts restart, and the
outgoing bank's in-flight writes drain (R17, R86). -/
def switchTo (c : Ctx) (s : State) : State :=
  let o := otherBank c
  let s1 := s.setBank o (drain (s.bank o))
  let b := s1.bank c
  let s2 := s1.setBank c { b with pipe := { b.pipe with since := s.time, stall := 0 } }
  s2.setCore c.core { s2.core c.core with issuing := some c.bank, switch := 4 }

/-- A bank starts to issue when no bank of its core does (R17: no switch is paid). -/
def startIssue (c : Ctx) (s : State) : State :=
  let b := s.bank c
  let s1 := s.setBank c { b with pipe := { b.pipe with since := s.time, stall := 0 } }
  s1.setCore c.core { s1.core c.core with issuing := some c.bank }

/-- The issuing bank `c` cannot go on: the other bank issues if it is ready; else a bank that blocks on a fault stays the issuing
bank (no switch), and one that exits or is discarded leaves the core to the other bank's thread, whose wait its engines may end, or
to none (R17, log 45). -/
def leaveBank (c : Ctx) (s : State) : State :=
  let k := s.core c.core
  if k.issuing = some c.bank then
    (if s.isReady (otherBank c) then switchTo (otherBank c) s
     else if (s.bank c).onFault then s
     else if (s.bank (otherBank c)).phase = .ready then switchTo (otherBank c) s
     else s.setCore c.core { k with issuing := none })
  else s

/-- A core that idles, because no bank of it issues or its issuing bank is blocked on a fault, takes up a bank whose wait has ended,
bank A first (R17). -/
def rouse (core : Fin 32) (s : State) : State :=
  let a : Ctx := { core := core, bank := 0 }
  match (s.core core).issuing with
  | none => if s.isReady a then startIssue a s else if s.isReady (otherBank a) then startIssue (otherBank a) s else s
  | some i =>
    let c : Ctx := { core := core, bank := i }
    if (s.bank c).onFault && s.isReady (otherBank c) then switchTo (otherBank c) s else s

/-- A bank becomes ready while no bank of its core is. -/
def wakeCore (c : Ctx) (s : State) : State :=
  let k := s.core c.core
  s.setCore c.core { k with woke := some (s.time, k.issuing) }

/-- Bank A becomes ready in the cycle in which bank B did, and nothing has issued: bank A issues in its place. `was` is the issuing
bank before B became ready. -/
def takeOver (c : Ctx) (was : Option (Fin 2)) (s : State) : State :=
  match was with
  | none => startIssue c s
  | some b =>
    if b = c.bank then s.setCore c.core { s.core c.core with issuing := some b, switch := 0 }
    else switchTo c s

/-- A bank becomes ready: it issues if no bank of its core does, or if the issuing bank is blocked on a fault (R17). A frozen core changes
its issuing bank after the freeze (R138; `rouse`). -/
def bankReady (c : Ctx) (s : State) : State :=
  let b := s.bank c
  let s1 := s.setBank c { b with phase := .ready }
  let k := s1.core c.core
  if k.freeze ≠ 0 then s1
  else match k.issuing with
  | none => startIssue c (wakeCore c s1)
  | some i =>
    if i = c.bank then wakeCore c s1
    else if (s1.bank (otherBank c)).onFault then switchTo c (wakeCore c s1)
    else match k.woke with
      | some (t, was) => if c.bank = 0 ∧ t = s.time ∧ !k.issued then takeOver c was s1 else s1
      | none => s1

/-! ### Traps (R225 to R234) -/

/-- What a trap saves. -/
structure TrapInfo where
  code  : BitVec 8
  eval  : Word
  vah   : BitVec 16
  slot  : BitVec 2
  fetch : Bool
  eng   : BitVec 3
  epc   : Addr
  deriving DecidableEq, Repr

/-- ECAUSE (R228). -/
def TrapInfo.ecause (t : TrapInfo) : Word :=
  t.vah ++ (0 : BitVec 2) ++ t.slot ++ bit1 t.fetch ++ t.eng ++ t.code

/-- The full address that EPC names (R227): the 32 GiB range of the thread's ENTRY. -/
def Bank.epcAddr (b : Bank) (e : Word) : Addr := b.th.entry.extractLsb' 35 13 ++ e ++ (0 : BitVec 3)
def epcOf (a : Addr) : Word := a.extractLsb' 3 32

/-- A FIFO whose commands are all cancelled; unpopped completion words stay. -/
def Fifo.cancel (f : Fifo) : Fifo :=
  { f with q := [], run := false, prog := .reset, stopped := false, unpopped := f.unpopped - f.q.length }
def Fifo.cancelStopped (f : Fifo) : Fifo := if f.stopped then f.cancel else f

/-- The helper of a core ends if it serves bank `c` (R30). -/
def endHelper (c : Ctx) (s : State) : State :=
  let k := s.core c.core
  if k.helper.on && k.helper.owner == c.bank then s.setCore c.core { k with helper := { k.helper with on := false } } else s

/-- No loop active, ROT and PROT 0: what monitor code runs with (R225). -/
def Loops.inactive (l : Loops) : Loops :=
  { l0 := { l.l0 with active := false }, l1 := { l.l1 with active := false }, l2 := { l.l2 with active := false },
    l3 := { l.l3 with active := false }, rot := 0, prot := 0 }

/-- A double fault (R234): a Crock record of kind 2 and the monitor-fault event; the thread then ends as a monitor's
TEXIT ends it, without an EVSIG; pending engine faults go with its commands. -/
def doubleFault (c : Ctx) (second : Nat) (watchdog tvecFetch : Bool) (s : State) : State :=
  let b := s.bank c
  let info := b.tr.ecause.toNat % 256 + (if watchdog then 256 else 0) + (if tvecFetch then 512 else 0)
  let s1 := raiseEvent 7 (crock (crockThread s c 2 second info) s)
  let e := b.eng
  let b1 := drain { b with
    eng := { e with mx := e.mx.cancelStopped, de := e.de.cancelStopped, ci := e.ci.cancelStopped, co := e.co.cancelStopped,
                    faults := [] }
    tr := { b.tr with mode := true }
    pipe := { b.pipe with wait := .texit } }
  endHelper c (s1.setBank c b1)

/-- Taking a trap (R232): drain, save, loops to the saved copies, helper ended, MODE set, and on from TVEC. A trap in
monitor mode is a double fault (R234). -/
def trapEntry (c : Ctx) (t : TrapInfo) (s : State) : State :=
  let b0 := s.bank c
  if b0.tr.mode then doubleFault c t.code.toNat false false s
  else
    let b := drain b0
    let b1 := { b with
      tr := { b.tr with mode := true, epc := epcOf t.epc, ecause := t.ecause, eval := t.eval }
      saved := b.loops
      loops := b.loops.inactive
      th := { b.th with pc := b.tr.tvec.setWidth 48 }
      pipe := { b.pipe with mon := 0, wait := .none, lost := none, early := [] } }
    endHelper c (s.setBank c b1)

/-- Where a stopped HACC goes on, as its progress marks it: (0, 0) running, (1, 0) stopped before a key that the full hash had no room for,
(2, 0) to read its descriptor again and go on at its STEP; none: to read its descriptor and go on at DONE (R223, R236, R309). -/
def haccAgain (l : Option (Word × Word)) : Option (Word × Word) :=
  match l with
  | none => none
  | some x => if x.1 = 1 then none else some (2, 0)

/-- A FIFO whose fault is no longer pending goes on at its STEP; a HACC reads its descriptor again. -/
def Engines.resume (e : Engines) : Engines :=
  let go (f : FifoId) (x : Fifo) : Fifo :=
    if x.stopped && !(e.faults.any fun y => y.fifo == f) then
      { x with stopped := false,
               prog := { x.prog with last := if (x.q.head?.map Cmd.kind) = some .hacc then haccAgain x.prog.last else x.prog.last } }
    else x
  { e with mx := go .mx e.mx, de := go .de e.de, ci := go .ci e.ci, co := go .co e.co }

/-- The return from a trap (R232, R340): loop state from the saved copies, MODE cleared, on from EPC; a faulted engine whose
fault was taken resumes at its saved STEP. -/
def trapReturn (c : Ctx) (s : State) : State :=
  let b := s.bank c
  s.setBank c { b with
    eng := b.eng.resume
    tr := { b.tr with mode := false }
    loops := b.saved
    th := { b.th with pc := b.epcAddr b.tr.epc }
    pipe := { b.pipe with mon := 0 } }

/-! ### Blocking on a fault (R132, R180) -/

/-- A page fault of bank `c` (R132): drain, write the record, raise the event, block, switch banks. -/
def pageBlock (c : Ctx) (cause : BitVec 8) (va : Addr) (src : BitVec 4) (cf : Bool) (s : State) : State :=
  let b := drain (s.bank c)
  let slot : BitVec 2 := if cause = 0x07 then s.freeSlot else BitVec.ofNat 2 s.iss.slot
  let r : Frec := { v := true, cause := cause, va := va, seq := b.frec.seq + 1, src := src, cf := cf, slot := slot }
  leaveBank c (raiseEvent 1 (s.bump.setBank c { b with frec := r, phase := .pageFault }))

/-- A cold-object fault (R180): the bank blocks, the banks switch, and the Colander is asked for a recall. -/
def coldBlock (c : Ctx) (oti : Nat) (s : State) : State :=
  let b := drain (s.bank c)
  let s1 := leaveBank c (s.setBank c { b with phase := .cold oti })
  let h := s1.heap
  if h.recalls.contains oti then s1
  else
    let r := s1.res
    { s1 with
      heap := { h with recalls := h.recalls ++ [oti] }
      res := { r with
        reqs := r.reqs ++
          [{ cls := 1, what := .recall oti, chunk := 0, seq := r.seq, cl := clusterOf c.core, paid := 0, img := [], askers := [] }]
        seq := r.seq + 1 } }

/-! ### How a word ends -/

/-- Why a word does not take its ordinary effect. -/
inductive Stop where
  /-- a synchronous trap; `next` says that EPC names the following bundle (0x10) -/
  | trap (code : BitVec 8) (eval : Word) (vah : BitVec 16) (fetch next : Bool)
  /-- a page fault (0x05, 0x06) with SRC and CF of the record -/
  | page (cause : BitVec 8) (va : Addr) (src : BitVec 4) (cf : Bool)
  /-- a cold object (0x0C) -/
  | cold (oti : Nat)
  /-- the bundle waits and has not issued -/
  | stall
  /-- it waits for `n` elements of stream `q` (R77) -/
  | starved (q n : Nat)
  deriving DecidableEq, Repr

/-- A trap whose EVAL is a plain value. -/
def stopTrap (code : BitVec 8) (eval : Word) : Stop := .trap code eval 0 false false
/-- A trap whose EVAL and VAH hold an address (R230). -/
def stopAddr (code : BitVec 8) (a : Nat) : Stop :=
  .trap code (BitVec.ofNat 32 a) (BitVec.ofNat 16 (a / 2 ^ 32)) false false

def State.verdict (s : State) (v : Verdict) : State := { s with iss := { s.iss with verdict := v } }

/-- The cause that a boundary has raised, by number (R231). -/
def State.raised (s : State) (code : BitVec 8) : State := { s with iss := { s.iss with cause := some code } }

/-- What a stop does to the device: the bundle is suppressed and the trap or the block taken, or the bundle waits. -/
def takeStop (st : Stop) (s : State) : State :=
  match st with
  | .trap code eval vah fetch next =>
    let t : TrapInfo := { code := code, eval := eval, vah := vah, slot := BitVec.ofNat 2 s.iss.slot, fetch := fetch,
                          eng := 0, epc := if next then s.iss.fall else s.iss.pc }
    ((trapEntry s.iss.ctx t s).raised code).verdict .diverted
  | .page cause va src cf =>
    if s.cur.tr.mode then ((doubleFault s.iss.ctx cause.toNat false false s).raised cause).verdict .diverted
    else ((pageBlock s.iss.ctx cause va src cf s).raised cause).verdict .diverted
  | .cold oti =>
    if s.cur.tr.mode then ((doubleFault s.iss.ctx 0x0C false false s).raised 0x0C).verdict .diverted
    else ((coldBlock s.iss.ctx oti s).raised 0x0C).verdict .diverted
  | .stall => s.verdict .stalled
  | .starved q n => (s.setCur { s.cur with pipe := { s.cur.pipe with wait := .pop q n } }).verdict .stalled

/-- The outcome of a word: its effect, or the stop it ran into, with the state that the stop leaves. -/
abbrev Res := Except (Stop × State) State

def finish (r : Res) : Host.Outcome State Fault Refusal :=
  match r with
  | .ok s => .next (s.verdict .done)
  | .error (st, s) => .next (takeStop st s)

/-- A word that stops leaves no effect of its own: the stop is taken in the state before it. -/
def plain (s : State) (r : Except Stop State) : Res :=
  match r with
  | .ok t => .ok t
  | .error st => .error (st, s)

end Sys2Proof.Machine
end

