-- ==== Sys2Proof/Machine/Chunk.lean ====
section
/-! DEFINITION. The block entropy format (R198) and the header of a compressed chunk (R126). An image is one number, bytes
lowest first, so that bit p of the number is the p-th bit that the format reads. -/

namespace Sys2Proof.Machine

/-- Symbol width Z, residual width T and element width of a format code. -/
def entropyWidths (fmt : Nat) : Nat × Nat × Nat :=
  if fmt = 5 then (8, 8, 16) else if 9 ≤ fmt then (8 - (fmt - 9), fmt - 9, 8) else (8, 0, 8)

/-- An element rebuilt from its symbol and residual: bf16 puts residual bit 7 in the sign (R198). -/
def entropyElem (fmt sym res : Nat) : Nat :=
  if fmt = 5 then bits res 7 1 * 2 ^ 15 + sym * 2 ^ 7 + res % 2 ^ 7
  else if 9 ≤ fmt then sym * 2 ^ (fmt - 9) + res
  else sym

/-- Read one code at bit `pos`: the symbol and the position after it; none if the index reaches CNT. -/
def entropyCode (img pos z : Nat) (tbl : List Nat) : Option (Nat × Nat) :=
  if bits img pos 1 = 0 then (tbl[bits img (pos + 1) 2]?).map fun s => (s, pos + 3)
  else if bits img (pos + 1) 1 = 0 then (tbl[4 + bits img (pos + 2) 3]?).map fun s => (s, pos + 5)
  else some (bits img (pos + 2) z, pos + 2 + z)

/-- Read `n` codes; the symbols come last first. -/
def entropyCodes (img z : Nat) (tbl : List Nat) (n pos : Nat) (acc : List Nat) : Option (List Nat × Nat) :=
  match n with
  | 0 => some (acc, pos)
  | k + 1 =>
    match entropyCode img pos z tbl with
    | none => none
    | some (s, p) => entropyCodes img z tbl k p (s :: acc)

/-- The next byte boundary. -/
def byteAlign (pos : Nat) : Nat := (pos + 7) / 8 * 8

/-- The bytes of a coded block (MODE 00) from bit `pos`, after its header byte. -/
def codedBlock (fmt img pos cnt : Nat) : Option (List Byte × Nat) :=
  let (z, t, ew) := entropyWidths fmt
  let tbl := (List.range cnt).map fun i => bits img (pos + 8 * i) 8
  if tbl.any (fun s => decide (2 ^ z ≤ s)) then none
  else
    let n := 4096 * 8 / ew
    match entropyCodes img z tbl n (pos + 8 * cnt) [] with
    | none => none
    | some (syms, p1) =>
      let p2 := byteAlign p1
      let p3 := p2 + t * n
      let p4 := byteAlign p3
      if bits img p1 (p2 - p1) ≠ 0 ∨ bits img p3 (p4 - p3) ≠ 0 then none
      else
        let els := ((List.range n).zip syms.reverse).map fun x => entropyElem fmt x.2 (bits img (p2 + t * x.1) t)
        some (els.flatMap (natLe (ew / 8)), p4)

/-- One block of 4096 bytes from bit `pos`. -/
def entropyBlock (fmt img pos : Nat) : Option (List Byte × Nat) :=
  let hd := bits img pos 8
  if bits hd 2 2 ≠ 0 ∨ 12 < bits hd 4 4 then none
  else match hd % 4 with
    | 0 => codedBlock fmt img (pos + 8) (bits hd 4 4)
    | 1 => some ((List.range 4096).map fun i => BitVec.ofNat 8 (bits img (pos + 8 + 8 * i) 8), pos + 8 + 8 * 4096)
    | 2 => some (List.replicate 4096 (BitVec.ofNat 8 (bits img (pos + 8) 8)), pos + 16)
    | _ => none

/-- `n` blocks; the whole image must be used up, and no block may end beyond it. -/
def entropyBlocks (fmt img len n pos : Nat) : Option (List Byte) :=
  match n with
  | 0 => if pos = 8 * len then some [] else none
  | k + 1 =>
    match entropyBlock fmt img pos with
    | none => none
    | some (b, p) => if 8 * len < p then none else (entropyBlocks fmt img len k p).map fun r => b ++ r

/-- The 65,536 bytes that an image of `len` bytes decodes to (R198), or none. -/
def entropyDecode (fmt : Nat) (image : List Byte) : Option (List Byte) :=
  entropyBlocks fmt (leNat image) image.length 16 0

/-- A compressed chunk's bytes decoded (R126, R127): CODEC 0, LEN in range and no longer than what follows the header, exactly 65,536
bytes. -/
def chunkDecode (chunk : List Byte) : Option (List Byte) :=
  let hd := leNat (chunk.take 8)
  let len := bits hd 0 32
  if bits hd 32 4 ≠ 0 ∨ len = 0 ∨ 65472 < len ∨ chunk.length < 64 + len then none
  else entropyDecode (bits hd 36 4) ((chunk.drop 64).take len)

end Sys2Proof.Machine
end

