-- ==== Sys2Proof/Machine/Push.lean ====
section
/-! DEFINITION. What a push of a matrix command reads and checks (R325): the command of a word, shapes, formats and rings of its
operands (R213, R106, R211, R212, R109, R215), and the checks that stand before those of the word's own fields. -/

namespace Sys2Proof.Machine

/-- Illegal instruction at issue: EVAL holds the low half of the word (R230). -/
def illegalStop (i : Instr) : Stop := stopTrap 0x01 ((wordOf i).extractLsb' 0 32)

/-- The command of an E-format word (R348: the formats in force at the push). -/
def cmdOf (k : CmdKind) (o : EOps) (b : Bank) : Cmd :=
  { id := b.eng.nextId, kind := k, tok := o.tok, ra := o.ra.toNat, rb := o.rb.toNat, x := b.sreg o.sx.toNat,
    y := b.sreg o.sy.toNat, z := b.sreg o.sz.toNat, z1 := if o.sz = 63 then 0 else b.sreg (o.sz.toNat + 1), imm := o.eimm,
    ty := 0, rm := 0, sat := false, fmts := b.sys.bfmt, desc := 0, split := none, mon := b.tr.mode }

/-- The scratchpad bank that holds an offset. -/
def Bank.spBank (b : Bank) (o : Nat) : Option Nat :=
  (List.range 8).find? fun k => decide (b.spBase k ≤ o) && decide (o < b.spBase k + b.spSize k)

/-! ### Shapes and formats -/

/-- The shape word (R213). -/
structure Shape where
  m : Nat
  n : Nat
  k : Nat
  deriving DecidableEq, Repr

def shapeOf (y : Word) : Shape :=
  { m := bits y.toNat 0 9 + 1, n := bits y.toNat 9 8 + 1, k := 16 * (bits y.toNat 17 8 + 1) }

/-- The bank that holds a ring's slots, and its format under a command's formats. -/
def ringBank (b : Bank) (r : Ring) : Nat := (b.spBank r.base).getD 0
def fmtAt (fmts : Tab Word) (k : Nat) : Bf := bfOf (tabGet fmts k 0)

/-- S (R109), and integer mode. -/
def stepSize (fa fb : Bf) : Nat := if fa.fmt = 5 ∨ fb.fmt = 5 then 16 else if fa.width = 8 ∨ fb.width = 8 then 32 else 64
def intMode (fa fb : Bf) : Bool := decide (fa.fmt = 1 ∨ fa.fmt = 2) && decide (fb.fmt = 1 ∨ fb.fmt = 2) && fa.grp == 0 && fb.grp == 0

/-- Row bytes and slots of an operand (R212). -/
def rowBytes (k w : Nat) : Nat := (k * w + 127) / 128 * 16
def slotsFor (rows rb ssz : Nat) : Nat := (rows * rb + ssz - 1) / ssz

/-- Stored elements of a row of B under a pattern code (R215): 1, or the kept fraction. -/
def keptOf (pat : Nat) : Nat :=
  match pat with
  | 1 => 4
  | 2 => 2
  | 3 => 4
  | 4 => 1
  | _ => 8

/-- The checks of R106 on an operand bank. -/
def operandFmt (ill : Stop) (f : Bf) (k : Nat) : Option Stop :=
  if f.reserved then some (stopTrap 0x01 (BitVec.ofNat 32 k))
  else if f.fmt = 0 ∨ f.fmt = 3 ∨ f.fmt = 4 ∨ f.fmt = 6 then some ill
  else if f.grp ≠ 0 ∧ f.sb = k then some ill
  else if f.fmt = 1 ∧ f.grp = 1 then some ill
  else none

/-- The accumulator range of M x N words (R79). -/
def accCheck (b : Bank) (x : Word) (s : Shape) : Option Stop :=
  if x.toNat % 8 ≠ 0 then some (stopAddr 0x04 x.toNat)
  else if b.accBytes < x.toNat + 8 * s.m * s.n then some (stopAddr 0x08 x.toNat)
  else none

/-- The first check of a list that fails. -/
def firstStop (l : List (Option Stop)) : Option Stop := l.findSome? id
def stopIf (p : Bool) (e : Stop) : Option Stop := if p then some e else none

/-- A matrix operand: its ring, the first slot counted from HEAD, its row bytes, expected span, bank and format. -/
structure Operand where
  rno   : Nat
  first : Nat
  rb    : Nat
  span  : Nat
  bank  : Nat
  bf    : Bf
  deriving DecidableEq, Repr

/-- What MMA and MMAS need of their operands. -/
structure MmaPlan where
  sh   : Shape
  s    : Nat
  im   : Bool
  pat  : Nat
  a    : Operand
  b    : Operand
  na   : Nat
  nb   : Nat
  deriving DecidableEq, Repr

def Cmd.sparse (x : Cmd) : Bool := x.kind == .mmas

def mmaPlan (b : Bank) (x : Cmd) : MmaPlan :=
  let sh := shapeOf x.y
  let ra := b.ring x.ra
  let rb := b.ring x.rb
  let ka := ringBank b ra
  let kb := ringBank b rb
  let fa := fmtAt x.fmts ka
  let fb := fmtAt x.fmts kb
  let pat := if x.sparse then x.z1.toNat % 8 else 0
  let wa := rowBytes sh.k fa.width
  let wb := rowBytes (sh.k * keptOf pat / 8) fb.width
  let na := slotsFor sh.m wa ra.ssz
  { sh := sh, s := stepSize fa fb, im := intMode fa fb, pat := pat,
    a := { rno := x.ra, first := 0, rb := wa, span := (x.imm.extractLsb' 0 3).toNat, bank := ka, bf := fa },
    b := { rno := x.rb, first := if x.ra = x.rb then na else 0, rb := wb, span := (x.imm.extractLsb' 3 3).toNat, bank := kb,
           bf := fb },
    na := na, nb := slotsFor sh.n wb rb.ssz }

/-- The header of MMAS (R215). -/
def headerOk (z1 : Word) : Bool := decide (1 ≤ z1.toNat) && decide (z1.toNat ≤ 4)

/-- Slots that the operands need of their rings (R212). -/
def MmaPlan.needs (p : MmaPlan) (b : Bank) : Bool :=
  if p.a.rno = p.b.rno then decide (p.na + p.nb ≤ (b.ring p.a.rno).cnt)
  else decide (p.na ≤ (b.ring p.a.rno).cnt) && decide (p.nb ≤ (b.ring p.b.rno).cnt)

/-- MRANK's operand: M rows of N scores. -/
def rankOperand (b : Bank) (x : Cmd) : Operand :=
  let k := ringBank b (b.ring x.ra)
  { rno := x.ra, first := 0, rb := rowBytes (shapeOf x.y).n (fmtAt x.fmts k).width, span := (x.imm.extractLsb' 0 3).toNat,
    bank := k, bf := fmtAt x.fmts k }
def rankNeed (b : Bank) (x : Cmd) : Nat := slotsFor (shapeOf x.y).m (rankOperand b x).rb (b.ring x.ra).ssz
/-- k of `.sel`. -/
def Cmd.selK (x : Cmd) : Nat := (x.imm.extractLsb' 3 5).toNat

/-- The checks of a push of MMA or MMAS up to the formats of its banks (R325, R326). -/
def mmaEarly (b : Bank) (x : Cmd) (ill : Stop) : Option Stop :=
  let p := mmaPlan b x
  firstStop [
    stopIf (x.sparse && !headerOk x.z1) ill,
    stopIf (decide (2 ^ 25 ≤ x.y.toNat)) ill,
    stopIf (p.sh.k % p.s != 0) ill,
    stopIf ((b.ring x.ra).cnt == 0 || (b.ring x.rb).cnt == 0) ill,
    stopIf (!p.needs b) ill,
    operandFmt ill p.a.bf p.a.bank,
    operandFmt ill p.b.bf p.b.bank]

/-- The same for MRANK. -/
def rankEarly (b : Bank) (x : Cmd) (ill : Stop) : Option Stop :=
  let a := rankOperand b x
  firstStop [
    stopIf (decide (2 ^ 17 ≤ x.y.toNat)) ill,
    stopIf ((b.ring x.ra).cnt == 0) ill,
    stopIf (decide ((b.ring x.ra).cnt < rankNeed b x)) ill,
    operandFmt ill a.bf a.bank]

/-- The checks of a destination bank of MRD, at push (R106, R217). -/
def mrdCheck (b : Bank) (x : Cmd) (ill : Stop) : Option Stop :=
  match b.spBank x.z.toNat with
  | none => none
  | some k =>
    let f := fmtAt x.fmts k
    if f.reserved then some (stopTrap 0x01 (BitVec.ofNat 32 k)) else stopIf (f.grp != 0) ill

/-- MRD's checks up to the bank's format. -/
def mrdEarly (b : Bank) (x : Cmd) (ill : Stop) : Option Stop :=
  firstStop [stopIf (decide (2 ^ 25 ≤ x.y.toNat)) ill, mrdCheck b x ill]

/-- An ill-formed matrix word whose only fault is one that R325 tests after the banks' formats (reserved bits of EIMM, GA on MMAS,
RB of MRANK), with that fault taken away. -/
def lateChecked : Instr → Option Instr
  | .mma h o => some (.mma h { o with eimm := o.eimm &&& 0x3BF })
  | .mmas h o => some (.mmas h { o with eimm := o.eimm &&& 0x2BF })
  | .mrank h o => some (.mrank h { o with rb := 0, eimm := o.eimm &&& 0x2FF })
  | .mrd h o => some (.mrd h { o with eimm := o.eimm &&& 0x1A00 })
  | _ => none

/-- The stop of an ill-formed word. Where R325 tests the formats of the banks first, EVAL is the bank of a reserved one. -/
def formStop (i : Instr) (b : Bank) : Stop :=
  let ill := illegalStop i
  if !((lateChecked i).any Instr.wf && b.enabled i.hdr) then ill
  else match i with
    | .mma _ o => (mmaEarly b (cmdOf .mma o b) ill).getD ill
    | .mmas _ o => (mmaEarly b (cmdOf .mmas o b) ill).getD ill
    | .mrank _ o => (rankEarly b (cmdOf .mrank o b) ill).getD ill
    | .mrd _ o => (mrdEarly b (cmdOf .mrd o b) ill).getD ill
    | _ => ill

end Sys2Proof.Machine
end

