-- ==== Sys2Proof/Machine/Operands.lean ====
section
/-! DEFINITION. Operands: the registers that a word names as sources and destinations (before rotation; R67, R71, R74,
R271), the operand modifiers (R66 to R68), the checks that every word passes before it acts (R272, R281, R358), and the
word prefix `word` over which every meaning of an instruction word is written. -/

namespace Sys2Proof.Machine

/-- A register by name. -/
inductive RegName where
  | s (n : Nat)
  | v (n : Nat)
  | p (n : Nat)
  | k (n : Nat)
  | l (n : Nat)
  | q (n : Nat)
  | n (i : Nat)
  | h (n : Nat)
  deriving DecidableEq, Repr

/-- A 64-bit scalar operand (R65). -/
def pairS (n : Nat) : List RegName := [.s n, .s (n + 1)]
/-- `n` consecutive registers. -/
def manyV (v n : Nat) : List RegName := (List.range n).map fun i => .v (v + i)
def manyP (p n : Nat) : List RegName := (List.range n).map fun i => .p (p + i)

/-- The data register that a size code names (R279). -/
def dataReg (sz : BitVec 3) (dr : BitVec 8) : List RegName :=
  match sz.toNat with
  | 3 => pairS dr.toNat
  | 6 => [.v dr.toNat]
  | 7 => [.p dr.toNat]
  | _ => [.s dr.toNat]

/-- The range of LDM and STM (R279): N - 1 in OFF[19:12]. -/
def rangeCount (o : MOps) : Nat := (o.off.extractLsb' 12 8).toNat + 1
def rangeRegs (o : MOps) : List RegName :=
  if o.sz == 6 then manyV o.dr.toNat (rangeCount o) else manyP o.dr.toNat (rangeCount o)

/-- Registers of an AMO or CAS (R297). -/
def amoRegs (o : MOps) : List RegName := if o.sz == 3 then pairS o.dr.toNat else [.s o.dr.toNat]
def casRegs (o : MOps) : List RegName :=
  if o.sz == 3 then pairS o.dr.toNat ++ pairS (o.dr.toNat + 2) else pairS o.dr.toNat

/-- The scalar of a VS form (R283). -/
def vsScalar (o : VsOps) : List RegName := if o.ss == 0 then [] else [.s o.ss.toNat]

/-- The register groups of VCVT (R362): 2^(difference of widths) registers on the wider side. -/
def cvtSrcs (o : VrOps) : List RegName := manyV o.va.toNat (2 ^ (tyLogW (o.vc.extractLsb' 0 4) - tyLogW o.ty))
def cvtDsts (o : VrOps) : List RegName := manyV o.vd.toNat (2 ^ (tyLogW o.ty - tyLogW (o.vc.extractLsb' 0 4)))

/-- Bins of VHIST and VHMERGE (R371). -/
def histBins (o : VrOps) : Nat := (o.vb.extractLsb' 0 5).toNat + 1

/-- Source registers of a word, less its guard. -/
def readsOf : Instr → List RegName
  | .sysw _ o | .evsig _ o | .tnode _ o | .tkw _ o => [.s o.sa.toNat]
  | .tlaunch _ o => pairS o.sa.toNat ++ [.s (o.imm.extractLsb' 0 6).toNat]
  | .sadd _ o | .ssub _ o | .smul _ o | .smulh _ o | .sdiv _ o | .srem _ o | .sand _ o | .sor _ o | .sxor _ o
  | .sshl _ o | .sshr _ o | .ssra _ o | .smin _ o | .smax _ o | .sext _ o | .slea _ o | .scmp _ o =>
    [.s o.sa.toNat, .s o.sb.toNat]
  | .ssel _ o | .sins _ o => [.s o.sa.toNat, .s o.sb.toNat, .s o.sd.toNat]
  | .smov _ o | .sclz _ o | .spop _ o => [.s o.sa.toNat]
  | .plog _ o => [.p (o.sa.extractLsb' 0 4).toNat, .p (o.sb.extractLsb' 0 4).toNat]
  | .saddSi _ o | .ssubSi _ o | .smulSi _ o | .smulhSi _ o | .sdivSi _ o | .sremSi _ o | .sandSi _ o | .sorSi _ o
  | .sxorSi _ o | .sshlSi _ o | .sshrSi _ o | .ssraSi _ o | .sminSi _ o | .smaxSi _ o | .slui _ o | .sextSi _ o
  | .sleaSi _ o => [.s o.sa.toNat]
  | .sselSi _ o | .sinsSi _ o => [.s o.sa.toNat, .s o.sd.toNat]
  | .brc _ o | .bri _ o | .callIndirect _ o | .ret _ o => [.s o.sa.toNat]
  | .loop _ o => if o.bf.extractLsb' 1 2 == 1 then [.s o.sa.toNat] else []
  | .ld _ o | .ldv _ o | .ldm _ o | .pref _ o | .acq _ o | .bara _ o | .barw _ o => [.s o.bs.toNat]
  | .st _ o | .stv _ o => .s o.bs.toNat :: dataReg o.sz o.dr
  | .stm _ o => .s o.bs.toNat :: rangeRegs o
  | .amo _ o => .s o.bs.toNat :: amoRegs o
  | .cas _ o => .s o.bs.toNat :: casRegs o
  | .rel _ o => .s o.bs.toNat :: pairS o.dr.toNat
  | .kld _ o => [.s o.dr.toNat]
  | .kldObject _ o => [.k o.kb.toNat]
  | .kst _ o => [.s o.dr.toNat, .k o.kh.toNat]
  | .kstObject _ o => [.k o.kb.toNat, .k o.kh.toNat]
  | .kget _ o | .kpin _ o | .kunpin _ o => [.k o.kb.toNat]
  | .kput _ o => .k o.kb.toNat :: dataReg o.sz o.dr
  | .knew _ o => pairS o.dr.toNat
  | .keq _ o => [.k o.kh.toNat, .k o.kb.toNat]
  | .hopen _ o => pairS o.dr.toNat
  | .hld _ o | .hrel _ o => [.h o.kh.toNat]
  | .hst _ o => .h o.kh.toNat :: dataReg o.sz o.dr
  | .vadd _ o | .vsub _ o | .vmul _ o | .vmin _ o | .vmax _ o | .vand _ o | .vor _ o | .vxor _ o | .vshl _ o
  | .vshr _ o | .vcmp _ o | .vwmul _ o | .vwadd _ o | .vrng _ o => [.v o.va.toNat, .v o.vb.toNat]
  | .vfma _ o | .vdot4 _ o => [.v o.va.toNat, .v o.vb.toNat, .v o.vc.toNat]
  | .vsel _ o => [.v o.va.toNat, .v o.vb.toNat, .p (o.vc.extractLsb' 0 4).toNat]
  | .vperm _ o =>
    [.v o.va.toNat, .v o.vb.toNat, .v o.vc.toNat] ++ (if tyLogW o.ty == 3 then [.v (o.vb.toNat + 1)] else [])
  | .vcvt _ o => cvtSrcs o
  | .vhist _ o => .v o.va.toNat :: manyV o.vd.toNat (histBins o)
  | .vhmerge _ o => manyV o.va.toNat (histBins o)
  | .vabs _ o | .vmov _ o | .vexp2 _ o | .vlog2 _ o | .vrcp _ o | .vrsq _ o | .vtanh _ o | .vrsum _ o | .vrmax _ o
  | .vrmin _ o | .vmaxi _ o | .vmini _ o | .vscan _ o | .vcomp _ o => [.v o.va.toNat]
  | .vchain _ o => [.s (o.va.extractLsb' 0 6).toNat]
  | .vaddVs _ o | .vsubVs _ o | .vmulVs _ o | .vminVs _ o | .vmaxVs _ o | .vandVs _ o | .vorVs _ o | .vxorVs _ o
  | .vshlVs _ o | .vshrVs _ o | .vcmpVs _ o | .vselVs _ o | .vwmulVs _ o | .vwaddVs _ o => .v o.va.toNat :: vsScalar o
  | .vfmaVs _ o | .vdot4Vs _ o => .v o.va.toNat :: .v o.vd.toNat :: vsScalar o
  | .vmovVs _ o => vsScalar o
  | .mma _ o => [.s o.sx.toNat, .s o.sy.toNat, .s o.sz.toNat, .n o.ra.toNat, .n o.rb.toNat]
  | .mmas _ o => [.s o.sx.toNat, .s o.sy.toNat, .n o.ra.toNat, .n o.rb.toNat] ++ pairS o.sz.toNat
  | .mrank _ o =>
    [.s o.sx.toNat, .s o.sy.toNat, .n o.ra.toNat] ++ (if o.eimm.extractLsb' 3 5 == 0 then [] else pairS o.sz.toNat)
  | .mrd _ o => [.s o.sx.toNat, .s o.sy.toNat] ++ (if o.eimm.getLsbD 11 then pairS o.sz.toNat else [.s o.sz.toNat])
  | .mzero _ o => [.s o.sx.toNat, .s o.sy.toNat]
  | .cpy _ o | .hacc _ o => [.s o.sx.toNat]
  | .qbind _ o => if o.eimm.extractLsb' 4 2 == 3 then [.s o.sx.toNat] else []
  | .rinit _ o => [.s o.sx.toNat, .s o.sy.toNat, .s o.sz.toNat]
  | .merge _ o => [.s o.sx.toNat, .s o.sy.toNat] ++ pairS o.sz.toNat
  | .radv _ o => [.n o.ra.toNat]
  | .xroute _ o => [.v o.va.toNat, .v o.vb.toNat, .s o.sa.toNat]
  | .xclose _ o | .xcloseFinal _ o | .xfetch _ o | .xpin _ o | .xunpin _ o | .xqry _ o | .xrepl _ o => [.s o.sa.toNat]
  | .xpred _ o => [.s o.sa.toNat, .s o.sb.toNat]
  | .xsnap _ o => .s o.sa.toNat :: pairS o.sb.toNat
  | _ => []

/-- Destination registers that a word names, before rotation (R271): s0 and p0 are left out by `dests`. -/
def writesOf : Instr → List RegName
  | .sysr _ o | .idle _ o | .tnode _ o | .tlaunch _ o | .tkw _ o => [.s o.sd.toNat]
  | .sadd _ o | .ssub _ o | .smul _ o | .smulh _ o | .sdiv _ o | .srem _ o | .sand _ o | .sor _ o | .sxor _ o
  | .sshl _ o | .sshr _ o | .ssra _ o | .smin _ o | .smax _ o | .sext _ o | .slea _ o | .ssel _ o | .sins _ o
  | .smov _ o | .sclz _ o | .spop _ o => [.s o.sd.toNat]
  | .scmp _ o | .plog _ o => [.p (o.sd.extractLsb' 0 4).toNat]
  | .saddSi _ o | .ssubSi _ o | .smulSi _ o | .smulhSi _ o | .sdivSi _ o | .sremSi _ o | .sandSi _ o | .sorSi _ o
  | .sxorSi _ o | .sshlSi _ o | .sshrSi _ o | .ssraSi _ o | .sminSi _ o | .smaxSi _ o | .slui _ o | .sextSi _ o
  | .sleaSi _ o | .sselSi _ o | .sinsSi _ o | .smovSi _ o => [.s o.sd.toNat]
  | .call _ _ | .callIndirect _ _ => [.s 63]
  | .loop _ o => .l o.li.toNat :: (if o.bf.getLsbD 0 then manyP 8 8 else [])
  | .loopx _ o => [.l o.li.toNat]
  | .ld _ o | .ldv _ o => dataReg o.sz o.dr
  | .ldm _ o => rangeRegs o
  | .amo _ o => amoRegs o
  | .cas _ o => amoRegs o
  | .acq _ o => pairS o.dr.toNat
  | .kget _ o | .hld _ o => dataReg o.sz o.dr
  | .kld _ o | .kldObject _ o | .knew _ o => [.k o.kh.toNat]
  | .kpin _ o => pairS o.dr.toNat
  | .keq _ o => [.s o.dr.toNat]
  | .hopen _ o => [.h o.kh.toNat, .s o.dr.toNat]
  | .hrel _ o => [.h o.kh.toNat]
  | .vadd _ o | .vsub _ o | .vmul _ o | .vfma _ o | .vmin _ o | .vmax _ o | .vabs _ o | .vand _ o | .vor _ o
  | .vxor _ o | .vshl _ o | .vshr _ o | .vsel _ o | .vmov _ o | .vdot4 _ o | .vexp2 _ o | .vlog2 _ o | .vrcp _ o
  | .vrsq _ o | .vtanh _ o | .vrsum _ o | .vrmax _ o | .vrmin _ o | .vscan _ o | .vperm _ o | .vhmerge _ o
  | .vrng _ o => [.v o.vd.toNat]
  | .vwmul _ o | .vwadd _ o | .vmaxi _ o | .vmini _ o | .vcomp _ o => manyV o.vd.toNat 2
  | .vcvt _ o => cvtDsts o
  | .vhist _ o => manyV o.vd.toNat (histBins o)
  | .vcmp _ o => [.p (o.vd.extractLsb' 0 4).toNat]
  | .vaddVs _ o | .vsubVs _ o | .vmulVs _ o | .vfmaVs _ o | .vminVs _ o | .vmaxVs _ o | .vandVs _ o | .vorVs _ o
  | .vxorVs _ o | .vshlVs _ o | .vshrVs _ o | .vselVs _ o | .vmovVs _ o | .vdot4Vs _ o => [.v o.vd.toNat]
  | .vwmulVs _ o | .vwaddVs _ o => manyV o.vd.toNat 2
  | .vcmpVs _ o => [.p (o.vd.extractLsb' 0 4).toNat]
  | .qbind _ o => [.q (o.eimm.extractLsb' 0 4).toNat]
  | .rinit _ o | .radv _ o => [.n o.ra.toNat]
  | .epop _ o | .estat _ o => [.s o.sx.toNat]
  | .xroute _ o => manyV o.vd.toNat 2
  | .xpred _ o => [.v o.vd.toNat]
  | .xfetch _ o | .xpin _ o | .xunpin _ o | .xrepl _ o => [.s o.sb.toNat]
  | .xqry _ o => pairS o.sb.toNat
  | _ => []

/-- The destinations that the check of R271 compares: s0 and p0 are exempt. -/
def destsOf (i : Instr) : List RegName := (writesOf i).filter fun r => r != .s 0 && r != .p 0

/-! ### The checks that precede every effect -/

/-- A vector register of the name exists (R71). -/
def regOk (b : Bank) (r : RegName) : Bool :=
  match r with
  | .v n => decide (n < 32 * b.rf)
  | .p n => decide (n < 16)
  | .s n => decide (n < 64)
  | _ => true

def regsExist (i : Instr) (b : Bank) : Bool := (readsOf i).all (regOk b) && (writesOf i).all (regOk b)

/-- Does a pending interlocked write hold this physical register? -/
def writeHits (b : Bank) (r : RegName) (w : RegWrite) : Bool :=
  match r, w with
  | .s n, .s m _ _ => n == m && n != 0
  | .v n, .v m _ _ => b.physV n == m
  | .p n, .p m _ _ => b.physP n == m && m != 0
  | .k n, .k m _ => n == m
  | _, _ => false

/-- A register with an outstanding interlocked write of an earlier bundle (R85). -/
def outstanding (b : Bank) (fresh : Option Nat) (r : RegName) : Bool :=
  b.pipe.locks.any fun l => (fresh.all fun n => decide (l.id < n)) && l.ws.any (writeHits b r)

/-- SYSR and SYSW of STATUS. -/
def namesStatus : Instr → Bool
  | .sysr _ o | .sysw _ o => o.srn == 0
  | _ => false

/-- Interlocked results of earlier bundles will set flags of STATUS.AF with their value (R89). -/
def flagsOutstanding (b : Bank) (fresh : Option Nat) : Bool :=
  b.pipe.locks.any fun l => (fresh.all fun n => decide (l.id < n)) && l.af != 0

/-- A bundle that reads or writes such a register stalls (R85); the guard is a source, and STATUS is a register whose outstanding flags
count, so that AF does not depend on when results land (R116). -/
def interlocked (i : Instr) (b : Bank) (fresh : Option Nat) : Bool :=
  outstanding b fresh (.p i.hdr.pg.toNat) || (readsOf i).any (outstanding b fresh) || (writesOf i).any (outstanding b fresh) ||
  (namesStatus i && flagsOutstanding b fresh)

/-- Words that only monitor mode, or only task mode, may run, and system registers out of reach (R80, R81, R298, R304,
R310, R336, R340, R345, R356, R378). -/
def privileged (i : Instr) (mon : Bool) : Bool :=
  match i with
  | .rte .. | .halt .. => !mon
  | .bara .. | .barw .. | .dsync .. | .region .. | .slice .. | .tyield .. => mon
  | .xroute .. | .xclose .. | .xcloseFinal .. | .xfetch .. | .xpin .. | .xunpin .. | .xpred .. | .xqry .. | .xsnap ..
  | .xrepl .. => mon
  | .sysr _ o => !mon && sysTaskNone o.srn.toNat
  | .sysw _ o => !mon && (sysTaskNone o.srn.toNat || sysTaskRo o.srn.toNat)
  | _ => false

/-- EVAL of a privilege trap: the register number for SYSR and SYSW, else the word (R230). -/
def privEval (i : Instr) : Word :=
  match i with
  | .sysr _ o | .sysw _ o => o.srn.setWidth 32
  | i => (wordOf i).extractLsb' 0 32

/-- Words governed element by element (R272). VCHAIN pushes a command, which carries no guard: bit 0 governs it (log 20). -/
def isVector (i : Instr) : Bool :=
  match i with
  | .vchain .. => false
  | i =>
    match i.parts with
    | some x => decide (0x10 ≤ x.2.1.toNat) && decide (x.2.1.toNat ≤ 0x13)
    | none => false

/-- The checks of a word that hold whatever its guard is (R272): its fields, its registers, its privilege. -/
def precheck (i : Instr) (b : Bank) : Option Stop :=
  if !i.wf || !regsExist i b then some (formStop i b)
  else if privileged i b.tr.mode then some (stopTrap 0x03 (privEval i))
  else none

/-- The prefix of every instruction word: the checks, the interlocks of R85, and, but for a vector word, the guard. -/
def runWord (i : Instr) (s : State) (eff : State → Res) : Res :=
  match precheck i s.cur with
  | some st => .error (st, s)
  | none =>
    if interlocked i s.cur s.iss.fresh then .error (.stall, s)
    else if !isVector i && !s.cur.enabled i.hdr then .ok s
    else eff s

/-- The meaning of an instruction word with the effect `eff`. -/
def word (i : Instr) (s : State) (eff : State → Res) : Host.Outcome State Fault Refusal := finish (runWord i s eff)

/-- The word can take its effect: its checks pass, nothing holds it up and its guard is true. -/
def Runs (i : Instr) (s : State) : Prop :=
  precheck i s.cur = none ∧ interlocked i s.cur s.iss.fresh = false ∧ (isVector i = true ∨ s.cur.enabled i.hdr = true)

/-! ### Packed scalar operands (R66 to R68) -/

/-- The pattern of R68. -/
def swizzle (n ix j : Nat) : Nat :=
  match ix with
  | 1 => n - 1 - j
  | 2 => j ^^^ 1
  | 3 => j ^^^ 2
  | 4 => j ^^^ 4
  | 5 => (j + 1) % n
  | 6 => j - j % 2
  | 7 => j ||| 1
  | _ => j

/-- The element that lane j of a source reads (R67). -/
def srcLane (m : BitVec 6) (n j : Nat) : Nat := if modSw m then swizzle n (modIx m) j else modIx m

/-- Element e of width w. -/
def elemOf (x w e : Nat) : Nat := bits x (w * e) w

/-- Bits of the lanes that are written: all of them, or one element (R67). -/
def dstMask (md : BitVec 6) (w n : Nat) : Nat :=
  if n = 1 || modSw md then 2 ^ 32 - 1 else (2 ^ w - 1) * 2 ^ (w * modIx md)

/-- Pack lanes, lane 0 lowest. -/
def packLanes (w : Nat) : List Nat → Nat
  | [] => 0
  | x :: r => x % 2 ^ w + 2 ^ w * packLanes w r

/-- One packed operation: lanes of a, b and the old destination to a flagged result per lane. -/
def srLanes (o : SrOps) (a b d : Word) (f : Nat → Nat → Nat → Nat → Flagged) : List Flagged :=
  let n := lanesOfSize (modSize o.md)
  let w := 32 / n
  (List.range n).map fun j =>
    f w (elemOf a.toNat w (srcLane o.ma n j)) (elemOf b.toNat w (srcLane o.mb n j)) (elemOf d.toNat w j)

/-- Which lanes are computed for the destination: in select mode, the one that is written. -/
def laneWritten (md : BitVec 6) (n j : Nat) : Bool := n == 1 || modSw md || modIx md == j

/-- Flags of the lanes that are written. -/
def srFlags (o : SrOps) (ls : List Flagged) : BitVec 6 :=
  let n := lanesOfSize (modSize o.md)
  ((List.range n).zip ls).foldl (fun a x => if laneWritten o.md n x.1 then a ||| x.2.af else a) 0

/-- The value and mask of the write to sD. -/
def srValue (o : SrOps) (ls : List Flagged) : Word × Word :=
  let n := lanesOfSize (modSize o.md)
  let w := 32 / n
  (BitVec.ofNat 32 (packLanes w (ls.map Flagged.val)), BitVec.ofNat 32 (dstMask o.md w n))

end Sys2Proof.Machine
end

