-- ==== Sys2Proof/Machine/Memory.lean ====
section
/-! DEFINITION. Memory: region classes and frame attributes (R121 to R127), translation (R130), the L1 and the system cache
(R118, R119, R151), the scratchpad window (R117), managed frames and pins (R123, R178), the checks of loads and stores in
their order (R320, R346), and how an access's failure becomes the fault of a word. -/

namespace Sys2Proof.Machine

/-! ### Regions and frames -/

/-- A region map entry decoded (R121). -/
structure Region where
  cls     : Nat
  base    : Nat
  limit   : Nat
  rowBase : Nat
  deriving DecidableEq, Repr

def regionOfEntry (e : BitVec 128) : Option Region :=
  if e.getLsbD 127 then
    some { cls := (e.extractLsb' 125 2).toNat, base := (e.extractLsb' 21 27).toNat * 2 ^ 21,
           limit := ((e.extractLsb' 85 27).toNat + 1) * 2 ^ 21, rowBase := (e.extractLsb' 64 18).toNat }
  else none

/-- The entry that covers a physical address. -/
def regionIn (t : Tab (BitVec 128)) (pa : Nat) : Option Region :=
  match t with
  | [] => none
  | (_, e) :: r =>
    match regionOfEntry e with
    | some g => if g.base ≤ pa ∧ pa < g.limit then some g else regionIn r pa
    | none => regionIn r pa

def State.region (s : State) (pa : Nat) : Option Region := regionIn s.mem.rmap pa

/-- Row-linear or managed; managed; device-private; ordinary. -/
def Region.rowLinear (r : Region) : Bool := r.cls == 1 || r.cls == 2

/-- The DRAM row of an address in a row-linear or managed range (R122). -/
def rowOf (r : Region) (pa : Nat) : RowBank × Nat :=
  let b := (pa - r.base) / 2048
  ({ channel := Fin.ofNat 32 b, sub := Fin.ofNat 2 (b / 32), bank := Fin.ofNat 16 (b / 64) }, r.rowBase + b / 1024)

def frameOf (pa : Nat) : Nat := pa / 4096

/-- Bits of a frame's attribute byte (R124): RL and MGD follow the region map. -/
def famPSN : Byte := 0x80
def famMIG : Byte := 0x40
def famNM : Byte := 0x20
def famMGD : Byte := 0x10
def famRL : Byte := 0x08
def famCMP : Byte := 0x04
def famMPIN : Byte := 0x02

def State.fam (s : State) (f : Nat) : Byte :=
  let kept := tabGet s.mem.fam f 0 &&& ~~~(famMGD ||| famRL)
  match s.region (f * 4096) with
  | some r => kept ||| (if r.rowLinear then famRL else 0) ||| (if r.cls == 2 then famMGD else 0)
  | none => kept

def State.famHas (s : State) (f : Nat) (m : Byte) : Bool := s.fam f &&& m != 0

/-- Is a frame of the main tier named by the map? -/
def State.mainFrame (s : State) (f : Nat) : Bool :=
  decide (s.mem.famFirst ≤ f) && decide (f < s.mem.famFirst + s.mem.famCount)

/-- Change the kept bits of a frame's byte: set `on`, then clear `off`. -/
def State.famSet (s : State) (f : Nat) (on off : Byte) : State :=
  let v := (tabGet s.mem.fam f 0 ||| on) &&& ~~~off
  { s with mem := { s.mem with fam := if v = 0 then tabDel s.mem.fam f else tabSet s.mem.fam f v } }

/-- The same for `n` frames. -/
def State.famSetRange (s : State) (f n : Nat) (on off : Byte) : State :=
  (List.range n).foldl (fun s k => s.famSet (f + k) on off) s

/-! ### The system cache: the point of coherence (R119) -/

/-- The 64 KiB chunk that holds an address is compressed. -/
def chunkBase (pa : Nat) : Nat := pa / 65536 * 65536

/-- An object-table entry, and its 16 bytes (R170). -/
def State.obj (s : State) (i : Nat) : Obj := tabGet s.heap.ot i { pins := 0, last := 0, st := .free, gen := 1, addr := 0 }

def objStateCode (x : ObjState) : Nat :=
  match x with
  | .free => 0
  | .live => 1
  | .reloc => 2
  | .evict => 3
  | .cold => 4
  | .recall => 5
  | .dead => 6
  | .poison => 7

def Obj.bits (o : Obj) : BitVec 128 :=
  BitVec.ofNat 16 o.pins ++ o.last ++ (0 : BitVec 4) ++ BitVec.ofNat 4 (objStateCode o.st) ++ o.gen ++ (0 : BitVec 28) ++ BitVec.ofNat 48 o.addr

/-- A forwarding entry's 16 bytes: CYC is the cycle number modulo 4 (R170). -/
def Fwd.bits (e : Fwd) : BitVec 128 :=
  (1 : BitVec 1) ++ (0 : BitVec 1) ++ BitVec.ofNat 2 e.cyc ++ (0 : BitVec 12) ++ BitVec.ofNat 48 e.new ++ (0 : BitVec 16) ++ BitVec.ofNat 48 e.old

/-- A byte of device-private memory that belongs to the frame attribute map (R124), the object table or the forwarding table (R170, in
whose 16,384 places the valid entries stand in the order of their installation; log 31). -/
def tableByte (s : State) (pa : Nat) : Option Byte :=
  let m := s.mem
  let fam := m.famBase.toNat
  let ot := s.heap.otbase.toNat
  let ft := s.heap.ftbase.toNat
  if fam ≤ pa ∧ pa < fam + m.famCount then some (s.fam (m.famFirst + (pa - fam)))
  else if ot ≤ pa ∧ pa < ot + 16 * 262144 then some ((s.obj ((pa - ot) / 16)).bits.extractLsb' (8 * ((pa - ot) % 16)) 8)
  else if ft ≤ pa ∧ pa < ft + 16 * 16384 then
    some (match s.heap.fwd[(pa - ft) / 16]? with
      | some e => e.bits.extractLsb' (8 * ((pa - ft) % 16)) 8
      | none => 0)
  else none

/-- Bytes of main memory, the device's tables among them. -/
def plainBytes (s : State) (pa n : Nat) : List Byte :=
  if (s.region pa).any fun r => r.cls == 3 then
    (List.range n).map fun i => (tableByte s (pa + i)).getD (memByte s.mem.main (pa + i))
  else memBytes s.mem.main pa n

/-- Bytes of main memory as the system cache gives them; a compressed frame is served decompressed (R127). -/
def sysRead? (s : State) (pa n : Nat) : Option (List Byte) :=
  if s.famHas (frameOf pa) famCMP then
    let base := chunkBase pa
    if s.famHas (frameOf base) famCMP then
      (chunkDecode (memBytes s.mem.main base 65536)).map fun d => (d.drop (pa - base)).take n
    else none
  else some (plainBytes s pa n)

/-- The frames that hold the header and the image of the compressed chunk at an address, which a read of it reads (R126, R127). -/
def imageFrames (s : State) (pa : Nat) : List Nat :=
  if s.famHas (frameOf pa) famCMP then
    let base := chunkBase pa
    let n := min 65536 (64 + leNat (memBytes s.mem.main base 4))
    (List.range ((n + 4095) / 4096)).map fun i => frameOf base + i
  else []

/-- Bytes with no check: the ones to put in a line that was checked before. -/
def sysBytes (s : State) (pa n : Nat) : List Byte := (sysRead? s pa n).getD (List.replicate n 0)

def sysPut (s : State) (pa : Nat) (b : List Byte) : State :=
  { s with mem := { s.mem with main := memSetBytes s.mem.main pa b } }

/-- A value as the system cache gives it: what the device's units read (R127). -/
def sysLe (s : State) (pa n : Nat) : Nat := leNat (sysBytes s pa n)

/-- Main memory as stored. -/
def rawBytes (s : State) (pa n : Nat) : List Byte := memBytes s.mem.main pa n
def rawLe (s : State) (pa n : Nat) : Nat := leNat (rawBytes s pa n)

/-! ### Uncorrectable errors (R139) -/

/-- The structure of R140 in which an uncorrectable error of a frame's bytes waits: the main tier, or the system cache. -/
def State.mainUe (s : State) (f : Nat) : Option Nat :=
  if s.mem.bad.contains (4, f) then some 4 else if s.mem.bad.contains (3, f) then some 3 else none

/-- The pool words of a bank (R139): scratchpad word `x`, word `w` of a vector register, accumulator word `i`. -/
def poolWord (c : Ctx) (x : Nat) : Nat := ctxIx c * 2 ^ 24 + x
def vectorWords (c : Ctx) (r : Nat) : List Nat := (List.range 64).map fun w => poolWord c (2 ^ 20 + 64 * r + w)
def accPoolWord (c : Ctx) (i : Nat) : Nat := poolWord c (2 ^ 21 + i)

/-- The pool words that a write to a register changes. -/
def wordsWritten (c : Ctx) (w : RegWrite) : List Nat :=
  match w with
  | .v r _ m => ((List.range 64).filter fun i => m.extractLsb' (64 * i) 64 != 0).map fun i => poolWord c (2 ^ 20 + 64 * r + i)
  | _ => []

/-- The writes that bank `o` had in flight and that bank `n`, later, has not: they have landed. -/
def landedWrites (o n : Bank) : List RegWrite :=
  ((o.pipe.inflight.filter fun f => !n.pipe.inflight.contains f).map Inflight.w) ++
  ((o.pipe.locks.filter fun l => !(n.pipe.locks.any fun m => m.id == l.id && m.ws.length == l.ws.length)).flatMap Lock.ws)

/-- The words of vector registers whose writes have landed between `s` and `t` are good (R236). -/
def healLanded (s t : State) : State :=
  if t.mem.bad.isEmpty then t
  else
    let ks := ((List.range 64).map ctxOf).flatMap fun c => (landedWrites (s.bank c) (t.bank c)).flatMap (wordsWritten c)
    { t with mem := { t.mem with bad := t.mem.bad.filter fun y => !(y.1 == 0 && ks.contains y.2) } }

/-- The Crock record of an uncorrectable error (R237, R238): about the thread that made the access, where one did; an L1's is about its
core. EPC is the bundle that the thread stands at (log 52). -/
def ueRecord (s : State) (w : Option Ctx) (strc key : Nat) : CrockRec :=
  let r := match w with
    | some c => { crockThread s c 1 0x11 0 with epc := if (s.bank c).tr.mode then (s.bank c).tr.epc.toNat else (epcOf (s.bank c).th.pc).toNat }
    | none => { crockBase 1 0x11 with core := if strc = 1 then key / 2 ^ 48 else if strc = 0 then key / 2 ^ 25 else 0
                                      bank := if strc = 0 then key / 2 ^ 24 % 2 else 0 }
  { r with
    info := if strc = 2 then key / 8192 else 0
    addr := if strc = 1 then 128 * (key % 2 ^ 48) else if strc = 3 ∨ strc = 4 then key * 4096 else 0
    strc := strc }

/-- Count an uncorrectable error of a structure and write its record. -/
def countUe (s : State) (w : Option Ctx) (strc key : Nat) : State :=
  crock (ueRecord s w strc key)
    { s with mem := { s.mem with eccue := tabSet s.mem.eccue strc (tabGet s.mem.eccue strc 0 + 1) } }

def State.dropBad (s : State) (strc key : Nat) : State :=
  { s with mem := { s.mem with bad := s.mem.bad.filter fun x => x != (strc, key) } }

/-- An uncorrectable error strikes a place and waits there to be found (R139, log 1). -/
def strike (strc : Fin 5) (key : Nat) (s : State) : State :=
  { s with mem := { s.mem with bad := if s.mem.bad.contains (strc.val, key) then s.mem.bad else s.mem.bad ++ [(strc.val, key)] } }

/-- What finding an uncorrectable error does by place: a pool word or a near frame stays bad until it is written, a frame of the main
tier or the system cache is poisoned (device-private memory is a fatal error, R264), a dirty L1 line loses its bytes and its frame is
poisoned. `w` is the thread that made the access. -/
def foundUe (s : State) (w : Option Ctx) (strc key : Nat) : State :=
  let s1 := countUe s w strc key
  if strc = 0 ∨ strc = 2 then s1
  else
    let s2 := s1.dropBad strc key
    if strc = 1 then
      let k := Fin.ofNat 32 (key / 2 ^ 48)
      let ln := key % 2 ^ 48
      (s2.setCore k { s2.core k with l1 := tabDel (s2.core k).l1 ln }).famSet (frameOf (128 * ln)) famPSN 0
    else
      let s3 := s2.famSet key famPSN 0
      if (s3.region (key * 4096)).any fun r => r.cls == 3 then fatalError 3 s3 else s3

/-! ### The L1 (R118) -/

def lineOf (pa : Nat) : Nat := pa / 128

def bytesOfLine (d : BitVec 1024) : List Byte := (List.range 128).map fun i => d.extractLsb' (8 * i) 8
def lineOfBytes (b : List Byte) : BitVec 1024 := BitVec.ofNat 1024 (leNat b)

/-- Write the dirty bytes of a line to the system cache. -/
def flushBytes (m : Mem) (base : Nat) (d : BitVec 1024) (dirty : BitVec 128) : Mem :=
  (List.range 128).foldl (fun m i => if dirty.getLsbD i then memSetByte m (base + i) (d.extractLsb' (8 * i) 8) else m) m

/-- Those bytes, with their addresses. -/
def dirtyCells (base : Nat) (d : BitVec 1024) (dirty : BitVec 128) : List (Nat × Byte) :=
  ((List.range 128).filter fun i => dirty.getLsbD i).map fun i => (base + i, d.extractLsb' (8 * i) 8)

/-- Write a line's dirty bytes back; while the frame migrates the write waits (R134). -/
def State.flushLine (s : State) (ln : Nat) (l : Line) : State :=
  if s.famHas (frameOf (128 * ln)) famMIG then { s with mem := { s.mem with held := s.mem.held ++ dirtyCells (128 * ln) l.data l.dirty } }
  else { s with mem := { s.mem with main := flushBytes s.mem.main (128 * ln) l.data l.dirty } }

/-- Writes that waited for frames which migrate no more are made, in their order. -/
def State.releaseHeld (s : State) : State :=
  let still (x : Nat × Byte) : Bool := s.famHas (frameOf x.1) famMIG
  { s with mem := { s.mem with main := (s.mem.held.filter fun x => !still x).foldl (fun m x => memSetByte m x.1 x.2) s.mem.main
                               held := s.mem.held.filter still } }

/-- A write by one of the device's own units, byte by byte where a frame of the range migrates: those bytes wait (R134). -/
def unitPut (s : State) (a : Nat) (b : List Byte) : State :=
  if s.famHas (frameOf a) famMIG || s.famHas (frameOf (a + b.length - 1)) famMIG then
    let l := ((List.range b.length).zip b).map fun x => (a + x.1, x.2)
    ({ s with mem := { s.mem with held := s.mem.held ++ l } }).releaseHeld
  else sysPut s a b

def State.l1? (s : State) (k : Fin 32) (ln : Nat) : Option Line := tabGet? (s.core k).l1 ln
def State.l1Put (s : State) (k : Fin 32) (ln : Nat) (l : Line) : State :=
  s.setCore k { s.core k with l1 := tabSet (s.core k).l1 ln l }
def State.l1Drop (s : State) (k : Fin 32) (ln : Nat) : State :=
  s.setCore k { s.core k with l1 := tabDel (s.core k).l1 ln }

/-- An uncorrectable error waits in a line. -/
def lineKey (k : Fin 32) (ln : Nat) : Nat := k.val * 2 ^ 48 + ln
def State.lineBad (s : State) (k : Fin 32) (ln : Nat) : Bool := s.mem.bad.contains (1, lineKey k ln)

/-- Write a line back: its dirty bytes go out, it is clean, and its tag is `tag` where one is given. A dirty line with an uncorrectable
error loses its bytes (R139); no access of a thread reads it, so that nothing traps (log 52). -/
def writeBack (s : State) (k : Fin 32) (ln : Nat) (tag : Option (BitVec 2)) : State :=
  match s.l1? k ln with
  | none => s
  | some l =>
    if l.dirty != 0 && s.lineBad k ln then foundUe s none 1 (lineKey k ln)
    else (s.flushLine ln l).l1Put k ln { l with dirty := 0, tag := tag.getD l.tag }

/-- Write a line back and invalidate it. -/
def evictLine (s : State) (k : Fin 32) (ln : Nat) : State :=
  match s.l1? k ln with
  | none => s
  | some l =>
    if s.lineBad k ln then (if l.dirty != 0 then foundUe s none 1 (lineKey k ln) else (s.dropBad 1 (lineKey k ln)).l1Drop k ln)
    else (s.flushLine ln l).l1Drop k ln

/-- WB over the lines that `p` picks, to scope S: those whose tag is narrower (R118). -/
def wbLines (s : State) (k : Fin 32) (sc : BitVec 2) (p : Nat → Bool) : State :=
  (s.core k).l1.foldl (fun s x => if p x.1 && decide (x.2.tag.toNat < sc.toNat) then writeBack s k x.1 (some sc) else s) s

/-- Write back and invalidate the lines that hold bytes of a physical range. -/
def evictRange (s : State) (k : Fin 32) (pa n : Nat) : State :=
  (s.core k).l1.foldl (fun s x => if pa < 128 * x.1 + 128 ∧ 128 * x.1 < pa + n then evictLine s k x.1 else s) s

/-- INV over the lines that `p` picks. -/
def invLines (s : State) (k : Fin 32) (p : Nat → Bool) : State :=
  (s.core k).l1.foldl (fun s x => if p x.1 then evictLine s k x.1 else s) s

/-- WB(all, S) and INV(all); at core scope none of them does anything (R151). -/
def wbAll (s : State) (k : Fin 32) (sc : BitVec 2) : State := if sc = 0 then s else wbLines s k sc fun _ => true
def invAll (s : State) (k : Fin 32) (sc : BitVec 2) : State := if sc = 0 then s else invLines s k fun _ => true

/-- The loads that have read ahead (log 8). -/
def State.setEarly (s : State) (c : Ctx) (l : List Early) : State :=
  let b := s.bank c
  s.setBank c { b with pipe := { b.pipe with early := l } }

/-- An acquire or an acquiring fence: no load that follows it has read before it. -/
def State.noEarly (s : State) (c : Ctx) : State := if (s.bank c).pipe.early.isEmpty then s else s.setEarly c []

/-- An atomic, or a strong load that reads no earlier than its turn: no strong load that follows it has read before it (R146 item 3). -/
def State.noStrong (s : State) (c : Ctx) : State :=
  if (s.bank c).pipe.early.isEmpty then s else s.setEarly c ((s.bank c).pipe.early.filter fun e => !e.strong)

/-- INV(all) after an acquire, WB(all, S) before a release (R151). -/
def afterAcquire (s : State) (c : Ctx) (acq : Bool) (sc : BitVec 2) : State := if acq then (invAll s c.core sc).noEarly c else s
def beforeRelease (s : State) (c : Ctx) (rel : Bool) (sc : BitVec 2) : State := if rel then wbAll s c.core sc else s

/-- The line, filled from the system cache if it is absent. -/
def fillLine (s : State) (k : Fin 32) (ln : Nat) : State × Line :=
  match s.l1? k ln with
  | some l => (s, l)
  | none =>
    let l : Line := { data := lineOfBytes (sysBytes s (128 * ln) 128), dirty := 0, tag := 0 }
    (s.l1Put k ln l, l)

/-! ### What a strong access synchronises with (R148) -/

/-- The aligned 8-byte words that hold bytes of a range. -/
def wordsOfRange (pa n : Nat) : List Nat := (List.range ((pa % 8 + n + 7) / 8)).map fun i => pa / 8 + i

def State.syncWord (s : State) (w : Nat) : SyncWord := tabGet s.mem.sync w { rels := [], past := [], full := false }
def State.setSync (s : State) (w : Nat) (x : SyncWord) : State := { s with mem := { s.mem with sync := tabSet s.mem.sync w x } }

/-- A strong store at cluster scope or wider: a reader may synchronise with it in full. -/
def State.syncStore (s : State) (pa n : Nat) : State :=
  (wordsOfRange pa n).foldl (fun s w => s.setSync w { s.syncWord w with rels := [], full := true }) s

/-- An atomic: it follows every release of the word in the order of R147, hands them on, and may itself be a full release. -/
def State.syncAtomic (s : State) (pa n : Nat) : State :=
  (wordsOfRange pa n).foldl (fun s w =>
    let x := s.syncWord w
    s.setSync w { x with rels := x.past, full := true }) s

/-- REL: an ACQ that reads its value is bound to ranges, any other acquire is not (R148, R150). -/
def State.syncRel (s : State) (k : Fin 32) (pa : Nat) : State :=
  let x := s.syncWord (pa / 8)
  s.setSync (pa / 8) { rels := [k], past := if x.past.contains k then x.past else x.past ++ [k], full := false }

/-- A strong read of a range other than ACQ's may be a full acquire, or be made one by a FENCE after it: what the RELs that it reads from
left in their cores' L1s goes out before it (R148: the edge counts in full). -/
def State.syncRead (s : State) (pa n : Nat) : State :=
  (wordsOfRange pa n).foldl (fun s w =>
    let x := s.syncWord w
    if x.rels.isEmpty then s
    else (x.rels.foldl (fun s k => wbAll s k 3) s).setSync w { x with rels := [], past := x.past.filter fun k => !x.rels.contains k }) s

/-! ### Loads that read ahead (R146, R147) -/

/-- A store of the thread: a load that follows it does not return an older value of its bytes (R146 item 1). -/
def State.storeOver (s : State) (c : Ctx) (pa n : Nat) : State :=
  if (s.bank c).pipe.early.isEmpty then s
  else s.setEarly c ((s.bank c).pipe.early.filter fun e => decide (e.pa + e.n ≤ pa) || decide (pa + n ≤ e.pa))

/-- Does the load take its place among the loads counted by `e`? -/
def Early.counts (e : Early) (pa n : Nat) (strong row : Bool) : Bool := e.pa == pa && e.n == n && e.strong == strong && e.row == row

/-- A load of `n` bytes at `pa` reaches its turn: the bytes that it read ahead, if it did, and the loads still ahead. Strong loads read in
order (R146 item 3): a strong one that has read before it, or before its bytes were read, reads anew. -/
def earlyTurn (l : List Early) (pa n : Nat) (strong row : Bool) : Option (List Byte) × List Early :=
  let mine (e : Early) : Bool := e.counts pa n strong row
  let turn (m : List Early) : List Early := m.map fun e => if mine e then { e with skip := e.skip - 1 } else e
  let weak (m : List Early) : List Early := if strong then m.filter fun e => !e.strong else m
  let x := l.span fun e => !(mine e && e.skip == 0)
  match x.2 with
  | e :: later => (some e.data, turn (weak x.1 ++ later))
  | [] => (none, turn (weak x.1))

/-! ### Reads and writes of one line (R118) -/

/-- Read up to 64 bytes of one line by R118: through the L1 when weak or at core scope, else at the system cache. -/
def cacheRead (s : State) (k : Fin 32) (pa n : Nat) (viaL1 : Bool) : State × List Byte :=
  if viaL1 then
    let (s1, l) := fillLine s k (lineOf pa)
    (s1, (bytesOfLine l.data).drop (pa % 128) |>.take n)
  else
    let s1 := writeBack s k (lineOf pa) none
    (s1, sysBytes s1 pa n)

/-- Bits of `n` bytes from byte `o` of a line. -/
def byteMask (o n : Nat) : BitVec 128 := BitVec.ofNat 128 ((2 ^ n - 1) * 2 ^ o)

/-- Put bytes into a line's data. -/
def patchLine (d : BitVec 1024) (o : Nat) (b : List Byte) : BitVec 1024 :=
  lineOfBytes ((bytesOfLine d).take o ++ b ++ (bytesOfLine d).drop (o + b.length))

/-- Write up to 64 bytes of one line by R118: into the L1 when weak or at core scope, else through at scope S. -/
def cacheWrite (s : State) (k : Fin 32) (pa : Nat) (b : List Byte) (viaL1 : Bool) (sc : BitVec 2) : State :=
  let ln := lineOf pa
  if viaL1 then
    let (s1, l) := fillLine s k ln
    s1.l1Put k ln { data := patchLine l.data (pa % 128) b, dirty := l.dirty ||| byteMask (pa % 128) b.length, tag := 0 }
  else
    match s.l1? k ln with
    | none => (sysPut s pa b).syncStore pa b.length
    | some l =>
      let s1 := (sysPut (s.flushLine ln l) pa b).syncStore pa b.length
      s1.l1Put k ln { data := patchLine l.data (pa % 128) b, dirty := 0, tag := sc }

/-! ### The scratchpad (R70, R82, R117) -/

/-- A pool byte that nothing has written: zero if ZS = 1, else a free value of its offset (R82, log 6). -/
def Bank.scrByte (b : Bank) (o : Nat) : Byte := (tabGet? b.scr o).getD (if b.zs then 0 else Config.zs0Byte o)
def Bank.scrBytes (b : Bank) (o n : Nat) : List Byte := (List.range n).map fun i => b.scrByte (o + i)

def scrPut (t : Tab Byte) (o : Nat) : List Byte → Tab Byte
  | [] => t
  | x :: r => scrPut (tabSet t o x) (o + 1) r
def Bank.scrWrite (b : Bank) (o : Nat) (x : List Byte) : Bank := { b with scr := scrPut b.scr o x }

/-- An accumulator word by number (R79). -/
def Bank.accWord (b : Bank) (i : Nat) : DWord :=
  (tabGet? b.acc i).getD (if b.zs then 0 else
    BitVec.ofNat 64 (leNat ((List.range 8).map fun k => Config.zs0Byte (2 ^ 32 + 8 * i + k))))
def Bank.accWrite (b : Bank) (i : Nat) (v : DWord) : Bank := { b with acc := tabSet b.acc i v }

/-! ### Addresses (R117, R293) -/

def windowBase : Nat := 0x7FFFFFE00000
def inWindow (va : Nat) : Bool := decide (windowBase ≤ va) && decide (va < windowBase + 2 ^ 21)

/-- The address that an M-format word forms from its base and offset (R293). -/
def mAddr (b : Bank) (base off : Word) : Nat :=
  let a := base + off
  if b.tr.mode then a.toNat
  else if 0xFFE00000 ≤ a.toNat then 0x7FFF00000000 + a.toNat
  else (b.th.args.extractLsb' 32 16).toNat * 2 ^ 32 + a.toNat

/-- The address of the byte `o` beyond an access's first byte: its 32-bit address is mapped anew (R293). -/
def mStep (b : Bank) (va o : Nat) : Nat := if o = 0 then va else mAddr b (BitVec.ofNat 32 va) (BitVec.ofNat 32 o)

/-- The scope of the access where it lands: the window is always core scope (R144). -/
def scopeAt (b : Bank) (va : Nat) (sc : BitVec 2) : BitVec 2 := if !b.tr.mode && inWindow va then 0 else sc

/-- What an access wants: to read, to write, to do both at once (an atomic), or to fetch. -/
inductive Acc where
  | rd | wr | am | ex
  deriving DecidableEq, Repr

def Acc.writes (a : Acc) : Bool :=
  match a with
  | .wr => true
  | .am => true
  | _ => false

/-- How an access fails, before it becomes the fault of a word or of an engine. `ue` carries where an uncorrectable error
was found. -/
inductive AccErr where
  | page
  | access
  | ref
  | comp
  | psn
  | mig
  | ue (strc key : Nat)
  deriving DecidableEq, Repr

/-! ### Translation (R130) -/

/-- A leaf found by a walk, or none. The walk reads PTEs at the system cache. -/
structure Leaf where
  ptePa : Nat
  pte   : Nat
  size  : Nat
  base  : Nat
  deriving DecidableEq, Repr

/-- Reserved bits of a leaf PTE: [60:54] and the reserved code of PBMT (log 38); the memory types NC and IO change nothing here. -/
def pteReserved (pte : Nat) : Bool := bits pte 54 7 != 0 || bits pte 61 2 == 3

/-- The frame of a PTE as a walk reads it: in a region, not poisoned, not migrating, and decompressed (R121, R127, R134, R139). -/
def pteRead (s : State) (a : Nat) : Except AccErr Nat :=
  let f := frameOf a
  if (s.region a).isNone then .error .access
  else if s.famHas f famPSN then .error .psn
  else match s.mainUe f with
    | some strc => .error (.ue strc f)
    | none =>
      if s.famHas f famMIG then .error .mig
      else match sysRead? s a 8 with
        | none => .error .access
        | some x => .ok (leNat x)

/-- Walk from level `lvl` down (3 is the root of Sv48); `lvl` counts down structurally. Bits [47:0] of a virtual address are walked as
they stand; one with bit 47 set is no different (DESIGN CHOICE, log 38). -/
def walkFrom (s : State) (va : Nat) (lvl : Nat) (table : Nat) : Except AccErr Leaf :=
  let a := table * 4096 + 8 * bits va (12 + 9 * lvl) 9
  match pteRead s a with
  | .error e => .error e
  | .ok pte =>
    let ppn := bits pte 10 44
    if !bitOf pte 0 || (!bitOf pte 1 && bitOf pte 2) || pteReserved pte then .error .page
    else if bitOf pte 1 || bitOf pte 3 then
      let napot := bitOf pte 63
      if napot && (lvl != 0 || ppn % 16 != 8) then .error .page
      else if ppn % 2 ^ (9 * lvl) ≠ 0 then .error .page
      else
        let size := if napot then 65536 else 4096 * 2 ^ (9 * lvl)
        let base := if napot then ppn / 16 * 65536 else ppn * 4096
        .ok { ptePa := a, pte := pte, size := size, base := base }
    else if bits pte 61 3 ≠ 0 || bits pte 4 4 / 4 ≠ 0 || bitOf pte 4 then .error .page
    else match lvl with
      | 0 => .error .page
      | k + 1 => walkFrom s va k ppn

/-- The root page number of a satp value, if its MODE is 9. -/
def satpRoot (satp : DWord) : Option Nat := if bits satp.toNat 60 4 = 9 then some (bits satp.toNat 0 44) else none

/-- U-mode permission of a leaf for an access. -/
def leafAllows (r w x u : Bool) (k : Acc) : Bool :=
  u && match k with
    | .rd => r
    | .wr => w
    | .am => w
    | .ex => x

def TlbEntry.covers (e : TlbEntry) (root va : Nat) : Bool :=
  e.root == root && decide (e.vpn ≤ va / 4096) && decide (va / 4096 < e.vpn + e.pages)

def TlbEntry.serves (e : TlbEntry) (root va : Nat) (k : Acc) : Bool :=
  e.covers root va && leafAllows e.r e.w e.x e.u k && (!k.writes || e.d)

/-- A cached translation that serves the access. -/
def tlbFind (l : List TlbEntry) (root va : Nat) (k : Acc) : Option TlbEntry := l.find? fun e => e.serves root va k

def TlbEntry.phys (e : TlbEntry) (va : Nat) : Nat := e.ppn * 4096 + (va - e.vpn * 4096)

/-- Walk for an access that may set A and D (`ad`), or for one that must not (helper loads, PREF). Answers the physical
address and the state with the PTE updated and the TLB filled. -/
def walk (s : State) (k : Fin 32) (root va : Nat) (acc : Acc) (ad : Bool) : Except (AccErr × State) (State × Nat) :=
  match walkFrom s va 3 root with
  | .error e => .error (e, s)
  | .ok l =>
    let r := bitOf l.pte 1
    let w := bitOf l.pte 2
    let x := bitOf l.pte 3
    let u := bitOf l.pte 4
    let needA := !bitOf l.pte 6
    let needD := acc.writes && !bitOf l.pte 7
    if !leafAllows r w x u acc then .error (.page, s)
    else if (needA || needD) && !ad then .error (.page, s)
    else if (needA || needD) && s.famHas (frameOf l.ptePa) famNM then .error (.access, s)
    else if (needA || needD) && s.famHas (frameOf l.ptePa) famCMP then .error (.page, s)
    else
      let pte' := l.pte + (if needA then 64 else 0) + (if needD then 128 else 0)
      let s1 := if needA || needD then sysPut s l.ptePa (natLe 8 pte') else s
      let e : TlbEntry := { root := root, vpn := va / l.size * l.size / 4096, pages := l.size / 4096, ppn := l.base / 4096,
                            r := r, w := w, x := x, u := u, d := bitOf pte' 7 }
      let c := s1.core k
      .ok (s1.setCore k { c with tlb := e :: c.tlb.filter fun y => y.root != root || y.vpn != e.vpn }, l.base + va % l.size)

/-- Translate a task-mode virtual address; no translation is a page fault (R130). -/
def translate (s : State) (k : Fin 32) (satp : DWord) (va : Nat) (acc : Acc) (ad : Bool) : Except (AccErr × State) (State × Nat) :=
  match satpRoot satp with
  | none => .error (.page, s)
  | some root =>
    match tlbFind (s.core k).tlb root va acc with
    | some e => .ok (s, e.phys va)
    | none => walk s k root va acc ad

/-- Where a virtual address lies, whatever its page permits and whether or not A is set: what a cache operation on a range goes by. -/
def rangePa (s : State) (k : Fin 32) (satp : DWord) (va : Nat) : Except AccErr Nat :=
  match satpRoot satp with
  | none => .error .page
  | some root =>
    match (s.core k).tlb.find? fun e => e.covers root va with
    | some e => .ok (e.phys va)
    | none => (walkFrom s va 3 root).map fun l => l.base + va % l.size

/-- The first addresses in the 4 KiB pages of a virtual range, but for those in the window, which are in no L1. -/
def rangePages (start size : Nat) : List Nat :=
  ((List.range ((start % 4096 + size + 4095) / 4096)).map fun i => start / 4096 * 4096 + 4096 * i).filter fun a => !inWindow a

/-- The walk of a page of the range meets a frame that migrates: the operation waits (R134). -/
def rangeWaits (s : State) (c : Ctx) (start size : Nat) : Bool :=
  (rangePages start size).any fun a => match rangePa s c.core (s.bank c).th.satp a with
    | .error .mig => true
    | _ => false

/-! ### Managed frames (R123, R167, R169, R178) -/

def State.heapPa (s : State) (h : Nat) : Nat := s.heap.base.toNat + h
/-- SIZE of the header at a heap address. -/
def State.objSize (s : State) (h : Nat) : Nat := bits (rawLe s (s.heapPa h) 4) 0 25

/-- What the thread's gang member keeps in scheduler SRAM (R58, R178). -/
def MemberRec.reset : MemberRec := { restart := none, maskSa := 0, mask := 0, pins := [], slots := [] }
def State.member (s : State) (c : Ctx) : MemberRec := tabGet (s.node (s.bank c).th.node).mrec (s.bank c).th.rank .reset
def State.setMember (s : State) (c : Ctx) (m : MemberRec) : State :=
  let b := s.bank c
  let n := s.node b.th.node
  s.setNode b.th.node { n with mrec := tabSet n.mrec b.th.rank m }

/-- The `n` bytes at a physical address lie inside an object of which the thread has a usable pin. -/
def pinUsable (s : State) (c : Ctx) (pa n : Nat) : Bool :=
  (s.member c).pins.any fun p =>
    !p.releasing && (let h := (s.obj p.oti).addr
                     decide (s.heapPa h ≤ pa) && decide (pa + n ≤ s.heapPa h + s.objSize h))

/-! ### The checks of one access, in order (R320, R346) -/

/-- The checks of `n` bytes of a frame: region, device-private, pin, NM, compressed, a chunk that does not decode, poisoned, an
uncorrectable error, migrating. A read of a compressed chunk reads its header and image too (R127), and waits while they migrate (R134). -/
def checkPa (s : State) (c : Ctx) (mon : Bool) (pa n : Nat) (acc : Acc) : Option AccErr :=
  match s.region pa with
  | none => some .access
  | some r =>
    let f := frameOf pa
    if !mon && r.cls == 3 then some .access
    else if !mon && r.cls == 2 && !pinUsable s c pa n then some .ref
    else if acc.writes && s.famHas f famNM then some .access
    else if acc.writes && s.famHas f famCMP then some .comp
    else
      let im := if acc.writes then [] else imageFrames s pa
      if im.any fun g => s.famHas g famMIG then some .mig
      else if !acc.writes && (sysRead? s pa 1).isNone then some .access
      else if (f :: im).any fun g => s.famHas g famPSN then some .psn
      else match (f :: im).find? fun g => (s.mainUe g).isSome with
        | some g => some (.ue ((s.mainUe g).getD 4) g)
        | none => if s.famHas f famMIG then some .mig else none

/-- A pool word of a range that holds an uncorrectable error (R139, R236). -/
def badPool (s : State) (c : Ctx) (o n : Nat) : Option Nat :=
  ((List.range ((o % 8 + n + 7) / 8)).map fun i => poolWord c (o / 8 + i)).find? fun key => s.mem.bad.contains (0, key)

/-- An access of a thread: window, translation, checks. The state keeps A and D bits and TLB entries of the walk. -/
def reach (s : State) (c : Ctx) (mon : Bool) (va n : Nat) (acc : Acc) (ad : Bool) : Except (AccErr × State) (State × Loc) :=
  let b := s.bank c
  if !mon && inWindow va then
    let o := va - windowBase
    if b.spTotal < o + n then .error (.access, s)
    else match acc, badPool s c o n with
      | .wr, _ => .ok (s, .sp o)
      | _, none => .ok (s, .sp o)
      | _, some key => .error (.ue 0 key, s)
  else if mon then
    match checkPa s c true va n acc with
    | some e => .error (e, s)
    | none => .ok (s, .pa va)
  else
    match translate s c.core b.th.satp va acc ad with
    | .error e => .error e
    | .ok (s1, pa) =>
      match checkPa s1 c false pa n acc with
      | some e => .error (e, s1)
      | none => .ok (s1, .pa pa)

/-! ### Access errors of a word -/

/-- An access error as the stop of a word at address `va` (R230, R320, R346). -/
def wordStop (e : AccErr × State) (c : Ctx) (va : Nat) (acc : Acc) : Stop × State :=
  let s := e.2
  match e.1 with
  | .page => (.page (if acc.writes then 0x06 else 0x05) (BitVec.ofNat 48 va)
      (match acc with | .rd => 0 | .wr => 1 | .am => 1 | .ex => 2) false, s)
  | .comp => (.page 0x06 (BitVec.ofNat 48 va) 1 true, s)
  | .access => (stopAddr 0x08 va, s)
  | .ref => (stopAddr 0x0B va, s)
  | .psn => (stopAddr 0x11 va, s)
  | .mig => (.stall, s)
  | .ue strc key => (stopAddr 0x11 va, foundUe s (some c) strc key)

/-- Alignment first: misaligned (0x04) names the address. -/
def aligned (s : State) (va a : Nat) : Except (Stop × State) Unit :=
  if va % a = 0 then .ok () else .error (stopAddr 0x04 va, s)

/-! ### Performing an access -/

/-- An uncorrectable error waits in the L1 line: a clean line is invalidated and refilled, a dirty one traps (R139). -/
def l1Error (s : State) (c : Ctx) (pa va : Nat) : Except (Stop × State) State :=
  let k := c.core
  match s.l1? k (lineOf pa) with
  | none => .ok s
  | some l =>
    if s.lineBad k (lineOf pa) then
      if l.dirty = 0 then .ok (((countUe s (some c) 1 (lineKey k (lineOf pa))).l1Drop k (lineOf pa)).dropBad 1 (lineKey k (lineOf pa)))
      else .error (stopAddr 0x11 va, foundUe s (some c) 1 (lineKey k (lineOf pa)))
    else .ok s

/-- A load's or store's reach, its L1 line looked at too, as the stop of a word. -/
def reachWord (s : State) (c : Ctx) (va n : Nat) (acc : Acc) : Except (Stop × State) (State × Loc) :=
  match reach s c (s.bank c).tr.mode va n acc true with
  | .error e => .error (wordStop e c va acc)
  | .ok (s1, .sp o) => .ok (s1, .sp o)
  | .ok (s1, .pa a) =>
    match l1Error s1 c a va with
    | .error e => .error e
    | .ok s2 => .ok (s2, .pa a)

/-- Is the access served by the L1 (R118)? -/
def viaL1 (strong : Bool) (sc : BitVec 2) : Bool := !strong || sc == 0

/-- Read `n` bytes (at most 64, inside one 64-byte step) of a thread at its location, unless the load has read ahead. -/
def readLoc (s : State) (c : Ctx) (loc : Loc) (n : Nat) (l1 : Bool) : State × List Byte :=
  match loc with
  | .sp o => (s, (s.bank c).scrBytes o n)
  | .pa a =>
    match (s.bank c).pipe.early with
    | [] => cacheRead (if l1 then s else s.syncRead a n) c.core a n l1
    | l =>
      let t := earlyTurn l a n (!l1) false
      let s1 := s.setEarly c t.2
      match t.1 with
      | some x => (s1, x)
      | none => cacheRead (if l1 then s1 else s1.syncRead a n) c.core a n l1

/-- A written pool word is good again (R236). -/
def healPool (s : State) (c : Ctx) (o n : Nat) : State :=
  { s with mem := { s.mem with bad := s.mem.bad.filter fun x =>
    !(x.1 == 0 && decide (poolWord c (o / 8) ≤ x.2) && decide (x.2 * 8 < (poolWord c 0) * 8 + o + n)) } }

/-- Write at most 64 bytes of a thread at its location. -/
def writeLoc (s : State) (c : Ctx) (loc : Loc) (b : List Byte) (l1 : Bool) (sc : BitVec 2) : State :=
  match loc with
  | .sp o => healPool (s.setBank c ((s.bank c).scrWrite o b)) c o b.length
  | .pa a => cacheWrite (s.storeOver c a b.length) c.core a b l1 sc

/-- A load of the K format, performed at the system cache at device scope (R155), unless it has read ahead; `ord` is 0 weak, 1 strong,
2 acquire. -/
def rowLoad (s : State) (c : Ctx) (pa n : Nat) (ord : BitVec 2) : State × List Byte :=
  let now (s : State) : State × List Byte := (s.syncRead pa n, sysBytes (s.syncRead pa n) pa n)
  match ord.toNat, (s.bank c).pipe.early with
  | _, [] => now s
  | 2, _ => now (s.noStrong c)
  | k, l =>
    let t := earlyTurn l pa n (k == 1) true
    let s1 := s.setEarly c t.2
    match t.1 with
    | some x => (s1, x)
    | none => now s1

/-- A store of a thread performed at the system cache at device scope (R155). -/
def sysStore (s : State) (c : Ctx) (pa : Nat) (b : List Byte) : State := (sysPut (s.storeOver c pa b.length) pa b).syncStore pa b.length

/-- The 64-byte steps of an access of `n` bytes: offset and length of each. -/
def steps (n : Nat) : List (Nat × Nat) :=
  if n ≤ 64 then [(0, n)] else (List.range (n / 64)).map fun i => (64 * i, 64)

/-- Reach every step of an access before any byte moves. -/
def reachAll (s : State) (c : Ctx) (va : Nat) (acc : Acc) : List (Nat × Nat) → Except (Stop × State) (State × List (Loc × Nat))
  | [] => .ok (s, [])
  | (o, n) :: r =>
    match reachWord s c (mStep (s.bank c) va o) n acc with
    | .error e => .error e
    | .ok (s1, l) =>
      match reachAll s1 c va acc r with
      | .error e => .error e
      | .ok (s2, ls) => .ok (s2, (l, n) :: ls)

def readAll (s : State) (c : Ctx) (l1 : Bool) : List (Loc × Nat) → State × List Byte
  | [] => (s, [])
  | (l, n) :: r =>
    let x := readLoc s c l n l1
    let y := readAll x.1 c l1 r
    (y.1, x.2 ++ y.2)

def writeAll (s : State) (c : Ctx) (l1 : Bool) (sc : BitVec 2) : List (Loc × Nat) → List Byte → State
  | [], _ => s
  | (l, n) :: r, b => writeAll (writeLoc s c l (b.take n) l1 sc) c l1 sc r (b.drop n)

/-- The pieces of a range, cut at 4 KiB. -/
def pagePieces (fuel va n : Nat) : List (Nat × Nat) :=
  match fuel with
  | 0 => []
  | k + 1 =>
    if n = 0 then []
    else
      let m := min n (4096 - va % 4096)
      (va, m) :: pagePieces k ((va + m) % 2 ^ 48) (n - m)

/-- What the device's own units meet at each frame of a range. -/
def unitErrs (s : State) (pa n : Nat) (acc : Acc) : List AccErr :=
  (pagePieces (n / 4096 + 2) pa n).filterMap fun p => checkPa s (ctxOf 0) true p.1 p.2 acc

/-- Their access answers with an error: some frame of the range fails its checks. -/
def unitFault (s : State) (pa n : Nat) (acc : Acc) : Bool := (unitErrs s pa n acc).any fun e => e != .mig
/-- It waits: some frame migrates (R134). -/
def unitWait (s : State) (pa n : Nat) (acc : Acc) : Bool := (unitErrs s pa n acc).contains .mig
/-- It meets an uncorrectable error. -/
def unitMeetsUe (s : State) (pa n : Nat) (acc : Acc) : Bool :=
  (unitErrs s pa n acc).any fun e => match e with
    | .ue _ _ => true
    | _ => false
/-- The uncorrectable errors that it meets are recorded where they are found, each once (R139). -/
def unitUe (s : State) (pa n : Nat) (acc : Acc) : State :=
  (unitErrs s pa n acc).foldl (fun s e => match e with
    | .ue strc key => if s.mem.bad.contains (strc, key) then foundUe s none strc key else s
    | _ => s) s

/-- A load of `n` bytes at `va`: every check, then the bytes. -/
def loadVa (s : State) (c : Ctx) (va n : Nat) (l1 : Bool) : Except (Stop × State) (State × List Byte) :=
  match reachAll s c va .rd (steps n) with
  | .error e => .error e
  | .ok (s1, ls) => .ok (readAll s1 c l1 ls)

/-- A store of bytes at `va`, of scope `sc` where it does not land in the window: every check, then the write-back of a release (`rel`),
then the bytes. -/
def storeVa (s : State) (c : Ctx) (va : Nat) (b : List Byte) (l1 rel : Bool) (sc : BitVec 2) : Res :=
  match reachAll s c va .wr (steps b.length) with
  | .error e => .error e
  | .ok (s1, ls) => .ok (writeAll (beforeRelease s1 c rel (scopeAt (s.bank c) va sc)) c l1 sc ls b)

/-! ### The steps of LDV, LDM, STV and STM (R241) -/

/-- `x` fills result `id` from byte `off` of its registers on. -/
def fillWrites : List RegWrite → Nat → List Byte → List RegWrite
  | [], _, _ => []
  | .v r v m :: l, off, x =>
    if off < 512 then .v r (v ||| (BitVec.ofNat 4096 (leNat x) <<< (8 * off))) m :: l else .v r v m :: fillWrites l (off - 512) x
  | .p r v m :: l, off, x =>
    if off < 128 then .p r (v ||| (BitVec.ofNat 1024 (leNat x) <<< (8 * off))) m :: l else .p r v m :: fillWrites l (off - 128) x
  | w :: l, off, x => w :: fillWrites l off x

def Bank.fillLock (b : Bank) (id off : Nat) (x : List Byte) (ready : Bool) : Bank :=
  { b with pipe := { b.pipe with
      locks := b.pipe.locks.map fun l => if l.id = id then { l with ws := fillWrites l.ws off x, ready := ready } else l } }

/-- The steps of a load into result `lock`, and of a store of `b`, by the places that they land at. -/
def loadSteps (ls : List Loc) (l1 : Bool) (lock : Nat) (acq : Option (BitVec 2)) : List MemStep :=
  ((List.range ls.length).zip ls).map fun x =>
    { cls := 5, loc := x.2, l1 := l1, sc := 0, data := none, lock := lock, off := 64 * x.1, last := x.1 + 1 == ls.length, acq := acq }
def storeSteps (ls : List Loc) (b : List Byte) (l1 : Bool) (sc : BitVec 2) : List MemStep :=
  ((List.range ls.length).zip ls).map fun x =>
    { cls := 6, loc := x.2, l1 := l1, sc := sc, data := some ((b.drop (64 * x.1)).take 64), lock := 0, off := 0, last := x.1 + 1 == ls.length,
      acq := none }

/-- A step is performed. -/
def performStep (s : State) (c : Ctx) (m : MemStep) : State :=
  match m.data with
  | some x => writeLoc s c m.loc x m.l1 m.sc
  | none =>
    let r := readLoc s c m.loc 64 m.l1
    let s1 := r.1.setBank c ((r.1.bank c).fillLock m.lock m.off r.2 m.last)
    match m.last, m.acq with
    | true, some sc => afterAcquire s1 c true sc
    | _, _ => s1

/-- The first step of a word is performed as its bundle issues; each of the others waits for its charge. -/
def startSteps (s : State) (c : Ctx) : List MemStep → State
  | [] => s
  | m :: r =>
    let s1 := performStep s c m
    let b := s1.bank c
    s1.setBank c { b with pipe := { b.pipe with steps := b.pipe.steps ++ r } }

/-- The step whose charge has been granted is performed. -/
def nextStep (s : State) (c : Ctx) : State :=
  let b := s.bank c
  match b.pipe.steps with
  | [] => s
  | m :: r => performStep (s.setBank c { b with pipe := { b.pipe with steps := r } }) c m

/-- Every step that the thread still waits for is performed: the thread ends, its core is drained or a translation is withdrawn. -/
def finishSteps (s : State) (c : Ctx) : State := (s.bank c).pipe.steps.foldl (fun s _ => nextStep s c) s
def finishAll (s : State) : State :=
  (s.banks.filter fun e => !e.2.pipe.steps.isEmpty).foldl (fun s e => finishSteps s (ctxOf e.1)) s

/-! ### A load that reads ahead -/

/-- A thread whose loads may read ahead: it is ready, no earlier step of it waits, and its core is not frozen (R138). -/
def mayReadAhead (s : State) (c : Ctx) : Bool :=
  let b := s.bank c
  b.phase == .ready && (s.core c.core).freeze == 0 && b.pipe.steps.isEmpty

/-- A load of the thread that is still to come reads now, past the accesses before it (R146 items 3 and 7, R147; log 8). It sets no A bit
and raises nothing. -/
def loadEarly (c : Ctx) (va n : Nat) (strong : Bool) (skip : Nat) (s : State) : State :=
  let mon := (s.bank c).tr.mode
  if !mayReadAhead s c || (!mon && inWindow va) || !([1, 2, 4, 8, 64].contains n) || va % n ≠ 0 then s
  else match reach s c mon va n .rd false with
    | .ok (s1, .pa a) =>
      if s1.lineBad c.core (lineOf a) then s
      else
        let r := cacheRead (if strong then s1.syncRead a n else s1) c.core a n (!strong)
        r.1.setEarly c ((r.1.bank c).pipe.early ++ [{ pa := a, n := n, strong := strong, row := false, skip := skip, data := r.2 }])
    | _ => s

/-- The same of a load of the K format, by the physical address that it will read; the core's own lines of it go out first (R155). -/
def rowEarly (c : Ctx) (pa n : Nat) (strong : Bool) (skip : Nat) (s : State) : State :=
  if !mayReadAhead s c || n = 0 || decide (512 < n) || unitFault s pa n .rd || unitWait s pa n .rd ||
    (wordsOfRange pa n).any (fun w => s.lineBad c.core (lineOf (8 * w))) then s
  else
    let s1 := (evictRange s c.core pa n).syncRead pa n
    s1.setEarly c ((s1.bank c).pipe.early ++ [{ pa := pa, n := n, strong := strong, row := true, skip := skip, data := sysBytes s1 pa n }])

/-- Physical places change hands: what was read ahead is read anew. -/
def dropEarly (s : State) : State := s.banks.foldl (fun s e => s.noEarly (ctxOf e.1)) s

/-! ### Bound ranges (R149, R150) -/

/-- An entry that can match: SIZE not 0, SYNC aligned, START + SIZE within 2^48. -/
def BindEntry.live (e : BindEntry) : Bool :=
  e.size != 0 && e.sync.toNat % 8 == 0 && decide (e.start + e.size ≤ 2 ^ 48)

/-- The thread's entries whose SYNC is `a`. -/
def boundTo (s : State) (c : Ctx) (a : Nat) : List BindEntry :=
  (s.node (s.bank c).th.node).binds.filter fun e => e.live && e.sync.toNat == a

/-- Does an L1 line hold a byte of a virtual range? Page by page, by where the range's addresses lie. A page that has no translation
holds no line and raises no fault; one whose translation cannot be read, since its table is poisoned or lies in no region, may hold any
line, so that none escapes (DESIGN CHOICE, log 38: R150 does not say). -/
def lineInRange (s : State) (c : Ctx) (start size ln : Nat) : Bool :=
  (rangePages start size).any fun page =>
    let lo := max start page
    let hi := min (start + size) (page + 4096)
    match rangePa s c.core (s.bank c).th.satp page with
    | .error .page => false
    | .error _ => true
    | .ok pa =>
      let base := pa / 4096 * 4096
      decide (128 * ln < base + (hi - page)) && decide (base + (lo - page) < 128 * ln + 128)

/-- A bound range waits for a frame that migrates. -/
def boundWaits (s : State) (c : Ctx) (es : List BindEntry) : Bool := es.any fun e => rangeWaits s c e.start e.size

/-- The lines of the ranges bound to `a`, as a predicate on line numbers. -/
def boundLine (s : State) (c : Ctx) (es : List BindEntry) (ln : Nat) : Bool :=
  es.any fun e => lineInRange s c e.start e.size ln

/-- The effective scope of ACQ and REL (R150). -/
def widestScope (sc : BitVec 2) (es : List BindEntry) : BitVec 2 :=
  es.foldl (fun m e => if m.toNat < e.scope.toNat then e.scope else m) sc

/-- DOM.LEVEL as a scope (R22). -/
def domScope (b : Bank) : BitVec 2 :=
  match b.sys.level.toNat with
  | 0 => 0
  | 1 => 1
  | _ => 2

end Sys2Proof.Machine
end

