-- ==== Sys2Proof/Machine/Colander.lean ====
section
/-! DEFINITION. The residency unit (the Colander): the tag store, near frames and victims, fills, claims, commits, batches and
their closing, poisoning, and the routing of one pair (R183 to R203, R36, R63). -/

namespace Sys2Proof.Machine

/-! ### Expert ids and entries (R183) -/

def xidSlot (x : Word) : Nat := bits x.toNat 29 3
def xidLayer (x : Word) : Nat := bits x.toNat 21 8
def xidIndex (x : Word) : Nat := bits x.toNat 9 12
def xidOf (slot layer index : Nat) : Word := BitVec.ofNat 32 (slot * 2 ^ 29 + layer * 2 ^ 21 + index * 2 ^ 9)

/-- The tag-store entry of a known id: the install made an entry for it, and its slot is still installed. -/
def State.tagIx? (s : State) (x : Word) : Option Nat := (s.res.tags.find? fun e => e.2.xid == x).map Prod.fst

def XQueue.fresh (dev : BitVec 2) (clu : BitVec 3) : XQueue :=
  { dev := dev, clu := clu, ctr := 0, slots := [], bmode := 0, kept := [], ringPos := 0, ringUse := 0, batches := [] }
def CopyDesc.zero : CopyDesc := { tab := 0, nch := 0, fmt := 0, scoff := 0 }
def NearCopy.absent : NearCopy := { st := .none, frames := [], last := 0, freq := 0 }
def Tag.zero : Tag :=
  { xid := 0, ca := .zero, cb := .zero, cm := .zero, cf := .zero, rpb := 0, subst := none, bthr := 0, nel := 0, pins := 0,
    psn := false, fin := false, pred := false, a := .absent, b := .absent, home := .fresh 0 0, reps := [], routed := 0, nm := [] }

def State.tag (s : State) (t : Nat) : Tag := tabGet s.res.tags t .zero
def State.setTag (s : State) (t : Nat) (x : Tag) : State := { s with res := { s.res with tags := tabSet s.res.tags t x } }
def State.xslot (s : State) (m : Nat) : Slot := tabGet s.res.slots m .reset
def State.setXslot (s : State) (m : Nat) (x : Slot) : State := { s with res := { s.res with slots := tabSet s.res.slots m x } }

def Tag.copy (t : Tag) (b : Bool) : NearCopy := if b then t.b else t.a
def Tag.setCopy (t : Tag) (b : Bool) (c : NearCopy) : Tag := if b then { t with b := c } else { t with a := c }
def Tag.nearDesc (t : Tag) (b : Bool) : CopyDesc := if b then t.cb else t.ca
/-- The preferred near copy (R191): A when it is provided. -/
def Tag.prefB (t : Tag) : Bool := t.a.st == .none
def Tag.hasMain (t : Tag) : Bool := t.cm.nch != 0
def Tag.hasFar (t : Tag) : Bool := t.cf.nch != 0

/-- Queues in queue order: 0 home, then the replicas. -/
def Tag.queues (t : Tag) : List XQueue := t.home :: t.reps
def Tag.xq (t : Tag) (q : Nat) : XQueue := t.queues.getD q (.fresh 0 0)
def Tag.setXq (t : Tag) (q : Nat) (x : XQueue) : Tag :=
  if q = 0 then { t with home := x } else { t with reps := t.reps.set (q - 1) x }

/-- A queue with a batch that is open or not complete. -/
def XQueue.busy (q : XQueue) : Bool := q.bmode != 0 || !q.slots.isEmpty || !q.batches.isEmpty

/-- The copy that a batch of a mode uses: 1 A, 2 B, 3 the preferred copy it waited for; a stream uses none. -/
def Tag.modeCopy (t : Tag) (mode : Nat) : Option Bool :=
  match mode with
  | 1 => some false
  | 2 => some true
  | 3 => some t.prefB
  | _ => none

/-! ### Near frames (R196, R201) -/

/-- Near frames that expert copies may take: all but the STREAMF that stream frames are drawn from. -/
def State.fillFrames (s : State) : Nat := 4096 - s.res.streamf.toNat

/-- Frames that batches keep after an uncorrectable error (R188). -/
def Tag.kept (t : Tag) : List Nat := t.queues.flatMap fun q => q.kept ++ q.batches.flatMap Batch.kept

/-- Frames that copies hold or that batches keep. -/
def State.ownedFrames (s : State) : List Nat :=
  (s.res.tags.flatMap fun e => e.2.a.frames ++ e.2.b.frames) ++ (s.res.tags.flatMap fun e => e.2.kept).eraseDups
/-- How many frames a fill can still take. -/
def State.freeCount (s : State) : Nat := s.fillFrames - s.ownedFrames.length
/-- Frames that neither a copy nor a stream uses. -/
def State.freeFrames (s : State) : List Nat :=
  let own := s.ownedFrames ++ s.res.streams.map StreamFrame.frame
  (List.range 4096).filter fun f => !own.contains f

/-- Is a copy in use by an open batch in mode 1 or 2, or by a closed batch that is not complete? A batch whose records are still held
uses nothing yet. -/
def Tag.openNear (t : Tag) : Bool := t.queues.any fun q => q.bmode == 1 || q.bmode == 2
def Tag.batchUses (t : Tag) (b : Bool) (x : Batch) : Bool := !x.held && t.modeCopy x.mode == some b
def Tag.closedUses (t : Tag) (b : Bool) : Bool := t.queues.any fun q => q.batches.any (t.batchUses b)
def Tag.openUses (t : Tag) (b : Bool) : Bool := t.queues.any fun q => q.bmode != 3 && t.modeCopy q.bmode == some b

/-- A copy that may be a victim (R188); of a prefetch, only one of an expert with no active batch (R14, R200). -/
def Tag.eligible (t : Tag) (pref b : Bool) : Bool :=
  (t.copy b).st == .resident && t.pins == 0 && !t.openNear && !t.closedUses b && !(pref && t.queues.any XQueue.busy)

/-- A victim candidate: entry, copy, and the keys of its order (R201). -/
structure Victim where
  tix  : Nat
  isB  : Bool
  last : Nat
  freq : Nat
  pred : Bool
  deriving DecidableEq, Repr

/-- Victim order under XREP.POL; ties to the lower TIX, then copy A. -/
def victimBefore (pol : Nat) (x y : Victim) : Bool :=
  let tie := decide (x.tix < y.tix) || (x.tix == y.tix && !x.isB && y.isB)
  let lru := decide (x.last < y.last) || (x.last == y.last && tie)
  match pol with
  | 1 => decide (x.freq < y.freq) || (x.freq == y.freq && lru)
  | 2 => (!x.pred && y.pred) || (x.pred == y.pred && lru)
  | _ => lru

def insertVictim (pol : Nat) (v : Victim) : List Victim → List Victim
  | [] => [v]
  | x :: r => if victimBefore pol v x then v :: x :: r else x :: insertVictim pol v r

def State.victims (s : State) (pref : Bool) : List Victim :=
  let all := s.res.tags.flatMap fun e => [false, true].filterMap fun b =>
    if e.2.eligible pref b then
      some { tix := e.1, isB := b, last := (e.2.copy b).last, freq := (e.2.copy b).freq, pred := e.2.pred : Victim }
    else none
  all.foldl (fun l v => insertVictim s.res.xrepPol.toNat v l) []

/-- Free victims in order until `n` frames are free; none if they run out first. -/
def freeVictims (s : State) (n : Nat) : List Victim → Option State
  | [] => if n ≤ s.freeCount then some s else none
  | v :: r =>
    if n ≤ s.freeCount then some s
    else
      let t := s.tag v.tix
      freeVictims (s.setTag v.tix (t.setCopy v.isB { t.copy v.isB with st := .absent, frames := [] })) n r

/-- Take `n` near frames, the lowest-numbered free ones (log 16). -/
def takeFrames (s : State) (pref : Bool) (n : Nat) : Option (State × List Nat) :=
  (freeVictims s n (s.victims pref)).map fun s1 => (s1, s1.freeFrames.take n)

/-- A near copy takes its frames. -/
def Tag.beginFill (t : Tag) (b : Bool) (fs : List Nat) (now : Nat) : Tag :=
  t.setCopy b { t.copy b with st := .filling, frames := fs, last := now }

/-- A request for `w` is served in the higher of its class and `cls`. -/
def raiseClass (w : FillWhat) (cls : Nat) (q : FillReq) : FillReq := if q.what = w ∧ cls < q.cls then { q with cls := cls } else q

/-- Start a fill of a near copy in a Steamer class (R188, R201). The Boolean says whether it started. A fill already
requested stays one fill, in the higher class (R203). -/
def startFill (s : State) (tix : Nat) (b : Bool) (cls : Nat) : State × Bool :=
  let t := s.tag tix
  match (t.copy b).st with
  | .absent =>
    if t.psn then (s, false)
    else match takeFrames s (cls == 5) (t.nearDesc b).nch with
      | none => (s, false)
      | some (s1, fs) =>
        let t1 := s1.tag tix
        let s2 := s1.setTag tix (t1.beginFill b fs s.time)
        let r := s2.res
        let q : FillReq := { cls := cls, what := .fill tix b, chunk := 0, seq := r.seq, cl := t.home.clu.toNat, paid := 0, img := [], askers := [] }
        ({ s2 with res := { r with reqs := r.reqs ++ [q], seq := r.seq + 1 } }, true)
  | .filling =>
    ({ s with res := { s.res with reqs := s.res.reqs.map (raiseClass (.fill tix b) cls) } }, false)
  | _ => (s, false)

/-- Retry the WAIT fills that found no frames, now that frames have been freed (R191). -/
def retryFills (s : State) : State :=
  s.res.retry.foldl (fun s x =>
    let c := (s.tag x.1).copy x.2
    let (s1, ok) := startFill s x.1 x.2 2
    if ok || c.st != .absent || (s.tag x.1).psn then
      { s1 with res := { s1.res with retry := s1.res.retry.filter fun y => y != x } }
    else s1) s

/-- Frames `l` have become free: WAIT fills that found none are retried. -/
def afterFree (l : List Nat) (s : State) : State := if l.isEmpty then s else retryFills s

/-- Where frames that a copy took made victims, WAIT fills that found none are retried (R191); `s` is the state before. -/
def afterVictims (s : State) (tix : Nat) (b : Bool) (s1 : State) : State :=
  if s.freeCount < ((s.tag tix).nearDesc b).nch then retryFills s1 else s1

/-- Ask for a fill of a near copy. -/
def requestFill (s : State) (tix : Nat) (b : Bool) (cls : Nat) : State × Bool :=
  let (s1, ok) := startFill s tix b cls
  (if ok then afterVictims s tix b s1 else s1, ok)

/-! ### Batches (R194) -/

/-- The layer-table entry of a slot's layer: OUT, CO, PM, NEXP, TMPL. -/
structure LayerRec where
  out  : Nat
  co   : Nat
  pm   : Nat
  nexp : Nat
  tmpl : Nat
  deriving DecidableEq, Repr

def layerAt (s : State) (lay l : Nat) : LayerRec :=
  let x := sysLe s (lay + 32 * l) 32
  { out := bits x 160 48, co := bits x 112 48, pm := bits x 64 48, nexp := bits x 32 13, tmpl := bits x 0 10 }
def State.layer (s : State) (m l : Nat) : LayerRec := layerAt s (s.xslot m).lay.toNat l
/-- A read of it waits: its frame migrates (R134). -/
def State.layerWaits (s : State) (m l : Nat) : Bool :=
  unitWait s ((s.xslot m).lay.toNat + 32 * l) 32 .rd
/-- An uncorrectable error that the read meets is recorded (R139); the bytes are taken as they stand. -/
def State.layerUe (s : State) (m l : Nat) : State := unitUe s ((s.xslot m).lay.toNat + 32 * l) 32 .rd

/-- A template's 64 bytes (R60). No rule says what consumption does where the table cannot be read (no region, PSN, a chunk that does not
decode): the bytes are taken as they stand, zeros where they do not decode (DESIGN CHOICE, log 17). While its frame migrates a read of it
waits (R134), and an uncorrectable error that the read meets is recorded (R139). -/
def State.templateWaits (s : State) (i : Nat) : Bool := unitWait s (s.sched.tbase.toNat + 64 * i) 64 .rd
def State.templateUe (s : State) (i : Nat) : State := unitUe s (s.sched.tbase.toNat + 64 * i) 64 .rd
def State.template (s : State) (i : Nat) : BitVec 512 := BitVec.ofNat 512 (sysLe s (s.sched.tbase.toNat + 64 * i) 64)

/-- A tile record of a batch (R63, R194). -/
def tileRecord (op2 op1 op0 tok tag rows tmpl : Nat) : BitVec 256 :=
  (0 : BitVec 32) ++ BitVec.ofNat 32 op2 ++ BitVec.ofNat 32 op1 ++ BitVec.ofNat 32 op0 ++ (0 : BitVec 32) ++
  BitVec.ofNat 32 tok ++ BitVec.ofNat 32 tag ++ BitVec.ofNat 16 rows ++ BitVec.ofNat 16 (2 ^ 12 + tmpl)

/-- Runs of at most 32 ring positions, cut at the wrap and where a position is passed over: first position and rows of each. -/
def ringRuns (l : List Nat) : List (Nat × Nat) :=
  (l.foldl (fun acc p =>
    match acc with
    | (q, m) :: r => if p = q + m ∧ m < 32 then (q, m + 1) :: r else (p, 1) :: acc
    | [] => [(p, 1)]) []).reverse

/-- The next `n` free positions of a ring from `pos`. A batch that is not complete still holds its own: they are passed over
(DESIGN CHOICE, log 53: the manual calls the positions consecutive and does not say what happens when older ones are still held). -/
def ringTake (held : List Nat) (fuel pos n : Nat) : List Nat :=
  match fuel with
  | 0 => []
  | k + 1 =>
    if n = 0 then []
    else if held.contains pos then ringTake held k ((pos + 1) % 4096) n
    else pos :: ringTake held k ((pos + 1) % 4096) (n - 1)

/-- The copy handle that a batch's records carry: TIX and the copy, 10 for a stream (R194). -/
def copyHandle (t : Tag) (tix mode : Nat) : Nat :=
  tix + 2 ^ 15 * (match t.modeCopy mode with
    | some false => 0
    | some true => 1
    | none => 2)

/-- Where a queue's row-pointer ring begins: five rings of 16 KiB at RPB. -/
def ringBase (t : Tag) (q : Nat) : Nat := t.rpb.toNat + 16384 * q

/-- Write a batch's records to the scheduler. -/
def emitNow (s : State) (tix q : Nat) (x : Batch) : State :=
  let t := s.tag tix
  let l := s.layer (xidSlot t.xid) (xidLayer t.xid)
  let args := bits (s.template l.tmpl).toNat 64 48
  let rs := (ringRuns x.pos).map fun r =>
    tileRecord ((l.out + 2 ^ 48 - args) % 2 ^ 48 / 256) (copyHandle t tix x.mode)
      ((ringBase t q + 2 ^ 48 - args) % 2 ^ 48 / 256) r.1 t.xid.toNat r.2 l.tmpl
  let n : Launch := { who := none, node := 0, queue := 0, join := 0, lock := 0, pages := [], addr := 0, count := rs.length,
                      recs := rs, batch := some (tix, q, x.id), i := 0, j := 0, prev := 0, created := 0 }
  let s1 := (s.layerUe (xidSlot t.xid) (xidLayer t.xid)).templateUe l.tmpl
  { s1 with sched := { s1.sched with resid := s1.sched.resid ++ [n] } }

/-- The layer table or the template that a batch's records are made from migrates: the reads of it wait (R134). -/
def emitWaits (s : State) (tix : Nat) : Bool :=
  let x := (s.tag tix).xid
  s.layerWaits (xidSlot x) (xidLayer x) || s.templateWaits (s.layer (xidSlot x) (xidLayer x)).tmpl

/-- Write a batch's records to the scheduler, after those that still wait. -/
def emitBatch (s : State) (tix q : Nat) (x : Batch) : State :=
  if !s.res.emits.isEmpty || emitWaits s tix then { s with res := { s.res with emits := s.res.emits ++ [(tix, q, x.id)] } }
  else emitNow s tix q x

/-- Frames of a copy of a poisoned expert go back once no batch uses it (R199). -/
def settleCopy (t : Tag) (b : Bool) : Tag :=
  let c := t.copy b
  if c.st != .none && t.psn && !t.openUses b && !t.closedUses b then t.setCopy b { c with st := .absent, frames := [] } else t
def settleTag (s : State) (tix : Nat) : State :=
  let t := s.tag tix
  let t1 := settleCopy (settleCopy t false) true
  if t1 = t then s else retryFills (s.setTag tix t1)

/-- Entries of a slot's layer. -/
def State.layerTags (s : State) (m l : Nat) : List Nat :=
  (s.res.tags.filter fun e => xidSlot e.2.xid == m && xidLayer e.2.xid == l).map Prod.fst

/-- FIN of a layer clears when every batch that its final close closed, and every WAITA batch of it, is complete (R195);
experts whose PRED is still 1 count in PFWRONG (R200). -/
def finCheck (s : State) (m l : Nat) : State :=
  let ts := s.layerTags m l
  let pending := s.res.finals.contains (m, l) ||
    ts.any fun i => (s.tag i).queues.any fun q => q.batches.any fun x => x.final || x.mode == 3
  if pending || !(ts.any fun i => (s.tag i).fin) then s
  else
    let wrong := (ts.filter fun i => (s.tag i).pred).length
    let s1 := ts.foldl (fun s i => s.setTag i { s.tag i with fin := false, pred := false }) s
    { s1 with res := { s1.res with pfWrong := s1.res.pfWrong + BitVec.ofNat 16 wrong } }

/-- A batch is complete: its positions are freed, its copy's pin ends, and FIN may clear. -/
def batchComplete (s : State) (tix q id : Nat) : State :=
  let t := s.tag tix
  let x := t.xq q
  match x.batches.find? fun b => b.id == id with
  | none => s
  | some b =>
    let t1 := t.setXq q { x with ringUse := x.ringUse - b.pos.length, batches := x.batches.filter fun y => y.id != id }
    finCheck (afterFree b.kept (settleTag (s.setTag tix t1) tix)) (xidSlot t.xid) (xidLayer t.xid)

/-- Change a closed batch. -/
def mapBatch (s : State) (tix q id : Nat) (f : Batch → Batch) : State :=
  let t := s.tag tix
  let x := t.xq q
  s.setTag tix (t.setXq q { x with batches := x.batches.map fun b => if b.id = id then f b else b })

def State.batch? (s : State) (tix q id : Nat) : Option Batch := ((s.tag tix).xq q).batches.find? fun b => b.id == id

/-- Records that waited are written once their tables no longer migrate, in their order. -/
def resumeEmits (s : State) : State :=
  s.res.emits.foldl (fun s x =>
    if emitWaits s x.1 || s.res.emits.head? != some x then s
    else
      let s1 := { s with res := { s.res with emits := s.res.emits.drop 1 } }
      match s1.batch? x.1 x.2.1 x.2.2 with
      | some b => emitNow s1 x.1 x.2.1 b
      | none => s1) s

/-- Complete a batch whose records are all consumed and whose nodes are all done. -/
def batchCheck (s : State) (tix q id : Nat) : State :=
  match s.batch? tix q id with
  | some b => if b.allIn && b.left == 0 then batchComplete s tix q id else s
  | none => s

/-- A node of a batch is done; all records of a batch are consumed. -/
def batchNodeDone (s : State) (b : Nat × Nat × Nat) : State :=
  batchCheck (mapBatch s b.1 b.2.1 b.2.2 fun x => { x with left := x.left - 1 }) b.1 b.2.1 b.2.2
def batchAllIn (s : State) (b : Nat × Nat × Nat) : State :=
  batchCheck (mapBatch s b.1 b.2.1 b.2.2 fun x => { x with allIn := true }) b.1 b.2.1 b.2.2

/-- Drop a batch that waits for a copy of a poisoned expert (R194). -/
def batchDrop (s : State) (tix q : Nat) (b : Batch) : State :=
  let s1 := { s with res := { s.res with drop := s.res.drop + BitVec.ofNat 32 b.pos.length } }
  batchComplete (raiseEvent 6 s1) tix q b.id

/-- Committed slots of a queue in the order of their claims. -/
def insertClaim (x : Nat × Claim) : List (Nat × Claim) → List (Nat × Claim)
  | [] => [x]
  | y :: r => if x.2.seq < y.2.seq then x :: y :: r else y :: insertClaim x r
def XQueue.committed (q : XQueue) : List (Nat × Claim) :=
  (q.slots.filter fun e => e.2.committed).foldl (fun l x => insertClaim x l) []

/-- Write row words to ring positions. A frame of an installed main copy is read-only to every agent (R125): a write into one is dropped;
one into a frame that migrates waits (R134). -/
def putRows (s : State) (base : Nat) : List (Nat × Word) → State
  | [] => s
  | (p, w) :: r =>
    let a := base + 4 * p
    putRows (if s.famHas (frameOf a) famNM then s else unitPut s a (natLe 4 w.toNat)) base r

/-- Close the open batch of a queue (R194). -/
def closeQueue (s : State) (tix q : Nat) (final : Bool) : State :=
  let t := s.tag tix
  let x := t.xq q
  let taken := x.committed
  let rest := x.slots.filter fun e => !e.2.committed
  let n := taken.length
  let mode := x.bmode
  let x1 := { x with slots := rest, bmode := if rest.isEmpty then 0 else mode, kept := if rest.isEmpty then [] else x.kept }
  if n = 0 then (if rest.isEmpty then afterFree x.kept else id) (s.setTag tix (t.setXq q x1))
  else
    let pos := ringTake (x.batches.flatMap Batch.pos) 4096 x.ringPos n
    let b : Batch := { id := s.res.seq, mode := mode, pos := pos, held := mode == 3, left := 0, allIn := false, final := final,
                       kept := x.kept }
    let x2 := { x1 with ringPos := (pos.getLastD 4095 + 1) % 4096, ringUse := x.ringUse + n, batches := x.batches ++ [b] }
    let touch (t : Tag) : Tag :=
      match t.modeCopy mode with
      | some c => t.setCopy c { t.copy c with last := s.time }
      | none => t
    let s1 := putRows (s.setTag tix (touch (t.setXq q x2))) (ringBase t q) (pos.zip (taken.map fun e => e.2.row))
    let s2 := { s1 with res := { s1.res with seq := s1.res.seq + 1 } }
    if mode = 3 then
      if t.psn then batchDrop s2 tix q b
      else if (t.copy t.prefB).st = .resident then
        emitBatch (mapBatch s2 tix q b.id fun y => { y with held := false }) tix q b
      else s2
    else emitBatch s2 tix q b

/-- Close every queue of an expert, home first. -/
def closeExpert (s : State) (tix : Nat) (final : Bool) : State :=
  (List.range (s.tag tix).queues.length).foldl (fun s q => closeQueue s tix q final) s

/-- BTHR in slots: 0 means 4096 (R185). -/
def Tag.threshold (t : Tag) : Nat := if t.bthr = 0 then 4096 else t.bthr

/-- Commit one slot-log record; the commit that reaches BTHR closes the batch (R36, R194). -/
def commitSlot (s : State) (r : SlotRec) : State :=
  let t := s.tag r.tix
  let x := t.xq r.qix
  match tabGet? x.slots r.slot with
  | none => s
  | some c =>
    if c.committed then s
    else
      let x1 := { x with slots := tabSet x.slots r.slot { c with committed := true } }
      let s1 := s.setTag r.tix (t.setXq r.qix x1)
      if (x1.slots.filter fun e => e.2.committed).length = t.threshold then closeQueue s1 r.tix r.qix false else s1

/-- Commit the uncommitted slots of a thread and empty its slot log. -/
def commitSlots (s : State) (c : Ctx) : State :=
  let m := s.member c
  m.slots.foldl commitSlot (s.setMember c { m with slots := [] })

/-- Return one uncommitted slot to its queue (R35, R193): BMODE reverts to none when the open batch has no claim left. -/
def returnSlot (s : State) (r : SlotRec) : State :=
  let t := s.tag r.tix
  let x := t.xq r.qix
  match tabGet? x.slots r.slot with
  | none => s
  | some c =>
    if c.committed then s
    else
      let left := tabDel x.slots r.slot
      let x1 := { x with slots := left, bmode := if left.isEmpty then 0 else x.bmode, kept := if left.isEmpty then [] else x.kept }
      (if left.isEmpty then afterFree x.kept else id) (settleTag (s.setTag r.tix (t.setXq r.qix x1)) r.tix)

/-! ### Final close (R195) -/

/-- FIN in every entry of the layer; the close itself follows when no slot of the layer is uncommitted. -/
def finalStart (s : State) (m l : Nat) : State :=
  if s.res.finals.contains (m, l) || (s.layerTags m l).any fun i => (s.tag i).fin then s
  else
    let s1 := (s.layerTags m l).foldl (fun s i => s.setTag i { s.tag i with fin := true }) s
    { s1 with res := { s1.res with finals := s1.res.finals ++ [(m, l)] } }

/-- Every claimed slot of the layer is committed or returned. -/
def finalReady (s : State) (m l : Nat) : Bool :=
  s.res.finals.contains (m, l) &&
  (s.layerTags m l).all fun i => (s.tag i).queues.all fun q => q.slots.all fun e => e.2.committed

def finalCloseLayer (s : State) (m l : Nat) : State :=
  let s1 := (s.layerTags m l).foldl (fun s i => closeExpert s i true) s
  finCheck { s1 with res := { s1.res with finals := s1.res.finals.filter fun x => x != (m, l) } } m l

/-! ### Poisoning and residency (R188, R199) -/

/-- The expert that a request is for. -/
def FillWhat.tix (w : FillWhat) : Option Nat :=
  match w with
  | .fill t _ => some t
  | .stream t => some t
  | .dist t _ => some t
  | .recall _ => none
  | .evict _ => none

/-- Drop the fills and the distribution of an expert that is poisoned; its stream chunks stay (R196). -/
def cancelFills (s : State) (tix : Nat) : State :=
  { s with res := { s.res with reqs := s.res.reqs.filter fun q => !(q.what.tix == some tix) || q.what == .stream tix
                               dist := s.res.dist.filter fun e => e.1 / 65536 != tix } }

/-- Poison an expert: PSN, a record of kind 6, event 5; its fills end, its WAITA batches are dropped, and its copies go once
no batch uses them. -/
def poisonExpert (s : State) (tix : Nat) : State :=
  let t := s.tag tix
  let drop (b : Bool) (t : Tag) : Tag :=
    if (t.copy b).st = .filling then t.setCopy b { t.copy b with st := .absent, frames := [] } else t
  let s1 := s.setTag tix (drop true (drop false { t with psn := true }))
  let s2 := cancelFills s1 tix
  let s3 := { s2 with res := { s2.res with xpsnTix := BitVec.ofNat 15 tix, xpsnN := s2.res.xpsnN + 1 } }
  let s4 := raiseEvent 5 (crock { crockBase 6 0x0D with info := tix } s3)
  let held := (List.range t.queues.length).flatMap fun q => ((t.xq q).batches.filter fun b => b.held).map fun b => (q, b)
  retryFills (settleTag (held.foldl (fun s x => batchDrop s tix x.1 x.2) s4) tix)

/-- A near copy becomes RESIDENT: the records of batches that wait for it are emitted (R188). -/
def fillComplete (s : State) (tix : Nat) (b : Bool) : State :=
  let t := s.tag tix
  let s1 := s.setTag tix (t.setCopy b { t.copy b with st := .resident, last := s.time })
  if t.prefB = b then
    (List.range t.queues.length).foldl (fun s q =>
      ((t.xq q).batches.filter fun x => x.held).foldl (fun s x =>
        emitBatch (mapBatch s tix q x.id fun y => { y with held := false }) tix q x) s) s1
  else s1

/-- A queue's batches keep the frames of a copy that they use. -/
def XQueue.keep (t : Tag) (b : Bool) (x : XQueue) : XQueue :=
  let fs := (t.copy b).frames
  { x with kept := if x.kept.isEmpty && x.bmode != 3 && t.modeCopy x.bmode == some b then fs else x.kept
           batches := x.batches.map fun y => if y.kept.isEmpty && t.batchUses b y then { y with kept := fs } else y }

/-- An uncorrectable error in a near frame of a copy: RESIDENT becomes ABSENT, and the batches that use it keep its frames until they
are complete; a later miss takes others (R139, R188, R203). -/
def doomCopy (t : Tag) (b : Bool) : Tag :=
  let t1 := { t with home := t.home.keep t b, reps := t.reps.map (XQueue.keep t b) }
  t1.setCopy b { t1.copy b with st := .absent, frames := [] }
def doomFrame (s : State) (f : Nat) : State :=
  s.res.tags.foldl (fun s e => [false, true].foldl (fun s b =>
    let t := s.tag e.1
    let c := t.copy b
    if c.st = .resident ∧ c.frames.contains f then
      let t1 := doomCopy t b
      (if t1.kept.contains f then id else afterFree c.frames) (settleTag (s.setTag e.1 t1) e.1)
    else s) s) s

/-- The frames in which a node reads a near copy: those that its batch keeps, else the copy's. -/
def nodeFrames (s : State) (tix : Nat) (b : Bool) (batch : Option (Nat × Nat × Nat)) : List Nat :=
  match batch.bind fun x => s.batch? x.1 x.2.1 x.2.2 with
  | some y => if y.kept.isEmpty then ((s.tag tix).copy b).frames else y.kept
  | none => ((s.tag tix).copy b).frames

/-! ### Routing (R191 to R193) -/

/-- This device's number and the devices it can reach (LNKID, R254). -/
def State.devNo (s : State) : BitVec 2 := s.plat.lnkid.extractLsb' 0 2
def State.devUp (s : State) (d : BitVec 2) : Bool := s.plat.lnkid.getLsbD (8 + d.toNat)

def XQueue.occ (q : XQueue) : Nat := q.slots.length + q.ringUse

/-- The occupancy of the `k`th queue that a pair looks at. A queue on a device that cannot be reached counts as full (R258); a peer's
is known only to the peer: a free value (log 13). -/
def queueOcc (s : State) (k : Nat) (q : XQueue) : Nat :=
  if q.dev = s.devNo then q.occ
  else if s.devUp q.dev then (Config.freeWord (s.freeCtr + k)).toNat % 4097
  else 4096

/-- Is a queue full (R192)? -/
def queueFull (s : State) (k : Nat) (q : XQueue) : Bool := decide (4096 ≤ queueOcc s k q)

/-- The first free claim slot at or after `i`, and the occupied slots passed over. -/
def freeSlot (t : Tab Claim) (fuel i passed : Nat) : Nat × Nat :=
  match fuel with
  | 0 => (i, passed)
  | k + 1 => if (tabGet? t i).isNone then (i, passed) else freeSlot t k ((i + 1) % 4096) (passed + 1)

/-- Count a claim on an expert: PRED clears and counts in PFHIT, and this device's copy of the mode, if the queue uses it, counts a use. -/
def claimMarks (s : State) (tix : Nat) (mode : Option Nat) : State :=
  let t := s.tag tix
  let t1 := { t with pred := false }
  let t2 := match mode.bind t.modeCopy with
    | some c => t1.setCopy c { t1.copy c with last := s.time, freq := (t1.copy c).freq + 1 }
    | none => t1
  let s1 := s.setTag tix t2
  { s1 with res := { s1.res with pfHit := if t.pred then s1.res.pfHit + 1 else s1.res.pfHit,
                                 claims := tix :: s1.res.claims.filter fun x => x != tix } }

/-- Claim a slot of one of this device's queues for a row word (R192). -/
def claimSlot (s : State) (tix q : Nat) (row : Word) (committed : Bool) : State × Nat :=
  let t := s.tag tix
  let x := t.xq q
  let (i, passed) := freeSlot x.slots 4096 (x.ctr.toNat % 4096) 0
  let x1 := { x with ctr := x.ctr + BitVec.ofNat 32 (passed + 1),
                     slots := tabSet x.slots i { row := row, committed := committed, seq := s.res.seq } }
  let s1 := s.setTag tix (t.setXq q x1)
  (claimMarks { s1 with res := { s1.res with seq := s1.res.seq + 1 } } tix (some x.bmode), i)

/-- Add to a thread's slot log. -/
def logSlot (s : State) (c : Ctx) (r : SlotRec) : State :=
  let m := s.member c
  s.setMember c { m with slots := m.slots ++ [r] }

/-- A route word (R192). -/
def routeWord (clu dev : Nat) (rpl unk : Bool) (copy code slot : Nat) (xid : Word) : DWord :=
  (0 : BitVec 3) ++ BitVec.ofNat 3 clu ++ BitVec.ofNat 2 dev ++ bit1 rpl ++ bit1 unk ++ BitVec.ofNat 2 copy ++
  (0 : BitVec 1) ++ BitVec.ofNat 3 code ++ (0 : BitVec 4) ++ BitVec.ofNat 12 slot ++ xid

def countRouted (s : State) (tix : Nat) : State :=
  let t := s.tag tix
  s.setTag tix { t with routed := if t.routed = 0xFFFFFFFF#32 then t.routed else t.routed + 1 }

/-- The entry of the substitute that DIVERT may use for an expert. What a home queue on a peer has open, and whether the peer's copies are
resident, only the peer knows: a free bit (log 13). -/
def divertTo (s : State) (t : Tag) : Option Nat :=
  match t.subst with
  | none => none
  | some x =>
    match s.tagIx? x with
    | none => none
    | some i =>
      let f := s.tag i
      let serves := if f.home.dev = s.devNo then (f.a.st == .resident || f.b.st == .resident) && f.home.bmode != 3 && f.home.bmode != 4
        else (Config.freeWord (s.freeCtr + 6)).getLsbD 0
      if !f.psn && serves && !queueFull s 5 f.home then some i else none

/-- The batch mode that a policy code gives an expert, when it applies: 5 stands for DIVERT. -/
def policyMode (s : State) (t : Tag) (code : Nat) : Option Nat :=
  match code with
  | 1 => some 3
  | 2 => if (divertTo s t).isSome then some 5 else none
  | 3 => if t.b.st = .resident then some 2 else none
  | 4 => if t.hasMain then some 4 else none
  | _ => none

/-- The first policy of XPOL's list that applies, then WAIT. -/
def policyPick (s : State) (t : Tag) : List Nat → Nat
  | [] => 3
  | c :: r => if c = 0 ∨ 4 < c then 3 else (policyMode s t c).getD (policyPick s t r)

def xpolList (x : Word) : List Nat := [bits x.toNat 0 3, bits x.toNat 3 3, bits x.toNat 6 3]

/-- WAIT fills the preferred copy; with no frames, and a main copy, and a layer that is not being closed, it becomes STREAM
(R191). The mode it ends in is 3 or 4. -/
def openWait (s : State) (tix : Nat) : State × Nat :=
  let t := s.tag tix
  let p := t.prefB
  let (s1, ok) := requestFill s tix p 2
  if ok || (t.copy p).st != .absent then (s1, 3)
  else if t.hasMain && !t.fin then ({ s1 with res := { s1.res with wconv := s1.res.wconv + 1 } }, 4)
  else ({ s1 with res := { s1.res with retry := s1.res.retry ++ [(tix, p)] } }, 3)

/-- CODE and COPY of a queue's mode for its expert. -/
def modeCode (t : Tag) (mode : Nat) : Nat × Nat :=
  match mode with
  | 1 => (0, 0)
  | 2 => (if t.a.st = .none then 0 else 3, 1)
  | 3 => (1, if t.prefB then 1 else 0)
  | _ => (4, 2)

def setBmode (s : State) (tix q mode : Nat) : State :=
  let t := s.tag tix
  s.setTag tix (t.setXq q { t.xq q with bmode := mode })

/-- Claim for a thread, or for a peer (`c` none: committed on arrival, log 13), and form the route word. -/
def claimFor (s : State) (c : Option Ctx) (tix q : Nat) (row : Word) (code : Option Nat) : State × DWord :=
  let x := (s.tag tix).xq q
  let (s1, slot) := claimSlot s tix q row c.isNone
  let s2 := match c with
    | some c => logSlot s1 c { tix := tix, qix := q, slot := slot }
    | none => s1
  let m := modeCode (s.tag tix) x.bmode
  (s2, routeWord x.clu.toNat x.dev.toNat (q != 0) false m.2 (code.getD m.1) slot (s.tag tix).xid)

/-- The modes that a batch of an expert can be in, as its copies are provided. -/
def Tag.modes (t : Tag) : List Nat :=
  (if t.a.st = .none then [] else [1]) ++ (if t.b.st = .none then [] else [2]) ++ [3] ++ (if t.hasMain then [4] else [])

/-- An expert's entry as a peer's copies may stand: whether each is resident is a free bit of `w`. -/
def peerTag (t : Tag) (w : Word) : Tag :=
  let seen (k : Bool) : CopySt := if (t.copy k).st = .none then .none else if w.getLsbD (if k then 1 else 0) then .resident else .absent
  (t.setCopy false { t.a with st := seen false }).setCopy true { t.b with st := seen true }

/-- The mode that a claim finds or gives a peer's queue under an XPOL value (R193), 5 for DIVERT. Whether its batch is open, in which mode,
and how the peer's copies and frames stand, are free bits of `w` (log 13). -/
def remoteMode (s : State) (t : Tag) (xpol w : Word) : Nat :=
  let p := peerTag t w
  if w.getLsbD 2 then t.modes.getD (w.toNat / 16 % t.modes.length) 3
  else if (p.copy p.prefB).st = .resident then (if p.prefB then 2 else 1)
  else match policyPick s p (xpolList xpol) with
    | 3 => if t.hasMain && w.getLsbD 3 then 4 else 3
    | m => m

/-- Claim in a queue of a peer device whose batch is in `mode`: a remote fetch-and-add (R192). The peer's copies serve the queue and its
open batch is the peer's (R385), so that no copy or BMODE of this device changes; the slot is a free value (log 13). -/
def claimRemote (s : State) (c : Option Ctx) (tix q mode : Nat) (row : Word) (code : Option Nat) : State × DWord :=
  let t := s.tag tix
  let x := t.xq q
  let slot := (Config.freeWord s.freeCtr).toNat % 4096
  let m := modeCode t mode
  let s1 := claimMarks { s with plat := { s.plat with out := s.plat.out ++ [LinkMsg.claim x.dev.toNat t.xid row] } } tix none
  let s2 := match c with
    | some c => logSlot s1.bump c { tix := tix, qix := q, slot := slot }
    | none => s1.bump
  (s2, routeWord x.clu.toNat x.dev.toNat (q != 0) false m.2 (code.getD m.1) slot t.xid)

/-- DIVERT: claim in the substitute's home queue under its own mode (R193); that of a peer's is one of its near copies (log 13). -/
def routeTo (s : State) (c : Option Ctx) (f : Nat) (row : Word) : State × DWord :=
  let s1 := countRouted s f
  let t := s1.tag f
  if t.home.dev ≠ s.devNo then
    let near := t.modes.filter fun m => decide (m < 3)
    claimRemote s1.bump c f 0 (near.getD ((Config.freeWord s1.freeCtr).toNat % near.length) 1) row (some 2)
  else
  let s2 := if t.home.bmode = 0 then setBmode s1 f 0 (if t.a.st = .resident then 1 else 2) else s1
  claimFor s2 c f 0 row (some 2)

/-- The replica, from the `i`th queue on, with the lowest occupancy that is not full; ties to the lowest index. -/
def pickReplica (s : State) (l : List XQueue) (i : Nat) (best : Option (Nat × Nat)) : Option Nat :=
  match l with
  | [] => best.map Prod.fst
  | q :: r =>
    let better := match best with
      | none => true
      | some (_, o) => decide (queueOcc s i q < o)
    pickReplica s r (i + 1) (if !queueFull s i q && better then some (i, queueOcc s i q) else best)

/-- Route one pair (R193), under an XPOL value. An unknown id has no home, and CLU and DEV of its word are 0 (DESIGN CHOICE, log 16). -/
def routePair (s : State) (c : Option Ctx) (xpol row xid : Word) : State × DWord :=
  match s.tagIx? xid with
  | none => (s, routeWord 0 0 false true 3 7 0 xid)
  | some i =>
    let s0 := countRouted s i
    let t := s0.tag i
    let s1 := s0.bumpBy 8
    let no (code : Nat) : DWord := routeWord t.home.clu.toNat t.home.dev.toNat false false 3 code 0 xid
    if t.psn then (s0, no 7)
    else if t.fin then (s0, no 6)
    else
      match (if queueFull s0 0 t.home then pickReplica s0 t.reps 1 none else some 0) with
      | none => (s1, no 5)
      | some q =>
        if (t.xq q).dev ≠ s.devNo then
          match remoteMode s0 t xpol (Config.freeWord (s0.freeCtr + 7)), divertTo s0 t with
          | 5, some f => routeTo s1 c f row
          | m, _ => claimRemote s1 c i q m row none
        else if (t.xq q).bmode ≠ 0 then claimFor s1 c i q row none
        else if (t.copy t.prefB).st = .resident then
          claimFor (setBmode s1 i q (if t.prefB then 2 else 1)) c i q row none
        else
          match policyPick s0 t (xpolList xpol), divertTo s0 t with
          | 5, some f => routeTo s1 c f row
          | 3, _ =>
            let (s2, m) := openWait s1 i
            claimFor (setBmode s2 i q m) c i q row none
          | m, _ => claimFor (setBmode s1 i q m) c i q row none

/-! ### The pairs of an XROUTE (R386) -/

/-- Route a pair and put its route word into the lanes of the result; with the last pair the result exists. -/
def performRoute (s : State) (c : Ctx) (r : RouteStep) : State :=
  let (s1, w) := routePair s (some c) r.xpol r.row r.xid
  let b := s1.bank c
  s1.setBank c ((b.fillLock r.lock (4 * r.lane) (natLe 4 (w.extractLsb' 0 32).toNat) false).fillLock r.lock (512 + 4 * r.lane)
    (natLe 4 (w.extractLsb' 32 32).toNat) r.last)

/-- The next pair that a thread has still to route. -/
def nextRoute (c : Ctx) (s : State) : State :=
  let b := s.bank c
  match b.pipe.routes with
  | [] => s
  | r :: l => performRoute (s.setBank c { b with pipe := { b.pipe with routes := l } }) c r

/-- All of them: the thread is discarded or ends. -/
def finishRoutes (s : State) (c : Ctx) : State := (s.bank c).pipe.routes.foldl (fun s _ => nextRoute c s) s

end Sys2Proof.Machine
end

