-- ==== Sys2Proof/Machine/Link.lean ====
section
/-! DEFINITION. The forms in which copied elements cross the Birith link (R114): blocks of fp32 values and of A56-packed words under
exponent-delta compression, and plain bytes. -/

namespace Sys2Proof.Machine

/-- A value that a block carries: sign, biased exponent, fraction, flag byte. -/
structure LinkNum where
  sign : Bool
  exp  : Nat
  frac : Nat
  flag : Nat
  deriving DecidableEq, Repr

/-- A value's bits as a sign above `e` exponent bits above `f` fraction bits, with what stands above as the flag byte. -/
def linkNum (e f x : Nat) : LinkNum :=
  { sign := bitOf x (e + f), exp := bits x f e, frac := bits x 0 f, flag := x / 2 ^ (e + f + 1) }
def LinkNum.pack (e f : Nat) (v : LinkNum) : Nat :=
  v.frac + 2 ^ f * v.exp + (if v.sign then 2 ^ (e + f) else 0) + 2 ^ (e + f + 1) * v.flag

/-- Emin, w and the flag bit of a block. -/
def blockMin (l : List LinkNum) : Nat := l.foldl (fun m v => min m v.exp) 1023
def blockWidth (l : List LinkNum) : Nat :=
  ((List.range 12).find? fun w => l.all fun v => decide (v.exp - blockMin l < 2 ^ w)).getD 11
def blockFlags (l : List LinkNum) : Bool := l.any fun v => v.flag != 0

/-- A block: its 16-bit header, then each value's sign, exponent delta, fraction and, where bit 14 says so, flag byte. -/
def linkBlock (l : List LinkNum) : LinkBlock :=
  { head := BitVec.ofNat 16 (blockMin l + 2 ^ 10 * blockWidth l + (if blockFlags l then 2 ^ 14 else 0)),
    vals := l.map fun v => { sign := v.sign, delta := v.exp - blockMin l, frac := v.frac, flag := if blockFlags l then some v.flag else none } }

/-- What a block decodes to. -/
def LinkBlock.nums (k : LinkBlock) : List LinkNum :=
  k.vals.map fun v => { sign := v.sign, exp := bits k.head.toNat 0 10 + v.delta % 2 ^ bits k.head.toNat 10 4, frac := v.frac,
                        flag := if k.head.getLsbD 14 then v.flag.getD 0 else 0 }

/-- Bytes cut into pieces of `n`; `fuel` is at least the number of pieces. -/
def cutBytes (n : Nat) : Nat → List Byte → List (List Byte)
  | 0, _ => []
  | fuel + 1, l => if l.isEmpty then [] else l.take n :: cutBytes n fuel (l.drop n)

/-- The bytes of elements as blocks of up to 32 values of `n` bytes. -/
def toBlocks (n e f : Nat) (l : List Byte) : List LinkBlock :=
  (cutBytes (32 * n) l.length l).map fun b => linkBlock ((cutBytes n b.length b).map fun x => linkNum e f (leNat x))
def ofBlocks (n e f : Nat) (l : List LinkBlock) : List Byte := (l.flatMap LinkBlock.nums).flatMap fun v => natLe n (v.pack e f)

/-- The form in which encoded bytes travel: `fp32` elements, `packed` 8-byte words, or bytes. -/
def wireOf (fp32 packed : Bool) (l : List Byte) : Wire :=
  if fp32 && l.length % 4 == 0 then .fp32 (toBlocks 4 8 23 l)
  else if packed && l.length % 8 == 0 then .a56 (toBlocks 8 10 45 l)
  else .bytes l

/-- What arrives, bit for bit. -/
def wireData : Wire → List Byte
  | .bytes l => l
  | .fp32 b => ofBlocks 4 8 23 b
  | .a56 b => ofBlocks 8 10 45 b

end Sys2Proof.Machine
end

