-- ==== Sys2Proof/Machine/LoadStore.lean ====
section
/-! DEFINITION. The M-format memory words: loads, stores, atomics, FENCE, ACQ, REL, PREF (R293, R295 to R297, R308, R320,
R321, R331, R337, R346, R347, R235). -/

namespace Sys2Proof.Machine

/-- Bytes of a size code (R279). -/
def szBytes (sz : BitVec 3) : Nat :=
  match sz.toNat with
  | 0 => 1
  | 1 => 2
  | 2 => 4
  | 3 => 8
  | 4 => 1
  | 5 => 2
  | 6 => 512
  | _ => 128

/-- Alignment of a size code: its size, or 64 for a register transfer. -/
def szAlign (sz : BitVec 3) : Nat := min (szBytes sz) 64

/-- A loaded scalar value: zero-extended, sign-extended for 100 and 101 (R279). -/
def loadedWord (sz : BitVec 3) (x : Nat) : Word :=
  match sz.toNat with
  | 4 => BitVec.ofInt 32 (signed 8 x)
  | 5 => BitVec.ofInt 32 (signed 16 x)
  | _ => BitVec.ofNat 32 x

/-- The register writes of loaded bytes into DR, resolved at issue (R73). -/
def dataWrites (b : Bank) (sz : BitVec 3) (dr : Nat) (x : List Byte) : List RegWrite :=
  match sz.toNat with
  | 3 => [.s dr (BitVec.ofNat 32 (leNat x)) (BitVec.allOnes 32),
          .s (dr + 1) (BitVec.ofNat 32 (leNat x / 2 ^ 32)) (BitVec.allOnes 32)]
  | 6 => [.v (b.physV dr) (BitVec.ofNat 4096 (leNat x)) allOnesV]
  | 7 => [.p (b.physP dr) (BitVec.ofNat 1024 (leNat x)) allOnesP]
  | _ => [.s dr (loadedWord sz (leNat x)) (BitVec.allOnes 32)]

/-- The bytes that DR supplies to a store. -/
def dataBytes (b : Bank) (sz : BitVec 3) (dr : Nat) : List Byte :=
  match sz.toNat with
  | 3 => natLe 8 (b.dreg dr).toNat
  | 6 => natLe 512 (b.vreg dr).toNat
  | 7 => natLe 128 (b.preg dr).toNat
  | _ => natLe (szBytes sz) (b.sreg dr).toNat

/-- The address of an M-format word with OFF' = OFF (R293). -/
def mVa (b : Bank) (o : MOps) : Nat := mAddr b (b.sreg o.bs.toNat) (o.off.signExtend 32)

/-- A strong load at core scope reads the L1 or the window, in the order of the thread's strong loads: none that follows it has read
ahead of it (R146 item 3). -/
def coreStrong (s : State) (o : MOps) (va : Nat) : State :=
  if o.ord != 0 && scopeAt s.cur va o.sc == 0 then s.noStrong s.iss.ctx else s

/-- LD (R320). -/
def loadEffect (o : MOps) (s : State) : Res :=
  let c := s.iss.ctx
  let b := s.cur
  let va := mVa b o
  let sc := scopeAt b va o.sc
  match aligned s va (szAlign o.sz) with
  | .error e => .error e
  | .ok () =>
    match loadVa (coreStrong s o va) c va (szBytes o.sz) (viaL1 (o.ord != 0) o.sc) with
    | .error e => .error e
    | .ok (s1, x) =>
      let s2 := s1.setBank c ((s1.bank c).lockWrites (dataWrites b o.sz o.dr.toNat x) 0 true)
      .ok (afterAcquire s2 c (o.ord == 2) sc)

def execLd (h : Hdr) (o : MOps) (s : State) : Host.Outcome State Fault Refusal := word (.ld h o) s (loadEffect o)

/-- What an acquire makes of a load of several steps when its last step has been performed. -/
def acqScope (o : MOps) (sc : BitVec 2) : Option (BitVec 2) := if o.ord == 2 then some sc else none

/-- The registers `ws` are filled by the steps at `ls`: the first at once, the others as their charge is granted (R241). -/
def fillSteps (s : State) (c : Ctx) (o : MOps) (ws : List RegWrite) (ls : List Loc) (sc : BitVec 2) : State :=
  let b := s.bank c
  startSteps (s.setBank c (b.lockWrites ws 0 ls.isEmpty)) c (loadSteps ls (viaL1 (o.ord != 0) o.sc) b.lockId (acqScope o sc))

/-- LDV (R320): every check, then its 64-byte steps. -/
def ldvEffect (o : MOps) (s : State) : Res :=
  let c := s.iss.ctx
  let b := s.cur
  let va := mVa b o
  match aligned s va (szAlign o.sz) with
  | .error e => .error e
  | .ok () =>
    match reachAll (coreStrong s o va) c va .rd (steps (szBytes o.sz)) with
    | .error e => .error e
    | .ok (s1, ls) => .ok (fillSteps s1 c o (dataWrites b o.sz o.dr.toNat []) (ls.map Prod.fst) (scopeAt b va o.sc))

def execLdv (h : Hdr) (o : MOps) (s : State) : Host.Outcome State Fault Refusal := word (.ldv h o) s (ldvEffect o)

/-- The address of register `i` of an LDM or STM: OFF[11:0] counts units of 64 bytes, and each register's address is mapped under R293
(R321, R347). -/
def rangeVa (b : Bank) (o : MOps) (i : Nat) : Nat :=
  mAddr b (b.sreg o.bs.toNat) (((o.off.extractLsb' 0 12).signExtend 32) * 64 + BitVec.ofNat 32 (i * szBytes o.sz))

/-- The register at which an LDM or STM starts: XFER in task mode, the first in monitor mode (R226, R235). -/
def xferStart (b : Bank) : Nat := if b.tr.mode then 0 else b.tr.xfer.toNat
def Bank.setXfer (b : Bank) (n : Nat) : Bank :=
  if b.tr.mode then b else { b with tr := { b.tr with xfer := BitVec.ofNat 9 n } }

/-- Reach every step of the registers from `i` on, in order. Beside the places: the register whose step fails, and its stop. -/
def reachRange (o : MOps) (b : Bank) (c : Ctx) (acc : Acc) (fuel i : Nat) (s : State) (ls : List (Loc × Nat)) :
    State × List (Loc × Nat) × Option (Nat × Stop) :=
  match fuel with
  | 0 => (s, ls, none)
  | k + 1 =>
    match reachAll s c (rangeVa b o i) acc (steps (szBytes o.sz)) with
    | .error e => (e.2, ls, some (i, e.1))
    | .ok (s1, l) => reachRange o b c acc k (i + 1) s1 (ls ++ l)

/-- The registers that a range still has to transfer: their number and the first. -/
def rangeLeft (b : Bank) (o : MOps) : Nat := rangeCount o - xferStart b

/-- The writes of `n` registers of the range, from the one that the transfer starts at, with bytes `x`. -/
def rangeWrites (b : Bank) (o : MOps) (n : Nat) (x : List Byte) : List RegWrite :=
  (List.range n).flatMap fun k =>
    dataWrites b o.sz (o.dr.toNat + xferStart b + k) ((x.drop (szBytes o.sz * k)).take (szBytes o.sz))

/-- The bytes of the registers that a range stores. -/
def rangeBytes (b : Bank) (o : MOps) : List Byte :=
  (List.range (rangeLeft b o)).flatMap fun k => dataBytes b o.sz (o.dr.toNat + xferStart b + k)

/-- The steps `ms` of the registers before a failing one, which XFER counts, are all to be performed as their charge is granted (R235,
R241); the bundle then executes again from the failing register, which raises its cause where nothing is left before it. -/
def partWay (s : State) (c : Ctx) (i : Nat) (ms : List MemStep) : Res :=
  let b := (s.bank c).setXfer i
  .error (.stall, s.setBank c { b with pipe := { b.pipe with steps := b.pipe.steps ++ ms } })

/-- LDM (R321, R235): the steps of every register are checked in order. Where one fails the registers before it are transferred first; a
stall leaves nothing. In monitor mode a failing step ends the thread (R234). -/
def ldmEffect (o : MOps) (s : State) : Res :=
  let c := s.iss.ctx
  let b := s.cur
  let va := rangeVa b o 0
  let sc := scopeAt b va o.sc
  match aligned s va 64 with
  | .error e => .error e
  | .ok () =>
    match reachRange o b c .rd (rangeLeft b o) (xferStart b) (coreStrong s o (rangeVa b o 0)) [] with
    | (_, _, some (_, .stall)) => .error (.stall, s)
    | (s1, ls, some (i, st)) =>
      if b.tr.mode ∨ i = xferStart b then .error (st, s1)
      else
        partWay (s1.setBank c ((s1.bank c).lockWrites (rangeWrites b o (i - xferStart b) []) 0 false)) c i
          (loadSteps (ls.map Prod.fst) (viaL1 (o.ord != 0) o.sc) b.lockId none)
    | (s1, ls, none) =>
      let s2 := fillSteps s1 c o (rangeWrites b o (rangeLeft b o) []) (ls.map Prod.fst) sc
      let s3 := s2.setBank c ((s2.bank c).setXfer 0)
      .ok (if ls.isEmpty then afterAcquire s3 c (o.ord == 2) sc else s3)

def execLdm (h : Hdr) (o : MOps) (s : State) : Host.Outcome State Fault Refusal := word (.ldm h o) s (ldmEffect o)

/-- ST (R346). -/
def storeEffect (o : MOps) (s : State) : Res :=
  let c := s.iss.ctx
  let b := s.cur
  let va := mVa b o
  match aligned s va (szAlign o.sz) with
  | .error e => .error e
  | .ok () =>
    storeVa s c va (dataBytes b o.sz o.dr.toNat) (viaL1 (o.ord != 0) o.sc) (o.ord == 2) o.sc

def execSt (h : Hdr) (o : MOps) (s : State) : Host.Outcome State Fault Refusal := word (.st h o) s (storeEffect o)

/-- STV (R346): every check and the write-back of a release, then its 64-byte steps. -/
def stvEffect (o : MOps) (s : State) : Res :=
  let c := s.iss.ctx
  let b := s.cur
  let va := mVa b o
  match aligned s va (szAlign o.sz) with
  | .error e => .error e
  | .ok () =>
    match reachAll s c va .wr (steps (szBytes o.sz)) with
    | .error e => .error e
    | .ok (s1, ls) =>
      .ok (startSteps (beforeRelease s1 c (o.ord == 2) (scopeAt b va o.sc)) c
        (storeSteps (ls.map Prod.fst) (dataBytes b o.sz o.dr.toNat) (viaL1 (o.ord != 0) o.sc) o.sc))

def execStv (h : Hdr) (o : MOps) (s : State) : Host.Outcome State Fault Refusal := word (.stv h o) s (stvEffect o)

/-- STM (R347, R235): the steps of every register are checked in order, and a release writes back once, before the first of them. Where a
step fails or waits, the registers before its own are stored first; in monitor mode, where a failing step ends the thread (R234), at
once. -/
def stmEffect (o : MOps) (s : State) : Res :=
  let c := s.iss.ctx
  let b := s.cur
  let va := rangeVa b o 0
  let l1 := viaL1 (o.ord != 0) o.sc
  match aligned s va 64 with
  | .error e => .error e
  | .ok () =>
    let r := reachRange o b c .wr (rangeLeft b o) (xferStart b) s []
    let s1 := if r.2.1.isEmpty then r.1 else beforeRelease r.1 c (o.ord == 2) (scopeAt b va o.sc)
    match r.2.2 with
    | some (i, st) =>
      if b.tr.mode then .error (st, writeAll s1 c l1 o.sc r.2.1 (rangeBytes b o))
      else if i = xferStart b then .error (st, s1)
      else partWay s1 c i (storeSteps (r.2.1.map Prod.fst) (rangeBytes b o) l1 o.sc)
    | none =>
      let s2 := startSteps s1 c (storeSteps (r.2.1.map Prod.fst) (rangeBytes b o) l1 o.sc)
      .ok (s2.setBank c ((s2.bank c).setXfer 0))

def execStm (h : Hdr) (o : MOps) (s : State) : Host.Outcome State Fault Refusal := word (.stm h o) s (stmEffect o)

/-! ### Atomics (R296, R297) -/

/-- The new value of an AMO (R296). -/
def amoNew (op w old v : Nat) : Nat :=
  match op with
  | 0 => (old + v) % 2 ^ w
  | 1 => old &&& v
  | 2 => old ||| v
  | 3 => old ^^^ v
  | 4 => v
  | 5 => if signed w v < signed w old then v else old
  | 6 => if signed w old < signed w v then v else old
  | 7 => min old v
  | _ => max old v

/-- One indivisible read and conditional write of `n` bytes at scope S (R145, R297): at core scope in the L1, else at the
system cache after the core's own line is written back and invalidated. The checks come first, then the write-back of a release (`rel`).
`new` answers none to write nothing. -/
def atomicVa (s : State) (c : Ctx) (va n : Nat) (rel : Bool) (sc : BitVec 2) (new : Nat → Option Nat) :
    Except (Stop × State) (State × Nat) :=
  match reachWord s c va n .am with
  | .error e => .error e
  | .ok (s0, .sp o) =>
    let s1 := (beforeRelease s0 c rel sc).noStrong c
    let old := leNat ((s1.bank c).scrBytes o n)
    .ok (match new old with
      | some v => writeLoc s1 c (.sp o) (natLe n v) true 0
      | none => s1, old)
  | .ok (s1, .pa a) =>
    let s2 := ((beforeRelease s1 c rel sc).noStrong c).storeOver c a n
    if sc = 0 then
      let (s3, x) := cacheRead s2 c.core a n true
      .ok (match new (leNat x) with
        | some v => cacheWrite s3 c.core a (natLe n v) true 0
        | none => s3, leNat x)
    else
      let s3 := (evictLine s2 c.core (lineOf a)).syncRead a n
      let old := leNat (sysBytes s3 a n)
      .ok (match new old with
        | some v => (sysPut s3 a (natLe n v)).syncAtomic a n
        | none => s3, old)

/-- AMO and CAS: release before, acquire after, the old value interlocked into DR. -/
def atomicEffect (o : MOps) (off : Word) (new : Nat → Option Nat) (s : State) : Res :=
  let c := s.iss.ctx
  let b := s.cur
  let n := szBytes o.sz
  let va := mAddr b (b.sreg o.bs.toNat) off
  let sc := scopeAt b va o.sc
  match aligned s va n with
  | .error e => .error e
  | .ok () =>
    match atomicVa s c va n (o.ord == 2 || o.ord == 3) sc new with
    | .error e => .error e
    | .ok (s1, old) =>
      let s2 := s1.setBank c ((s1.bank c).lockWrites (dataWrites b o.sz o.dr.toNat (natLe n old)) 0 true)
      .ok (afterAcquire s2 c (o.ord == 1 || o.ord == 3) sc)

/-- The value that DR supplies to an atomic. -/
def atomicArg (b : Bank) (sz : BitVec 3) (dr : Nat) : Nat := if sz == 3 then (b.dreg dr).toNat else (b.sreg dr).toNat

/-- AMO: OFF[19:16] is the operation, OFF' = OFF[15:0]. -/
def execAmo (h : Hdr) (o : MOps) (s : State) : Host.Outcome State Fault Refusal :=
  word (.amo h o) s fun s =>
    let v := atomicArg s.cur o.sz o.dr.toNat
    atomicEffect o ((o.off.extractLsb' 0 16).signExtend 32)
      (fun old => some (amoNew (o.off.extractLsb' 16 4).toNat (8 * szBytes o.sz) old v)) s

/-- CAS: writes only when old equals expected. -/
def execCas (h : Hdr) (o : MOps) (s : State) : Host.Outcome State Fault Refusal :=
  word (.cas h o) s fun s =>
    let expect := atomicArg s.cur o.sz o.dr.toNat
    let new := atomicArg s.cur o.sz (o.dr.toNat + (if o.sz == 3 then 2 else 1))
    atomicEffect o (o.off.signExtend 32) (fun old => if old = expect then some new else none) s

/-! ### FENCE, ACQ, REL, PREF -/

/-- The cache operations of a fence of a kind at a scope (R151): 1 ld, 2 st, 3 all. -/
def fenceOps (s : State) (c : Ctx) (kind : Nat) (sc : BitVec 2) : State :=
  let s1 := if kind = 2 ∨ kind = 3 then wbAll s c.core sc else s
  if kind = 1 ∨ kind = 3 then (invAll s1 c.core sc).noEarly c else s1

/-- FENCE (R308). -/
def execFence (h : Hdr) (o : MOps) (s : State) : Host.Outcome State Fault Refusal :=
  word (.fence h o) s fun s => .ok (fenceOps s s.iss.ctx o.ord.toNat o.sc)

/-- The 8-byte read of ACQ, and whether what it reads was written by a full release, or may have been: a REL's value is bound to ranges
(R150), and every other edge counts in full (R148). -/
def acqRead (s : State) (c : Ctx) (va : Nat) (sc : BitVec 2) : Except (Stop × State) (State × List Byte × Bool) :=
  match reachWord s c va 8 .rd with
  | .error e => .error e
  | .ok (s1, .sp o) => .ok (s1, (s1.bank c).scrBytes o 8, false)
  | .ok (s1, .pa a) =>
    let r := cacheRead s1 c.core a 8 (viaL1 true sc)
    .ok (r.1, r.2, (s1.syncWord (a / 8)).full)

/-- ACQ (R295): an acquiring atomic 8-byte read, then INV of the ranges bound to the address; of all lines where it reads from a full
release. It waits for a bound range whose tables migrate (R134). -/
def execAcq (h : Hdr) (o : MOps) (s : State) : Host.Outcome State Fault Refusal :=
  word (.acq h o) s fun s =>
    let c := s.iss.ctx
    let b := s.cur
    let va := mVa b o
    let es := boundTo s c va
    let sc := scopeAt b va (widestScope o.sc es)
    match aligned s va 8 with
    | .error e => .error e
    | .ok () =>
      match acqRead s c va sc with
      | .error e => .error e
      | .ok (s1, x, full) =>
        let s2 := (s1.setBank c ((s1.bank c).lockWrites (dataWrites b 3 o.dr.toNat x) 0 true)).noEarly c
        if sc = 0 then .ok s2
        else if full then .ok (invAll s2 c.core sc)
        else if boundWaits s1 c es then .error (.stall, s)
        else .ok (invLines s2 c.core (boundLine s2 c es))

/-- REL (R337): WB of the ranges bound to the address, then a releasing 8-byte write. It waits for a bound range whose tables migrate
(R134). -/
def execRel (h : Hdr) (o : MOps) (s : State) : Host.Outcome State Fault Refusal :=
  word (.rel h o) s fun s =>
    let c := s.iss.ctx
    let b := s.cur
    let va := mVa b o
    let es := boundTo s c va
    let sc := scopeAt b va (widestScope o.sc es)
    match aligned s va 8 with
    | .error e => .error e
    | .ok () =>
      match reachWord s c va 8 .wr with
      | .error e => .error e
      | .ok (s1, loc) =>
        if sc ≠ 0 ∧ boundWaits s1 c es then .error (.stall, s)
        else
          let s2 := if sc = 0 then s1 else wbLines s1 c.core sc (boundLine s1 c es)
          let s3 := writeLoc s2 c loc (natLe 8 (b.dreg o.dr.toNat).toNat) (viaL1 true sc) sc
          .ok (match loc with
            | .pa a => if sc = 0 then s3 else s3.syncRel c.core a
            | .sp _ => s3)

/-- A prefetch or helper load may use an address (R29, R331): mapped with A set, not managed, not poisoned, not
migrating, in a region that the mode may reach. -/
def prefetchPa (s : State) (c : Ctx) (mon : Bool) (va : Nat) : Option (State × Nat) :=
  let t := if mon then .ok (s, va) else translate s c.core (s.bank c).th.satp va .rd false
  match t with
  | .error _ => none
  | .ok (s1, pa) =>
    let f := frameOf pa
    match s1.region pa with
    | none => none
    | some r =>
      if r.cls == 2 || (!mon && r.cls == 3) || s1.famHas f famPSN || s1.famHas f famMIG || (s1.mainUe f).isSome ||
        (sysRead? s1 pa 1).isNone then none
      else some (s1, pa)

/-- PREF (R331): SC 00 fills the L1 line; the wider codes fill the system cache only, which holds no state of its own. -/
def execPref (h : Hdr) (o : MOps) (s : State) : Host.Outcome State Fault Refusal :=
  word (.pref h o) s fun s =>
    let c := s.iss.ctx
    let b := s.cur
    let va := mVa b o
    if !b.tr.mode && inWindow va then .ok s
    else match prefetchPa s c b.tr.mode va with
      | none => .ok s
      | some (s1, pa) => .ok (if o.sc = 0 then (fillLine s1 c.core (lineOf pa)).1 else s1)

end Sys2Proof.Machine
end

