-- ==== Sys2Proof/Machine/Control.lean ====
section
/-! DEFINITION. Control: fetching the words of a bundle (R227, R270), branches (R300, R301, R338), hardware loops and their
closings (R322 to R324), and the streams that a LOOP pops (R77, R333). -/

namespace Sys2Proof.Machine

/-! ### Fetch -/

/-- A task's code lies in the 32 GiB range of its ENTRY (R227); monitor code lies below 4 GiB. -/
def codeRange (b : Bank) (a : Addr) : Bool :=
  if b.tr.mode then decide (a.toNat < 2 ^ 32) else a.extractLsb' 35 13 == b.th.entry.extractLsb' 35 13

/-- A fetch failure as the stop of the bundle (R227, R230): FETCH = 1; SRC 2 in the record. -/
def fetchStop (e : AccErr × State) (c : Ctx) (a : Nat) : Stop × State :=
  let s := e.2
  let tr (code : BitVec 8) : Stop := .trap code (BitVec.ofNat 32 a) (BitVec.ofNat 16 (a / 2 ^ 32)) true false
  match e.1 with
  | .page => (.page 0x05 (BitVec.ofNat 48 a) 2 false, s)
  | .comp => (tr 0x08, s)
  | .access => (tr 0x08, s)
  | .ref => (tr 0x0B, s)
  | .psn => (tr 0x11, s)
  | .mig => (.stall, s)
  | .ue strc key => (tr 0x11, foundUe s (some c) strc key)

/-- Fetch one word of bank `c` at `a`. -/
def fetchWord (s : State) (c : Ctx) (a : Addr) : Except (Stop × State) (State × DWord) :=
  let b := s.bank c
  if !codeRange b a then .error (.trap 0x08 (a.extractLsb' 0 32) (a.extractLsb' 32 16) true false, s)
  else match reach s c b.tr.mode a.toNat 8 .ex true with
    | .error e => .error (fetchStop e c a.toNat)
    | .ok (s1, .sp o) => .ok (s1, BitVec.ofNat 64 (leNat ((s1.bank c).scrBytes o 8)))
    | .ok (s1, .pa p) => .ok (s1, BitVec.ofNat 64 (leNat (sysBytes s1 p 8)))

/-- Fetch up to `n` words, ending with the first whose bit 63 (E) is 1 (R270). -/
def fetchBundle (s : State) (c : Ctx) (a : Addr) (n : Nat) : Except (Stop × State) (State × List DWord) :=
  match n with
  | 0 => .ok (s, [])
  | k + 1 =>
    match fetchWord s c a with
    | .error e => .error e
    | .ok (s1, w) =>
      if w.getLsbD 63 then .ok (s1, [w])
      else match fetchBundle s1 c (a + 8) k with
        | .error e => .error e
        | .ok (s2, ws) => .ok (s2, w :: ws)

/-! ### Branches -/

/-- bundle + 8 x sext(OFF, 48) (R277). -/
def bTarget (s : State) (o : BOps) : Addr := s.iss.pc + (o.off.signExtend 48) * 8
/-- The code address of a scalar: the form of EPC (R227). -/
def indirectTarget (s : State) (o : BOps) : Addr := s.cur.epcAddr (s.cur.sreg o.sa.toNat)

/-- A taken branch makes the target the next bundle (R301). -/
def State.take (s : State) (t : Addr) : State := { s with iss := { s.iss with target := some t } }

/-- The comparison of BRC, signed, with 0 (R300). -/
def brcHolds (bf : Nat) (v : Word) : Bool :=
  match bf with
  | 0 => v == 0
  | 1 => v != 0
  | 2 => decide (v.toInt < 0)
  | 3 => decide (0 ≤ v.toInt)
  | 4 => decide (0 < v.toInt)
  | _ => decide (v.toInt ≤ 0)

def execBr (h : Hdr) (o : BOps) (s : State) : Host.Outcome State Fault Refusal :=
  word (.br h o) s fun s => .ok (s.take (bTarget s o))

def execBrc (h : Hdr) (o : BOps) (s : State) : Host.Outcome State Fault Refusal :=
  word (.brc h o) s fun s => .ok (if brcHolds o.bf.toNat (s.cur.sreg o.sa.toNat) then s.take (bTarget s o) else s)

def execBri (h : Hdr) (o : BOps) (s : State) : Host.Outcome State Fault Refusal :=
  word (.bri h o) s fun s => .ok (s.take (indirectTarget s o))

/-- CALL's link: bits [34:3] of the bundle that follows, visible to the first bundle at the target (R300). -/
def link (s : State) : State := s.setCur (s.cur.later 1 (.s 63 (epcOf s.iss.fall) (BitVec.allOnes 32)) 0)

def execCall (h : Hdr) (o : BOps) (s : State) : Host.Outcome State Fault Refusal :=
  word (.call h o) s fun s => .ok ((link s).take (bTarget s o))

def execCallIndirect (h : Hdr) (o : BOps) (s : State) : Host.Outcome State Fault Refusal :=
  word (.callIndirect h o) s fun s => .ok ((link s).take (indirectTarget s o))

/-- RET branches as BRI does (R338). -/
def execRet (h : Hdr) (o : BOps) (s : State) : Host.Outcome State Fault Refusal :=
  word (.ret h o) s fun s => .ok (s.take (indirectTarget s o))

/-! ### Streams (R77, R332, R333) -/

/-- The value of one pop of a stream: an element as 32 bits, or a vector. -/
inductive Popped where
  | elem (v : Word)
  | vec (v : List Byte)
  deriving DecidableEq, Repr

/-- An element of a bank delivered as 32 bits (R333): integers extended by SG, bf16 and binary8 exactly as fp32, fp32 and
raw bytes unchanged. -/
def deliver (f : Bf) (x : Nat) : Word :=
  match f.decode x with
  | .int v => BitVec.ofInt 32 v
  | .flt v => if f.fmt = 6 then BitVec.ofNat 32 x else BitVec.ofNat 32 (toF32 v)

/-- Loop indices of pop number `pos`, level 0 innermost, and the offset they give. -/
def genSum : Nat → List Nat → List Int → Int
  | pos, c :: cs, t :: ts => (pos % c : Nat) * t + genSum (pos / c) cs ts
  | _, _, _ => 0

def GenDesc.total (d : GenDesc) : Nat := d.cnt.foldl (· * ·) 1

/-- One pop of a generator: its value, or the stop it raises (R77, R333). -/
def genPop (b : Bank) (d : GenDesc) (pos : Nat) : Except Stop Popped :=
  let off := genSum pos d.cnt d.str
  if d.nib && !d.vec then
    let e : Int := 2 * (d.base : Int) + off
    if e < 0 then .error (stopTrap 0x08 (BitVec.ofInt 32 (e / 2)))
    else match b.spBank (e.toNat / 2) with
      | none => .error (stopTrap 0x08 (BitVec.ofNat 32 (e.toNat / 2)))
      | some k =>
        let f := bfOf (b.bfmt k)
        if f.fmt ≠ 1 then .error (stopTrap 0x08 (BitVec.ofNat 32 (e.toNat / 2)))
        else
          let x := (b.scrByte (e.toNat / 2)).toNat
          .ok (.elem (deliver f (if e.toNat % 2 = 0 then x % 16 else x / 16)))
  else
    let a : Int := (d.base : Int) + off
    let n := if d.vec then 512 else 1
    if a < 0 ∨ (b.spTotal : Int) < a + n ∨ (d.vec && a % 64 != 0) then .error (stopTrap 0x08 (BitVec.ofInt 32 a))
    else if d.vec then .ok (.vec (b.scrBytes a.toNat 512))
    else match b.spBank a.toNat with
      | none => .error (stopTrap 0x08 (BitVec.ofInt 32 a))
      | some k =>
        let f := bfOf (b.bfmt k)
        let w := max 1 (f.width / 8)
        if f.reserved then .error (stopTrap 0x01 (BitVec.ofNat 32 k))
        else if b.spTotal < a.toNat + w then .error (stopTrap 0x08 (BitVec.ofInt 32 a))
        else .ok (.elem (deliver f (leNat (b.scrBytes a.toNat w))))

/-- One pop of stream `q` (R77), the `n`-th of its word: the value and the stream after it. -/
def popStream (b : Bank) (q n : Nat) (st : Stream) : Except Stop (Popped × Stream) :=
  let ill := stopTrap 0x01 (BitVec.ofNat 32 q)
  match st with
  | .unbound => .error ill
  | .waiting _ => .error ill
  | .copy true cmd es bs left =>
    if bs.isEmpty && left == 0 then .error ill
    else if bs.length < 512 && left != 0 then .error (.starved q n)
    else .ok (.vec ((bs ++ List.replicate 512 0).take 512), .copy true cmd es (bs.drop 512) left)
  | .copy false cmd es bs left =>
    match es with
    | e :: r => .ok (.elem e, .copy false cmd r bs left)
    | [] => if left = 0 then .error ill else .error (.starved q n)
  | .gen d pos =>
    if d.total ≤ pos then .error ill
    else match genPop b d pos with
      | .error e => .error e
      | .ok v => .ok (v, .gen d (pos + 1))

/-- The bytes that a pop of a generator reads: offset and number. -/
def genBytes (b : Bank) (d : GenDesc) (pos : Nat) : Nat × Nat :=
  let off := genSum pos d.cnt d.str
  if d.nib && !d.vec then (((2 * (d.base : Int) + off).toNat) / 2, 1)
  else
    let a := ((d.base : Int) + off).toNat
    (a, if d.vec then 512 else match b.spBank a with
      | some k => max 1 ((bfOf (b.bfmt k)).width / 8)
      | none => 1)

/-- A pop of stream `q` by the bundle in hand, the `n`-th of its word; a generator that reads a bad pool word raises 0x11 (R139, R236). -/
def popNext (s : State) (q n : Nat) (st : Stream) : Except (Stop × State) (Popped × Stream) :=
  match popStream s.cur q n st, st with
  | .error e, _ => .error (e, s)
  | .ok x, .gen d pos =>
    let r := genBytes s.cur d pos
    match badPool s s.iss.ctx r.1 r.2 with
    | some key => .error (stopAddr 0x11 r.1, foundUe s (some s.iss.ctx) 0 key)
    | none => .ok x
  | .ok x, _ => .ok x

/-- A popped value as the signed count's word; the manual states none for a vector: a free value (log 7). -/
def Popped.word (p : Popped) (ctr : Nat) : Word :=
  match p with
  | .elem v => v
  | .vec _ => Config.freeWord ctr

/-! ### LOOP and LOOPX (R322, R324) -/

/-- The bundle that follows the bundle at `t`. -/
def afterBundle (s : State) (c : Ctx) (t : Addr) : Except (Stop × State) (State × Addr) :=
  match fetchBundle s c t 4 with
  | .error e => .error e
  | .ok (s1, ws) => .ok (s1, t + BitVec.ofNat 48 (8 * ws.length))

/-- The trip count of a LOOP, D - 1 under .rot, and the state after the pops of a stream. -/
def loopCount (o : BOps) (s : State) : Except (Stop × State) (State × Nat × Nat) :=
  let b := s.cur
  match (o.bf.extractLsb' 1 2).toNat with
  | 0 => .ok (s, o.sa.toNat, 0)
  | 1 =>
    let v := (b.sreg o.sa.toNat).toNat
    if o.bf.getLsbD 0 then .ok (s, v % 2 ^ 29, v / 2 ^ 29) else .ok (s, v, 0)
  | _ =>
    let q := o.sa.toNat
    match popNext s q 1 (b.stream q) with
    | .error e => .error e
    | .ok (x, st1) =>
      match popNext s q 2 st1 with
      | .error e => .error e
      | .ok (y, st2) =>
        let c := y.word (s.freeCtr + 1) - x.word s.freeCtr
        let s1 := { s.setCur { b with q := tabSet b.q q st2 } with freeCtr := s.freeCtr + 2 }
        .ok (s1, if c.toInt ≤ 0 then 0 else c.toNat, 0)

/-- The predicates that LOOP.rot sets: p8 all ones, p9 to p15 zero, names under PROT. -/
def rotPreds (b : Bank) : List RegWrite :=
  (List.range 8).map fun i => .p (b.physP (8 + i)) (if i = 0 then allOnesP else 0) allOnesP

def execLoop (h : Hdr) (o : BOps) (s : State) : Host.Outcome State Fault Refusal :=
  word (.loop h o) s fun s =>
    let t := bTarget s o
    match loopCount o s with
    | .error e => .error e
    | .ok (s1, c, d) =>
      if c = 0 then
        match afterBundle s1 s1.iss.ctx t with
        | .error e => .error (e.1, s)
        | .ok (s2, a) => .ok (s2.take a)
      else
        let b := s1.cur
        let rot := o.bf.getLsbD 0
        let l : LoopReg := { ls := s1.iss.fall ||| (if rot then 1 else 0), le := t ||| BitVec.ofNat 48 d,
                             lc := BitVec.ofNat 32 (c + d), active := true }
        let b1 := { b with loops := b.loops.set o.li.toNat l }
        .ok (s1.setCur (if rot then laterAllW b1 (rotPreds b) else b1))
where
  laterAllW (b : Bank) : List RegWrite → Bank
    | [] => b
    | w :: r => laterAllW (b.later 1 w 0) r

/-- Bundle address of LS and LE (R322). -/
def bundleNo (a : Addr) : Nat := a.toNat / 8

/-- Loop m nests inside loop l. -/
def nestsIn (m l : LoopReg) : Bool :=
  m.active && decide (bundleNo l.ls ≤ bundleNo m.ls) && decide (bundleNo m.le ≤ bundleNo l.le)

/-- LOOPX on loop `i` (R324). -/
def loopExit (l : Loops) (i : Nat) : Loops :=
  let x := l.get i
  if x.active then
    [0, 1, 2, 3].foldl (fun r m =>
      if m = i ∨ nestsIn (l.get m) x then r.set m { l.get m with active := false } else r) l
  else l

def execLoopx (h : Hdr) (o : BOps) (s : State) : Host.Outcome State Fault Refusal :=
  word (.loopx h o) s fun s =>
    let b := s.cur
    .ok ((s.setCur { b with loops := loopExit b.loops o.li.toNat }).take (bTarget s o))

/-! ### Closings (R323) -/

/-- S, the rotating size (R72). -/
def Bank.rotSize (b : Bank) : Nat := 32 * (b.rf - 1)

/-- ROT and PROT after a closing of a .rot loop (R72). -/
def rotate (b : Bank) : Bank :=
  let sz := b.rotSize
  { b with loops := { b.loops with
      rot := if sz = 0 then 0 else BitVec.ofNat 32 ((b.loops.rot.toNat + sz - 1) % sz)
      prot := BitVec.ofNat 32 ((b.loops.prot.toNat + 7) % 8) } }

/-- Is loop i taken before loop j: larger LS, then the higher index? -/
def innerFirst (l : Loops) (i j : Nat) : Bool :=
  let a := bundleNo (l.get i).ls
  let b := bundleNo (l.get j).ls
  decide (b < a) || (a == b && decide (j < i))

/-- Insert by that order. -/
def insertLoop (l : Loops) (i : Nat) : List Nat → List Nat
  | [] => [i]
  | j :: r => if innerFirst l i j then i :: j :: r else j :: insertLoop l i r

/-- The active loops whose last bundle is at `pc`, innermost first. -/
def closingLoops (l : Loops) (pc : Addr) : List Nat :=
  ([0, 1, 2, 3].filter fun i => (l.get i).active && bundleNo (l.get i).le == bundleNo pc).foldr (insertLoop l) []

/-- One more closing of the loop that LS and LE name (R30). -/
def countClosing (l : List LoopCount) (ls le : Addr) : List LoopCount :=
  match l with
  | [] => [{ ls := ls, le := le, n := 1 }]
  | x :: r => if x.ls = ls ∧ x.le = le then { x with n := x.n + 1 } :: r else x :: countClosing r ls le

/-- The closings counted of a loop. -/
def closingsOf (l : List LoopCount) (x : LoopReg) : Nat := ((l.find? fun y => y.ls == x.ls && y.le == x.le).map (·.n)).getD 0

/-- One closing: the loop counts down; under .rot the names rotate and p8 is set; the loop repeats or goes inactive. -/
def closeOne (b : Bank) (i : Nat) : Bank × Option Addr :=
  let x := b.loops.get i
  let lc := x.lc - 1
  let rot := x.ls.getLsbD 0
  let d := x.le.toNat % 8 + 1
  let b1 := { b with loops := b.loops.set i { x with lc := lc, active := lc != 0 }
                     pipe := { b.pipe with closings := countClosing b.pipe.closings x.ls x.le } }
  let b2 := if rot then
      let b3 := rotate b1
      if lc != 0 then landWrite b3 (.p (b3.physP 8) (if d ≤ lc.toNat then allOnesP else 0) allOnesP) else b3
    else b1
  (b2, if lc != 0 then some (BitVec.ofNat 48 (8 * bundleNo x.ls)) else none)

/-- The closings of a bundle at `pc` in order, until one repeats: the bank after them and the bundle to go to. -/
def closeLoops (b : Bank) : List Nat → Bank × Option Addr
  | [] => (b, none)
  | i :: r =>
    let (b1, t) := closeOne b i
    match t with
    | some a => (b1, some a)
    | none => closeLoops b1 r

/-- The loop closings of a bundle that completed without a trap or a taken branch. Trap entry left every loop inactive, so that in
monitor mode only loops close that monitor code has set up. -/
def loopClosing (b : Bank) (pc : Addr) : Bank × Option Addr := closeLoops b (closingLoops b.loops pc)

end Sys2Proof.Machine
end

