-- ==== Sys2Proof/Machine/Engine.lean ====
section
/-! DEFINITION. What the four engine FIFOs share: pushing, tokens, pacing, completion, engine faults, charge requests and the
engines' reads of the scratchpad and of memory (R206 to R208, R229, R241); and the words that push nothing: MLEASE, MFREE,
QBIND, RINIT, RADV, EPOP, ESTAT (R209, R332, R339, R335, R305, R306). -/

namespace Sys2Proof.Machine

/-! ### FIFOs -/

def Engines.fifo (e : Engines) (f : FifoId) : Fifo :=
  match f with
  | .mx => e.mx
  | .de => e.de
  | .ci => e.ci
  | .co => e.co

def Engines.setFifo (e : Engines) (f : FifoId) (x : Fifo) : Engines :=
  match f with
  | .mx => { e with mx := x }
  | .de => { e with de := x }
  | .ci => { e with ci := x }
  | .co => { e with co := x }

/-- Commands in a FIFO: a running command has left it. -/
def Fifo.places (f : Fifo) : Nat := f.q.length - b2n f.run

/-- A push stalls: 16 commands, or 65,535 unpopped (R206, R305). -/
def Fifo.full (f : Fifo) : Bool := decide (16 ≤ f.places) || decide (65535 ≤ f.unpopped)

def State.setEng (s : State) (c : Ctx) (e : Engines) : State := s.setBank c { s.bank c with eng := e }

/-- Change the head command of a FIFO. -/
def Fifo.setHead (f : Fifo) (x : Cmd) : Fifo := { f with q := x :: f.q.drop 1 }

/-- Push a command (R151, R152): WB(all, device), then into the FIFO. -/
def pushCmd (s : State) (c : Ctx) (f : FifoId) (x : Cmd) : State :=
  let s1 := wbAll s c.core 2
  let e := (s1.bank c).eng
  let q := e.fifo f
  s1.setEng c { e.setFifo f { q with q := q.q ++ [x], unpopped := q.unpopped + 1 } with nextId := e.nextId + 1 }

/-- A push that has passed its checks: it waits for a place. -/
def pushOrStall (s0 s : State) (c : Ctx) (f : FifoId) (x : Cmd) : Res :=
  if ((s.bank c).eng.fifo f).full then .error (.stall, s0) else .ok (pushCmd s c f x)

/-! ### Tokens (R207) -/

def tokPushPrev (t : BitVec 4) : Bool := t.getLsbD 3
def tokPushNext (t : BitVec 4) : Bool := t.getLsbD 2
def tokPopPrev (t : BitVec 4) : Bool := t.getLsbD 1
def tokPopNext (t : BitVec 4) : Bool := t.getLsbD 0

/-- Channels by number: 0 load→compute, 1 compute→load, 2 compute→store, 3 store→compute. -/
def Engines.chan (e : Engines) (k : Nat) : Nat :=
  match k with
  | 0 => e.lc
  | 1 => e.cl
  | 2 => e.cs
  | _ => e.sc
def Engines.setChan (e : Engines) (k n : Nat) : Engines :=
  match k with
  | 0 => { e with lc := n }
  | 1 => { e with cl := n }
  | 2 => { e with cs := n }
  | _ => { e with sc := n }

/-- The channels that a command of a FIFO pops before it starts, and those it pushes at completion. -/
def popChans (f : FifoId) (t : BitVec 4) : List Nat :=
  match f with
  | .ci => if tokPopNext t then [1] else []
  | .co => if tokPopPrev t then [2] else []
  | _ => (if tokPopPrev t then [0] else []) ++ (if tokPopNext t then [3] else [])
def pushChans (f : FifoId) (t : BitVec 4) : List Nat :=
  match f with
  | .ci => if tokPushNext t then [0] else []
  | .co => if tokPushPrev t then [3] else []
  | _ => (if tokPushPrev t then [1] else []) ++ (if tokPushNext t then [2] else [])

def Engines.tokensReady (e : Engines) (f : FifoId) (t : BitVec 4) : Bool := (popChans f t).all fun k => e.chan k != 0
def Engines.popTokens (e : Engines) (f : FifoId) (t : BitVec 4) : Engines :=
  (popChans f t).foldl (fun e k => e.setChan k (e.chan k - 1)) e
/-- A push past 15 waits. -/
def Engines.tokensRoom (e : Engines) (f : FifoId) (t : BitVec 4) : Bool := (pushChans f t).all fun k => decide (e.chan k < 15)
def Engines.pushTokens (e : Engines) (f : FifoId) (t : BitVec 4) : Engines :=
  (pushChans f t).foldl (fun e k => e.setChan k (e.chan k + 1)) e

/-- Token bits that a load or store command may not carry. -/
def tokIllegal (f : FifoId) (t : BitVec 4) : Bool :=
  match f with
  | .ci => tokPushPrev t || tokPopPrev t
  | .co => tokPushNext t || tokPopNext t
  | _ => false

/-! ### Starting and completing -/

/-- Engines serve only the issuing bank, and nothing of a frozen core or of a stopped clock advances (R20,
R138, R247). -/
def served (s : State) (c : Ctx) : Bool :=
  (s.core c.core).issuing == some c.bank && (s.core c.core).freeze == 0 && !(s.cluster (clusterOf c.core)).clk.hop

/-- PACE_* (R245): the gap since the last command left a FIFO for the engine, whichever bank or core it came from (R208). -/
def pacedOut (s : State) (c : Ctx) (pace : Word) (last : Option Nat) : Bool :=
  match last with
  | none => true
  | some t => decide (t + (pace.extractLsb' 0 16).toNat ≤ s.now c.core)

/-- When a command last left a FIFO for the engine that would run `x`: the cluster's array or tree, the core's copy or data engine (log 22). -/
def lastOut (s : State) (c : Ctx) (f : FifoId) (x : Cmd) : Option Nat :=
  match f with
  | .mx => (s.cluster (clusterOf c.core)).outMx
  | .de => if x.kind = .merge then (s.cluster (clusterOf c.core)).outTree else (s.core c.core).outDe
  | _ => (s.core c.core).outCp

/-- `x` leaves its FIFO now. -/
def leaveFifo (s : State) (c : Ctx) (f : FifoId) (x : Cmd) : State :=
  let k := clusterOf c.core
  let now := some (s.now c.core)
  match f with
  | .mx => s.setCluster k { s.cluster k with outMx := now }
  | .de =>
    if x.kind = .merge then s.setCluster k { s.cluster k with outTree := now } else s.setCore c.core { s.core c.core with outDe := now }
  | _ => s.setCore c.core { s.core c.core with outCp := now }

/-- The head of a FIFO may start as far as FIFO, bank and tokens go. -/
def headReady (s : State) (c : Ctx) (f : FifoId) : Option Cmd :=
  let e := (s.bank c).eng
  let q := e.fifo f
  match q.q.head? with
  | none => none
  | some x => if !q.run && !q.stopped && served s c && e.tokensReady f x.tok then some x else none

/-- The head starts: its tokens are taken and its micro-PC is 0. -/
def startHead (s : State) (c : Ctx) (f : FifoId) (x : Cmd) : State :=
  let e := (s.bank c).eng.popTokens f x.tok
  leaveFifo (s.setEng c (e.setFifo f { e.fifo f with run := true, prog := .reset })) c f x

/-- The running command of a FIFO, if it can advance. -/
def runningHead (s : State) (c : Ctx) (f : FifoId) : Option Cmd :=
  let q := (s.bank c).eng.fifo f
  if q.run && !q.stopped && served s c then q.q.head? else none

def setProg (s : State) (c : Ctx) (f : FifoId) (p : Prog) : State :=
  let e := (s.bank c).eng
  s.setEng c (e.setFifo f { e.fifo f with prog := p })

/-- A completion word (R305): CNT keeps its low 24 bits. -/
def compWord (kind cnt : Nat) : Word := (0 : BitVec 5) ++ BitVec.ofNat 3 kind ++ BitVec.ofNat 24 cnt

/-- The head has made its last micro-step: what it does at its end beside its token pushes happens now, once (R212, R221, R302, R326). -/
def wrapUp (s : State) (c : Ctx) (f : FifoId) (last : State → State) : State :=
  let p := ((s.bank c).eng.fifo f).prog
  if p.done then s else setProg (last s) c f { p with done := true }

/-- The head of a FIFO completes. -/
def finishHead (s : State) (c : Ctx) (f : FifoId) (x : Cmd) (w : Word) : State :=
  let e := (s.bank c).eng.pushTokens f x.tok
  let q := e.fifo f
  s.setEng c (e.setFifo f { q with q := q.q.drop 1, run := false, prog := .reset, comp := q.comp ++ [(w, x)] })

/-- The head completes once its token pushes find room (R207). -/
def tryFinish (s : State) (c : Ctx) (f : FifoId) (x : Cmd) (w : Word) : State :=
  if (s.bank c).eng.tokensRoom f x.tok then finishHead s c f x w else s

/-! ### Engine faults (R229) -/

/-- Why an engine does not make its micro-step. -/
inductive EngStop where
  | fault (code : BitVec 8) (eval : Word) (vah : BitVec 16) (cf : Bool)
  | wait
  deriving DecidableEq, Repr

abbrev ERead (α : Type) := Except (EngStop × State) α

def engAt (code : BitVec 8) (a : Nat) : EngStop := .fault code (BitVec.ofNat 32 a) (BitVec.ofNat 16 (a / 2 ^ 32)) false

/-- An access error of an engine at an address (R219, R376). -/
def engErr (e : AccErr × State) (c : Ctx) (a : Nat) : EngStop × State :=
  let s := e.2
  match e.1 with
  | .page => (engAt 0x07 a, s)
  | .comp => (.fault 0x07 (BitVec.ofNat 32 a) (BitVec.ofNat 16 (a / 2 ^ 32)) true, s)
  | .access => (engAt 0x08 a, s)
  | .ref => (engAt 0x0B a, s)
  | .psn => (engAt 0x11 a, s)
  | .mig => (.wait, s)
  | .ue strc key => (engAt 0x11 a, foundUe s (some c) strc key)

/-- The engine stops before the micro-step; the fault is pending. -/
def engStop (c : Ctx) (f : FifoId) (e : EngStop × State) : State :=
  match e.1 with
  | .wait => e.2
  | .fault code eval vah cf =>
    let g := (e.2.bank c).eng
    e.2.setEng c { g.setFifo f { g.fifo f with stopped := true } with
      faults := g.faults ++ [{ fifo := f, code := code, eval := eval, vah := vah, cf := cf }] }

/-- Map a reading function over a list. -/
def allE {ε α β : Type} (f : α → Except ε β) : List α → Except ε (List β)
  | [] => .ok []
  | x :: r =>
    match f x with
    | .error e => .error e
    | .ok y =>
      match allE f r with
      | .error e => .error e
      | .ok ys => .ok (y :: ys)

/-- Thread a state through a list. -/
def foldE {ε α σ : Type} (f : σ → α → Except ε σ) : List α → σ → Except ε σ
  | [], s => .ok s
  | x :: r, s =>
    match f s x with
    | .error e => .error e
    | .ok t => foldE f r t

/-! ### Scratchpad and memory, as engines reach them -/

/-- Bytes of the thread's scratchpad. -/
def engSp (s : State) (c : Ctx) (o n : Nat) : ERead (List Byte) :=
  if (s.bank c).spTotal < o + n then .error (engAt 0x08 o, s)
  else match badPool s c o n with
    | some key => .error (engAt 0x11 o, foundUe s (some c) 0 key)
    | none => .ok ((s.bank c).scrBytes o n)

/-- Accumulator words `i` to `i + n - 1` hold no uncorrectable error; EVAL holds the byte offset of one that does (R139, R236, log 52). -/
def engAcc (s : State) (c : Ctx) (i n : Nat) : ERead Unit :=
  match (List.range n).find? fun k => s.mem.bad.contains (0, accPoolWord c (i + k)) with
  | some k => .error (engAt 0x11 (8 * (i + k)), foundUe s (some c) 0 (accPoolWord c (i + k)))
  | none => .ok ()

/-- Accumulator words that have been written are good. -/
def healAcc (s : State) (c : Ctx) (i n : Nat) : State :=
  { s with mem := { s.mem with bad := s.mem.bad.filter fun x =>
    !(x.1 == 0 && decide (accPoolWord c i ≤ x.2) && decide (x.2 < accPoolWord c i + n)) } }

/-- Write bytes of the thread's scratchpad. -/
def engSpPut (s : State) (c : Ctx) (o : Nat) (b : List Byte) : State :=
  healPool (s.setBank c ((s.bank c).scrWrite o b)) c o b.length

/-- Reach a range of memory for an engine: every check before anything moves. -/
def engReach (s : State) (c : Ctx) (mon : Bool) (acc : Acc) : List (Nat × Nat) → ERead (State × List (Loc × Nat))
  | [] => .ok (s, [])
  | (va, n) :: r =>
    match reach s c mon va n acc true with
    | .error e => .error (engErr e c va)
    | .ok (s1, l) =>
      match engReach s1 c mon acc r with
      | .error e => .error e
      | .ok (s2, ls) => .ok (s2, (l, n) :: ls)

/-- Bytes at a place: the system cache, or the scratchpad through the window. -/
def engBytes (s : State) (c : Ctx) (l : List (Loc × Nat)) : List Byte :=
  l.flatMap fun x =>
    match x.1 with
    | .sp o => (s.bank c).scrBytes o x.2
    | .pa a => sysBytes s a x.2

def engPut (s : State) (c : Ctx) : List (Loc × Nat) → List Byte → State
  | [], _ => s
  | (l, n) :: r, b =>
    let s1 := match l with
      | .sp o => engSpPut s c o (b.take n)
      | .pa a => sysPut s a (b.take n)
    engPut s1 c r (b.drop n)

/-! ### Charge (R241, R242) -/

/-- The weights at reset. -/
def clsReset (k : Nat) : Nat :=
  match k with
  | 0 => 1
  | 1 => 40
  | 2 => 80
  | 3 => 120
  | 4 => 60
  | 5 => 12
  | 6 => 12
  | 7 => 8
  | 8 => 2304
  | 9 => 2048
  | 10 => 1792
  | 11 => 24
  | 12 => 16
  | 13 => 24
  | 14 => 64
  | _ => 24

def State.clsWeight (s : State) (cl k : Nat) : Nat := tabGet (s.cluster cl).clsw k (clsReset k)

/-- Requesters of a cluster in order: per core its bank, memory steps, copy engine, data engine; then the matrix array, the
merge tree, the Steamer. -/
def whoBank (k : Fin 32) : Nat := 4 * (k.val % 4)
def whoMem (k : Fin 32) : Nat := 4 * (k.val % 4) + 1
def whoCopy (k : Fin 32) : Nat := 4 * (k.val % 4) + 2
def whoData (k : Fin 32) : Nat := 4 * (k.val % 4) + 3
def whoMatrix : Nat := 16
def whoTree : Nat := 17
def whoSteamer : Nat := 18

def State.setBucket (s : State) (cl : Nat) (b : Bucket) : State := s.setCluster cl { s.cluster cl with bucket := b }

/-- The request of requester `who` for bank `c`. -/
def chargeReq (who : Nat) (c : Ctx) (weight : Nat) : ChargeReq := { who := who, bank := ctxIx c, weight := weight }

/-- A request's grant, used up: of this requester, this bank and this weight. -/
def takeGrant (s : State) (cl : Nat) (r : ChargeReq) : Option State :=
  let b := (s.cluster cl).bucket
  if b.granted.contains r then some (s.setBucket cl { b with granted := b.granted.erase r }) else none

/-- File a request, unless it stands. What the requester has asked for this bank under another weight is forgotten. -/
def askCharge (s : State) (cl : Nat) (r : ChargeReq) : State :=
  let b := (s.cluster cl).bucket
  let stale (x : ChargeReq) : Bool := x.who == r.who && x.bank == r.bank && x.weight != r.weight
  let reqs := b.reqs.filter fun x => !stale x
  s.setBucket cl { b with granted := b.granted.filter (fun x => !stale x), reqs := if reqs.contains r then reqs else reqs ++ [r] }

/-- Do `go` once its charge is granted; until then, ask. -/
def charged (s : State) (cl : Nat) (r : ChargeReq) (go : State → State) : State :=
  match takeGrant s cl r with
  | some s1 => go s1
  | none => askCharge s cl r

/-! ### The matrix lease (R209) -/

def Cmd.needsLease (x : Cmd) : Bool := x.kind == .mma || x.kind == .mmas || x.kind == .mrank

def holdsLease (s : State) (c : Ctx) : Bool :=
  match (s.cluster (clusterOf c.core)).lease with
  | some l => l.holder == c
  | none => false

/-- The lease of `c` ends: the array is free. An MFREE whose queued lease commands have not all completed stands: the lease that they are
granted next ends with them (R209). -/
def endLease (s : State) (c : Ctx) : State :=
  if holdsLease s c then
    let k := clusterOf c.core
    let s1 := s.setCluster k { s.cluster k with lease := none }
    let e := (s1.bank c).eng
    s1.setEng c { e with freeMx := e.freeMx && e.mx.q.any Cmd.needsLease }
  else s

def execMlease (h : Hdr) (o : EOps) (s : State) : Host.Outcome State Fault Refusal :=
  word (.mlease h o) s fun s =>
    let c := s.iss.ctx
    .ok (if holdsLease s c then s else s.setEng c { s.cur.eng with wantMx := true, freeMx := false })

def execMfree (h : Hdr) (o : EOps) (s : State) : Host.Outcome State Fault Refusal :=
  word (.mfree h o) s fun s =>
    let c := s.iss.ctx
    let s1 := s.setEng c { s.cur.eng with wantMx := false }
    .ok (if !holdsLease s1 c then s1
         else if s1.cur.eng.mx.q.any Cmd.needsLease then s1.setEng c { s1.cur.eng with freeMx := true }
         else endLease s1 c)

/-! ### QBIND (R332, R333) -/

/-- The address that a descriptor word names: R293 with offset zero. -/
def descVa (b : Bank) (v : Word) : Nat := mAddr b v 0

/-- Read a descriptor of `n` bytes as a load of the thread. -/
def readDesc (s : State) (va n : Nat) : Except (Stop × State) (State × Nat) :=
  match aligned s va n with
  | .error e => .error e
  | .ok () =>
    match loadVa s s.iss.ctx va n true with
    | .error e => .error e
    | .ok (s1, x) => .ok (s1, leNat x)

/-- A generator descriptor; none where a reserved bit or UNIT is wrong. -/
def genOf (b : Bank) (d : Nat) : Option GenDesc :=
  let unit := bits d 216 2
  let base := bits d 192 22
  if bits d 218 38 ≠ 0 ∨ bits d 214 2 ≠ 0 ∨ 2 ≤ unit then none
  else
    let nib := match b.spBank base with
      | some k => (bfOf (b.bfmt k)).fmt == 1
      | none => false
    some { vec := unit == 1, nib := nib, base := base,
           cnt := [bits d 0 16, bits d 48 16, bits d 96 16, bits d 144 16],
           str := [signed 32 (bits d 16 32), signed 32 (bits d 64 32), signed 32 (bits d 112 32), signed 32 (bits d 160 32)] }

def setStream (s : State) (c : Ctx) (n : Nat) (x : Stream) : State :=
  let b := s.bank c
  s.setBank c { b with q := tabSet b.q n x }

def execQbind (h : Hdr) (o : EOps) (s : State) : Host.Outcome State Fault Refusal :=
  word (.qbind h o) s fun s =>
    let c := s.iss.ctx
    let n := (o.eimm.extractLsb' 0 4).toNat
    match (o.eimm.extractLsb' 4 2).toNat with
    | 0 => .ok (setStream s c n .unbound)
    | 1 => .ok (setStream s c n (.waiting false))
    | 2 => .ok (setStream s c n (.waiting true))
    | _ =>
      match readDesc s (descVa s.cur (s.cur.sreg o.sx.toNat)) 32 with
      | .error e => .error e
      | .ok (s1, d) =>
        match genOf s1.cur d with
        | none => .error (illegalStop (.qbind h o), s)
        | some g => .ok (setStream s1 c n (.gen g 0))

/-! ### Rings (R78, R211) -/

def Ring.occ (r : Ring) : Nat := (r.tail + 2 * r.cnt - r.head) % (2 * r.cnt)
def Ring.free (r : Ring) : Nat := r.cnt - r.occ
def Ring.tag (r : Ring) (i : Nat) : BitVec 16 := tabGet r.tags i 0
def Ring.span (r : Ring) (i : Nat) : Nat := (r.tag i).toNat % 8

/-- The physical slot of a position. -/
def Ring.slot (r : Ring) (p : Nat) : Nat := p % r.cnt

/-- The swizzle of R211. -/
def swz (span q : Nat) : Nat :=
  let z := 16 * 2 ^ span
  q ^^^ (q / z % (z / 16) * 16)

/-- The scratchpad offset of logical byte `p` counted from position `from_`: physical, and as it stands unswizzled. -/
def Ring.place (r : Ring) (from_ p : Nat) (span : Nat → Nat) : Nat × Nat × Nat :=
  let i := r.slot (from_ + p / r.ssz)
  let q := p % r.ssz
  (i, r.base + i * r.ssz + swz (span i) q, r.base + i * r.ssz + q)

/-- Advance over slots. -/
def Ring.adv (r : Ring) (n : Nat) : Ring := { r with head := (r.head + n) % (2 * r.cnt) }

/-- Write the tags of `n` slots from TAIL and advance TAIL over them. -/
def Ring.fill (r : Ring) (n span : Nat) : Ring :=
  { r with tags := (List.range n).foldl (fun t i => tabSet t (r.slot (r.tail + i)) (BitVec.ofNat 16 span)) r.tags
           tail := (r.tail + n) % (2 * r.cnt) }

def setRing (s : State) (c : Ctx) (n : Nat) (r : Ring) : State :=
  let b := s.bank c
  s.setBank c { b with n := tabSet b.n n r }

/-- RING of a copy descriptor. -/
def Cmd.ringBit (x : Cmd) : Bool := x.desc.getLsbD 222

/-- The rings that a command names. -/
def Cmd.rings (x : Cmd) : List Nat :=
  match x.kind with
  | .mma => [x.ra, x.rb]
  | .mmas => [x.ra, x.rb]
  | .mrank => [x.ra]
  | .cpy => if x.ringBit then [x.ra] else []
  | _ => []

/-- Every queued or running command of a thread. -/
def Engines.cmds (e : Engines) : List Cmd := e.mx.q ++ e.de.q ++ e.ci.q ++ e.co.q

/-- The scratchpad bank in which `n` bytes from `o` lie whole. -/
def wholeBank (b : Bank) (o n : Nat) : Option Nat :=
  (b.spBank o).bind fun k => if o + n ≤ b.spBase k + b.spSize k then some k else none

def execRinit (h : Hdr) (o : EOps) (s : State) : Host.Outcome State Fault Refusal :=
  word (.rinit h o) s fun s =>
    let c := s.iss.ctx
    let b := s.cur
    let n := o.ra.toNat
    let x := (b.sreg o.sx.toNat).toNat
    let y := (b.sreg o.sy.toNat).toNat
    let z := (b.sreg o.sz.toNat).toNat
    let cnt := z % 2 ^ 9
    let span := bits z 16 3
    let ill : Res := .error (illegalStop (.rinit h o), s)
    if b.eng.cmds.any fun k => k.rings.contains n then .error (.stall, s)
    else if 2 ^ 22 ≤ x ∨ 2 ^ 20 ≤ y ∨ z ≠ cnt + 2 ^ 16 * span ∨ x % 64 ≠ 0 ∨ y % 64 ≠ 0 ∨ y = 0 ∨ cnt = 0 ∨ 256 < cnt ∨
      y % (16 * 2 ^ span) ≠ 0 then ill
    else if b.spTotal < x + cnt * y then .error (stopAddr 0x08 x, s)
    else if (wholeBank b x (cnt * y)).isNone then ill
    else .ok (setRing s c n { base := x, ssz := y, cnt := cnt, head := 0, tail := 0,
                              tags := (List.range cnt).map fun i => (i, BitVec.ofNat 16 span) })

def execRadv (h : Hdr) (o : EOps) (s : State) : Host.Outcome State Fault Refusal :=
  word (.radv h o) s fun s =>
    let c := s.iss.ctx
    let i := o.ra.toNat
    let r := s.cur.ring i
    let n := (o.eimm.extractLsb' 0 8).toNat + 1
    let ill : Res := .error (illegalStop (.radv h o), s)
    if r.cnt = 0 ∨ r.cnt < n then ill
    else match (o.eimm.extractLsb' 11 2).toNat with
      | 0 => if r.occ < n then .error (.stall, s) else .ok s
      | 1 => if r.occ < n then ill else .ok (setRing s c i (r.adv n))
      | 2 => if r.free < n then .error (.stall, s) else .ok s
      | _ => if r.free < n then ill else .ok (setRing s c i (r.fill n (o.eimm.extractLsb' 8 3).toNat))

/-! ### ESTAT; EPOP stands with the data engine, after the commands whose destinations it invalidates -/

/-- ESTAT's results (R306). -/
def estatWord (e : Engines) (k : Nat) : Word :=
  match k with
  | 0 => e.mx.mpc
  | 1 => e.mpcCp
  | 2 => e.de.mpc
  | 3 => BitVec.ofNat 32 (e.mx.places + 2 ^ 8 * e.de.places + 2 ^ 16 * e.ci.places + 2 ^ 24 * e.co.places)
  | 4 => e.mergeE
  | 5 => e.haccE
  | 6 => BitVec.ofNat 32 (e.lc + 2 ^ 4 * e.cl + 2 ^ 8 * e.cs + 2 ^ 12 * e.sc)
  | _ => BitVec.ofNat 16 e.co.unpopped ++ BitVec.ofNat 16 e.ci.unpopped

def execEstat (h : Hdr) (o : EOps) (s : State) : Host.Outcome State Fault Refusal :=
  word (.estat h o) s fun s => .ok (s.setCur (s.cur.lockS o.sx.toNat (estatWord s.cur.eng o.eimm.toNat)))

end Sys2Proof.Machine
end

