-- ==== Sys2Proof/Machine/Matrix.lean ====
section
/-! DEFINITION. The matrix array (MMA, MMAS, MRANK, MRD, MZERO): pushes and their checks
(R213 to R217, R325), operands in rings (R211, R212, R106, R107), the start of a command and its micro-steps (R326 to R328,
R109 to R111, R189, R190). -/

namespace Sys2Proof.Machine

/-! ### Pushes (R325) -/

/-- The slots that the operands need are filled (R212). -/
def MmaPlan.ready (p : MmaPlan) (b : Bank) : Bool :=
  if p.a.rno = p.b.rno then decide (p.na + p.nb ≤ (b.ring p.a.rno).occ)
  else decide (p.na ≤ (b.ring p.a.rno).occ) && decide (p.nb ≤ (b.ring p.b.rno).occ)

/-- The checks of a push of MMA or MMAS (R325, R326). -/
def mmaCheck (b : Bank) (x : Cmd) (ill : Stop) : Option Stop :=
  firstStop [
    mmaEarly b x ill,
    accCheck b x.x (shapeOf x.y),
    stopIf (x.imm.getLsbD 8 && x.z.getLsbD 0) (stopAddr 0x04 x.z.toNat)]

/-! ### Split commands (R216) -/

def Bank.memberCount (b : Bank) : Nat := popLane 32 b.sys.mask.toNat

/-- SPL takes effect: set, in a domain. -/
def isSplit (b : Bank) (x : Cmd) : Bool := x.imm.getLsbD 7 && b.sys.level != 0

/-- The number of the thread's next split command: the phases since its dispatch, which do not wrap as PHASE does, and its place among
those of the phase. -/
def Engines.splitNo (e : Engines) : Nat := e.phases * 2 ^ 32 + e.split

/-- What the split commands of one number are compared by: shape word, formats, sparsity header. -/
def splitSig (b : Bank) (x : Cmd) : List Word :=
  [x.y, tabGet x.fmts (ringBank b (b.ring x.ra)) 0,
   tabGet x.fmts (ringBank b (b.ring x.rb)) 0, if x.sparse then x.z else 0, if x.sparse then x.z1 else 0]

/-- Push MMA or MMAS; a split command takes its number and leaves its signature. -/
def pushMma (s0 s : State) (c : Ctx) (x : Cmd) : Res :=
  let b := s.bank c
  if isSplit b x then
    let k := b.eng.splitNo
    match pushOrStall s0 s c .mx { x with split := some k } with
    | .error e => .error e
    | .ok s1 => .ok (s1.setEng c { (s1.bank c).eng with split := b.eng.split + 1, sigs := (s1.bank c).eng.sigs ++ [(k, splitSig b x)] })
  else pushOrStall s0 s c .mx x

def mmaEffect (i : Instr) (x : Cmd) (s : State) : Res :=
  match mmaCheck s.cur x (illegalStop i) with
  | some e => .error (e, s)
  | none => pushMma s s s.iss.ctx x

def execMma (h : Hdr) (o : EOps) (s : State) : Host.Outcome State Fault Refusal :=
  word (.mma h o) s fun s => mmaEffect (.mma h o) (cmdOf .mma o s.cur) s
def execMmas (h : Hdr) (o : EOps) (s : State) : Host.Outcome State Fault Refusal :=
  word (.mmas h o) s fun s => mmaEffect (.mmas h o) (cmdOf .mmas o s.cur) s

/-! ### MRANK, MRD, MZERO: pushes -/

def execMrank (h : Hdr) (o : EOps) (s : State) : Host.Outcome State Fault Refusal :=
  word (.mrank h o) s fun s =>
    let x := cmdOf .mrank o s.cur
    let b := s.cur
    let ill := illegalStop (.mrank h o)
    match firstStop [
        rankEarly b x ill,
        stopIf ((rankOperand b x).bf.grp != 0) ill,
        stopIf (decide ((shapeOf x.y).n < x.selK)) ill,
        accCheck b x.x (shapeOf x.y),
        stopIf (x.selK != 0 && x.z.toNat % 8 != 0) (stopAddr 0x04 x.z.toNat)] with
    | some e => .error (e, s)
    | none => pushOrStall s s s.iss.ctx .mx x

def execMrd (h : Hdr) (o : EOps) (s : State) : Host.Outcome State Fault Refusal :=
  word (.mrd h o) s fun s =>
    let x := cmdOf .mrd o s.cur
    let ill := illegalStop (.mrd h o)
    match firstStop [mrdEarly s.cur x ill, accCheck s.cur x.x (shapeOf x.y)] with
    | some e => .error (e, s)
    | none => pushOrStall s s s.iss.ctx .mx x

def execMzero (h : Hdr) (o : EOps) (s : State) : Host.Outcome State Fault Refusal :=
  word (.mzero h o) s fun s =>
    let x := cmdOf .mzero o s.cur
    match firstStop [stopIf (decide (2 ^ 25 ≤ x.y.toNat)) (illegalStop (.mzero h o)), accCheck s.cur x.x (shapeOf x.y)] with
    | some e => .error (e, s)
    | none => pushOrStall s s s.iss.ctx .mx x

/-! ### Reading operands -/

/-- Row mask RM (R214). -/
def rowMasked (b : Bank) (rm : Bool) (r : Nat) : Bool := rm && (decide (32 ≤ r) || !b.sys.rowm.getLsbD r)

/-- The slot, the physical offset and the unswizzled offset of byte `p` of row `r`. -/
def Operand.at_ (a : Operand) (ring : Ring) (r p : Nat) : Nat × Nat × Nat :=
  ring.place (ring.head + a.first) (r * a.rb + p) ring.span

/-- The scale of group `j` of a bank (R107). -/
def scaleAt (s : State) (c : Ctx) (f : Bf) (j : Nat) : ERead Num :=
  let b := s.bank c
  let n := if f.sf then 1 else 2
  let o := b.spBase f.sb + n * j
  if b.spSize f.sb < n * j + n then .error (engAt 0x08 o, s)
  else match engSp s c o n with
    | .error e => .error e
    | .ok x => .ok (f.scale (leNat x))

/-- The index of the element at an unswizzled offset in its bank's element order. -/
def elemIndex (b : Bank) (k w off nib : Nat) : Nat := (off - b.spBase k) * 8 / w + nib

/-- Element `e` of row `r`: decoded, times its group's scale; and whether that product alone is 0 x infinity (R110). -/
def Operand.elem (a : Operand) (s : State) (c : Ctx) (r e : Nat) : ERead (Elem × Bool) :=
  let b := s.bank c
  let w := a.bf.width
  let (_, ph, un) := a.at_ (b.ring a.rno) r (e * w / 8)
  match engSp s c ph (max 1 (w / 8)) with
  | .error x => .error x
  | .ok bs =>
    let nib := if w = 4 then e % 2 else 0
    let v := a.bf.decode (if w = 4 then leNat bs / 16 ^ nib % 16 else leNat bs)
    if a.bf.grp = 0 then .ok (v, false)
    else match scaleAt s c a.bf (elemIndex b a.bank w un nib / a.bf.g) with
      | .error x => .error x
      | .ok sc => .ok (scaleElem v sc, scaleInvalid v sc)

/-- Slots that elements `e0` to `e0 + n - 1` of row `r` touch. -/
def Operand.slots (a : Operand) (ring : Ring) (r e0 n : Nat) : List Nat :=
  if n = 0 then []
  else
    let w := a.bf.width
    let lo := (r * a.rb + e0 * w / 8) / ring.ssz
    let hi := (r * a.rb + ((e0 + n) * w - 1) / 8) / ring.ssz
    (List.range (hi + 1 - lo)).map fun i => ring.slot (ring.head + a.first + lo + i)

/-- SPAN of every slot read (R211). -/
def Operand.spanCheck (a : Operand) (s : State) (c : Ctx) (rows : List Nat) (e0 n : Nat) : ERead Unit :=
  let ring := (s.bank c).ring a.rno
  match (rows.flatMap fun r => a.slots ring r e0 n).find? fun i => ring.span i != a.span with
  | none => .ok ()
  | some i =>
    .error (.fault 0x09 (BitVec.ofNat 32 (a.rno + 2 ^ 4 * i + 2 ^ 12 * a.span + 2 ^ 16 * ring.span i)) 0 false, s)

/-- A row of a scaled operand begins on a group boundary (R106). -/
def Operand.groupCheck (a : Operand) (s : State) (c : Ctx) (rows : List Nat) : ERead Unit :=
  if a.bf.grp = 0 then .ok ()
  else
    let b := s.bank c
    let off (r : Nat) : Nat := (a.at_ (b.ring a.rno) r 0).2.2
    match rows.find? fun r => elemIndex b a.bank a.bf.width (off r) 0 % a.bf.g != 0 with
    | none => .ok ()
    | some r => .error (engAt 0x04 (off r), s)

/-! ### Sparse positions (R215) -/

/-- The five mixing lines. -/
def mixLines (x0 : Nat) : Nat :=
  let x1 := x0 ^^^ (x0 / 2 ^ 16)
  let x2 := x1 * 0x7FEB352D % 2 ^ 32
  let x3 := x2 ^^^ (x2 / 2 ^ 15)
  let x4 := x3 * 0x846CA68B % 2 ^ 32
  x4 ^^^ (x4 / 2 ^ 16)

/-- Pair[i]. -/
def pairOf (i : Nat) : List Nat :=
  match i with
  | 0 => [0, 1]
  | 1 => [0, 2]
  | 2 => [0, 3]
  | 3 => [1, 2]
  | 4 => [1, 3]
  | _ => [2, 3]

/-- The subsets of `n` elements of a list, in lexicographic order. -/
def subsets (n : Nat) (l : List Nat) : List (List Nat) :=
  match n, l with
  | 0, _ => [[]]
  | _ + 1, [] => []
  | k + 1, x :: r => (subsets k r).map (fun t => x :: t) ++ subsets (k + 1) r
/-- Comb[r]. -/
def combOf (r : Nat) : List Nat := (subsets 4 (List.range 8)).getD r []

def keptSet (seed pat n g : Nat) : List Nat :=
  let x := mixLines (seed ^^^ (g * 0x9E3779B9 % 2 ^ 32) ^^^ (n * 0x85EBCA6B % 2 ^ 32))
  match pat with
  | 1 => pairOf (x % 256 % 6) ++ (pairOf (x / 256 % 256 % 6)).map fun j => 4 + j
  | 2 => [x % 4, 4 + x / 256 % 4]
  | 3 => combOf (x % 70)
  | _ => [x % 8]

/-- Which stored element of row `n` of B stands at position `k`; none if it is skipped. -/
def storedAt (x : Cmd) (pat n k : Nat) : Option Nat :=
  if pat = 0 then some k
  else
    let l := keptSet x.z.toNat pat n (k / 8)
    let i := l.idxOf (k % 8)
    if i < l.length then some (k / 8 * keptOf pat + i) else none

/-! ### Accumulating -/

def zeroNum : Num := .fin false 0 0
def Elem.special (v : Elem) : Bool := match v with | .int _ => false | .flt x => x.isNan || x.isInf
def Elem.intVal (v : Elem) : Int := match v with | .int x => x | .flt _ => 0

/-- x[j] of two operands with their scales, and whether it is 0 x infinity (R110); an operand that is NaN of itself makes it NaN only. -/
def stepProd (a b : Elem × Bool) : Num × Bool :=
  let p := numMul a.1.num b.1.num
  (p.1, p.2 != 0 || (a.2 && (b.2 || !b.1.num.isNan)) || (b.2 && !a.1.num.isNan))

/-- One step of one accumulator word (R110, R111): `as` none is a zero row; an element of `bs` that is none is skipped. -/
def stepWord (im : Bool) (acc : Nat) (as : Option (List (Elem × Bool))) (bs : List (Option (Elem × Bool))) : Nat :=
  match as with
  | none => if im then stepAddInt acc 0 else stepAdd acc (bs.map fun _ => zeroNum)
  | some as =>
    let ps := as.zip bs
    if im then
      stepAddInt acc (ps.foldl (fun t p => t + match p.2 with | some b => p.1.1.intVal * b.1.intVal | none => 0) 0)
    else
      let prod (p : (Elem × Bool) × Option (Elem × Bool)) : Num × Bool :=
        match p.2 with
        | some b => stepProd p.1 b
        | none => (zeroNum, false)
      let nv := ps.any fun p => (prod p).2
      let sk := ps.any fun p => p.2.isNone && p.1.1.special
      stepAdd (acc ||| (if nv then 2 ^ 58 else 0) ||| (if sk then 2 ^ 59 else 0)) (ps.map fun p => (prod p).1)

/-- Sub-tiles, and those that this member computes. -/
def tileCount (sh : Shape) : Nat := ((sh.m + 255) / 256) * ((sh.n + 127) / 128)
def myTiles (b : Bank) (x : Cmd) (sh : Shape) : List Nat :=
  (List.range (tileCount sh)).filter fun i => !isSplit b x || i % b.memberCount == b.th.rank
def tileRows (sh : Shape) (t : Nat) : List Nat :=
  let r := t / ((sh.n + 127) / 128)
  (List.range (min 256 (sh.m - 256 * r))).map fun i => 256 * r + i
def tileCols (sh : Shape) (t : Nat) : List Nat :=
  let k := t % ((sh.n + 127) / 128)
  (List.range (min 128 (sh.n - 128 * k))).map fun i => 128 * k + i

/-- Row of A that result row `m` uses: none under a gather entry of 0xFFFF. -/
def gatherRow (s : State) (c : Ctx) (x : Cmd) (sh : Shape) (m : Nat) : ERead (Option Nat) :=
  if !x.imm.getLsbD 8 then .ok (some m)
  else if (s.bank c).spTotal < x.z.toNat + 2 * sh.m then .error (engAt 0x08 x.z.toNat, s)
  else match engSp s c (x.z.toNat + 2 * m) 2 with
    | .error e => .error e
    | .ok bs =>
      let i := leNat bs
      if i = 0xFFFF then .ok none
      else if sh.m ≤ i then .error (engAt 0x08 (x.z.toNat + 2 * m), s)
      else .ok (some i)

/-- Add a step into the words of one result row. -/
def addRow (s : State) (c : Ctx) (x : Cmd) (p : MmaPlan) (m : Nat) (as : Option (List (Elem × Bool)))
    (cols : List (Nat × List (Option (Elem × Bool)))) : State :=
  s.setBank c (cols.foldl (fun b nb =>
    let i := x.x.toNat / 8 + m * p.sh.n + nb.1
    b.accWrite i (BitVec.ofNat 64 (stepWord p.im (b.accWord i).toNat as nb.2))) (s.bank c))

/-- One K step of one sub-tile (R326). -/
def mmaStep (s : State) (c : Ctx) (x : Cmd) (st : Nat) : ERead State :=
  let b := s.bank c
  let p := mmaPlan b x
  let ks := p.sh.k / p.s
  let t := (myTiles b x p.sh).getD (st / ks) 0
  let k0 := st % ks * p.s
  let rows := (tileRows p.sh t).filter fun m => !rowMasked b (x.imm.getLsbD 9) m
  let cols := if rows.isEmpty then [] else tileCols p.sh t
  let kept := keptOf p.pat
  match allE (fun m => (gatherRow s c x p.sh m).map fun r => (m, r)) rows with
  | .error e => .error e
  | .ok gr =>
    let ar := gr.filterMap Prod.snd
    match p.a.spanCheck s c ar k0 p.s with
    | .error e => .error e
    | .ok () =>
      match p.b.spanCheck s c cols (k0 * kept / 8) (p.s * kept / 8) with
      | .error e => .error e
      | .ok () =>
        match p.a.groupCheck s c ar with
        | .error e => .error e
        | .ok () =>
          match p.b.groupCheck s c cols with
          | .error e => .error e
          | .ok () =>
            let rowA (r : Nat) : ERead (List (Elem × Bool)) := allE (fun j => p.a.elem s c r (k0 + j)) (List.range p.s)
            let colB (n : Nat) : ERead (Nat × List (Option (Elem × Bool))) :=
              (allE (fun j => match storedAt x p.pat n (k0 + j) with
                | none => .ok none
                | some e => (p.b.elem s c n e).map some) (List.range p.s)).map fun l => (n, l)
            match allE colB cols with
            | .error e => .error e
            | .ok cb =>
              match allE (fun g => match g.2 with
                  | none => .ok (g.1, none)
                  | some r => (rowA r).map fun l => (g.1, some l)) gr with
              | .error e => .error e
              | .ok ra =>
                match allE (fun m => engAcc s c (x.x.toNat / 8 + m * p.sh.n + cols.headD 0) cols.length) rows with
                | .error e => .error e
                | .ok _ => .ok (ra.foldl (fun s g => addRow s c x p g.1 g.2 cb) s)

/-! ### MRANK, MRD, MZERO: rows -/

/-- Is score `x` greater than `y`, and equal to it (R189)? -/
def scoreGt (x y : Num) : Bool := if x.isNan then false else if y.isNan then true else numLt y x
def scoreEq (x y : Num) : Bool := if x.isNan || y.isNan then x.isNan && y.isNan else !numLt x y && !numLt y x

/-- rank(j) of a row of scores. -/
def rankOf (l : List Num) (j : Nat) : Nat :=
  let x := l.getD j .nan
  ((List.range l.length).filter fun i => let y := l.getD i .nan; scoreGt y x || (scoreEq y x && decide (i < j))).length

/-- The pair of the list of R190 with rank `r`. -/
def rankPair (l : List Num) (base r : Nat) : List Byte :=
  match (List.range l.length).find? fun j => rankOf l j == r with
  | none => []
  | some j => natLe 4 ((base + j * 2 ^ 9) % 2 ^ 32) ++ natLe 4 (toF32 (l.getD j .nan))

/-- One row of MRANK (R327). -/
def mrankStep (s : State) (c : Ctx) (x : Cmd) (m : Nat) : ERead State :=
  let b := s.bank c
  let sh := shapeOf x.y
  let a := rankOperand b x
  if rowMasked b (x.imm.getLsbD 9) m then .ok s
  else match a.spanCheck s c [m] 0 sh.n with
    | .error e => .error e
    | .ok () =>
      match allE (fun n => (a.elem s c m n).map fun v => v.1.num) (List.range sh.n) with
      | .error e => .error e
      | .ok l =>
        let k := x.selK
        let o := x.z.toNat + 8 * k * m
        if k ≠ 0 ∧ b.spTotal < o + 8 * k then .error (engAt 0x08 o, s)
        else match engAcc s c (x.x.toNat / 8 + m * sh.n) sh.n with
        | .error e => .error e
        | .ok () =>
          let b1 := (List.range sh.n).foldl (fun b n =>
            let i := x.x.toNat / 8 + m * sh.n + n
            b.accWrite i (BitVec.ofNat 64 (stepAddInt (b.accWord i).toNat (rankOf l n)))) b
          let s1 := s.setBank c b1
          .ok (if k = 0 then s1 else engSpPut s1 c o ((List.range k).flatMap (rankPair l x.z1.toNat)))

/-- A drained word in its destination format (R217): raw takes the whole word. -/
def drainWord (f : Bf) (im : Bool) (v : Nat) : Nat :=
  if f.fmt = 0 then v
  else if im then
    (if f.fmt ≤ 4 then (narrow f.sg true f.width (signed 56 v)).1 else f.encode 56 (.int (signed 56 v)))
  else f.encode 56 (.flt (ofA56 (v % 2 ^ 56)))

/-- The bytes of a row of patterns of `w` bits; a last half byte keeps the high nibble `old` of its place. -/
def packRow (w : Nat) (l : List Nat) (old : Nat) : List Byte :=
  let n := (l.length * w + 7) / 8
  natLe n (packLanes w l + (if l.length * w % 8 = 0 then 0 else old / 16 * 16 * 256 ^ (n - 1)))

/-- One row of MRD (R328). -/
def mrdStep (s : State) (c : Ctx) (x : Cmd) (m : Nat) : ERead State :=
  let b := s.bank c
  let sh := shapeOf x.y
  if rowMasked b (x.imm.getLsbD 9) m then .ok s
  else
    let row : ERead (Option Nat) :=
      if !x.imm.getLsbD 11 then .ok (some m)
      else match engSp s c (x.z1.toNat + 2 * m) 2 with
        | .error e => .error e
        | .ok bs => .ok (if leNat bs = 0xFFFF then none else some (leNat bs))
    match row with
    | .error e => .error e
    | .ok none => .ok s
    | .ok (some r) =>
      let d := x.z.toNat
      match b.spBank d with
      | none => .error (engAt 0x08 d, s)
      | some k =>
        let f := fmtAt x.fmts k
        let w := if f.fmt = 0 then 64 else f.width
        let p := rowBytes sh.n w
        let o := d + p * r
        let l := (List.range sh.n).map fun n => drainWord f (x.imm.getLsbD 12) (b.accWord (x.x.toNat / 8 + m * sh.n + n)).toNat
        let n := (sh.n * w + 7) / 8
        if b.spBase k + b.spSize k < o + n then .error (engAt 0x08 o, s)
        else match engAcc s c (x.x.toNat / 8 + m * sh.n) sh.n with
          | .error e => .error e
          | .ok () =>
            match engSp s c (o + n - 1) (if sh.n * w % 8 = 0 then 0 else 1) with
            | .error e => .error e
            | .ok old => .ok (engSpPut s c o (packRow w l (leNat old)))

/-- One row of MZERO. -/
def mzeroStep (s : State) (c : Ctx) (x : Cmd) (m : Nat) : State :=
  let b := s.bank c
  let sh := shapeOf x.y
  if rowMasked b (x.imm.getLsbD 9) m then s
  else
    let i := x.x.toNat / 8 + m * sh.n
    healAcc (s.setBank c ((List.range sh.n).foldl (fun b n => b.accWrite (i + n) 0) b)) c i sh.n

/-! ### Running -/

/-- Micro-steps of a matrix command. -/
def mxTotal (b : Bank) (x : Cmd) : Nat :=
  match x.kind with
  | .mma => let p := mmaPlan b x; (myTiles b x p.sh).length * (p.sh.k / p.s)
  | .mmas => let p := mmaPlan b x; (myTiles b x p.sh).length * (p.sh.k / p.s)
  | _ => (shapeOf x.y).m

/-- The rank-0 member of the domain, if it is another bank. Its bank keeps what it pushed after its TEXIT, until the node is over. -/
def rankZero (s : State) (c : Ctx) : Option Ctx :=
  match (s.node (s.bank c).th.node).members.head? with
  | some z => if z = c then none else some z
  | none => none

/-- What rank 0's matching split command says: not pushed yet, a signature, or never (R216). -/
inductive SplitView where
  | wait
  | sig (l : List Word)
  | never
  | skip
  deriving DecidableEq, Repr

def splitView (s : State) (c : Ctx) (x : Cmd) : SplitView :=
  match x.split, rankZero s c with
  | some k, some z =>
    let zb := s.bank z
    match zb.eng.sigs.find? fun l => l.1 == k with
    | some l => .sig l.2
    | none => if zb.eng.phases = k / 2 ^ 32 ∧ !(s.node (s.bank c).th.node).exited.contains 0 then .wait else .never
  | _, _ => .skip

/-- A member's split command differs from rank 0's (0x0E). -/
def splitWrong (s : State) (c : Ctx) (x : Cmd) : Bool :=
  match splitView s c x with
  | .sig l => splitSig (s.bank c) x != l
  | .never => true
  | _ => false

/-- The rings hold what the command needs (R212). -/
def ringsReady (b : Bank) (x : Cmd) : Bool :=
  match x.kind with
  | .mma => (mmaPlan b x).ready b
  | .mmas => (mmaPlan b x).ready b
  | .mrank => decide (rankNeed b x ≤ (b.ring x.ra).occ)
  | _ => true

/-- The lease that a start needs: held, with a command left. -/
def leaseReady (s : State) (c : Ctx) (x : Cmd) : Bool :=
  !x.needsLease || (match (s.cluster (clusterOf c.core)).lease with
    | some l => l.holder == c && l.left != 0
    | none => false)

/-- The matrix head may start. -/
def mxReady (s : State) (c : Ctx) : Option Cmd :=
  let b := s.bank c
  match headReady s c .mx with
  | none => none
  | some x =>
    if pacedOut s c b.sys.paceMx (lastOut s c .mx x) && leaseReady s c x && ringsReady b x && splitView s c x != .wait then some x
    else none

/-- A started lease command counts against the lease (R209). -/
def countLease (s : State) (c : Ctx) (x : Cmd) : State :=
  let k := clusterOf c.core
  match (s.cluster k).lease with
  | some l => if x.needsLease && l.holder == c then s.setCluster k { s.cluster k with lease := some { l with left := l.left - 1 } } else s
  | none => s

/-- Retirement (R212). -/
def retire (s : State) (c : Ctx) (x : Cmd) : State :=
  let b := s.bank c
  match x.kind with
  | .mrank => setRing s c x.ra ((b.ring x.ra).adv (rankNeed b x))
  | .mrd => s
  | .mzero => s
  | _ =>
    let p := mmaPlan b x
    let s1 := setRing s c x.ra ((b.ring x.ra).adv p.na)
    setRing s1 c x.rb (((s1.bank c).ring x.rb).adv p.nb)

/-- After a command: a lease that is used up, timed out or released by MFREE ends (R209). -/
def settleLease (s : State) (c : Ctx) : State :=
  match (s.cluster (clusterOf c.core)).lease with
  | some l =>
    let e := (s.bank c).eng
    if l.holder = c ∧ (l.left = 0 ∨ (e.freeMx ∧ !e.mx.q.any Cmd.needsLease)) ∧ !(e.mx.run && e.mx.q.head?.any Cmd.needsLease) then
      endLease s c
    else s
  | none => s

/-- The end of the matrix command: its slots retire, then it completes when its tokens find room (R212, R326). -/
def mxFinish (s : State) (c : Ctx) (x : Cmd) : State :=
  let sh := shapeOf x.y
  settleLease (tryFinish (wrapUp s c .mx fun s => retire s c x) c .mx x (compWord 0 (sh.m * sh.n))) c

/-- The start of the matrix head (R326): at once complete when this member has no sub-tile. -/
def mxStart (s : State) (c : Ctx) : State :=
  match mxReady s c with
  | none => s
  | some x =>
    let s1 := countLease (startHead s c .mx x) c x
    if mxTotal (s1.bank c) x = 0 ∧ !splitWrong s1 c x then mxFinish s1 c x else s1

/-- One micro-step by kind. -/
def mxStep (s : State) (c : Ctx) (x : Cmd) (st : Nat) : ERead State :=
  match x.kind with
  | .mrank => mrankStep s c x st
  | .mrd => mrdStep s c x st
  | .mzero => .ok (mzeroStep s c x st)
  | _ =>
    if splitWrong s c x then .error (.fault 0x0E (BitVec.ofNat 32 (x.split.getD 0 % 2 ^ 32)) 0 false, s)
    else if mxTotal (s.bank c) x = 0 then .ok s
    else mmaStep s c x st

/-- The units of 512 bytes that row `m` begins, of rows of `rb` bytes. -/
def unitsBegun (rb m : Nat) : Nat := ((m + 1) * rb + 511) / 512 - (m * rb + 511) / 512

/-- The bits that MRD writes for an accumulator word. -/
def mrdWidth (b : Bank) (x : Cmd) : Nat :=
  match b.spBank x.z.toNat with
  | none => 64
  | some k => if (fmtAt x.fmts k).fmt = 0 then 64 else (fmtAt x.fmts k).width

/-- A row that MRD or MZERO writes: not masked, and not left out by MRD's index list. -/
def rowWritten (b : Bank) (x : Cmd) (m : Nat) : Bool :=
  !rowMasked b (x.imm.getLsbD 9) m &&
  !(x.kind == .mrd && x.imm.getLsbD 11 && leNat (b.scrBytes (x.z1.toNat + 2 * m) 2) == 0xFFFF)

/-- The charge of row `m`, of rows of `rb` bytes: for each 512 bytes of the rows written that it begins. -/
def rowCharge (s : State) (c : Ctx) (x : Cmd) (rb m : Nat) : Nat :=
  let b := s.bank c
  if rowWritten b x m then s.clsWeight (clusterOf c.core) 11 * unitsBegun rb ((List.range m).filter (rowWritten b x)).length else 0

/-- The class of an array cycle by step size (R109, R242). -/
def cycleClass (n : Nat) : Nat :=
  match n with
  | 16 => 10
  | 32 => 9
  | _ => 8

/-- The charge of a micro-step (R242): an array cycle by step size; a row of drains or zeroing by what it writes. -/
def mxCharge (s : State) (c : Ctx) (x : Cmd) : Nat :=
  let k := clusterOf c.core
  let b := s.bank c
  let m := b.eng.mx.prog.step
  match x.kind with
  | .mrd => rowCharge s c x (((shapeOf x.y).n * mrdWidth b x + 7) / 8) m
  | .mzero => rowCharge s c x ((shapeOf x.y).n * 8) m
  | .mrank =>
    let f := (rankOperand b x).bf
    if rowMasked b (x.imm.getLsbD 9) m then 0 else s.clsWeight k (cycleClass (stepSize f f))
  | _ => s.clsWeight k (cycleClass (mmaPlan b x).s)

/-- One granted micro-step; the last completes the command. -/
def mxAdvance (s : State) (c : Ctx) (x : Cmd) : State :=
  let p := (s.bank c).eng.mx.prog
  match mxStep s c x p.step with
  | .error e => engStop c .mx e
  | .ok s1 =>
    let s2 := setProg s1 c .mx { p with step := p.step + 1 }
    if mxTotal (s2.bank c) x ≤ p.step + 1 then mxFinish s2 c x else s2

/-- A core's frozen lease holder freezes the array (R138): `runningHead` asks for that. -/
def mxMicro (s : State) (c : Ctx) : State :=
  match runningHead s c .mx with
  | none => s
  | some x =>
    if (s.bank c).eng.mx.prog.done then mxFinish s c x
    else match mxCharge s c x with
      | 0 => mxAdvance s c x
      | w => charged s (clusterOf c.core) (chargeReq whoMatrix c w) fun s => mxAdvance s c x

/-- The event rows of the matrix engine. -/
def execMatrixCommandStart (c : Ctx) (s : State) : Host.Outcome State Fault Refusal := .next (mxStart s c)
def execMatrixMicroStep (c : Ctx) (s : State) : Host.Outcome State Fault Refusal := .next (mxMicro s c)

end Sys2Proof.Machine
end

