-- ==== Sys2Proof/Machine/Copy.lean ====
section
/-! DEFINITION. The copy engine: descriptors and their checks at push (R218 to R221, R106, R108, R302), near operands (R120,
R196), element reads, combinations and writes, ring filling, streams (R77, R332), and the event rows of the copy engine. -/

namespace Sys2Proof.Machine

/-! ### Descriptors -/

/-- A copy descriptor (R218). -/
structure CopyD where
  src  : Nat
  dst  : Nat
  rows : Nat
  cols : Nat
  sstr : Int
  dstr : Int
  kind : Nat
  red  : Nat
  peer : Nat
  span : Nat
  ring : Bool
  rm   : Bool
  sf   : Bf
  df   : Bf
  deriving DecidableEq, Repr

/-- A memory format: BFMT bits [7:0] only. -/
def memFmt (b : Nat) : Bf := bfOf (BitVec.ofNat 32 (b % 256))

def copyD (d : Nat) : CopyD :=
  { src := bits d 0 48, dst := bits d 48 48, rows := bits d 96 16, cols := bits d 112 16, sstr := signed 32 (bits d 128 32),
    dstr := signed 32 (bits d 160 32), kind := bits d 216 3, red := bits d 219 2, peer := bits d 227 5, span := bits d 224 3,
    ring := bitOf d 222, rm := bitOf d 221, sf := memFmt (bits d 232 8), df := memFmt (bits d 240 8) }

def Cmd.copy (x : Cmd) : CopyD := copyD x.desc.toNat
/-- The FIFO of a copy. -/
def copyFifo (kind : Nat) : FifoId := if kind % 2 = 0 then .ci else .co

/-- What stands on one side of a copy. -/
inductive SideAt where
  | mem | sp | near | peer | remote
  deriving DecidableEq, Repr

/-- A side: where, its scratchpad bank, its format; `known` is false where a scratchpad offset or a near handle names
nothing, so that the format is not known at push. -/
structure Side where
  at_   : SideAt
  bank  : Nat
  bf    : Bf
  known : Bool
  deriving DecidableEq, Repr

/-- A scratchpad side by the bank of its first offset. -/
def spSide (b : Bank) (fmts : Tab Word) (p : SideAt) (o : Nat) : Side :=
  match b.spBank o with
  | some k => { at_ := p, bank := k, bf := fmtAt fmts k, known := true }
  | none => { at_ := p, bank := 0, bf := memFmt 0, known := false }

/-- The copy that a near handle names: its descriptor (R120). -/
def handleDesc (s : State) (h : Nat) : Option CopyDesc :=
  let t := s.tag (h % 2 ^ 15)
  if (tabGet? s.res.tags (h % 2 ^ 15)).isNone then none
  else match bits h 15 2 with
    | 0 => some t.ca
    | 1 => some t.cb
    | 2 => some t.cm
    | _ => none

def nearSide (s : State) (h : Nat) : Side :=
  match handleDesc s h with
  | some d => { at_ := .near, bank := 0, bf := bfOf (d.fmt.setWidth 32), known := true }
  | none => { at_ := .near, bank := 0, bf := memFmt 0, known := false }

def srcSide (s : State) (b : Bank) (x : Cmd) : Side :=
  let d := x.copy
  if d.kind = 0 ∨ d.kind = 5 then { at_ := .mem, bank := 0, bf := d.sf, known := true }
  else if d.kind = 4 then nearSide s (d.src % 2 ^ 17)
  else spSide b x.fmts .sp d.src

def dstSide (b : Bank) (x : Cmd) : Side :=
  let d := x.copy
  match d.kind with
  | 1 => { at_ := .mem, bank := 0, bf := d.df, known := true }
  | 5 => { at_ := .remote, bank := 0, bf := d.df, known := true }
  | 3 => spSide b x.fmts .peer d.dst
  | _ => if d.ring then spSide b x.fmts .sp (b.ring x.ra).base else spSide b x.fmts .sp d.dst

/-- Raw on either side: bytes pass unchanged, with the width of the side that is not raw (R108). -/
def rawCopy (fs fd : Bf) : Bool := fs.fmt == 0 || fd.fmt == 0
def srcWidth (fs fd : Bf) : Nat := if fs.fmt = 0 then (if fd.fmt = 0 then 8 else fd.width) else fs.width
def dstWidth (fs fd : Bf) : Nat := if fd.fmt = 0 then (if fs.fmt = 0 then 8 else fs.width) else fd.width

/-- The pitch of a ring row and the slots it takes (R221). -/
def CopyD.pitch (d : CopyD) (w : Nat) : Nat := rowBytes d.cols w
def CopyD.slots (d : CopyD) (w ssz : Nat) : Nat := slotsFor d.rows (d.pitch w) ssz

/-! ### The checks at push -/

/-- The bank checks of R106. -/
def bankCheck (ill : Stop) (x : Side) : Option Stop :=
  if x.known && (x.at_ == .sp || x.at_ == .peer) then
    (if x.bf.reserved then some (stopTrap 0x01 (BitVec.ofNat 32 x.bank))
     else stopIf (x.bf.grp != 0 && x.bf.sb == x.bank) ill)
  else none

/-- Does a scaled destination take its source unchanged (R108)? -/
def sameScaled (fs fd : Bf) : Bool := fs.fmt == fd.fmt && fs.sg == fd.sg && fs.inf == fd.inf && fs.grp == fd.grp && fs.sf == fd.sf

/-- The first row of a side that does not begin on a group boundary: its offset (R220). -/
def rowOffGroup (b : Bank) (d : CopyD) (x : Side) (start : Nat) (stride : Int) : Option Nat :=
  ((List.range d.rows).map fun (r : Nat) => ((start : Int) + (r : Int) * stride).toNat).find? fun o =>
    (if x.at_ = .near then o * 8 / x.bf.width else elemIndex b x.bank x.bf.width o 0) % x.bf.g != 0

/-- The source offset, in the image for a near operand. -/
def CopyD.srcOff (d : CopyD) : Nat := if d.kind = 4 then d.src / 2 ^ 17 else d.src

def groupRows (b : Bank) (d : CopyD) (fs fd : Side) : Option Stop :=
  if fd.bf.grp = 0 then none
  else
    match (if fs.known then rowOffGroup b d fs d.srcOff d.sstr else none) with
    | some o => some (stopAddr 0x04 o)
    | none => if d.ring then none else (rowOffGroup b d fd d.dst d.dstr).map fun o => stopAddr 0x04 o

/-- Is a device linked to this one (R219), and can it be reached now (R258)? -/
def linked (s : State) (p : Nat) : Bool := decide (p < 4) && BitVec.ofNat 2 p != s.devNo && s.plat.joined.getLsbD p
def reachable (s : State) (p : Nat) : Bool := linked s p && s.devUp (BitVec.ofNat 2 p)

def memReserved (x : Side) : Bool := (x.at_ == .mem || x.at_ == .remote) && (x.bf.fmt == 7 || x.bf.fmt == 8)

/-- The checks of a CPY (R219 to R221, R302). -/
def copyCheck (s : State) (b : Bank) (x : Cmd) (ill : Stop) : Option Stop :=
  let d := x.copy
  let fs := srcSide s b x
  let fd := dstSide b x
  let r := b.ring x.ra
  firstStop [
    stopIf (decide (6 ≤ d.kind) || d.red == 3) ill,
    stopIf (tokIllegal (copyFifo d.kind) x.tok) ill,
    stopIf (d.kind == 3 && (b.sys.level == 0 || decide (b.memberCount ≤ d.peer))) ill,
    stopIf (d.kind == 5 && !linked s d.peer) ill,
    stopIf (memReserved fs || memReserved fd) ill,
    stopIf (d.ring && (d.kind % 2 != 0)) ill,
    stopIf (if d.ring then r.cnt == 0 else x.ra != 0) ill,
    bankCheck ill fs,
    bankCheck ill fd,
    stopIf (d.red != 0 && fd.known && (fd.bf.fmt == 0 || fd.bf.grp != 0)) ill,
    stopIf (d.red != 0 && d.kind == 5 && fd.bf.fmt != 6 && fd.bf.fmt != 4) ill,
    stopIf ((fs.at_ == .mem && fd.bf.grp != 0) || (fd.at_ == .mem && fs.bf.grp != 0)) ill,
    stopIf (fd.bf.grp != 0 && fs.known && !sameScaled fs.bf fd.bf) ill,
    stopIf (d.ring && decide (r.cnt < d.slots (dstWidth fs.bf fd.bf) r.ssz)) ill,
    groupRows b d fs fd]

/-- Unmasked rows. -/
def CopyD.liveRows (d : CopyD) (b : Bank) : Nat := ((List.range d.rows).filter fun r => !rowMasked b d.rm r).length

/-- Streams that wait for the next CPY attach to it (R332). -/
def attachStreams (b : Bank) (x : Cmd) : Bank :=
  { b with q := tabMap b.q fun _ st =>
      match st with
      | .waiting v => .copy v x.id [] [] (x.copy.liveRows b * x.copy.cols)
      | st => st }

def execCpy (h : Hdr) (o : EOps) (s : State) : Host.Outcome State Fault Refusal :=
  word (.cpy h o) s fun s =>
    let c := s.iss.ctx
    match readDesc s (descVa s.cur (s.cur.sreg o.sx.toNat)) 32 with
    | .error e => .error e
    | .ok (s1, d) =>
      let x := { cmdOf .cpy o s.cur with desc := BitVec.ofNat 512 d }
      match copyCheck s1 s1.cur x (illegalStop (.cpy h o)) with
      | some e => .error (e, s)
      | none =>
        match pushOrStall s s1 c (copyFifo x.copy.kind) x with
        | .error e => .error e
        | .ok s2 => .ok (s2.setBank c (attachStreams (s2.bank c) x))

/-! ### Near operands (R120, R196) -/

/-- Who reads a stream frame: a bank's copy command, for elements or for scales. -/
abbrev Reader := Ctx × Nat × Bool

/-- Ask the Steamer for a stream chunk (R196): one request, whoever asks. -/
def askChunk (s : State) (who : Reader) (tix ch : Nat) : State :=
  let r := s.res
  let mine (q : FillReq) : Bool := q.what == .stream tix && q.chunk == ch
  let join (q : FillReq) : FillReq := if mine q && !q.askers.contains who then { q with askers := q.askers ++ [who] } else q
  if r.reqs.any mine then { s with res := { r with reqs := r.reqs.map join } }
  else { s with res := { r with reqs := r.reqs ++ [{ cls := 3, what := .stream tix, chunk := ch, seq := r.seq,
                                                     cl := clusterOf who.1.core, paid := 0, img := [], askers := [who] }],
                                seq := r.seq + 1 } }

/-- A command is at these chunks of an expert's stream now: it has passed the other frames that it read (R196). -/
def atChunks (s : State) (who : Reader) (tix : Nat) (chs : List Nat) : State :=
  let mark (f : StreamFrame) : StreamFrame :=
    if f.tix ≠ tix then f
    else if !chs.contains f.chunk then { f with readers := f.readers.filter fun r => r != who }
    else if f.readers.contains who then f else { f with readers := f.readers ++ [who] }
  { s with res := { s.res with streams := s.res.streams.map mark } }

/-- A command has passed every stream frame. -/
def passAll (s : State) (c : Ctx) (id : Nat) : State :=
  let pass (f : StreamFrame) : StreamFrame := { f with readers := f.readers.filter fun r => r.1 != c || r.2.1 != id }
  { s with res := { s.res with streams := s.res.streams.map pass } }

/-- The near frame that holds chunk `ch` of the copy a handle names, or why there is none. -/
def nearFrame (s : State) (who : Reader) (tix code ch : Nat) : ERead Nat :=
  let t := s.tag tix
  let psn : ERead Nat := .error (.fault 0x0D (BitVec.ofNat 32 tix) 0 false, s)
  if code = 2 then
    (if t.psn then psn
     else match s.res.streams.find? fun f => f.tix == tix && f.chunk == ch with
       | some f => if f.bad then psn else .ok f.frame
       | none => .error (.wait, askChunk s who tix ch))
  else
    match (nodeFrames s tix (code == 1) (s.node (s.bank who.1).th.node).batch)[ch]? with
    | some f => .ok f
    | none => if t.psn then psn else .error (engAt 0x08 (tix + 2 ^ 15 * code), s)

/-- One byte of the near tier; an uncorrectable error in its 64-bit word dooms the copy, and its frame is EVAL (R137, R139, R188). -/
def nearByte (s : State) (who : Reader) (tix code o : Nat) : ERead Byte :=
  match nearFrame s who tix code (o / 65536) with
  | .error e => .error e
  | .ok f =>
    let a := f * 65536 + o % 65536
    if s.mem.bad.contains (2, a / 8) then .error (.fault 0x11 (BitVec.ofNat 32 f) 0 false, doomFrame (foundUe s (some who.1) 2 (a / 8)) f)
    else .ok (memByte s.mem.near a)

/-- Read `n` bytes at an offset of a near operand for the elements or the scales of command `id`: the checks of R120, then the bytes. -/
def nearRead (s : State) (c : Ctx) (id : Nat) (scale : Bool) (h o n : Nat) : ERead (State × List Byte) :=
  let who : Reader := (c, id, scale)
  let bad : ERead (State × List Byte) := .error (engAt 0x08 h, s)
  let tix := h % 2 ^ 15
  let code := bits h 15 2
  match (s.node (s.bank c).th.node).xp, handleDesc s h with
  | some (tag, op1), some d =>
    if s.tagIx? tag ≠ some tix ∨ code ≠ bits op1.toNat 15 2 ∨ d.nch * 65536 < o + n then bad
    else
      let s1 := if code = 2 then atChunks s who tix [o / 65536, (o + n - 1) / 65536] else s
      (allE (nearByte s1 who tix code) ((List.range n).map fun i => o + i)).map fun b => (s1, b)
  | _, _ => bad

/-! ### Element reads -/

/-- An offset that may be negative. -/
def offBad (o : Int) : EngStop := .fault 0x08 (BitVec.ofInt 32 o) 0 false

/-- Bytes of the source at an offset of its side. -/
def srcBytes (s : State) (c : Ctx) (x : Cmd) (sd : Side) (o : Int) (n : Nat) : ERead (State × List Byte) :=
  match sd.at_ with
  | .mem =>
    match engReach s c x.mon .rd (pagePieces 2 (wrapInt 48 o) n) with
    | .error e => .error e
    | .ok (s1, l) => .ok (s1, engBytes s1 c l)
  | .near =>
    if o < 0 then .error (engAt 0x08 (x.copy.src % 2 ^ 17), s)
    else nearRead s c x.id false (x.copy.src % 2 ^ 17) o.toNat n
  | _ => if o < 0 then .error (offBad o, s) else (engSp s c o.toNat n).map fun b => (s, b)

/-- Group number of the source element at a byte offset. -/
def srcGroup (b : Bank) (sd : Side) (o nib : Nat) : Nat :=
  (if sd.at_ = .near then o * 8 / sd.bf.width + nib else elemIndex b sd.bank sd.bf.width o nib) / sd.bf.g

def scaleBytes (f : Bf) : Nat := if f.sf then 1 else 2

/-- The stored scale of a source group. -/
def srcScale (s : State) (c : Ctx) (x : Cmd) (sd : Side) (j : Nat) : ERead (State × List Byte) :=
  let n := scaleBytes sd.bf
  if sd.at_ = .near then
    nearRead s c x.id true (x.copy.src % 2 ^ 17) (((handleDesc s (x.copy.src % 2 ^ 17)).map fun d => d.scoff).getD 0 + n * j) n
  else
    let b := s.bank c
    if b.spSize sd.bf.sb < n * j + n then .error (engAt 0x08 (b.spBase sd.bf.sb + n * j), s)
    else (engSp s c (b.spBase sd.bf.sb + n * j) n).map fun x => (s, x)

/-- What one source element gives: its pattern, its value, its group's stored scale where it begins a group. -/
structure SrcElem where
  pat  : Nat
  val  : Elem
  grp  : Option (List Byte)
  deriving DecidableEq, Repr

/-- Source element (r, k). -/
def srcElem (s : State) (c : Ctx) (x : Cmd) (fs fd : Side) (r k : Nat) : ERead (State × SrcElem) :=
  let d := x.copy
  let w := srcWidth fs.bf fd.bf
  let o : Int := (d.srcOff : Int) + (r : Int) * d.sstr + (k * w / 8 : Nat)
  let nib := if w = 4 then k % 2 else 0
  match srcBytes s c x fs o (max 1 (w / 8)) with
  | .error e => .error e
  | .ok (s1, bs) =>
    let pat := if w = 4 then leNat bs / 16 ^ nib % 16 else leNat bs
    if fs.bf.grp == 0 || (rawCopy fs.bf fd.bf && fd.bf.grp == 0) then .ok (s1, { pat := pat, val := fs.bf.decode pat, grp := none })
    else
      match srcScale s1 c x fs (srcGroup (s1.bank c) fs o.toNat nib) with
      | .error e => .error e
      | .ok (s2, sc) => .ok (s2, { pat := pat, val := scaleElem (fs.bf.decode pat) (fs.bf.scale (leNat sc)), grp := some sc })

/-! ### Destinations -/

/-- Where a unit lands. -/
inductive DLoc where
  | mem (l : List (Loc × Nat))
  | sp (o : Nat)
  | peer (c : Ctx) (o : Nat)
  | remote (pa : Nat)
  deriving DecidableEq, Repr

/-- The bank of a member of the thread's gang by rank. -/
def memberCtx (s : State) (c : Ctx) (rank : Nat) : Ctx := (s.node (s.bank c).th.node).members.getD rank c

/-- The unswizzled and the physical scratchpad offset of byte `p` of row `r` of a ring destination. -/
def ringByte (b : Bank) (x : Cmd) (w r p : Nat) : Nat × Nat :=
  let g := b.ring x.ra
  let d := x.copy
  let q := g.place g.tail (r * d.pitch w + p) fun _ => d.span
  (q.2.2, q.2.1)

/-- A peer's physical address lies in an ordinary range of that device: only the peer knows (a free value, log 13). -/
def peerOrdinary (s : State) : Bool := !(Config.freeWord s.freeCtr).getLsbD 0

/-- Bytes of a scratchpad that a read-modify-write finds bad (R139, R236). -/
def rmwBad (s : State) (c p : Ctx) (rmw : Bool) (o n : Nat) (ok : ERead (State × DLoc)) : ERead (State × DLoc) :=
  match rmw, badPool s p o n with
  | true, some key => .error (engAt 0x11 o, foundUe s (some c) 0 key)
  | _, _ => ok

/-- Reach `n` bytes of the destination at byte `p` of row `r`. A reduction, and a write of half a byte, read them too. -/
def dstReach (s : State) (c : Ctx) (x : Cmd) (fd : Side) (w r p n : Nat) : ERead (State × DLoc) :=
  let d := x.copy
  let b := s.bank c
  let o : Int := (d.dst : Int) + (r : Int) * d.dstr + (p : Nat)
  let rmw := d.red != 0 || w == 4
  match fd.at_ with
  | .mem =>
    match engReach s c x.mon (if rmw then .am else .wr) (pagePieces 2 (wrapInt 48 o) n) with
    | .error e => .error e
    | .ok (s1, l) => .ok (s1, .mem l)
  | .remote =>
    if !reachable s d.peer then .error (engAt 0x08 (wrapInt 48 o), s)
    else if peerOrdinary s then .ok (s.bump, .remote (wrapInt 48 o)) else .error (engAt 0x08 (wrapInt 48 o), s.bump)
  | .peer =>
    if o < 0 then .error (offBad o, s)
    else if b.spTotal < o.toNat + n then .error (engAt 0x08 o.toNat, s)
    else rmwBad s c (memberCtx s c d.peer) rmw o.toNat n (.ok (s, .peer (memberCtx s c d.peer) o.toNat))
  | _ =>
    if d.ring then
      let q := (ringByte b x w r p).2
      if b.spTotal < q + n then .error (engAt 0x08 q, s) else rmwBad s c c rmw q n (.ok (s, .sp q))
    else if o < 0 then .error (offBad o, s)
    else if b.spTotal < o.toNat + n then .error (engAt 0x08 o.toNat, s)
    else rmwBad s c c rmw o.toNat n (.ok (s, .sp o.toNat))

/-- A byte of a member's scratchpad as the writes that have arrived there leave it (R25: its owner sees them later). -/
def peerByte (b : Bank) (o : Nat) : Byte :=
  b.peerW.foldl (fun v w => if w.off ≤ o ∧ o < w.off + w.val.length then w.val.getD (o - w.off) v else v) (b.scrByte o)

/-- The bytes that stand at a destination. -/
def dstOld (s : State) (c : Ctx) (l : DLoc) (n : Nat) : List Byte :=
  match l with
  | .mem l => engBytes s c l
  | .sp o => (s.bank c).scrBytes o n
  | .peer p o => (List.range n).map fun i => peerByte (s.bank p) (o + i)
  | .remote _ => List.replicate n (Config.freeByte s.freeCtr)

/-- Is a raw copy packed on the link (R114): its rows are whole 8-byte words at 8-byte-aligned addresses, with `w` bits to an element? The
stride places no row of a copy of one. -/
def CopyD.packed (d : CopyD) (w : Nat) : Bool :=
  d.df.fmt == 0 && d.cols * w % 64 == 0 && d.dst % 8 == 0 && (decide (d.rows ≤ 1) || d.dstr % 8 == 0)

/-- The word of a packed row that `own` has begun, and that the byte at `pa` continues. -/
def joinsWord (d : CopyD) (own : Nat × Nat) (pa : Nat) (m : LinkMsg) : Bool :=
  match m with
  | .copy k a _ _ o w => o == some own && k == d.peer && a % 8 == 0 && a + (wireData w).length == pa && pa % 8 != 0
  | _ => false

/-- A remote element on its way out (R114), of command `own`. Bytes of a packed row join those of their word until it is whole. -/
def sendCopy (out : List LinkMsg) (d : CopyD) (own : Nat × Nat) (w pa : Nat) (fmt : BitVec 8) (v : List Byte) : List LinkMsg :=
  let msg (a : Nat) (l : List Byte) : LinkMsg :=
    .copy d.peer a (BitVec.ofNat 2 d.red) fmt (if d.packed w && decide (l.length < 8) then some own else none) (wireOf (d.df.fmt == 6) (d.packed w) l)
  let join (m : LinkMsg) : LinkMsg :=
    match m with
    | .copy _ a _ _ _ x => msg a (wireData x ++ v)
    | m => m
  if d.packed w && out.any (joinsWord d own pa) then out.map fun m => if joinsWord d own pa m then join m else m
  else out ++ [msg pa v]

/-- Write bytes at a destination. -/
def dstPut (s : State) (c : Ctx) (x : Cmd) (l : DLoc) (v : List Byte) : State :=
  match l with
  | .mem l => engPut s c l v
  | .sp o => engSpPut s c o v
  | .peer p o => let b := s.bank p; s.setBank p { b with peerW := b.peerW ++ [{ src := c, off := o, val := v }] }
  | .remote pa => { s with plat := { s.plat with out := sendCopy s.plat.out x.copy (ctxIx c, x.id) (dstWidth (srcSide s (s.bank c) x).bf (dstSide (s.bank c) x).bf) pa
                                                                (BitVec.ofNat 8 (bits x.desc.toNat 240 8)) v } }

/-- Combine a destination value with a source value (R220): 1 add, 2 max. -/
def combine (red : Nat) (old v : Elem) : Elem :=
  match red, old, v with
  | 1, .int a, .int b => .int (a + b)
  | 1, a, b => .flt (numAdd .rne a.num b.num).1
  | _, .int a, .int b => .int (max a b)
  | _, a, b => .flt (numMax a.num b.num)

/-- The pattern written for one element, given the old pattern. A remote reduction is performed at the peer. The bytes of a raw source
are combined as elements of the destination's format (log 22). -/
def newPat (d : CopyD) (fs fd : Bf) (old : Nat) (v : SrcElem) : Nat :=
  if d.red ≠ 0 ∧ d.kind ≠ 5 then fd.encodeSum (combine d.red (fd.decode old) (if fs.fmt = 0 then fd.decode v.pat else v.val))
  else if rawCopy fs fd || fd.grp != 0 then v.pat
  else fd.encode fs.width v.val

/-- What a stream bound to the copy receives of an element: raw bytes zero-extended, else as R333 delivers (log 21). -/
def streamElem (fd : Bf) (pat : Nat) : Word := if fd.fmt = 0 then BitVec.ofNat 32 pat else deliver fd pat

/-- Deliver elements and bytes to the streams bound to the command. -/
def feedStreams (b : Bank) (id : Nat) (es : List Word) (bs : List Byte) : Bank :=
  { b with q := tabMap b.q fun _ st =>
      match st with
      | .copy v k e y left =>
        if k = id then .copy v k (if v then e else e ++ es) (if v then y ++ bs else y) (left - es.length) else st
      | st => st }

/-- Copy a group's scale to the destination bank's scales (R220). -/
def putScale (s : State) (c : Ctx) (x : Cmd) (fd : Side) (j : Nat) (sc : List Byte) : ERead State :=
  let b := s.bank c
  let n := scaleBytes fd.bf
  let o := b.spBase fd.bf.sb + n * j
  if b.spSize fd.bf.sb < n * j + n then .error (engAt 0x08 o, s)
  else .ok (dstPut s c x (if fd.at_ = .peer then .peer (memberCtx s c x.copy.peer) o else .sp o) sc)

/-- The index in the destination bank of element `k` of row `r`. -/
def dstIndex (b : Bank) (x : Cmd) (fd : Side) (w r k : Nat) : Nat :=
  let d := x.copy
  let o := if d.ring then (ringByte b x w r (k * w / 8)).1
    else ((d.dst : Int) + (r : Int) * d.dstr + (k * w / 8 : Nat)).toNat
  elemIndex b fd.bank w o (if w = 4 then k % 2 else 0)

/-! ### Units: one element; the two nibbles of a byte together only where a peer device writes them (R303, log 22) -/

/-- Units of a row, `w` bits to an element; `pair` joins two nibbles. -/
def CopyD.units (d : CopyD) (pair : Bool) : Nat := if pair then (d.cols + 1) / 2 else d.cols
/-- The elements of unit `u`, and its first byte in the row. -/
def CopyD.elems (d : CopyD) (pair : Bool) (u : Nat) : List Nat :=
  if pair then [2 * u, 2 * u + 1].filter fun k => decide (k < d.cols) else [u]
def unitByte (w : Nat) (pair : Bool) (u : Nat) : Nat := if pair then u else u * w / 8

/-- Read the source elements of a unit. -/
def unitRead (s : State) (c : Ctx) (x : Cmd) (fs fd : Side) (r : Nat) : List Nat → ERead (State × List SrcElem)
  | [] => .ok (s, [])
  | k :: t =>
    match srcElem s c x fs fd r k with
    | .error e => .error e
    | .ok (s1, v) =>
      match unitRead s1 c x fs fd r t with
      | .error e => .error e
      | .ok (s2, vs) => .ok (s2, v :: vs)

/-- Put element `k`'s pattern into what stands at the unit's bytes: a nibble takes its half. -/
def putElem (w old : Nat) (k pat : Nat) : Nat :=
  if w = 4 then (if k % 2 = 0 then old / 16 * 16 + pat else old % 16 + 16 * pat) else pat

/-- The scales that the elements of a unit begin. -/
def unitScales (s : State) (c : Ctx) (x : Cmd) (fd : Side) (w r : Nat) : List (Nat × SrcElem) → ERead State
  | [] => .ok s
  | (k, v) :: t =>
    let i := dstIndex (s.bank c) x fd w r k
    match (if fd.bf.grp ≠ 0 ∧ i % fd.bf.g = 0 then v.grp else none) with
    | none => unitScales s c x fd w r t
    | some sc =>
      match putScale s c x fd (i / fd.bf.g) sc with
      | .error e => .error e
      | .ok s1 => unitScales s1 c x fd w r t

/-- Zero bytes `lo` up to `hi` of a ring row. -/
def ringZero (s : State) (c : Ctx) (x : Cmd) (w r lo hi : Nat) : State :=
  (List.range (hi - lo)).foldl (fun s i => engSpPut s c (ringByte (s.bank c) x w r (lo + i)).2 [0]) s

/-- Two nibbles at a time: their destination is another device's memory. -/
def pairUnits (s : State) (c : Ctx) (x : Cmd) (w : Nat) : Bool := w == 4 && (dstSide (s.bank c) x).at_ == .remote

/-- One unit of an unmasked row. A ring row that ends in half a byte fills the other half with zero, as padding (R221). -/
def copyUnit (s : State) (c : Ctx) (x : Cmd) (r u : Nat) : ERead State :=
  let d := x.copy
  let fs := srcSide s (s.bank c) x
  let fd := dstSide (s.bank c) x
  let w := dstWidth fs.bf fd.bf
  let pair := pairUnits s c x w
  let ks := d.elems pair u
  let n := max 1 (w / 8)
  let last := decide (u + 1 = d.units pair)
  match unitRead s c x fs fd r ks with
  | .error e => .error e
  | .ok (s1, vs) =>
    match dstReach s1 c x fd w r (unitByte w pair u) n with
    | .error e => .error e
    | .ok (s2, l) =>
      match unitScales s2 c x fd w r (ks.zip vs) with
      | .error e => .error e
      | .ok s3 =>
        let old := leNat (dstOld s3 c l n)
        let pats := (ks.zip vs).map fun v =>
          (v.1, newPat d fs.bf fd.bf (if w = 4 then old / 16 ^ (v.1 % 2) % 16 else old) v.2)
        let bs := natLe n (pats.foldl (fun o p => putElem w o p.1 p.2) (if d.ring && u % 2 == 0 && last then 0 else old))
        let s4 := dstPut s3 c x l bs
        let out := if w ≠ 4 ∨ pair ∨ u % 2 = 1 ∨ last then bs else []
        let s5 := s4.setBank c (feedStreams (s4.bank c) x.id (pats.map fun p => streamElem fd.bf p.2) out)
        .ok (if d.ring && last then ringZero s5 c x w r ((d.cols * w + 7) / 8) (d.pitch w) else s5)

/-- Before a ring is filled: every row, a masked one too, begins on a group boundary (R220). -/
def ringGroups (s : State) (c : Ctx) (x : Cmd) (fd : Side) (w : Nat) : ERead Unit :=
  let d := x.copy
  let b := s.bank c
  if !d.ring || fd.bf.grp == 0 then .ok ()
  else match (List.range d.rows).find? fun r => dstIndex b x fd w r 0 % fd.bf.g != 0 with
    | none => .ok ()
    | some r => .error (engAt 0x04 (ringByte b x w r 0).1, s)

/-! ### Running -/

def copyW (s : State) (c : Ctx) (x : Cmd) : Nat := dstWidth (srcSide s (s.bank c) x).bf (dstSide (s.bank c) x).bf

/-- Bytes of a ring copy's last slot beyond its rows: they are written as zero, 64 in a step (R221). -/
def ringTail (s : State) (c : Ctx) (x : Cmd) : Nat :=
  let d := x.copy
  let w := copyW s c x
  let z := ((s.bank c).ring x.ra).ssz
  if d.ring then d.slots w z * z - d.rows * d.pitch w else 0

/-- Steps that write elements, and all steps. -/
def copyElems (s : State) (c : Ctx) (x : Cmd) : Nat := x.copy.rows * x.copy.units (pairUnits s c x (copyW s c x))
def copyTotal (s : State) (c : Ctx) (x : Cmd) : Nat := copyElems s c x + (ringTail s c x + 63) / 64

/-- One micro-step: a unit, a masked row passed over whole, or zero bytes of the last slot. The answer is the next STEP. -/
def copyStep (s : State) (c : Ctx) (x : Cmd) (st : Nat) : ERead (State × Nat) :=
  let d := x.copy
  let w := copyW s c x
  let n := d.units (pairUnits s c x w)
  let r := st / n
  match (if st = 0 then ringGroups s c x (dstSide (s.bank c) x) w else .ok ()) with
  | .error e => .error e
  | .ok () =>
    if copyElems s c x ≤ st then
      let o := d.rows * d.pitch w + 64 * (st - copyElems s c x)
      .ok (ringZero s c x w 0 o (min (o + 64) (d.rows * d.pitch w + ringTail s c x)), st + 1)
    else if rowMasked (s.bank c) d.rm r then .ok (s, (r + 1) * n)
    else (copyUnit s c x r (st % n)).map fun s1 => (s1, st + 1)

/-- Bits that a micro-step writes. -/
def stepBits (s : State) (c : Ctx) (x : Cmd) (st : Nat) : Nat :=
  let d := x.copy
  let w := copyW s c x
  let pair := pairUnits s c x w
  let n := d.units pair
  if copyElems s c x ≤ st then 8 * min 64 (ringTail s c x - 64 * (st - copyElems s c x))
  else if rowMasked (s.bank c) d.rm (st / n) then 0
  else
    let own := w * (d.elems pair (st % n)).length
    if d.ring && st % n + 1 == n then own + (8 * d.pitch w - d.cols * w) else own

/-- A filled ring: the tags, then TAIL (R221). -/
def ringDone (s : State) (c : Ctx) (x : Cmd) : State :=
  let d := x.copy
  if d.ring then
    let g := (s.bank c).ring x.ra
    setRing s c x.ra (g.fill (d.slots (copyW s c x) g.ssz) d.span)
  else s

/-- The end of a copy: its ring is filled, then it completes when its tokens find room (R302). -/
def copyFinish (s : State) (c : Ctx) (f : FifoId) (x : Cmd) : State :=
  tryFinish (wrapUp s c f fun s => passAll (ringDone s c x) c x.id) c f x
    (compWord x.copy.kind (x.copy.liveRows (s.bank c) * x.copy.cols))

/-- Free slots for a ring copy. -/
def ringRoom (s : State) (c : Ctx) (x : Cmd) : Bool :=
  let g := (s.bank c).ring x.ra
  !x.copy.ring || decide (x.copy.slots (copyW s c x) g.ssz ≤ g.free)

/-- A copy head that may start. -/
def copyHead (s : State) (c : Ctx) (f : FifoId) : Option Cmd :=
  match headReady s c f with
  | none => none
  | some x => if ringRoom s c x then some x else none

/-- The head that the free copy engine takes: when both qualify, that of the FIFO not served last (R206), which the model holds for each
bank; copy-in where none has been served (DESIGN CHOICE, log 36). -/
def copyPick (s : State) (c : Ctx) : Option (FifoId × Cmd) :=
  let b := s.bank c
  let e := b.eng
  if e.ci.run || e.co.run || !pacedOut s c b.sys.paceCp (s.core c.core).outCp then none
  else match copyHead s c .ci, copyHead s c .co with
    | some x, some y => some (if e.lastCi then (.co, y) else (.ci, x))
    | some x, none => some (.ci, x)
    | none, some y => some (.co, y)
    | none, none => none

def copyStart (s : State) (c : Ctx) : State :=
  match copyPick s c with
  | none => s
  | some (f, x) =>
    let s1 := startHead s c f x
    let s2 := s1.setEng c { (s1.bank c).eng with lastCi := f == .ci }
    if copyTotal s2 c x = 0 then copyFinish s2 c f x else s2

/-- The FIFO whose head the copy engine runs. -/
def copyRunning (s : State) (c : Ctx) : Option (FifoId × Cmd) :=
  match runningHead s c .ci with
  | some x => some (.ci, x)
  | none => (runningHead s c .co).map fun x => (.co, x)

/-- The aligned 8-byte piece of the copy's memory side that element `st` lies in, by row (R145). -/
def memPiece (s : State) (c : Ctx) (x : Cmd) (st : Nat) : Option (Nat × Nat) :=
  let d := x.copy
  let fs := srcSide s (s.bank c) x
  let fd := dstSide (s.bank c) x
  let w := dstWidth fs.bf fd.bf
  let n := d.units (pairUnits s c x w)
  let at_ (a : Nat) (str : Int) (w : Nat) : Option (Nat × Nat) :=
    some (st / n, wrapInt 48 ((a : Int) + (st / n : Nat) * str + (unitByte w (pairUnits s c x w) (st % n) : Nat)) / 8)
  if copyElems s c x ≤ st then none
  else match fs.at_, fd.at_ with
    | .mem, _ => at_ d.src d.sstr (srcWidth fs.bf fd.bf)
    | _, .mem => at_ d.dst d.dstr w
    | _, _ => none

/-- How many elements from `st` on one micro-step moves, one after another: those of one aligned 8-byte piece of the memory side, so that no
other agent comes between the bytes of a piece (R145, R303); one where no side is memory. -/
def runLength (s : State) (c : Ctx) (x : Cmd) (st : Nat) : Nat :=
  1 + (((List.range 15).map fun k => st + k + 1).takeWhile fun t => (memPiece s c x st).isSome && memPiece s c x t == memPiece s c x st).length

/-- `k` elements are moved in their order; each counts as a STEP of its own. -/
def copyAdvance (s : State) (c : Ctx) (f : FifoId) (x : Cmd) (k : Nat) : State :=
  match k with
  | 0 => s
  | k + 1 =>
    let p := ((s.bank c).eng.fifo f).prog
    match copyStep s c x p.step with
    | .error e => engStop c f e
    | .ok (s1, n) =>
      let s2 := setProg s1 c f { p with step := n, count := p.count + stepBits s c x p.step }
      if copyTotal s2 c x ≤ n then copyFinish s2 c f x
      else if n = p.step + 1 then copyAdvance s2 c f x k
      else s2

/-- Blocks of 64 bytes that are begun in writing `k` bits after `n` (R242, class 11). -/
def blocksBegun (n k : Nat) : Nat := (n + k + 511) / 512 - (n + 511) / 512

/-- A step that begins 64 bytes of writing is charged for them. -/
def copyMicro (s : State) (c : Ctx) : State :=
  match copyRunning s c with
  | none => s
  | some (f, x) =>
    let p := ((s.bank c).eng.fifo f).prog
    if p.done then copyFinish s c f x
    else
      let k := clusterOf c.core
      let n := runLength s c x p.step
      match blocksBegun p.count ((List.range n).map fun i => stepBits s c x (p.step + i)).sum with
      | 0 => copyAdvance s c f x n
      | w => charged s k (chargeReq (whoCopy c.core) c (w * s.clsWeight k 11)) fun s => copyAdvance s c f x n

def execCopyCommandStart (c : Ctx) (s : State) : Host.Outcome State Fault Refusal := .next (copyStart s c)
def execCopyMicroStep (c : Ctx) (s : State) : Host.Outcome State Fault Refusal := .next (copyMicro s c)

end Sys2Proof.Machine
end

