-- ==== Sys2Proof/Machine/Vector.lean ====
section
/-! DEFINITION. The vector words that compute on registers (R357 to R373): element-wise arithmetic and logic, compares and
selects, conversions, widening products, special functions, reductions and scans, permutes, histograms, random values.
VCHAIN, which pushes a command, stands with the data engine. -/

namespace Sys2Proof.Machine

/-- Elements per register of width `w` (R71). -/
def elemCount (w : Nat) : Nat := 4096 / w

/-- Element i of a vector register (R71). -/
def vElem (x : VReg) (w i : Nat) : Nat := (x.extractLsb' (w * i) w).toNat

/-- All the elements, and back. -/
def vElems (x : VReg) (w : Nat) : List Nat := (List.range (elemCount w)).map (vElem x w)
def vPack (w : Nat) (l : List Nat) : VReg := BitVec.ofNat 4096 (packLanes w l)

/-- The bits of the elements that the guard lets a word write (R75): element i by guard bit `f i`. -/
def vMask (w : Nat) (g : PReg) (f : Nat → Nat) : VReg :=
  vPack w ((List.range (elemCount w)).map fun i => if g.getLsbD (f i) then 2 ^ w - 1 else 0)

/-- Flags of the enabled results. -/
def enabledFlags (g : PReg) (rs : List Flagged) : BitVec 6 :=
  ((List.range rs.length).zip rs).foldl (fun a x => if g.getLsbD x.1 then a ||| x.2.af else a) 0

/-- Element results of one register, before they are written. -/
def vMap1 (w : Nat) (a : VReg) (f : Nat → Flagged) : List Flagged := (vElems a w).map f
def vMap2 (w : Nat) (a b : VReg) (f : Nat → Nat → Flagged) : List Flagged := (List.range (elemCount w)).map fun i => f (vElem a w i) (vElem b w i)
def vMap3 (w : Nat) (a b c : VReg) (f : Nat → Nat → Nat → Flagged) : List Flagged :=
  (List.range (elemCount w)).map fun i => f (vElem a w i) (vElem b w i) (vElem c w i)

/-- A guarded element-wise write of latency `lat` to register name `vd`. -/
def vFixed (s : State) (h : Hdr) (lat vd w : Nat) (rs : List Flagged) : Res :=
  let b := s.cur
  let g := b.guard h
  .ok (s.setCur (b.later lat (.v (b.physV vd) (vPack w (rs.map Flagged.val)) (vMask w g id)) (enabledFlags g rs)))

/-- The broadcast operand of a VS form (R283): the low bits of the scalar, or the immediate as an element of the type. -/
def vsElem (o : VsOps) (b : Bank) : Nat :=
  let t := etyOf o.ty
  if o.ss ≠ 0 then (b.sreg o.ss.toNat).toNat % 2 ^ t.width
  else match t with
    | .int _ w => wrapInt w o.imm.toInt
    | t => (t.roundTo .rne (numOfInt o.imm.toInt)).val

def vsReg (o : VsOps) (b : Bank) : VReg :=
  let w := (etyOf o.ty).width
  vPack w (List.replicate (elemCount w) (vsElem o b))

/-! ### Element results of R360 -/

def elAdd (t : ETy) (rm : Rm) (sat : Bool) (a b : Nat) : Flagged :=
  match t with
  | .int sg w => intResult sg sat w (intOf sg w a + intOf sg w b)
  | t => fAdd t rm a b
def elSub (t : ETy) (rm : Rm) (sat : Bool) (a b : Nat) : Flagged :=
  match t with
  | .int sg w => intResult sg sat w (intOf sg w a - intOf sg w b)
  | t => fSub t rm a b
def elMul (t : ETy) (rm : Rm) (sat : Bool) (a b : Nat) : Flagged :=
  match t with
  | .int sg w => intResult sg sat w (intOf sg w a * intOf sg w b)
  | t => fMul t rm a b
def elFma (t : ETy) (rm : Rm) (sat : Bool) (a b c : Nat) : Flagged :=
  match t with
  | .int sg w => intResult sg sat w (intOf sg w a * intOf sg w b + intOf sg w c)
  | t => fFma t rm a b c
def elMin (t : ETy) (_rm : Rm) (_sat : Bool) (a b : Nat) : Flagged := { val := eMin t a b, af := 0 }
def elMax (t : ETy) (_rm : Rm) (_sat : Bool) (a b : Nat) : Flagged := { val := eMax t a b, af := 0 }
def elAnd (_t : ETy) (_rm : Rm) (_sat : Bool) (a b : Nat) : Flagged := { val := a &&& b, af := 0 }
def elOr (_t : ETy) (_rm : Rm) (_sat : Bool) (a b : Nat) : Flagged := { val := a ||| b, af := 0 }
def elXor (_t : ETy) (_rm : Rm) (_sat : Bool) (a b : Nat) : Flagged := { val := a ^^^ b, af := 0 }
def elShl (t : ETy) (_rm : Rm) (_sat : Bool) (a b : Nat) : Flagged :=
  { val := a * 2 ^ (b % t.width) % 2 ^ t.width, af := 0 }
def elShr (t : ETy) (_rm : Rm) (_sat : Bool) (a b : Nat) : Flagged :=
  match t with
  | .int true w => { val := wrapInt w (signed w a / (2 ^ (b % w) : Nat)), af := 0 }
  | t => { val := a / 2 ^ (b % t.width), af := 0 }

/-- VABS: the magnitude of a signed integer wraps, or clamps under SAT; a float loses its sign bit, a NaN is canonical. -/
def elAbs (t : ETy) (sat : Bool) (a : Nat) : Flagged :=
  match t with
  | .int true w => intResult true sat w (signed w a).natAbs
  | .int false _ => { val := a, af := 0 }
  | t => if (t.num a).isNan then { val := (t.roundTo .rne .nan).val, af := 0 } else { val := a % 2 ^ (t.width - 1), af := 0 }

/-- VR and VS forms of a two-operand word. -/
def vr2 (h : Hdr) (o : VrOps) (lat : Nat) (f : ETy → Rm → Bool → Nat → Nat → Flagged) (s : State) : Res :=
  let t := etyOf o.ty
  vFixed s h lat o.vd.toNat t.width
    (vMap2 t.width (s.cur.vreg o.va.toNat) (s.cur.vreg o.vb.toNat) (f t (rmOf o.rm) o.sat))
def vs2 (h : Hdr) (o : VsOps) (lat : Nat) (f : ETy → Rm → Bool → Nat → Nat → Flagged) (s : State) : Res :=
  let t := etyOf o.ty
  vFixed s h lat o.vd.toNat t.width
    (vMap2 t.width (s.cur.vreg o.va.toNat) (vsReg o s.cur) (f t (rmOf o.rm) o.sat))

/-- VADD, VR and VS form (R360, R283). -/
def execVadd (h : Hdr) (o : VrOps) (s : State) : Host.Outcome State Fault Refusal :=
  word (.vadd h o) s (vr2 h o 4 elAdd)
def execVaddVs (h : Hdr) (o : VsOps) (s : State) : Host.Outcome State Fault Refusal :=
  word (.vaddVs h o) s (vs2 h o 4 elAdd)

/-- VSUB, VR and VS form (R360, R283). -/
def execVsub (h : Hdr) (o : VrOps) (s : State) : Host.Outcome State Fault Refusal :=
  word (.vsub h o) s (vr2 h o 4 elSub)
def execVsubVs (h : Hdr) (o : VsOps) (s : State) : Host.Outcome State Fault Refusal :=
  word (.vsubVs h o) s (vs2 h o 4 elSub)

/-- VMUL, VR and VS form (R360, R283). -/
def execVmul (h : Hdr) (o : VrOps) (s : State) : Host.Outcome State Fault Refusal :=
  word (.vmul h o) s (vr2 h o 6 elMul)
def execVmulVs (h : Hdr) (o : VsOps) (s : State) : Host.Outcome State Fault Refusal :=
  word (.vmulVs h o) s (vs2 h o 6 elMul)

/-- VMIN, VR and VS form (R360, R283). -/
def execVmin (h : Hdr) (o : VrOps) (s : State) : Host.Outcome State Fault Refusal :=
  word (.vmin h o) s (vr2 h o 4 elMin)
def execVminVs (h : Hdr) (o : VsOps) (s : State) : Host.Outcome State Fault Refusal :=
  word (.vminVs h o) s (vs2 h o 4 elMin)

/-- VMAX, VR and VS form (R360, R283). -/
def execVmax (h : Hdr) (o : VrOps) (s : State) : Host.Outcome State Fault Refusal :=
  word (.vmax h o) s (vr2 h o 4 elMax)
def execVmaxVs (h : Hdr) (o : VsOps) (s : State) : Host.Outcome State Fault Refusal :=
  word (.vmaxVs h o) s (vs2 h o 4 elMax)

/-- VAND, VR and VS form (R360, R283). -/
def execVand (h : Hdr) (o : VrOps) (s : State) : Host.Outcome State Fault Refusal :=
  word (.vand h o) s (vr2 h o 4 elAnd)
def execVandVs (h : Hdr) (o : VsOps) (s : State) : Host.Outcome State Fault Refusal :=
  word (.vandVs h o) s (vs2 h o 4 elAnd)

/-- VOR, VR and VS form (R360, R283). -/
def execVor (h : Hdr) (o : VrOps) (s : State) : Host.Outcome State Fault Refusal :=
  word (.vor h o) s (vr2 h o 4 elOr)
def execVorVs (h : Hdr) (o : VsOps) (s : State) : Host.Outcome State Fault Refusal :=
  word (.vorVs h o) s (vs2 h o 4 elOr)

/-- VXOR, VR and VS form (R360, R283). -/
def execVxor (h : Hdr) (o : VrOps) (s : State) : Host.Outcome State Fault Refusal :=
  word (.vxor h o) s (vr2 h o 4 elXor)
def execVxorVs (h : Hdr) (o : VsOps) (s : State) : Host.Outcome State Fault Refusal :=
  word (.vxorVs h o) s (vs2 h o 4 elXor)

/-- VSHL, VR and VS form (R360, R283). -/
def execVshl (h : Hdr) (o : VrOps) (s : State) : Host.Outcome State Fault Refusal :=
  word (.vshl h o) s (vr2 h o 4 elShl)
def execVshlVs (h : Hdr) (o : VsOps) (s : State) : Host.Outcome State Fault Refusal :=
  word (.vshlVs h o) s (vs2 h o 4 elShl)

/-- VSHR, VR and VS form (R360, R283). -/
def execVshr (h : Hdr) (o : VrOps) (s : State) : Host.Outcome State Fault Refusal :=
  word (.vshr h o) s (vr2 h o 4 elShr)
def execVshrVs (h : Hdr) (o : VsOps) (s : State) : Host.Outcome State Fault Refusal :=
  word (.vshrVs h o) s (vs2 h o 4 elShr)

/-- VFMA (R360): c is vc in the VR form and vd in the VS form. -/
def execVfma (h : Hdr) (o : VrOps) (s : State) : Host.Outcome State Fault Refusal :=
  word (.vfma h o) s fun s =>
    let t := etyOf o.ty
    vFixed s h 6 o.vd.toNat t.width (vMap3 t.width (s.cur.vreg o.va.toNat) (s.cur.vreg o.vb.toNat) (s.cur.vreg o.vc.toNat)
      (elFma t (rmOf o.rm) o.sat))
def execVfmaVs (h : Hdr) (o : VsOps) (s : State) : Host.Outcome State Fault Refusal :=
  word (.vfmaVs h o) s fun s =>
    let t := etyOf o.ty
    vFixed s h 6 o.vd.toNat t.width (vMap3 t.width (s.cur.vreg o.va.toNat) (vsReg o s.cur) (s.cur.vreg o.vd.toNat)
      (elFma t (rmOf o.rm) o.sat))

/-- VABS (R360). -/
def execVabs (h : Hdr) (o : VrOps) (s : State) : Host.Outcome State Fault Refusal :=
  word (.vabs h o) s fun s =>
    let t := etyOf o.ty
    vFixed s h 4 o.vd.toNat t.width (vMap1 t.width (s.cur.vreg o.va.toNat) (elAbs t o.sat))

/-! ### VCMP, VSEL, VMOV (R361) -/

/-- a C b: a NaN operand makes un and ne true and every other condition false. -/
def vcmpHolds (t : ETy) (c : Nat) (a b : Nat) : Bool :=
  match t with
  | .int sg w =>
    let x := intOf sg w a
    let y := intOf sg w b
    match c with
    | 0 => decide (x = y)
    | 1 => decide (x ≠ y)
    | 2 => decide (x < y)
    | 3 => decide (x ≤ y)
    | 4 => decide (y < x)
    | 5 => decide (y ≤ x)
    | _ => false
  | t =>
    let x := t.num a
    let y := t.num b
    if x.isNan || y.isNan then c == 1 || c == 6
    else
      let lt := numLt x y
      let gt := numLt y x
      match c with
      | 0 => !lt && !gt
      | 1 => lt || gt
      | 2 => lt
      | 3 => !gt
      | 4 => gt
      | 5 => !lt
      | _ => false

/-- VCMP's predicate write: bits below n by the guard, bits n to 1023 cleared. -/
def vcmpWrite (b : Bank) (h : Hdr) (vd : BitVec 8) (w : Nat) (rs : List Bool) : RegWrite :=
  let n := elemCount w
  let g := b.guard h
  let val := BitVec.ofNat 1024 (packLanes 1 (rs.map b2n))
  let low := BitVec.ofNat 1024 (2 ^ n - 1)
  .p (b.physP (vd.extractLsb' 0 4).toNat) val ((g &&& low) ||| ~~~low)

def vcmpEffect (h : Hdr) (vd : BitVec 8) (t : ETy) (c : Nat) (x y : VReg) (s : State) : Res :=
  let rs := (vMap2 t.width x y fun a b => { val := b2n (vcmpHolds t c a b), af := 0 }).map fun r => r.val == 1
  .ok (s.setCur (s.cur.later 4 (vcmpWrite s.cur h vd t.width rs) 0))

/-- VCMP, VR and VS form: the condition is the code of RM and SAT. -/
def execVcmp (h : Hdr) (o : VrOps) (s : State) : Host.Outcome State Fault Refusal :=
  word (.vcmp h o) s fun s =>
    vcmpEffect h o.vd (etyOf o.ty) (2 * o.rm.toNat + b2n o.sat) (s.cur.vreg o.va.toNat) (s.cur.vreg o.vb.toNat) s
def execVcmpVs (h : Hdr) (o : VsOps) (s : State) : Host.Outcome State Fault Refusal :=
  word (.vcmpVs h o) s fun s =>
    vcmpEffect h o.vd (etyOf o.ty) (2 * o.rm.toNat + b2n o.sat) (s.cur.vreg o.va.toNat) (vsReg o s.cur) s

/-- Select by bits of a predicate. -/
def selElems (w : Nat) (p : PReg) (a b : VReg) : List Flagged :=
  (List.range (elemCount w)).map fun i => { val := if p.getLsbD i then vElem a w i else vElem b w i, af := 0 }

/-- VSEL: under pC and the guard in the VR form; every element by the guard in the VS form. -/
def execVsel (h : Hdr) (o : VrOps) (s : State) : Host.Outcome State Fault Refusal :=
  word (.vsel h o) s fun s =>
    let w := (etyOf o.ty).width
    vFixed s h 4 o.vd.toNat w
      (selElems w (s.cur.preg (o.vc.extractLsb' 0 4).toNat) (s.cur.vreg o.va.toNat) (s.cur.vreg o.vb.toNat))
def execVselVs (h : Hdr) (o : VsOps) (s : State) : Host.Outcome State Fault Refusal :=
  word (.vselVs h o) s fun s =>
    let w := (etyOf o.ty).width
    let rs := selElems w (s.cur.guard h) (s.cur.vreg o.va.toNat) (vsReg o s.cur)
    .ok (s.setCur (s.cur.later 4 (.v (s.cur.physV o.vd.toNat) (vPack w (rs.map Flagged.val)) allOnesV) 0))

/-- VMOV: a copy, or a broadcast. -/
def execVmov (h : Hdr) (o : VrOps) (s : State) : Host.Outcome State Fault Refusal :=
  word (.vmov h o) s fun s =>
    let w := (etyOf o.ty).width
    vFixed s h 4 o.vd.toNat w (vMap1 w (s.cur.vreg o.va.toNat) fun a => { val := a, af := 0 })
def execVmovVs (h : Hdr) (o : VsOps) (s : State) : Host.Outcome State Fault Refusal :=
  word (.vmovVs h o) s fun s =>
    let w := (etyOf o.ty).width
    vFixed s h 4 o.vd.toNat w (vMap1 w (vsReg o s.cur) fun a => { val := a, af := 0 })

/-! ### Conversions and widening words (R362 to R364, R74) -/

/-- One conversion (R104). -/
def cvtElem (td ts : ETy) (rm : Rm) (sat : Bool) (x : Nat) : Flagged :=
  match td, ts with
  | .int sd wd, .int ss ws => intResult sd sat wd (intOf ss ws x)
  | .int sd wd, ts => let r := numToInt rm sd wd (ts.num x); { val := wrapInt wd r.1, af := r.2 }
  | td, ts => td.roundTo rm (ts.num x)

/-- Result i of a group of `g` registers goes to element i / g of register i mod g (R74); the writes of the group share
one set of flags. -/
def groupWrites (b : Bank) (h : Hdr) (vd g w : Nat) (rs : List Flagged) : List RegWrite :=
  let gd := b.guard h
  (List.range g).map fun k =>
    let mine := (List.range (elemCount w)).map fun e => (rs.getD (e * g + k) { val := 0, af := 0 }).val
    .v (b.physV (vd + k)) (vPack w mine) (vMask w gd fun e => e * g + k)

/-- Start several writes of one latency; the flags come with the first. -/
def laterAll (b : Bank) (lat : Nat) (af : BitVec 6) : List RegWrite → Bank
  | [] => b
  | w :: r => laterAll (b.later lat w af) lat 0 r

/-- VCVT (R362): widening into a pair or quad, narrowing from one, or same width. -/
def vcvtResults (o : VrOps) (b : Bank) : List Flagged :=
  let td := etyOf o.ty
  let ts := etyOf (o.vc.extractLsb' 0 4)
  let f := cvtElem td ts (rmOf o.rm) o.sat
  if td.width < ts.width then
    let g := ts.width / td.width
    (List.range (elemCount td.width)).map fun i => f (vElem (b.vreg (o.va.toNat + i % g)) ts.width (i / g))
  else vMap1 ts.width (b.vreg o.va.toNat) f

def execVcvt (h : Hdr) (o : VrOps) (s : State) : Host.Outcome State Fault Refusal :=
  word (.vcvt h o) s fun s =>
    let td := etyOf o.ty
    let ts := etyOf (o.vc.extractLsb' 0 4)
    let rs := vcvtResults o s.cur
    let g := if ts.width < td.width then td.width / ts.width else 1
    .ok (s.setCur (laterAll s.cur 4 (enabledFlags (s.cur.guard h) rs) (groupWrites s.cur h o.vd.toNat g td.width rs)))

/-- Widened results of R363: exact at twice the width, or rounded to fp32. -/
def widenMul (t : ETy) (rm : Rm) (a b : Nat) : Flagged :=
  match t with
  | .int sg w => { val := wrapInt (2 * w) (intOf sg w a * intOf sg w b), af := 0 }
  | t => let p := numMul (t.num a) (t.num b); let r := ETy.f32.roundTo rm p.1; { r with af := r.af ||| p.2 }
def widenAdd (t : ETy) (rm : Rm) (a b : Nat) : Flagged :=
  match t with
  | .int sg w => { val := wrapInt (2 * w) (intOf sg w a + intOf sg w b), af := 0 }
  | t => let p := numAdd rm (t.num a) (t.num b); let r := ETy.f32.roundTo rm p.1; { r with af := r.af ||| p.2 }

def widenEffect (h : Hdr) (vd : BitVec 8) (lat : Nat) (t : ETy) (x y : VReg) (f : Nat → Nat → Flagged) (s : State) : Res :=
  let rs := vMap2 t.width x y f
  .ok (s.setCur (laterAll s.cur lat (enabledFlags (s.cur.guard h) rs) (groupWrites s.cur h vd.toNat 2 (2 * t.width) rs)))

def execVwmul (h : Hdr) (o : VrOps) (s : State) : Host.Outcome State Fault Refusal :=
  word (.vwmul h o) s fun s =>
    let t := etyOf o.ty
    widenEffect h o.vd 6 t (s.cur.vreg o.va.toNat) (s.cur.vreg o.vb.toNat) (widenMul t (rmOf o.rm)) s
def execVwmulVs (h : Hdr) (o : VsOps) (s : State) : Host.Outcome State Fault Refusal :=
  word (.vwmulVs h o) s fun s =>
    let t := etyOf o.ty
    widenEffect h o.vd 6 t (s.cur.vreg o.va.toNat) (vsReg o s.cur) (widenMul t (rmOf o.rm)) s
def execVwadd (h : Hdr) (o : VrOps) (s : State) : Host.Outcome State Fault Refusal :=
  word (.vwadd h o) s fun s =>
    let t := etyOf o.ty
    widenEffect h o.vd 4 t (s.cur.vreg o.va.toNat) (s.cur.vreg o.vb.toNat) (widenAdd t (rmOf o.rm)) s
def execVwaddVs (h : Hdr) (o : VsOps) (s : State) : Host.Outcome State Fault Refusal :=
  word (.vwaddVs h o) s fun s =>
    let t := etyOf o.ty
    widenEffect h o.vd 4 t (s.cur.vreg o.va.toNat) (vsReg o s.cur) (widenAdd t (rmOf o.rm)) s

/-- One 32-bit lane of VDOT4 (R364). -/
def dotLane (sg sat : Bool) (acc a b : Nat) : Flagged :=
  let p (k : Nat) : Int := intOf sg 8 (bits a (8 * k) 8) * intOf sg 8 (bits b (8 * k) 8)
  intResult sg sat 32 (intOf sg 32 acc + p 0 + p 1 + p 2 + p 3)

def execVdot4 (h : Hdr) (o : VrOps) (s : State) : Host.Outcome State Fault Refusal :=
  word (.vdot4 h o) s fun s =>
    vFixed s h 6 o.vd.toNat 32 (vMap3 32 (s.cur.vreg o.vc.toNat) (s.cur.vreg o.va.toNat) (s.cur.vreg o.vb.toNat)
      (dotLane (o.ty == 2) o.sat))
def execVdot4Vs (h : Hdr) (o : VsOps) (s : State) : Host.Outcome State Fault Refusal :=
  word (.vdot4Vs h o) s fun s =>
    vFixed s h 6 o.vd.toNat 32 (vMap3 32 (s.cur.vreg o.vd.toNat) (s.cur.vreg o.va.toNat) (vsReg o s.cur)
      (dotLane (o.ty == 2) o.sat))

/-! ### Special functions (R365) -/

def specialEffect (h : Hdr) (o : VrOps) (f : SpecFn) (s : State) : Res :=
  let t := etyOf o.ty
  vFixed s h 12 o.vd.toNat t.width (vMap1 t.width (s.cur.vreg o.va.toNat) (fSpecial t f))

def execVexp2 (h : Hdr) (o : VrOps) (s : State) : Host.Outcome State Fault Refusal :=
  word (.vexp2 h o) s (specialEffect h o .exp2)
def execVlog2 (h : Hdr) (o : VrOps) (s : State) : Host.Outcome State Fault Refusal :=
  word (.vlog2 h o) s (specialEffect h o .log2)
def execVrcp (h : Hdr) (o : VrOps) (s : State) : Host.Outcome State Fault Refusal :=
  word (.vrcp h o) s (specialEffect h o .rcp)
def execVrsq (h : Hdr) (o : VrOps) (s : State) : Host.Outcome State Fault Refusal :=
  word (.vrsq h o) s (specialEffect h o .rsq)
def execVtanh (h : Hdr) (o : VrOps) (s : State) : Host.Outcome State Fault Refusal :=
  word (.vtanh h o) s (specialEffect h o .tanh)

/-! ### Reductions, scans, indexed extremes (R112, R366 to R368) -/

/-- One level of the tree: node i combines nodes 2i and 2i + 1. -/
def treeLevel (f : Flagged → Flagged → Flagged) : List Flagged → List Flagged
  | a :: b :: r => f a b :: treeLevel f r
  | l => l

/-- `fuel` levels. -/
def treeReduce (f : Flagged → Flagged → Flagged) (fuel : Nat) (l : List Flagged) : Flagged :=
  match fuel with
  | 0 => l.headD { val := 0, af := 0 }
  | n + 1 => treeReduce f n (treeLevel f l)

/-- A node: the combination of two values, with every flag so far. -/
def node2 (f : Nat → Nat → Flagged) (a b : Flagged) : Flagged :=
  let r := f a.val b.val
  { r with af := r.af ||| a.af ||| b.af }

/-- The identity of a sum, a maximum and a minimum (R112). -/
def idSum (t : ETy) : Nat :=
  match t with
  | .int _ _ => 0
  | t => 2 ^ (t.width - 1)
def idMax (t : ETy) : Nat :=
  match t with
  | .int true w => 2 ^ (w - 1)
  | .int false _ => 0
  | t => t.nan
def idMin (t : ETy) : Nat :=
  match t with
  | .int true w => 2 ^ (w - 1) - 1
  | .int false w => 2 ^ w - 1
  | t => t.nan

/-- Level 0: the elements, with the identity where the guard bit is 0. -/
def guardedElems (t : ETy) (g : PReg) (x : VReg) (ident : Nat) : List Flagged :=
  (List.range (elemCount t.width)).map fun i => { val := if g.getLsbD i then vElem x t.width i else ident, af := 0 }

/-- A whole register with one value in element 0. -/
def firstElem (w v : Nat) : VReg := BitVec.ofNat 4096 (v % 2 ^ w)

def reduceEffect (h : Hdr) (o : VrOps) (ident : Nat) (f : Nat → Nat → Flagged) (s : State) : Res :=
  let t := etyOf o.ty
  let b := s.cur
  let r := treeReduce (node2 f) 10 (guardedElems t (b.guard h) (b.vreg o.va.toNat) ident)
  .ok (s.setCur (b.lockWrites [.v (b.physV o.vd.toNat) (firstElem t.width r.val) allOnesV] r.af true))

def execVrsum (h : Hdr) (o : VrOps) (s : State) : Host.Outcome State Fault Refusal :=
  word (.vrsum h o) s (reduceEffect h o (idSum (etyOf o.ty)) (elAdd (etyOf o.ty) (rmOf o.rm) o.sat))
def execVrmax (h : Hdr) (o : VrOps) (s : State) : Host.Outcome State Fault Refusal :=
  word (.vrmax h o) s (reduceEffect h o (idMax (etyOf o.ty)) (elMax (etyOf o.ty) .rne false))
def execVrmin (h : Hdr) (o : VrOps) (s : State) : Host.Outcome State Fault Refusal :=
  word (.vrmin h o) s (reduceEffect h o (idMin (etyOf o.ty)) (elMin (etyOf o.ty) .rne false))

/-- r[0] = x[0], r[i] = Op(r[i-1], x[i]) (R367). -/
def scanList (f : Nat → Nat → Flagged) (acc : Flagged) : List Flagged → List Flagged
  | [] => []
  | x :: r => let y := node2 f acc x; y :: scanList f y r

/-- The first element passes as it stands, a NaN's payload with it: R367 writes r[0] = x[0], R95 says that a NaN produced is canonical
(log 54). -/
def scanAll (f : Nat → Nat → Flagged) : List Flagged → List Flagged
  | [] => []
  | x :: r => x :: scanList f x r

def scanOp (o : VrOps) (t : ETy) : Nat → Nat → Flagged :=
  match o.vc.toNat with
  | 0 => elAdd t (rmOf o.rm) o.sat
  | 1 => elMax t .rne false
  | _ => elMin t .rne false

def scanIdent (o : VrOps) (t : ETy) : Nat :=
  match o.vc.toNat with
  | 0 => idSum t
  | 1 => idMax t
  | _ => idMin t

def execVscan (h : Hdr) (o : VrOps) (s : State) : Host.Outcome State Fault Refusal :=
  word (.vscan h o) s fun s =>
    let t := etyOf o.ty
    let b := s.cur
    let rs := scanAll (scanOp o t) (guardedElems t (b.guard h) (b.vreg o.va.toNat) (scanIdent o t))
    let af := rs.foldl (fun a r => a ||| r.af) 0
    .ok (s.setCur (b.lockWrites [.v (b.physV o.vd.toNat) (vPack t.width (rs.map Flagged.val)) allOnesV] af true))

/-- Is `x` strictly better than `y` in the order for maximum or minimum (R96, R368)? -/
def better (mx : Bool) (t : ETy) (x y : Nat) : Bool :=
  match t with
  | .int sg w => if mx then decide (intOf sg w y < intOf sg w x) else decide (intOf sg w x < intOf sg w y)
  | t => if mx then numBefore true (t.num y) (t.num x) else numBefore false (t.num x) (t.num y)

/-- The best enabled element and its lowest index. -/
def bestElem (mx : Bool) (t : ETy) : List (Nat × Nat) → Option (Nat × Nat)
  | [] => none
  | (i, x) :: r =>
    match bestElem mx t r with
    | none => some (i, x)
    | some (j, y) => if better mx t y x then some (j, y) else some (i, x)

def extremeEffect (h : Hdr) (o : VrOps) (mx : Bool) (s : State) : Res :=
  let t := etyOf o.ty
  let b := s.cur
  let g := b.guard h
  let x := b.vreg o.va.toNat
  let cands := ((List.range (elemCount t.width)).filter fun i => g.getLsbD i).map fun i => (i, vElem x t.width i)
  let (ix, v) := (bestElem mx t cands).getD (0xFFFFFFFF, if mx then idMax t else idMin t)
  let v' := if t.num v = .nan then t.nan else v
  .ok (s.setCur (b.lockWrites [.v (b.physV o.vd.toNat) (firstElem t.width v') allOnesV,
    .v (b.physV (o.vd.toNat + 1)) (firstElem 32 ix) allOnesV] 0 true))

def execVmaxi (h : Hdr) (o : VrOps) (s : State) : Host.Outcome State Fault Refusal :=
  word (.vmaxi h o) s (extremeEffect h o true)
def execVmini (h : Hdr) (o : VrOps) (s : State) : Host.Outcome State Fault Refusal :=
  word (.vmini h o) s (extremeEffect h o false)

/-! ### Permutes (R369, R370) -/

/-- The index of element i: from vb, or a 16-bit element of the pair at vb for 8-bit elements. -/
def permIndex (w : Nat) (b0 b1 : VReg) (i : Nat) : Nat :=
  if w = 8 then (if i < 256 then vElem b0 16 i else vElem b1 16 (i - 256)) else vElem b0 w i

def execVperm (h : Hdr) (o : VrOps) (s : State) : Host.Outcome State Fault Refusal :=
  word (.vperm h o) s fun s =>
    let b := s.cur
    let w := (etyOf o.ty).width
    let n := elemCount w
    let a := b.vreg o.va.toNat
    let c := b.vreg o.vc.toNat
    let b0 := b.vreg o.vb.toNat
    let b1 := b.vreg (o.vb.toNat + 1)
    let pick (k : Nat) : Nat := if k < n then vElem a w k else if k < 2 * n then vElem c w (k - n) else 0
    vFixed s h 3 o.vd.toNat w ((List.range n).map fun i => { val := pick (permIndex w b0 b1 i), af := 0 })

/-- VCOMP: the guarded elements packed, and their count in lane 0 of vd + 1. -/
def execVcomp (h : Hdr) (o : VrOps) (s : State) : Host.Outcome State Fault Refusal :=
  word (.vcomp h o) s fun s =>
    let b := s.cur
    let w := (etyOf o.ty).width
    let g := b.guard h
    let x := b.vreg o.va.toNat
    let kept := ((List.range (elemCount w)).filter fun i => g.getLsbD i).map fun i => vElem x w i
    .ok (s.setCur (laterAll b 3 0 [.v (b.physV o.vd.toNat) (vPack w kept) allOnesV,
      .v (b.physV (o.vd.toNat + 1)) (firstElem 32 kept.length) allOnesV]))

/-! ### Histograms and random values (R371 to R373) -/

/-- The write of bin k: the enabled lanes whose value is k gain 1. -/
def histBin (b : Bank) (h : Hdr) (o : VrOps) (k : Nat) : RegWrite × BitVec 6 :=
  let g := b.guard h
  let a := b.vreg o.va.toNat
  let old := b.vreg (o.vd.toNat + k)
  let hit (l : Nat) : Bool := g.getLsbD l && vElem a 32 l == k
  let rs := (List.range 128).map fun l => intResult false o.sat 32 ((vElem old 32 l : Nat) + 1 : Int)
  let af := ((List.range 128).zip rs).foldl (fun f x => if hit x.1 then f ||| x.2.af else f) 0
  (.v (b.physV (o.vd.toNat + k)) (vPack 32 (rs.map Flagged.val))
    (vPack 32 ((List.range 128).map fun l => if hit l then 2 ^ 32 - 1 else 0)), af)

def execVhist (h : Hdr) (o : VrOps) (s : State) : Host.Outcome State Fault Refusal :=
  word (.vhist h o) s fun s =>
    let b := s.cur
    let ws := (List.range (histBins o)).map (histBin b h o)
    .ok (s.setCur (b.lockWrites (ws.map Prod.fst) (ws.foldl (fun f x => f ||| x.2) 0) true))

/-- The tree sum of one bin over the enabled lanes (R372). -/
def binSum (b : Bank) (h : Hdr) (o : VrOps) (k : Nat) : Flagged :=
  treeReduce (node2 fun x y => intResult false o.sat 32 ((x : Int) + y)) 7
    (guardedElems (.int false 32) (b.guard h) (b.vreg (o.va.toNat + k)) 0)

def execVhmerge (h : Hdr) (o : VrOps) (s : State) : Host.Outcome State Fault Refusal :=
  word (.vhmerge h o) s fun s =>
    let b := s.cur
    let rs := (List.range (histBins o)).map (binSum b h o)
    .ok (s.setCur (b.lockWrites [.v (b.physV o.vd.toNat) (vPack 32 (rs.map Flagged.val)) allOnesV]
      (rs.foldl (fun f r => f ||| r.af) 0) true))

/-- Fin: the five mixing lines of R215. -/
def mix32 (x0 : Nat) : Nat :=
  let x1 := x0 ^^^ (x0 / 2 ^ 16)
  let x2 := x1 * 0x7FEB352D % 2 ^ 32
  let x3 := x2 ^^^ (x2 / 2 ^ 15)
  let x4 := x3 * 0x846CA68B % 2 ^ 32
  x4 ^^^ (x4 / 2 ^ 16)

/-- One lane of VRNG (R373). -/
def rngLane (a b l : Nat) : Nat :=
  let t := mix32 (a ^^^ 0x9E3779B9)
  mix32 (t ^^^ ((b + l) % 2 ^ 32))

def execVrng (h : Hdr) (o : VrOps) (s : State) : Host.Outcome State Fault Refusal :=
  word (.vrng h o) s fun s =>
    let a := s.cur.vreg o.va.toNat
    let b := s.cur.vreg o.vb.toNat
    vFixed s h 4 o.vd.toNat 32 ((List.range 128).map fun l => { val := rngLane (vElem a 32 l) (vElem b 32 l) l, af := 0 })

end Sys2Proof.Machine
end

