-- ==== Sys2Proof/Machine/DataEng.lean ====
section
/-! DEFINITION. The data engines: the merge tree (R222, R329), the hash accumulator (R223, R309), vector chains (R374 to R376),
their event rows, and EPOP (R305, R152). -/

namespace Sys2Proof.Machine

/-! ### MERGE -/

def execMerge (h : Hdr) (o : EOps) (s : State) : Host.Outcome State Fault Refusal :=
  word (.merge h o) s fun s =>
    let x := cmdOf .merge o s.cur
    if x.y = 0 ∨ 64 < x.y.toNat then .error (illegalStop (.merge h o), s) else pushOrStall s s s.iss.ctx .de x

/-- Add two values of a MERGE or HACC: int32 wrapping, or fp32 with one RNE rounding. -/
def addVal (i32 : Bool) (a b : Nat) : Nat := if i32 then (a + b) % 2 ^ 32 else (fAdd .f32 .rne a b).val

/-- An 8-byte aligned range of the scratchpad, or the engine fault. -/
def rangeCheck (s : State) (c : Ctx) (o n al : Nat) : ERead Unit :=
  if o % al ≠ 0 then .error (engAt 0x04 o, s)
  else if (s.bank c).spTotal < o + n then .error (engAt 0x08 o, s)
  else .ok ()

/-- The fibre table, read and checked: offset and pairs left of each fibre (R222, R329). -/
def mergeTable (s : State) (c : Ctx) (x : Cmd) : ERead (List (Nat × Nat)) :=
  let n := x.y.toNat
  let cap := x.z1.toNat % 2 ^ 16
  match rangeCheck s c x.x.toNat (8 * n) 8 with
  | .error e => .error e
  | .ok () =>
    match rangeCheck s c x.z.toNat (8 * cap) 8 with
    | .error e => .error e
    | .ok () =>
      allE (fun i =>
        match engSp s c (x.x.toNat + 8 * i) 8 with
        | .error e => .error e
        | .ok b =>
          let o := leNat (b.take 4)
          let l := leNat (b.drop 4)
          (rangeCheck s c o (8 * l) 8).map fun _ => (o, l)) (List.range n)

/-- The fibre whose head has the least coordinate, ties to the lowest index, with that coordinate. -/
def leastFibre (s : State) (c : Ctx) : List (Nat × Nat) → Nat → ERead (Option (Nat × Nat))
  | [], _ => .ok none
  | (o, l) :: r, i =>
    match leastFibre s c r (i + 1) with
    | .error e => .error e
    | .ok rest =>
      if l = 0 then .ok rest
      else (engSp s c o 4).map fun b =>
        let k := leNat b
        match rest with
        | some (j, m) => if m < k then some (j, m) else some (i, k)
        | none => some (i, k)

/-- The totals of ESTAT selector 4. -/
def mergeTotals (p : Prog) (cap : Nat) : Word := bit1 (decide (cap < p.count)) ++ BitVec.ofNat 31 p.taken

/-- MERGE after its table: `some p` with the state after one pair, or none when every fibre is empty. -/
def mergePair (s : State) (c : Ctx) (x : Cmd) (p : Prog) : ERead (Option (State × Prog)) :=
  match leastFibre s c p.fibres 0 with
  | .error e => .error e
  | .ok none => .ok none
  | .ok (some (i, k)) =>
    let f := p.fibres.getD i (0, 0)
    match engSp s c f.1 8 with
    | .error e => .error e
    | .ok b =>
      let v := leNat (b.drop 4)
      let cap := x.z1.toNat % 2 ^ 16
      let p1 := { p with step := p.step + 1, taken := p.taken + 1, fibres := p.fibres.set i (f.1 + 8, f.2 - 1) }
      let put (n k v : Nat) : State := if n < cap then engSpPut s c (x.z.toNat + 8 * n) (natLe 4 k ++ natLe 4 v) else s
      let fresh : State × Prog :=
        (put p.count k v, { p1 with count := p.count + 1, last := some (BitVec.ofNat 32 k, BitVec.ofNat 32 v) })
      match p.last with
      | some (lk, lv) =>
        if lk.toNat = k then
          let t := addVal (x.imm.getLsbD 0) lv.toNat v
          .ok (some (put (p.count - 1) k t, { p1 with last := some (lk, BitVec.ofNat 32 t) }))
        else .ok (some fresh)
      | none => .ok (some fresh)

/-- A bank whose MERGE is at the tree: it issues, and its command has started and is not stopped. -/
def atTree (s : State) (d : Ctx) : Bool :=
  let q := (s.bank d).eng.de
  (s.core d.core).issuing == some d.bank && q.run && !q.stopped && q.q.head?.any fun x => x.kind == .merge

def setTree (s : State) (c : Ctx) (t : List Ctx) : State :=
  let k := clusterOf c.core
  s.setCluster k { s.cluster k with tree := t }

/-- The tree's queue with `c` in it, in the order in which commands reached it. A bank that has switched out, or whose command is
stopped, has left it, and comes to its end again when it goes on (R222, log 22). -/
def treeQueue (s : State) (c : Ctx) : List Ctx :=
  let l := (s.cluster (clusterOf c.core)).tree.filter (atTree s)
  if l.contains c then l else l ++ [c]
def freeTree (s : State) (c : Ctx) : State := setTree s c ((s.cluster (clusterOf c.core)).tree.filter fun d => d != c)

/-! ### HACC -/

/-- Resume a HACC that a full hash has stopped (R223). -/
def haccStopped (e : Engines) : Bool :=
  e.de.stopped && (e.de.q.head?.map Cmd.kind) == some .hacc && e.de.prog.last == some (1, 0)
def haccResume (e : Engines) : Engines :=
  { e with de := { e.de with stopped := false, prog := { e.de.prog with last := none } }
           faults := e.faults.filter fun f => !(f.fifo == .de && f.code == 0x0A) }

def execHacc (h : Hdr) (o : EOps) (s : State) : Host.Outcome State Fault Refusal :=
  word (.hacc h o) s fun s =>
    let c := s.iss.ctx
    let x := cmdOf .hacc o s.cur
    if x.x.toNat % 32 ≠ 0 then .error (stopAddr 0x04 x.x.toNat, s)
    else if s.cur.spTotal < x.x.toNat + 32 then .error (stopAddr 0x08 x.x.toNat, s)
    else if s.cur.tr.mode && haccStopped s.cur.eng then .ok (s.setEng c (haccResume s.cur.eng))
    else pushOrStall s s c .de x

/-- The descriptor of R223. -/
structure HashD where
  done  : Nat
  count : Nat
  vals  : Nat
  keys  : Nat
  occ   : Nat
  limit : Nat
  l     : Nat
  table : Nat
  deriving DecidableEq, Repr

def hashD (d : Nat) : HashD :=
  { done := bits d 224 32, count := bits d 192 32, vals := bits d 160 32, keys := bits d 128 32, occ := bits d 96 32,
    limit := bits d 64 32, l := bits d 32 5, table := bits d 0 32 }

/-- Its checks (R309). -/
def HashD.ok (d : HashD) (sp : Nat) : Bool :=
  decide (4 ≤ d.l) && decide (d.l ≤ 18) && decide (d.limit ≤ 2 ^ d.l) && decide (d.occ ≤ d.limit) && decide (d.done ≤ d.count) &&
  d.table % 8 == 0 && d.keys % 4 == 0 && d.vals % 4 == 0 && decide (d.table + 8 * 2 ^ d.l ≤ sp) &&
  decide (d.keys + 4 * d.count ≤ sp) && decide (d.vals + 4 * d.count ≤ sp)

/-- Read the descriptor at a start or a resume: the FIFO's progress then holds the next key, OCC and the first key. After a fault other
than hash full the command goes on at its STEP, with the count and the OCC that it had there (R236). -/
def haccLoad (s : State) (c : Ctx) (x : Cmd) (p : Prog) : ERead State :=
  match engSp s c x.x.toNat 32 with
  | .error e => .error e
  | .ok b =>
    let d := hashD (leNat b)
    if !d.ok (s.bank c).spTotal then .error (engAt 0x08 x.x.toNat, s)
    else
      let e := (s.bank c).eng
      .ok (s.setEng c { e with de :=
        { e.de.setHead { x with desc := BitVec.ofNat 512 (leNat b) } with
          prog := if p.last = some (2, 0) then { p with last := some (0, 0) }
            else { p with step := d.done, count := d.done, taken := d.occ, fibres := [(d.done, 0)], last := some (0, 0) } } })

/-- The entry at which a key's probe ends, and the key that stands there (R309). -/
def probe (s : State) (c : Ctx) (d : HashD) (key fuel e : Nat) : ERead (Nat × Nat) :=
  match engSp s c (d.table + 8 * e) 4 with
  | .error x => .error x
  | .ok b =>
    let t := leNat b
    match fuel with
    | 0 => .ok (e, t)
    | k + 1 => if t = key ∨ t = 0xFFFFFFFF then .ok (e, t) else probe s c d key k ((e + 1) % 2 ^ d.l)

/-- Write DONE and OCC. -/
def haccStore (s : State) (c : Ctx) (x : Cmd) (done occ : Nat) : State :=
  engSpPut (engSpPut s c (x.x.toNat + 28) (natLe 4 done)) c (x.x.toNat + 12) (natLe 4 occ)

def setHaccE (s : State) (c : Ctx) (n : Nat) : State := s.setEng c { (s.bank c).eng with haccE := BitVec.ofNat 32 n }

/-- An engine fault stops the data head: ESTAT shows what a MERGE or a HACC had done (R306). -/
def deStop (c : Ctx) (x : Cmd) (p : Prog) (e : EngStop × State) : State :=
  match e.1, x.kind with
  | .wait, _ => e.2
  | _, .merge =>
    engStop c .de (e.1, e.2.setEng c { (e.2.bank c).eng with mergeE := mergeTotals p (x.z1.toNat % 2 ^ 16) })
  | _, .hacc => engStop c .de (e.1, setHaccE e.2 c p.count)
  | _, _ => engStop c .de e

/-- The hash is full before key `i`. -/
def haccFull (s : State) (c : Ctx) (x : Cmd) (p : Prog) : State :=
  deStop c x p (engAt 0x0A x.x.toNat, setProg (haccStore s c x p.count p.taken) c .de { p with last := some (1, 0) })

/-- One key. Its value is read only where it is used. -/
def haccKey (s : State) (c : Ctx) (x : Cmd) (p : Prog) : State :=
  let d := hashD x.desc.toNat
  let i := p.count
  let next : Prog := { p with step := i + 1, count := i + 1 }
  match engSp s c (d.keys + 4 * i) 4 with
  | .error e => deStop c x p e
  | .ok kb =>
    let key := leNat kb
    if key = 0xFFFFFFFF then setProg s c .de next
    else match probe s c d key (2 ^ d.l) (mixLines key / 2 ^ (32 - d.l)) with
    | .error e => deStop c x p e
    | .ok (e, t) =>
      let o := d.table + 8 * e
      if t ≠ key ∧ d.limit ≤ p.taken then haccFull s c x p
      else match engSp s c (d.vals + 4 * i) 4 with
      | .error e => deStop c x p e
      | .ok vb =>
      let v := leNat vb
      if t = key then
        match engSp s c (o + 4) 4 with
        | .error e => deStop c x p e
        | .ok old => setProg (engSpPut s c (o + 4) (natLe 4 (addVal (x.imm.getLsbD 0) (leNat old) v))) c .de next
      else setProg (engSpPut s c o (natLe 4 key ++ natLe 4 v)) c .de { next with taken := p.taken + 1 }

/-! ### VCHAIN (R374 to R376) -/

/-- A chain descriptor. -/
structure ChainD where
  ops  : List Nat
  c0   : Nat
  c1   : Nat
  fd   : Bf
  fb   : Bf
  fa   : Bf
  n    : Nat
  dst  : Nat
  srcb : Nat
  srca : Nat
  deriving DecidableEq, Repr

def chainD (d : Nat) : ChainD :=
  { ops := (List.range 8).map fun j => bits d (448 + 8 * j) 8, c0 := bits d 256 32, c1 := bits d 288 32,
    fd := memFmt (bits d 240 8), fb := memFmt (bits d 232 8), fa := memFmt (bits d 224 8), n := bits d 192 32,
    dst := bits d 128 48, srcb := bits d 64 48, srca := bits d 0 48 }

def opOpd (o : Nat) : Nat := o / 32
def opFunc (o : Nat) : Nat := o % 32

/-- The operations before the byte 0x00. -/
def ChainD.list (d : ChainD) : List Nat := d.ops.takeWhile fun o => o != 0
/-- Is source B read? -/
def ChainD.usesY (d : ChainD) : Bool := d.list.any fun o => opOpd o == 1

/-- An operation byte that is permitted for T (R375). -/
def chainOpOk (t : ETy) (o : Nat) : Bool :=
  let f := opFunc o
  let p := opOpd o
  let req := decide (1 ≤ p) && decide (p ≤ 3)
  if 1 ≤ f ∧ f ≤ 5 then req
  else if f = 6 then p == 0
  else if 7 ≤ f ∧ f ≤ 9 then req
  else if f = 10 ∨ f = 11 then req && !t.isFloat
  else if 12 ≤ f ∧ f ≤ 16 then p == 0 && t.isFloat
  else if f = 17 then p == 1 || p == 2
  else false

/-- Formats that a chain may name: not raw, 7 or 8; the layout holds no group. -/
def chainFmtOk (f : Bf) : Bool := f.fmt != 0 && f.fmt != 7 && f.fmt != 8

/-- Reserved bits of the descriptor, with bit 4 of each format (R105). -/
def chainReserved (d : Nat) : Bool :=
  bits d 320 128 != 0 || bits d 248 8 != 0 || [228, 236, 244].any (bitOf d) || bits d 176 16 != 0 || bits d 112 16 != 0 || bits d 48 16 != 0

/-- Special functions in a chain need RM 00 (R375). -/
def chainRmOk (d : ChainD) (rm : BitVec 2) : Bool := rm == 0 || !(d.list.any fun o => decide (12 ≤ opFunc o) && decide (opFunc o ≤ 16))

/-- Element bytes of a side, for alignment: 4-bit elements begin on a byte. -/
def elemBytes (f : Bf) : Nat := max 1 (f.width / 8)

/-- The checks of a VCHAIN push. -/
def chainCheck (d : Nat) (t : ETy) (rm : BitVec 2) (ill : Stop) : Option Stop :=
  let x := chainD d
  firstStop [
    stopIf (chainReserved d) ill,
    stopIf ((x.ops.drop x.list.length).any fun o => o != 0) ill,
    stopIf (!x.list.all (chainOpOk t) || !chainRmOk x rm) ill,
    stopIf (!chainFmtOk x.fa || !chainFmtOk x.fd || (x.usesY && !chainFmtOk x.fb)) ill,
    stopIf (x.srca % elemBytes x.fa != 0) (stopAddr 0x04 x.srca),
    stopIf (x.usesY && x.srcb % elemBytes x.fb != 0) (stopAddr 0x04 x.srcb),
    stopIf (x.dst % elemBytes x.fd != 0) (stopAddr 0x04 x.dst)]

def execVchain (h : Hdr) (o : VrOps) (s : State) : Host.Outcome State Fault Refusal :=
  word (.vchain h o) s fun s =>
    let c := s.iss.ctx
    match readDesc s (descVa s.cur (s.cur.sreg (o.va.extractLsb' 0 6).toNat)) 64 with
    | .error e => .error e
    | .ok (s1, d) =>
      match chainCheck d (etyOf o.ty) o.rm (illegalStop (.vchain h o)) with
      | some e => .error (e, s)
      | none =>
        pushOrStall s s1 c .de
          { id := s1.cur.eng.nextId, kind := .chain, tok := 0, ra := 0, rb := 0, x := 0, y := 0, z := 0, z1 := 0, imm := 0,
            ty := o.ty, rm := o.rm, sat := o.sat, fmts := s1.cur.sys.bfmt, desc := BitVec.ofNat 512 d, split := none,
            mon := s1.cur.tr.mode }

/-- A decoded element converted to T under R104 with RNE; an integer that does not fit saturates. -/
def toWorking (t : ETy) (v : Elem) : Nat :=
  match t, v with
  | .int sg w, .int x => (narrow sg true w x).1
  | t, v => (t.roundTo .rne v.num).val

/-- A working value encoded into the destination format. -/
def fromWorking (t : ETy) (f : Bf) (x : Nat) : Nat :=
  f.encode t.width (match t with
    | .int sg w => .int (intOf sg w x)
    | t => .flt (t.num x))

/-- One operation on the running value: bit for bit the named vector word. -/
def chainOp (t : ETy) (rm : Rm) (sat : Bool) (y c0 c1 x o : Nat) : Nat :=
  let z := (match opOpd o with
    | 1 => y
    | 2 => c0
    | _ => c1) % 2 ^ t.width
  match opFunc o with
  | 1 => (elAdd t rm sat x z).val
  | 2 => (elSub t rm sat x z).val
  | 3 => (elMul t rm sat x z).val
  | 4 => (elMin t rm sat x z).val
  | 5 => (elMax t rm sat x z).val
  | 6 => (elAbs t sat x).val
  | 7 => (elAnd t rm sat x z).val
  | 8 => (elOr t rm sat x z).val
  | 9 => (elXor t rm sat x z).val
  | 10 => (elShl t rm sat x z).val
  | 11 => (elShr t rm sat x z).val
  | 12 => (fSpecial t .exp2 x).val
  | 13 => (fSpecial t .log2 x).val
  | 14 => (fSpecial t .rcp x).val
  | 15 => (fSpecial t .rsq x).val
  | 16 => (fSpecial t .tanh x).val
  | _ => (elFma t rm sat x z (c1 % 2 ^ t.width)).val

/-- Element `i` of packed bytes. -/
def packedElem (w : Nat) (bs : List Byte) (i : Nat) : Nat :=
  if w = 4 then leNat ((bs.drop (i / 2)).take 1) / 16 ^ (i % 2) % 16 else leNat ((bs.drop (i * (w / 8))).take (w / 8))

/-- The pieces of one side for elements `i0` to `i0 + n - 1`. -/
def sidePieces (base w i0 n : Nat) : List (Nat × Nat) := pagePieces 3 ((base + i0 * w / 8) % 2 ^ 48) ((n * w + 7) / 8)

/-- One group of at most 128 elements (R376): all reads and checks, then the writes. -/
def chainGroup (s : State) (c : Ctx) (x : Cmd) (g : Nat) : ERead State :=
  let d := chainD x.desc.toNat
  let t := etyOf x.ty
  let n := min 128 (d.n - 128 * g)
  match engReach s c x.mon .rd (sidePieces d.srca d.fa.width (128 * g) n) with
  | .error e => .error e
  | .ok (s1, la) =>
    match (if d.usesY then engReach s1 c x.mon .rd (sidePieces d.srcb d.fb.width (128 * g) n) else .ok (s1, [])) with
    | .error e => .error e
    | .ok (s2, lb) =>
      match engReach s2 c x.mon (if n * d.fd.width % 8 = 0 then .wr else .am) (sidePieces d.dst d.fd.width (128 * g) n) with
      | .error e => .error e
      | .ok (s3, ld) =>
        let a := engBytes s3 c la
        let b := engBytes s3 c lb
        let old := engBytes s3 c ld
        let r := (List.range n).map fun i =>
          let x0 := toWorking t (d.fa.decode (packedElem d.fa.width a i))
          let y := if d.usesY then toWorking t (d.fb.decode (packedElem d.fb.width b i)) else 0
          fromWorking t d.fd (d.list.foldl (fun v o => chainOp t (rmOf x.rm) x.sat y d.c0 d.c1 v o) x0)
        .ok (engPut s3 c ld (packRow d.fd.width r (leNat (old.drop (old.length - 1)))))

/-! ### Running -/

/-- The data head may start. -/
def deReady (s : State) (c : Ctx) : Option Cmd :=
  match headReady s c .de with
  | none => none
  | some x => if pacedOut s c (s.bank c).sys.paceDe (lastOut s c .de x) then some x else none

/-- The end of a data command: what it does at its end, then its completion when its tokens find room. -/
def deFinish (s : State) (c : Ctx) (x : Cmd) (cnt : Nat) (last : State → State) : State :=
  tryFinish (wrapUp s c .de last) c .de x (compWord 0 cnt)

/-- A MERGE's end: ESTAT's totals; the tree is free. -/
def mergeDone (s : State) (c : Ctx) (x : Cmd) (p : Prog) : State :=
  let cap := x.z1.toNat % 2 ^ 16
  deFinish s c x (min p.count cap) fun s => freeTree (s.setEng c { (s.bank c).eng with mergeE := mergeTotals p cap }) c

/-- A HACC's end: DONE = 0 and OCC. -/
def haccDone (s : State) (c : Ctx) (x : Cmd) (p : Prog) : State :=
  deFinish s c x (p.count - (p.fibres.headD (0, 0)).1) fun s => setHaccE (haccStore s c x 0 p.taken) c p.count

def chainDone (s : State) (c : Ctx) (x : Cmd) : State := deFinish s c x (chainD x.desc.toNat).n id

def chainGroups (n : Nat) : Nat := (n + 127) / 128

def deStart (s : State) (c : Ctx) : State :=
  match deReady s c with
  | none => s
  | some x =>
    let s1 := startHead s c .de x
    if x.kind = .merge then setTree s1 c (treeQueue (freeTree s1 c) c)
    else if x.kind = .chain ∧ (chainD x.desc.toNat).n = 0 then chainDone s1 c x
    else s1

/-- A MERGE whose pairs are all taken is done. -/
def mergeSettle (s : State) (c : Ctx) (x : Cmd) : State :=
  let p := (s.bank c).eng.de.prog
  if p.fibres.all fun f => f.2 == 0 then mergeDone s c x p else s

/-- The first micro-step of a MERGE: its table. -/
def mergeLoad (s : State) (c : Ctx) (x : Cmd) : State :=
  let p := (s.bank c).eng.de.prog
  match mergeTable s c x with
  | .error e => deStop c x p e
  | .ok l => mergeSettle (setProg s c .de { p with fibres := l }) c x

/-- A micro-step of a MERGE: a pair. -/
def mergeStep (s : State) (c : Ctx) (x : Cmd) : State :=
  let p := (s.bank c).eng.de.prog
  match mergePair s c x p with
  | .error e => deStop c x p e
  | .ok none => mergeDone s c x p
  | .ok (some (s1, p1)) => mergeSettle (setProg s1 c .de p1) c x

/-- A HACC whose keys are all processed is done. -/
def haccSettle (s : State) (c : Ctx) (x : Cmd) : State :=
  let q := (s.bank c).eng.de
  let x1 := q.q.headD x
  if !q.stopped && decide ((hashD x1.desc.toNat).count ≤ q.prog.count) then haccDone s c x1 q.prog else s

/-- The micro-step of a HACC that reads its descriptor. -/
def haccBegin (s : State) (c : Ctx) (x : Cmd) : State :=
  let p := (s.bank c).eng.de.prog
  match haccLoad s c x p with
  | .error e => deStop c x p e
  | .ok s1 => haccSettle s1 c x

/-- A micro-step of a HACC: a key. -/
def haccStep (s : State) (c : Ctx) (x : Cmd) : State := haccSettle (haccKey s c x (s.bank c).eng.de.prog) c x

/-- A micro-step of a VCHAIN: a group. -/
def chainStep (s : State) (c : Ctx) (x : Cmd) : State :=
  let d := chainD x.desc.toNat
  let p := (s.bank c).eng.de.prog
  match chainGroup s c x p.step with
  | .error e => engStop c .de e
  | .ok s1 =>
    let s2 := setProg s1 c .de { p with step := p.step + 1 }
    if chainGroups d.n ≤ p.step + 1 then chainDone s2 c x else s2

/-- The end of the data head by its kind, once more: its tokens have waited for room. -/
def deEnd (s : State) (c : Ctx) (x : Cmd) : State :=
  let p := (s.bank c).eng.de.prog
  match x.kind with
  | .merge => mergeDone s c x p
  | .hacc => haccDone s c x p
  | _ => chainDone s c x

/-- One micro-step of the data head; a pair, a key and a group are charged (R242, classes 12 to 14). -/
def deMicro (s : State) (c : Ctx) : State :=
  let k := clusterOf c.core
  match runningHead s c .de with
  | none => s
  | some x =>
    let p := (s.bank c).eng.de.prog
    if p.done then deEnd s c x
    else match x.kind with
      | .merge =>
        let q := treeQueue s c
        let s1 := setTree s c q
        if q.head? ≠ some c then s1
        else if p.fibres.isEmpty then mergeLoad s1 c x
        else charged s1 k (chargeReq whoTree c (s.clsWeight k 12)) fun s => mergeStep s c x
      | .hacc =>
        if p.last ≠ some (0, 0) then haccBegin s c x
        else charged s k (chargeReq (whoData c.core) c (s.clsWeight k 13)) fun s => haccStep s c x
      | _ => charged s k (chargeReq (whoData c.core) c (s.clsWeight k 14)) fun s => chainStep s c x

def execDataCommandStart (c : Ctx) (s : State) : Host.Outcome State Fault Refusal := .next (deStart s c)
def execDataMicroStep (c : Ctx) (s : State) : Host.Outcome State Fault Refusal := .next (deMicro s c)

/-! ### EPOP (R305) -/

/-- The FIFO that EPOP names. -/
def epopFifo (k : Nat) : FifoId :=
  match k with
  | 0 => .mx
  | 1 => .de
  | 2 => .ci
  | _ => .co

/-- The memory ranges that a completed command wrote: a CPY's unmasked rows, a chain's elements. -/
def memDest (s : State) (b : Bank) (x : Cmd) : List (Nat × Nat) :=
  match x.kind with
  | .cpy =>
    let d := x.copy
    if d.kind = 1 then
      let w := dstWidth (srcSide s b x).bf (dstSide b x).bf
      ((List.range d.rows).filter fun r => !rowMasked b d.rm r).map fun (r : Nat) =>
        (wrapInt 48 ((d.dst : Int) + (r : Int) * d.dstr), (d.cols * w + 7) / 8)
    else []
  | .chain => let d := chainD x.desc.toNat; [(d.dst, (d.n * d.fd.width + 7) / 8)]
  | _ => []

/-- The command's memory destination. -/
def destRanges (s : State) (c : Ctx) (x : Cmd) : List (Nat × Nat) := (memDest s (s.bank c) x).filter fun r => r.2 != 0

/-- INV of the L1 lines that the command's memory destination covers (R152). -/
def invDest (s : State) (c : Ctx) (x : Cmd) : State :=
  invLines s c.core fun ln => (destRanges s c x).any fun r =>
    if x.mon then decide (128 * ln < r.1 + r.2) && decide (r.1 < 128 * ln + 128) else lineInRange s c r.1 r.2 ln

/-- EPOP: an acquire of what the command wrote; it waits for a destination whose tables migrate (R134). -/
def execEpop (h : Hdr) (o : EOps) (s : State) : Host.Outcome State Fault Refusal :=
  word (.epop h o) s fun s =>
    let c := s.iss.ctx
    let f := epopFifo (o.eimm.extractLsb' 0 2).toNat
    let e := s.cur.eng
    let q := e.fifo f
    if q.unpopped = 0 then .ok (s.setCur (s.cur.lockS o.sx.toNat 0x80000000#32))
    else match q.comp with
      | [] => .error (.stall, s)
      | (w, x) :: r =>
        let s1 := s.setEng c (e.setFifo f { q with comp := r, unpopped := q.unpopped - 1 })
        if !x.mon && (destRanges s c x).any fun r => rangeWaits s c r.1 r.2 then .error (.stall, s)
        else
          let s2 := (invDest s1 c x).noEarly c
          .ok (s2.setCur (s2.cur.lockS o.sx.toNat w))

end Sys2Proof.Machine
end

