-- ==== Sys2Proof/Machine/Rows.lean ====
section
/-! DEFINITION. Held rows (the Tongs): opening, sharing, taking and releasing holds, how holds break, and the words HOPEN, HREL,
HLD and HST (R159 to R165, R311, R312, R155). -/

namespace Sys2Proof.Machine

/-! ### Holds -/

def State.setHandle (s : State) (c : Ctx) (n : Nat) (h : Handle) : State :=
  let b := s.bank c
  s.setBank c { b with h := tabSet b.h n h }

/-- The row of an address in a row-linear or managed range. -/
def State.rowAt (s : State) (pa : Nat) : Option (RowBank × Nat) :=
  match s.region pa with
  | some r => if r.rowLinear then some (rowOf r pa) else none
  | none => none

/-- The hold on a bank, if any. -/
def holdOn (l : List Hold) (rb : RowBank) : Option Hold := l.find? fun x => x.rb == rb
def subHolds (l : List Hold) (rb : RowBank) : Nat := (l.filter fun x => x.rb.channel == rb.channel && x.rb.sub == rb.sub).length

/-- The share of handle `n` of `c` leaves every hold; a hold that nobody shares ends. -/
def dropShare (l : List Hold) (c : Ctx) (n : Nat) : List Hold :=
  (l.map fun x => if x.ctx = c then { x with hs := x.hs.filter fun k => k != n } else x).filter fun x => !x.hs.isEmpty

def State.setHolds (s : State) (l : List Hold) : State := { s with heap := { s.heap with holds := l } }

/-- Release a handle as HREL does (R165). -/
def releaseHandle (s : State) (c : Ctx) (n : Nat) : State :=
  if ((s.bank c).hreg n).rowv then (s.setHolds (dropShare s.heap.holds c n)).setHandle c n .reset else s

/-- Every hold of a thread ends and every handle is reset (discard, TEXIT). -/
def releaseAllHandles (s : State) (c : Ctx) : State :=
  let s1 := s.setHolds (s.heap.holds.filter fun x => x.ctx != c)
  s1.setBank c { s1.bank c with h := [] }

/-- A hold breaks (R164): its handles keep ROWV and lose HELD, and XL too when the cause says so: of every handle that shares the hold,
also where a shootdown matches one of them only (DESIGN CHOICE, log 50). -/
def breakHold (s : State) (x : Hold) (noXl : Bool) : State :=
  let b := s.bank x.ctx
  let f (k : Nat) (h : Handle) : Handle :=
    if x.hs.contains k then { h with held := false, xl := if noXl then none else h.xl } else h
  let s1 := s.setBank x.ctx { b with h := tabMap b.h f }
  s1.setHolds (s1.heap.holds.filter fun y => y != x)

/-- The status of HOPEN (R160): 0 HELD, 1 SHARED, 2 BUSY, 3 LIMIT. -/
def holdStatus (l : List Hold) (c : Ctx) (rb : RowBank) (row : Nat) : Nat :=
  match holdOn l rb with
  | some x => if x.ctx = c ∧ x.row = row then 1 else 2
  | none => if 8 ≤ subHolds l rb then 3 else 0

/-- Enter the holds under a status. -/
def joinHold (s : State) (c : Ctx) (n : Nat) (rb : RowBank) (row st : Nat) : State :=
  match st with
  | 0 => s.setHolds (s.heap.holds ++ [{ rb := rb, row := row, ctx := c, hs := [n], since := s.time, at_ := s.now c.core, closed := false }])
  | 1 => s.setHolds (s.heap.holds.map fun x => if x.rb = rb ∧ x.ctx = c then { x with hs := x.hs ++ [n] } else x)
  | _ => s

/-! ### Checks of HOPEN -/

/-- What HOPEN's checks find: the cached translation, the row and the object. -/
structure RowSite where
  xl  : Xlate
  rb  : RowBank
  row : Nat
  obj : Option Nat
  deriving DecidableEq, Repr

/-- The pinned object that holds a physical address. -/
def pinnedObj (s : State) (c : Ctx) (pa : Nat) : Option Nat :=
  ((s.member c).pins.find? fun p =>
    !p.releasing && (let h := (s.obj p.oti).addr
                     decide (s.heapPa h ≤ pa) && decide (pa < s.heapPa h + s.objSize h))).map fun p => p.oti

/-- Translation as a load, with the permissions that XL caches. -/
def rowXlate (s : State) (c : Ctx) (va : Nat) : Except (AccErr × State) (State × Nat × Bool × Bool) :=
  let b := s.bank c
  if b.tr.mode then .ok (s, va, true, true)
  else
    match translate s c.core b.th.satp va .rd true with
    | .error e => .error e
    | .ok (s1, pa) =>
      let w := match satpRoot b.th.satp with
        | some root => (s1.core c.core).tlb.any fun e => e.covers root va && e.w && e.phys va == pa
        | none => false
      .ok (s1, pa, true, w)

/-- Checks 1 to 4 of HOPEN (R160) for an address; `src` of a page fault is a load's. -/
def rowSite (s : State) (c : Ctx) (va : Nat) : Except (Stop × State) (State × RowSite) :=
  if !(s.bank c).tr.mode && inWindow va then .error (stopAddr 0x08 va, s)
  else
    match rowXlate s c va with
    | .error e => .error (wordStop e c va .rd)
    | .ok (s1, pa, r, w) =>
      match s1.region pa, s1.rowAt pa with
      | some g, some (rb, row) =>
        if s1.famHas (frameOf pa) famPSN then .error (stopAddr 0x11 va, s1)
        else
          let o := if g.cls = 2 then pinnedObj s1 c pa else none
          if g.cls = 2 ∧ o = none then .error (stopAddr 0x0B va, s1)
          else .ok (s1, { xl := { pa := pa / 2048 * 2048, r := r, w := w }, rb := rb, row := row, obj := o })
      | _, _ => .error (stopAddr 0x08 va, s1)

/-! ### The words -/

/-- HOPEN (R312): the status goes to s[D], interlocked. -/
def execHopen (h : Hdr) (o : KOps) (s : State) : Host.Outcome State Fault Refusal :=
  word (.hopen h o) s fun s =>
    let c := s.iss.ctx
    let b := s.cur
    let d := o.dr.toNat
    let n := o.kh.toNat
    let va := bits (b.sreg (d + 1)).toNat 0 16 * 2 ^ 32 + (b.sreg d).toNat
    match rowSite s c va with
    | .error e => .error e
    | .ok (s1, x) =>
      let s2 := releaseHandle s1 c n
      let st := holdStatus s2.heap.holds c x.rb x.row
      let s3 := (joinHold s2 c n x.rb x.row st).setHandle c n
        { rowv := true, held := decide (st ≤ 1), va := BitVec.ofNat 48 (va / 2048 * 2048), xl := some x.xl, obj := x.obj }
      let s4 := { s3 with heap := { s3.heap with
        hbBusy := if st = 2 then s3.heap.hbBusy + 1 else s3.heap.hbBusy
        hbLimit := if st = 3 then s3.heap.hbLimit + 1 else s3.heap.hbLimit } }
      .ok (s4.setBank c ((s4.bank c).lockS d (BitVec.ofNat 32 st)))

/-- HREL (R165). -/
def execHrel (h : Hdr) (o : KOps) (s : State) : Host.Outcome State Fault Refusal :=
  word (.hrel h o) s fun s => .ok (releaseHandle s s.iss.ctx o.kh.toNat)

/-- Write back and invalidate the L1 lines of a range before an access at the system cache (R155). -/
def clearLines (s : State) (c : Ctx) (pa va n : Nat) : Except (Stop × State) State :=
  (List.range ((pa % 128 + n + 127) / 128)).foldl (fun r i =>
    match r with
    | .error e => .error e
    | .ok s =>
      match l1Error s c (pa + 128 * i) va with
      | .error e => .error e
      | .ok s1 => .ok (evictLine s1 c.core (lineOf pa + i))) (.ok s)

/-- An access that finds its handle unheld tries to take the hold (R162). Whether a request of another agent for the bank is queued at
that moment is the DRAM controller's: a free value (log 50). -/
def tryHold (s : State) (c : Ctx) (n : Nat) (pa : Nat) : State :=
  let h := (s.bank c).hreg n
  match s.rowAt pa with
  | some (rb, row) =>
    if h.held then s
    else if (holdOn s.heap.holds rb).isNone && decide (subHolds s.heap.holds rb < 8) && !(Config.freeWord s.freeCtr).getLsbD 0 then
      (joinHold s.bump c n rb row 0).setHandle c n { h with held := true }
    else s.bump
  | none => s

/-- The checks of HLD and HST in their order (R161), and the physical address. A vector's offset is a multiple of its 512 bytes: R311 and
R161 name the access size, and govern over the 64 of R279's column (R10, log 40). -/
def rowAccess (s : State) (o : KOps) (wr : Bool) : Except (Stop × State) (State × Nat) :=
  let c := s.iss.ctx
  let n := o.kh.toNat
  let h := s.cur.hreg n
  let off := signed 22 o.off.toNat
  let va := ((h.va.toNat : Int) + off + 2 ^ 48).toNat % 2 ^ 48
  if !h.rowv then .error (stopAddr 0x08 va, s)
  else if off % (szBytes o.sz : Nat) ≠ 0 then .error (stopAddr 0x04 va, s)
  else if off < 0 ∨ 2048 < off + (szBytes o.sz : Nat) then .error (stopAddr 0x08 va, s)
  else
    let r : Except (Stop × State) (State × Xlate) :=
      match h.xl with
      | some x => .ok (s, x)
      | none =>
        match rowSite s c h.va.toNat with
        | .error e => .error e
        | .ok (s1, x) =>
          if s1.famHas (frameOf x.xl.pa) famMIG then .error (.stall, s)
          else .ok (s1.setHandle c n { h with xl := some x.xl, obj := x.obj }, x.xl)
    match r with
    | .error e => .error e
    | .ok (s1, x) =>
      let pa := x.pa + off.toNat
      let f := frameOf pa
      if wr && !x.w then .error (.page 0x06 (BitVec.ofNat 48 va) 1 false, s1)
      else if wr && s1.famHas f famNM then .error (stopAddr 0x08 va, s1)
      else if s1.famHas f famPSN then .error (stopAddr 0x11 va, s1)
      else if (s1.mainUe f).isSome then .error (stopAddr 0x11 va, foundUe s1 (some c) ((s1.mainUe f).getD 4) f)
      else if s1.famHas f famMIG || (s1.heap.holds.any fun y => y.closed && y.ctx == c && y.hs.contains n) then
        .error (.stall, s)
      else
        match clearLines s1 c pa va (szBytes o.sz) with
        | .error e => .error e
        | .ok s2 =>
          let s3 := tryHold s2 c n pa
          -- a write sets D in the leaf that still maps the line (R130, log 18)
          if wr && !s.cur.tr.mode then
            match translate s3 c.core s.cur.th.satp h.va.toNat .wr true with
            | .ok (s4, _) => .ok (s4, pa)
            | .error _ => .ok (s3, pa)
          else .ok (s3, pa)

/-- HLD (R311): performed at the system cache at device scope. -/
def execHld (h : Hdr) (o : KOps) (s : State) : Host.Outcome State Fault Refusal :=
  word (.hld h o) s fun s =>
    match rowAccess s o false with
    | .error e => .error e
    | .ok (s1, pa) =>
      let c := s.iss.ctx
      let (s0, x) := rowLoad s1 c pa (szBytes o.sz) o.ord
      let s2 := s0.setBank c ((s0.bank c).lockWrites (dataWrites s.cur o.sz o.dr.toNat x) 0 true)
      .ok (afterAcquire s2 c (o.ord == 2) 2)

/-- HST. -/
def execHst (h : Hdr) (o : KOps) (s : State) : Host.Outcome State Fault Refusal :=
  word (.hst h o) s fun s =>
    match rowAccess s o true with
    | .error e => .error e
    | .ok (s1, pa) => .ok (sysStore (beforeRelease s1 s.iss.ctx (o.ord == 2) 2) s.iss.ctx pa (dataBytes s.cur o.sz o.dr.toNat))

end Sys2Proof.Machine
end

