-- ==== Sys2Proof/Machine/Heap.lean ====
section
/-! DEFINITION. The managed heap: references, Resolve, allocation, pins and the K words (R167 to R178, R315 to R319). -/

namespace Sys2Proof.Machine

/-! ### References (R168) and headers (R169) -/

def refCol (r : DWord) : BitVec 2 := r.extractLsb' 62 2
def refNull (r : DWord) : Bool := r.getLsbD 60
def refGen (r : DWord) : BitVec 12 := r.extractLsb' 48 12
def refAddr (r : DWord) : Nat := (r.extractLsb' 0 48).toNat
/-- {colour, word[61:48], h}. -/
def refMake (col : BitVec 2) (w : DWord) (h : Nat) : DWord := col ++ w.extractLsb' 48 14 ++ BitVec.ofNat 48 h

def State.headerOti (s : State) (h : Nat) : Nat := bits (rawLe s (s.heapPa h + 16) 4) 0 18
def State.heapBytes (s : State) : Nat := s.heap.size.toNat * 2 ^ 21
def State.setObj (s : State) (i : Nat) (o : Obj) : State := { s with heap := { s.heap with ot := tabSet s.heap.ot i o } }

/-- The always-on time in milliseconds, modulo 2^16 (LAST of R170). -/
def nowMs (s : State) : BitVec 16 := BitVec.ofNat 16 (s.aon / 1000000)

/-- A write by the device's own units to heap space. -/
def heapPut (s : State) (h : Nat) (b : List Byte) : State := sysPut s (s.heapPa h) b
/-- Zero a range of main memory in one action. -/
def zeroRange (m : Mem) (a n : Nat) : Mem := m.filter fun x => decide (x.1 < a) || decide (a + n ≤ x.1)

/-! ### Resolve (R172) -/

/-- A valid forwarding entry by its old address. -/
def fwdLookup (s : State) (h : Nat) : Option Nat := (s.heap.fwd.find? fun e => e.old == h).map fun e => e.new

/-- The forwarding loop: at most `n` entries while the colour is old or the granule is being emptied. -/
def fwdLoop (s : State) (n : Nat) (goodCol : Bool) (h : Nat) : Nat :=
  match n with
  | 0 => h
  | k + 1 =>
    if !goodCol || s.heap.from_.contains (h / 2 ^ 21) then
      match fwdLookup s h with
      | none => h
      | some h' => fwdLoop s k false h'
    else h

/-- What Resolve finds. -/
structure Found where
  h     : Nat
  oti   : Nat
  valid : Bool
  null  : Bool
  deriving DecidableEq, Repr

/-- Resolve meets an object in EVICT: the eviction is abandoned (R171). -/
def unEvict (s : State) (oti : Nat) : State :=
  { s with
    heap := { s.heap with evict := if s.heap.evict = some oti then none else s.heap.evict }
    res := { s.res with reqs := s.res.reqs.filter fun q => q.what != .evict oti } }

/-- Resolve a reference (R172). A reference fault names the heap address. The bundle whose recall failed faults, even with full = 0 (R180,
log 51). In monitor mode, where the cold-object fault is a double fault (R234), a COLD object stays COLD and no recall begins (DESIGN
CHOICE, log 51). -/
def resolve (s : State) (r : DWord) (full : Bool) : Except (Stop × State) (State × Found) :=
  let h0 := refAddr r
  if refNull r then
    if full then .error (stopAddr 0x0B h0, s) else .ok (s, { h := 0, oti := 0, valid := false, null := true })
  else if !s.heap.en || refCol r == 0 || h0 % 32 != 0 || decide (s.heapBytes ≤ h0) then .error (stopAddr 0x0B h0, s)
  else
    let h := fwdLoop s 3 (refCol r == s.heap.goodc) h0
    if s.famHas (frameOf (s.heapPa h)) famPSN then .error (stopAddr 0x11 h, s)
    else if (s.mainUe (frameOf (s.heapPa h))).isSome then
      .error (stopAddr 0x11 h, foundUe s (some s.iss.ctx) ((s.mainUe (frameOf (s.heapPa h))).getD 4) (frameOf (s.heapPa h)))
    else
      let i := s.headerOti h
      let o := s.obj i
      let valid := o.st != .free && o.gen == refGen r && o.addr == h
      if valid && (o.st == .cold || o.st == .recall) then
        .error (.cold i, if (s.cur).tr.mode then s else s.setObj i { o with st := .recall })
      else if (full && (!valid || o.st == .dead || o.st == .poison)) || (valid && o.st == .poison && s.cur.pipe.lost == some i) then
        .error (stopAddr 0x0B h, s)
      else
        let live := valid && o.st == .evict
        let s1 := s.setObj i { o with last := nowMs s, st := if live then .live else o.st }
        .ok (if live then unEvict s1 i else s1, { h := h, oti := i, valid := valid, null := false })

/-- HEAPCTL.EN = 0: every reference instruction but KEQ faults (R167). -/
def heapOn (s : State) (a : Nat) : Except (Stop × State) Unit :=
  if s.heap.en then .ok () else .error (stopAddr 0x0B a, s)

/-! ### KGET and KPUT (R316) -/

/-- A data access to an object at `h`: the frames' poison and uncorrectable errors, then the L1 lines (R155). -/
def objReach (s : State) (c : Ctx) (h : Nat) (o : Int) (n : Nat) : Except (Stop × State) (State × Nat) :=
  let a := h + o.toNat
  let pa := s.heapPa a
  let fs := [frameOf pa, frameOf (pa + n - 1)]
  match fs.find? fun f => s.famHas f famPSN with
  | some _ => .error (stopAddr 0x11 a, s)
  | none =>
    match fs.find? fun f => (s.mainUe f).isSome with
    | some f => .error (stopAddr 0x11 a, foundUe s (some c) ((s.mainUe f).getD 4) f)
    | none =>
      match clearLines s c pa a n with
      | .error e => .error e
      | .ok s1 => .ok (s1, pa)

/-- Offset checks of an object access: alignment, then range (R231, R169). -/
def objRange (s : State) (h : Nat) (o : Int) (align n : Nat) : Except (Stop × State) Unit :=
  let a := ((h : Int) + o + 2 ^ 48).toNat % 2 ^ 48
  if o % (align : Int) ≠ 0 then .error (stopAddr 0x04 a, s)
  else if o < 0 ∨ (s.objSize h : Int) < o + n then .error (stopAddr 0x08 a, s)
  else .ok ()

def kOff (o : KOps) : Int := signed 22 o.off.toNat

def execKget (h : Hdr) (o : KOps) (s : State) : Host.Outcome State Fault Refusal :=
  word (.kget h o) s fun s =>
    let c := s.iss.ctx
    let n := szBytes o.sz
    match resolve s (s.cur.kreg o.kb.toNat) true with
    | .error e => .error e
    | .ok (s1, f) =>
      match objRange s1 f.h (kOff o) (szAlign o.sz) n with
      | .error e => .error (e.1, s)
      | .ok () =>
        match objReach s1 c f.h (kOff o) n with
        | .error e => .error e
        | .ok (s2, pa) =>
          let (s3, x) := rowLoad s2 c pa n o.ord
          let s3 := s3.setBank c ((s3.bank c).lockWrites (dataWrites s.cur o.sz o.dr.toNat x) 0 true)
          .ok (afterAcquire s3 c (o.ord == 2) 2)

/-- A KPUT whose byte at offset 8 has bit 0 set marks the object DEAD; any other value there changes nothing (R169). -/
def putData (s : State) (c : Ctx) (f : Found) (o : Int) (pa : Nat) (x : List Byte) : State :=
  if o = 8 ∧ x.length = 1 then
    if (x.headD 0).getLsbD 0 then (sysStore s c pa [1]).setObj f.oti { s.obj f.oti with st := .dead } else s
  else sysStore s c pa x

def execKput (h : Hdr) (o : KOps) (s : State) : Host.Outcome State Fault Refusal :=
  word (.kput h o) s fun s =>
    let c := s.iss.ctx
    let n := szBytes o.sz
    let off := kOff o
    match resolve s (s.cur.kreg o.kb.toNat) true with
    | .error e => .error e
    | .ok (s1, f) =>
      match objRange s1 f.h off (szAlign o.sz) n with
      | .error e => .error (e.1, s)
      | .ok () =>
        if off < 0x18 ∧ ¬(off = 8 ∧ o.sz = 0) then .error (stopAddr 0x0B (f.h + off.toNat), s)
        else if (s1.obj f.oti).st = .reloc then .error (.stall, s)
        else
          match objReach s1 c f.h off n with
          | .error e => .error e
          | .ok (s2, pa) => .ok (putData (beforeRelease s2 c (o.ord == 2) 2) c f off pa (dataBytes s.cur o.sz o.dr.toNat))

/-! ### KLD and KST (R315, R173) -/

/-- Where a reference word lies. -/
inductive RefPlace where
  | loc (l : Loc) (va : Nat)
  | obj (pa : Nat) (heal : Bool)
  deriving DecidableEq, Repr

/-- The scalar-base word address (R293). -/
def kVa (b : Bank) (o : KOps) : Nat := mAddr b (b.sreg o.dr.toNat) (o.off.signExtend 32)

/-- Reach a word at a virtual address for KLD or KST: its checks, and the L1 line written back and invalidated (R155). -/
def refReach (s : State) (c : Ctx) (va : Nat) (acc : Acc) : Except (Stop × State) (State × Loc) :=
  match aligned s va 8 with
  | .error e => .error e
  | .ok () =>
    match reachWord s c va 8 acc with
    | .error e => .error e
    | .ok (s1, .sp o) => .ok (s1, .sp o)
    | .ok (s1, .pa a) =>
      match clearLines s1 c a va 8 with
      | .error e => .error e
      | .ok s2 => .ok (s2, .pa a)

/-- The word that stands at a place. -/
def readRef (s : State) (c : Ctx) (p : RefPlace) : DWord :=
  match p with
  | .loc (.sp o) _ => BitVec.ofNat 64 (leNat ((s.bank c).scrBytes o 8))
  | .loc (.pa a) _ => BitVec.ofNat 64 (leNat (sysBytes s a 8))
  | .obj pa _ => BitVec.ofNat 64 (leNat (sysBytes s pa 8))

/-- KLD's load of the word. A strong one of the window is performed at core scope, in the order of the strong loads (R144). -/
def loadRef (s : State) (c : Ctx) (p : RefPlace) (ord : BitVec 2) : State × DWord :=
  match p with
  | .loc (.sp _) _ => ((if ord = 0 then s else s.noStrong c), readRef s c p)
  | .loc (.pa a) _ => ((rowLoad s c a 8 ord).1, BitVec.ofNat 64 (leNat (rowLoad s c a 8 ord).2))
  | .obj pa _ => ((rowLoad s c pa 8 ord).1, BitVec.ofNat 64 (leNat (rowLoad s c pa 8 ord).2))

def writeRef (s : State) (c : Ctx) (p : RefPlace) (w : DWord) : State :=
  match p with
  | .loc (.sp o) _ => writeLoc s c (.sp o) (natLe 8 w.toNat) true 0
  | .loc (.pa a) _ => sysStore s c a (natLe 8 w.toNat)
  | .obj pa _ => sysStore s c pa (natLe 8 w.toNat)

/-- The frame takes no store: it is of an installed copy, or compressed (R125, R127). -/
def noStores (s : State) (pa : Nat) : Bool := s.famHas (frameOf pa) famNM || s.famHas (frameOf pa) famCMP

/-- The healing CAS of R156 puts `w` where `old` still stands. KLD is a load, so that no page's permission keeps it from healing; a frame
that takes no store stays as it is (log 19), and a word in a copy that is being relocated is not healed (R315). -/
def healRef (s : State) (c : Ctx) (p : RefPlace) (old w : DWord) : State :=
  if readRef s c p ≠ old then s
  else match p with
  | .loc l va =>
    match reach s c (s.bank c).tr.mode va 8 .wr true, l with
    | .ok (s1, _), _ => writeRef s1 c p w
    | .error _, .pa a => if noStores s a then s else writeRef s c p w
    | .error _, .sp _ => s
  | .obj _ heal => if heal then writeRef s c p w else s

/-- The scope of a place's ordering: device, and core in the window (R143, R144). -/
def RefPlace.scope (p : RefPlace) : BitVec 2 :=
  match p with
  | .loc (.sp _) _ => 0
  | _ => 2

/-- KLD from a place: resolve with full = 0, heal, write k[KH]. -/
def kldFrom (o : KOps) (s0 : State) (p : RefPlace) : Res :=
  let c := s0.iss.ctx
  let (s, w) := loadRef s0 c p o.ord
  match resolve s w false with
  | .error e => .error e
  | .ok (s1, f) =>
    let v := if f.null then nullRef else refMake s1.heap.goodc w f.h
    let s2 := if !f.null && w != v then healRef s1 c p w v else s1
    let s3 := s2.setBank c ((s2.bank c).lockWrites [.k o.kh.toNat v] 0 true)
    .ok (afterAcquire s3 c (o.ord == 2) p.scope)

def execKld (h : Hdr) (o : KOps) (s : State) : Host.Outcome State Fault Refusal :=
  word (.kld h o) s fun s =>
    let va := kVa s.cur o
    match heapOn s va with
    | .error e => .error e
    | .ok () =>
      match refReach s s.iss.ctx va .rd with
      | .error e => .error e
      | .ok (s1, l) => kldFrom o s1 (.loc l va)

/-- The place of a word in an object: the base resolves, then alignment, then range. -/
def objPlace (o : KOps) (s : State) : Except (Stop × State) (State × Found × Nat) :=
  match resolve s (s.cur.kreg o.kb.toNat) true with
  | .error e => .error e
  | .ok (s1, f) =>
    match objRange s1 f.h (kOff o) 8 8 with
    | .error e => .error (e.1, s)
    | .ok () =>
      match objReach s1 s.iss.ctx f.h (kOff o) 8 with
      | .error e => .error e
      | .ok (s2, pa) => .ok (s2, f, pa)

def execKldObject (h : Hdr) (o : KOps) (s : State) : Host.Outcome State Fault Refusal :=
  word (.kldObject h o) s fun s =>
    match objPlace o s with
    | .error e => .error e
    | .ok (s1, f, pa) => kldFrom o s1 (.obj pa ((s1.obj f.oti).st != .reloc))

/-- Does a place lie within the heap? -/
def inHeap (s : State) (p : RefPlace) : Bool :=
  match p with
  | .loc (.sp _) _ => false
  | .loc (.pa a) _ => decide (s.heap.base.toNat ≤ a) && decide (a < s.heap.base.toNat + s.heapBytes)
  | .obj _ _ => true

/-- KST into a place: an interior reference stays within the heap (R168). -/
def kstInto (o : KOps) (s0 s : State) (p : RefPlace) (a : Nat) : Res :=
  let c := s.iss.ctx
  let v := s.cur.kreg o.kh.toNat
  if v.getLsbD 61 && !inHeap s p then .error (stopAddr 0x0B a, s0)
  else .ok (writeRef (beforeRelease s c (o.ord == 2) p.scope) c p v)

def execKst (h : Hdr) (o : KOps) (s : State) : Host.Outcome State Fault Refusal :=
  word (.kst h o) s fun s =>
    let va := kVa s.cur o
    match heapOn s va with
    | .error e => .error e
    | .ok () =>
      match refReach s s.iss.ctx va .wr with
      | .error e => .error e
      | .ok (s1, l) => kstInto o s s1 (.loc l va) va

def execKstObject (h : Hdr) (o : KOps) (s : State) : Host.Outcome State Fault Refusal :=
  word (.kstObject h o) s fun s =>
    match objPlace o s with
    | .error e => .error e
    | .ok (s1, f, pa) =>
      if (s1.obj f.oti).st = .reloc then .error (.stall, s) else kstInto o s s1 (.obj pa false) f.h

/-! ### KNEW (R174, R317) -/

/-- The granules of the heap are its first HEAPSIZE. -/
def State.granFree (s : State) (g : Nat) : Bool :=
  decide (g < s.heap.size.toNat) && (match tabGet s.heap.gran g .free with
    | .free => true
    | _ => false)
def State.setGran (s : State) (g : Nat) (x : Gran) : State := { s with heap := { s.heap with gran := tabSet s.heap.gran g x } }
def State.freeGrans (s : State) : Nat := ((List.range s.heap.size.toNat).filter s.granFree).length

/-- The first run of `n` free granules at or after `i`. -/
def granFrom (s : State) (n fuel i : Nat) : Option Nat :=
  match fuel with
  | 0 => none
  | k + 1 =>
    if (List.range n).all fun j => s.granFree (i + j) then some i
    else granFrom s n k (if s.heap.size.toNat ≤ i + 1 then 0 else i + 1)
/-- Free granules for KNEW and for a recall: no rule says which, a free value does (DESIGN CHOICE, log 17). -/
def pickGran (s : State) (n : Nat) : Option Nat :=
  let z := s.heap.size.toNat
  if z = 0 then none else granFrom s n z ((Config.freeWord s.freeCtr).toNat % z)

/-- Space for `n` bytes (a multiple of 64) from a core's allocation region, or from granules of its own. -/
def heapSpace (s : State) (core : Fin 32) (n : Nat) : Option (State × Nat) :=
  if 2 ^ 20 < n then
    let k := (n + 2 ^ 21 - 1) / 2 ^ 21
    (pickGran s k).map fun g =>
      ((List.range k).foldl (fun s j => s.setGran (g + j) .used) s.bump, g * 2 ^ 21)
  else
    let c := s.core core
    match c.alloc with
    | some (g, p) =>
      if p + n ≤ 2 ^ 21 then some (s.setCore core { c with alloc := some (g, p + n) }, g * 2 ^ 21 + p)
      else fresh s core (some g) n
    | none => fresh s core none n
where
  fresh (s : State) (core : Fin 32) (old : Option Nat) (n : Nat) : Option (State × Nat) :=
    (pickGran s 1).map fun g =>
      let s1 := match old with
        | some o => s.bump.setGran o .used
        | none => s.bump
      ((s1.setGran g (.region core.val)).setCore core { s1.core core with alloc := some (g, n) }, g * 2 ^ 21)

/-- The lowest-numbered FREE object-table entry. -/
def freeObj (s : State) (fuel i : Nat) : Option Nat :=
  match fuel with
  | 0 => none
  | k + 1 => if (s.obj i).st = .free then some i else freeObj s k (i + 1)

/-- Write an object's header and zero its body (R169). -/
def writeHeader (s : State) (h size : Nat) (ty : Word) (oti : Nat) : State :=
  let s1 := { s with mem := { s.mem with main := zeroRange s.mem.main (s.heapPa h) size } }
  heapPut (heapPut (heapPut s1 h (natLe 4 size)) (h + 16) (natLe 4 oti)) (h + 20) (natLe 4 ty.toNat)

/-- The heap-low exit of KNEW. -/
def knewFail (s : State) : State := raiseEvent 4 { s with heap := { s.heap with knewfail := s.heap.knewfail + 1 } }

def execKnew (h : Hdr) (o : KOps) (s : State) : Host.Outcome State Fault Refusal :=
  word (.knew h o) s fun s =>
    let c := s.iss.ctx
    let req := (s.cur.sreg o.dr.toNat).toNat
    let size := (req + 63) / 64 * 64
    let give (s : State) (v : DWord) : Res := .ok (s.setBank c ((s.bank c).lockWrites [.k o.kh.toNat v] 0 true))
    if !s.heap.en || decide (req < 256) || decide (16777216 < req) then
      -- the manual names no address for this reference fault: EVAL and VAH are free (log 7)
      .error (.trap 0x0B (Config.freeWord s.freeCtr) ((Config.freeWord (s.freeCtr + 1)).extractLsb' 0 16) false false,
        s.bump.bump)
    else
      match freeObj s 262144 0 with
      | none => give (knewFail s) nullRef
      | some i =>
        match heapSpace s c.core size with
        | none => give (knewFail s) nullRef
        | some (s1, a) =>
          let x := s1.obj i
          let s2 := (writeHeader s1 a size (s.cur.sreg (o.dr.toNat + 1)) i).setObj i
            { x with pins := 0, last := nowMs s, st := .live, addr := a }
          give (dropEarly s2) (s2.heap.goodc ++ bit1 (o.off.getLsbD 0) ++ (0 : BitVec 1) ++ x.gen ++ BitVec.ofNat 48 a)

/-! ### Pins (R178, R318) -/

def decPins (s : State) (i : Nat) : State := s.setObj i { s.obj i with pins := (s.obj i).pins - 1 }

/-- The stores that this core made through KPIN addresses reach the object's bytes before its pin can go (R146 item 1, log 51). -/
def writeObjBack (s : State) (c : Ctx) (i : Nat) : State := evictRange s c.core (s.heapPa (s.obj i).addr) (s.objSize (s.obj i).addr)

/-- A region boundary: releasing entries go, and the pin log is empty. -/
def pinsBoundary (s : State) (c : Ctx) : State :=
  let m := s.member c
  let s1 := (m.pins.filter fun p => p.releasing).foldl (fun s p => decPins s p.oti) s
  s1.setMember c { m with pins := (m.pins.filter fun p => !p.releasing).map fun p => { p with logged := false } }

/-- TEXIT and termination: every entry is released. -/
def pinsRelease (s : State) (c : Ctx) : State :=
  let m := s.member c
  (m.pins.foldl (fun s p => decPins (writeObjBack s c p.oti) p.oti) s).setMember c { m with pins := [] }

/-- Discard: logged pins are undone in reverse order, releasing entries are usable again. -/
def pinsDiscard (s : State) (c : Ctx) : State :=
  let m := s.member c
  let s1 := (m.pins.filter fun p => p.logged).reverse.foldl (fun s p => decPins (writeObjBack s c p.oti) p.oti) s
  s1.setMember c { m with pins := (m.pins.filter fun p => !p.logged).map fun p => { p with releasing := false } }

def execKpin (h : Hdr) (o : KOps) (s : State) : Host.Outcome State Fault Refusal :=
  word (.kpin h o) s fun s =>
    let c := s.iss.ctx
    match resolve s (s.cur.kreg o.kb.toNat) true with
    | .error e => .error e
    | .ok (s1, f) =>
      let x := s1.obj f.oti
      let m := s1.member c
      if x.st = .reloc then .error (.stall, s)
      else if 16 ≤ m.pins.length ∨ 65535 ≤ x.pins then .error (stopAddr 0x0B f.h, s)
      else
        let s2 := (s1.setObj f.oti { x with pins := x.pins + 1 }).setMember c
          { m with pins := m.pins ++ [{ oti := f.oti, releasing := false, logged := true }] }
        .ok (s2.setBank c ((s2.bank c).lockD o.dr.toNat (BitVec.ofNat 64 (s.heap.va.toNat + f.h))))

/-- The place in the pin set of the most recent usable entry for an object. -/
def lastPin (l : List PinEntry) (oti : Nat) : Option Nat :=
  ((List.range l.length).filter fun i => (l.getD i { oti := 0, releasing := true, logged := false }).oti == oti &&
    !(l.getD i { oti := 0, releasing := true, logged := false }).releasing).getLast?

/-- Handles of the thread on an object that no usable entry names are released (R165). -/
def releaseObjHandles (s : State) (c : Ctx) (oti : Nat) : State :=
  if (s.member c).pins.any fun p => p.oti == oti && !p.releasing then s
  else (List.range 8).foldl (fun s n => if ((s.bank c).hreg n).obj = some oti then releaseHandle s c n else s) s

def execKunpin (h : Hdr) (o : KOps) (s : State) : Host.Outcome State Fault Refusal :=
  word (.kunpin h o) s fun s =>
    let c := s.iss.ctx
    match resolve s (s.cur.kreg o.kb.toNat) false with
    | .error e => .error e
    | .ok (s1, f) =>
      let l := (s1.member c).pins
      if !f.valid then .error (stopAddr 0x0B (if f.null then refAddr (s.cur.kreg o.kb.toNat) else f.h), s)
      else match lastPin l f.oti with
        | none => .error (stopAddr 0x0B f.h, s)
        | some i =>
          let m := s1.member c
          let logged := (l.getD i { oti := 0, releasing := false, logged := false }).logged
          let sw := writeObjBack s1 c f.oti
          let s2 := if logged then decPins (sw.setMember c { m with pins := l.eraseIdx i }) f.oti
            else sw.setMember c { m with pins := l.set i { oti := f.oti, releasing := true, logged := false } }
          .ok (releaseObjHandles s2 c f.oti)

/-! ### KEQ (R319) -/

/-- The forwarding loop alone; with HEAPCTL.EN = 0 the address stands. -/
def keqFwd (s : State) (r : DWord) : Nat :=
  if s.heap.en then fwdLoop s 3 (refCol r == s.heap.goodc) (refAddr r) else refAddr r

def keqValue (s : State) (a b : DWord) : Bool :=
  if refNull a || refNull b then refNull a && refNull b else keqFwd s a == keqFwd s b && refGen a == refGen b

def execKeq (h : Hdr) (o : KOps) (s : State) : Host.Outcome State Fault Refusal :=
  word (.keq h o) s fun s =>
    let v := keqValue s (s.cur.kreg o.kh.toNat) (s.cur.kreg o.kb.toNat)
    .ok (s.setCur (s.cur.lockS o.dr.toNat ((bit1 v).setWidth 32)))

end Sys2Proof.Machine
end

