-- ==== Sys2Proof/Machine/Sched.lean ====
section
/-! DEFINITION. The scheduler (the Ladle): descriptors, acceptance, readiness, completion walks, errors, the ready pool, and
the choice of banks and spans (R41 to R57). -/

namespace Sys2Proof.Machine

/-! ### Descriptors (R41) -/

def classOf (c : Nat) : NodeClass :=
  match c with
  | 0 => .single
  | 1 => .gang
  | 2 => .application
  | _ => .null

def descOf (d : BitVec 512) : NodeDesc :=
  { entry := d.extractLsb' 0 48, cls := classOf (d.extractLsb' 48 2).toNat, gsize := (d.extractLsb' 50 5).toNat,
    aff := d.extractLsb' 56 8, args := d.extractLsb' 64 48, slot := d.extractLsb' 112 16, partw := d.extractLsb' 128 64,
    side := d.extractLsb' 192 48, nbind := (d.extractLsb' 240 5).toNat, nops := (d.extractLsb' 245 4).toNat,
    pred0 := d.extractLsb' 256 32, pred1 := d.extractLsb' 288 32,
    lv := (List.range 6).map fun i => d.extractLsb' (320 + 32 * i) 32 }

def affAllows (aff : BitVec 8) (cl : Nat) : Bool := aff == 0 || aff.getLsbD cl

/-- The level of a domain of `n` members (R22). -/
def levelFor (n : Nat) : Nat := if n ≤ 1 then 0 else if n ≤ 4 then 1 else if n ≤ 16 then 2 else 3

/-- The spans of a level, as clusters (R22). -/
def spansOf (level : Nat) : List (List Nat) :=
  match level with
  | 0 => (List.range 8).map fun c => [c]
  | 1 => (List.range 8).map fun c => [c]
  | 2 => [[0, 1, 2, 3], [4, 5, 6, 7]]
  | _ => [List.range 8]

/-- The spans of a gang that its affinity allows. -/
def gangSpans (d : NodeDesc) : List (List Nat) :=
  (spansOf (levelFor (d.gsize + 1))).filter fun sp => sp.all (affAllows d.aff)

/-! ### Slots and ranges (R42, R54) -/

/-- Slot `i` lies in the static range of a queue. -/
def Queue.owns (q : Queue) (i : Nat) : Bool := decide (q.base.toNat ≤ i) && decide (i < q.base.toNat + q.size.toNat)
def State.isStatic (s : State) (i : Nat) : Bool := s.sched.queues.any fun e => e.2.owns i

/-- Free dynamic slots, and those that residency nodes use. -/
def State.dynUsed (s : State) : Nat := (s.sched.nodes.filter fun e => e.2.st != .free && !s.isStatic e.1).length
def State.dynFree (s : State) : Nat :=
  65536 - (s.sched.queues.map fun e => e.2.size.toNat).sum - s.dynUsed
def State.resUsed (s : State) : Nat :=
  (s.sched.nodes.filter fun e => e.2.st != .free && !s.isStatic e.1 && e.2.batch.isSome).length
/-- What the residency reserve still keeps from others (DYNRES). -/
def State.resKept (s : State) : Nat := s.sched.dynres.toNat - s.resUsed
/-- A dynamic slot is free outside the reserve. -/
def State.dynOpen (s : State) : Bool := decide (s.resKept < s.dynFree)

/-- The first free dynamic slot at or after `i`. -/
def dynFrom (s : State) (fuel i : Nat) : Option Nat :=
  match fuel with
  | 0 => none
  | k + 1 => if (s.node i).st = .free ∧ !s.isStatic i then some i else dynFrom s k ((i + 1) % 65536)
/-- Which free dynamic slot is taken is left open: a free value (log 17). -/
def pickDyn (s : State) : Option Nat := dynFrom s 65536 ((Config.freeWord s.freeCtr).toNat % 65536)

/-- The generation after one (R42). -/
def nextGen (g : BitVec 16) : BitVec 16 := if g = 0xFFFF#16 then 1 else g + 1

/-! ### Errors (R56) -/

/-- Codes that stop the queue. -/
def errStops (code : Nat) : Bool := (decide (1 ≤ code) && decide (code ≤ 5)) || code == 7

/-- Raise a scheduler error in queue `q`: QCTL.ECODE, QERR, STOP, event 0, a record of kind 5. -/
def schedError (s : State) (q code : Nat) (qerr : Word) (node : Nat) : State :=
  let x := s.queue q
  let s1 := s.setQueue q { x with ecode := BitVec.ofNat 8 code, qerr := qerr, stop := x.stop || errStops code }
  raiseEvent 0 (crock { crockBase 5 code with info := qerr.toNat, node := node } s1)

def State.queueOpen (s : State) (q : Nat) : Bool := (s.queue q).en && !(s.queue q).stop

/-! ### Becoming ready (R45, R48) -/

/-- Enter the pool, or the queue's ready list while the pool is full. -/
def enterPool (s : State) (i : Nat) : State :=
  if s.sched.pool.length < 1024 then { s with sched := { s.sched with pool := s.sched.pool ++ [i] } }
  else
    let q := (s.node i).queue
    let x := s.queue q
    s.setQueue q { x with rlist := x.rlist ++ [i] }

/-- The ready-list node that has been ready longest. Of nodes that became ready at the same time, the one of the lowest queue, then the
first of its list (DESIGN CHOICE, log 17). -/
def oldestListed (s : State) : Option Nat :=
  (s.sched.queues.flatMap fun e => e.2.rlist).foldl (fun b i =>
    match b with
    | none => some i
    | some j => if (s.node i).since < (s.node j).since then some i else b) none

/-- A node leaves the pool; the oldest listed node takes its place. -/
def leavePool (s : State) (i : Nat) : State :=
  let s1 := { s with sched := { s.sched with pool := s.sched.pool.filter fun j => j != i } }
  match oldestListed s1 with
  | none => s1
  | some j =>
    if s1.sched.pool.length < 1024 then
      let q := (s1.node j).queue
      let x := s1.queue q
      let s2 := s1.setQueue q { x with rlist := x.rlist.filter fun k => k != j }
      { s2 with sched := { s2.sched with pool := s2.sched.pool ++ [j] } }
    else s1

/-- A node becomes ready, with age 0: null nodes are done at once, the others enter the pool. -/
def becomeReady (s : State) (i : Nat) : State :=
  let n := s.node i
  let s1 := s.setNode i { n with st := .ready, since := s.time, aged := 0 }
  if n.desc.cls = .null then s1 else enterPool s1 i

/-! ### Completion (R45 to R47) -/

/-- The node reaches done: QDONE counts it, and a batch counts it (R63). -/
def markDone (s : State) (i : Nat) : State :=
  let n := s.node i
  let x := s.queue n.queue
  let s1 := (s.setNode i { n with st := .done, members := [] }).setQueue n.queue { x with qdone := x.qdone + 1 }
  match n.batch with
  | some b => batchNodeDone s1 b
  | none => s1

/-- Work of the completion walks in progress, in order. -/
inductive WalkItem where
  | visit (owner : Nat) (h : Word)
  | block (owner k : Nat)
  | fin (owner : Nat)
  deriving DecidableEq, Repr

def WalkItem.owner (w : WalkItem) : Nat :=
  match w with
  | .visit o _ => o
  | .block o _ => o
  | .fin o => o

/-- Direct successors in the order they were attached, then the overflow list (R46). -/
def walkItems (n : Node) (i : Nat) : List WalkItem :=
  n.succ.map (.visit i) ++ (n.ovf.flatMap fun b => .block i b.1 :: b.2.map (.visit i)) ++ [.fin i]

/-- What the scheduler's access to an overflow block meets: it fails (R47), or waits while the frame migrates (R134). -/
def ovfErr (s : State) (k : Nat) (acc : Acc) : Option AccErr := checkPa s (ctxOf 0) true (s.sched.ovfa.toNat + 64 * k) 64 acc
def ovfFault (s : State) (k : Nat) (acc : Acc) : Bool := (ovfErr s k acc).any fun e => e != .mig
def ovfWaits (s : State) (k : Nat) (acc : Acc) : Bool := ovfErr s k acc == some .mig
/-- An uncorrectable error that it meets is recorded (R139). -/
def ovfUe (s : State) (k : Nat) (acc : Acc) : State := unitUe s (s.sched.ovfa.toNat + 64 * k) 64 acc

/-- An overflow block that its node's walk has read is free again. -/
def freeOvf (s : State) (k : Nat) : State := { s with sched := { s.sched with ovfUsed := s.sched.ovfUsed.filter fun x => x != k } }

/-- The walk of a node is over: it waits for nothing, and a dynamic slot is free. -/
def walkOver (s : State) (i : Nat) : State :=
  let n := s.node i
  let s1 := s.setNode i { n with succ := [], ovf := [], pend := false, st := if n.dyn then .free else n.st }
  { s1 with sched := { s1.sched with stalled := s1.sched.stalled.filter fun k => k != i } }

/-- A walk stops before block `b` of its node: what is left of it waits in the slot. PEND is set where it waits for a
migrating block too, so that the slot takes no other node meanwhile (DESIGN CHOICE, log 17: R47 speaks of faults). -/
def cutWalk (s : State) (o b : Nat) : State :=
  let n := s.node o
  s.setNode o { n with pend := true, succ := [], ovf := n.ovf.dropWhile fun x => x.1 != b }

/-- The items of a list after its node's walk. -/
def afterWalk (o : Nat) (r : List WalkItem) : List WalkItem := (r.dropWhile fun x => x != .fin o).drop 1

/-- Run completion walks: a null successor that becomes ready is walked at once (R41, R45). A walk that meets a faulting block stops with
OVF_FAULT; one that meets a migrating block waits in `stalled` (R134). -/
def runWalk (fuel : Nat) (s : State) (w : List WalkItem) : State :=
  match fuel with
  | 0 => s
  | k + 1 =>
    match w with
    | [] => s
    | .visit o h :: r =>
      let i := handleIx h
      let n := s.node i
      if n.cnt = 0 then runWalk k (schedError s (s.node o).queue 6 (BitVec.ofNat 32 i) i) r
      else
        let s1 := s.setNode i { n with cnt := n.cnt - 1 }
        if n.cnt = 1 ∧ n.st = .waiting then
          let s2 := becomeReady s1 i
          if n.desc.cls = .null then runWalk k (markDone s2 i) (walkItems (s2.node i) i ++ r) else runWalk k s2 r
        else runWalk k s1 r
    | .block o b :: r =>
      if ovfFault s b .rd then
        let s1 := cutWalk (ovfUe s b .rd) o b
        let s2 := { s1 with sched := { s1.sched with stalled := s1.sched.stalled.filter fun x => x != o } }
        runWalk k (schedError s2 (s.node o).queue 5 (BitVec.ofNat 32 o) o) (afterWalk o r)
      else if ovfWaits s b .rd then
        let s1 := cutWalk s o b
        runWalk k { s1 with sched := { s1.sched with stalled := o :: s1.sched.stalled.filter fun x => x != o } } (afterWalk o r)
      else runWalk k (freeOvf s b) r
    | .fin o :: r => runWalk k (walkOver s o) r

/-- More than the walks of a full scheduler can take. -/
def walkFuel : Nat := 16777216

/-- The node is done and its walk runs. -/
def completeNode (s : State) (i : Nat) : State :=
  let s1 := markDone s i
  runWalk walkFuel s1 (walkItems (s1.node i) i)

/-- A dispatch that failed: done, FAILED and PEND, the walk deferred (R45). -/
def failDispatch (s : State) (i : Nat) : State :=
  let s1 := markDone s i
  let s2 := s1.setNode i { s1.node i with failed := true, pend := true }
  schedError s2 (s2.node i).queue 7 (BitVec.ofNat 32 i) i

/-- Clearing STOP runs the deferred walks of the queue (R47). -/
def resumeWalks (s : State) (q : Nat) : State :=
  let l := (s.sched.nodes.filter fun e => e.2.pend && e.2.queue == q && e.2.st == .done).map Prod.fst
  l.foldl (fun s i => runWalk walkFuel s (walkItems (s.node i) i)) s

/-- Batches' records and walks that waited for migrating frames go on. -/
def resumeStalled (s : State) : State := s.sched.stalled.foldr (fun i s => runWalk walkFuel s (walkItems (s.node i) i)) (resumeEmits s)

/-! ### Acceptance (R43, R44) -/

inductive Accepted where
  | handle (h : Word)
  | dropped
  | rejected (code : Nat)
  deriving DecidableEq, Repr

/-- The BAD_DESC row of R43, but for SLOT. -/
def badDesc (d : NodeDesc) : Bool :=
  (if d.cls = .gang then d.gsize == 0 || (gangSpans d).isEmpty else d.gsize != 0) ||
  ((d.cls = .single || d.cls = .gang) && d.entry.toNat % 8 != 0) || decide (16 < d.nbind) || decide (8 < d.nops)

/-- A named slot that cannot take a node. -/
def slotBusy (n : Node) : Bool :=
  match n.st with
  | .free => false
  | .done => n.pend
  | _ => true

/-- Which free overflow block is taken: the lowest-numbered one (DESIGN CHOICE, log 17: R47 names none). -/
def freeBlock (s : State) : Option Nat := (List.range s.sched.ovfn).find? fun k => !s.sched.ovfUsed.contains k

/-- Write a word of an overflow block: 15 handles, then the link (log 17); a write to a migrating frame waits (R134). -/
def ovfWrite (s : State) (k i : Nat) (w : Word) : State := unitPut s (s.sched.ovfa.toNat + 64 * k + 4 * i) (natLe 4 w.toNat)

/-- Why an edge is not added: the code of the rejection, and the blocks whose write failed. -/
abbrev EdgeError := Nat × List Nat

/-- Attach a successor to a predecessor's slot (R47), or why not. With `dry`, faults of the overflow area are not looked at: what is left
is whether a block is free. -/
def attach (dry : Bool) (s : State) (p : Nat) (h : Word) : Except EdgeError State :=
  let n := s.node p
  if n.ovf.isEmpty ∧ n.succ.length < 8 then .ok (s.setNode p { n with succ := n.succ ++ [h] })
  else
    match n.ovf.getLast? with
    | some (b, hs) =>
      if hs.length < 15 then
        if !dry && ovfFault s b .wr then .error (5, [b])
        else .ok ((ovfWrite s b hs.length h).setNode p { n with ovf := n.ovf.dropLast ++ [(b, hs ++ [h])] })
      else newBlock s p n h (some b)
    | none => newBlock s p n h none
where
  newBlock (s : State) (p : Nat) (n : Node) (h : Word) (last : Option Nat) : Except EdgeError State :=
    match freeBlock s with
    | none => .error (4, [])
    | some k =>
      if !dry && (ovfFault s k .wr || last.any fun b => ovfFault s b .wr) then .error (5, k :: last.toList)
      else
        let s1 := ovfWrite s k 0 h
        let s2 := match last with
          | some b => ovfWrite s1 b 15 (BitVec.ofNat 32 k)
          | none => s1
        .ok ({ s2 with sched := { s2.sched with ovfUsed := k :: s2.sched.ovfUsed } }.setNode p { n with ovf := n.ovf ++ [(k, [h])] })

/-- A handle that names a live predecessor (R44). -/
def livePred (s : State) (h : Word) : Bool :=
  let n := s.node (handleIx h)
  h != 0 && n.gen == handleGen h && (n.st == .waiting || n.st == .ready || n.st == .bound || n.st == .running)

/-- Add the edges of one predecessor handle: the counter and the state after it. -/
def addPred (dry : Bool) (s : State) (p h : Word) (cnt : Nat) : Except EdgeError (State × Nat) :=
  if livePred s p then
    match attach dry s (handleIx p) h with
    | .ok s1 => .ok (s1, cnt + 1)
    | .error e => .error e
  else .ok (s, cnt)

/-- The edges of both predecessors. -/
def addPreds (dry : Bool) (s : State) (d : NodeDesc) (h : Word) : Except EdgeError (State × Nat) :=
  match addPred dry s d.pred0 h 0 with
  | .error e => .error e
  | .ok (s1, c1) => addPred dry s1 d.pred1 h c1

/-- A fresh node in slot `i`, waiting, with a new generation. ROWM of its threads is 0 unless a record's row mask replaces it (DESIGN
CHOICE, log 3: R62 gives ROWM to threads created from a record only). -/
def freshNode (n : Node) (d : NodeDesc) (q : Nat) (dyn : Bool) (cnt : Nat) : Node :=
  { Node.reset with gen := nextGen n.gen, st := .waiting, desc := d, queue := q, cnt := cnt, dyn := dyn }

/-- Put a node into a slot with its predecessors; ready at once when it has none. Whether both edges find the blocks that they need is
settled before any block is written (R43: NO_OVF before OVF_FAULT). -/
def placeNode (s : State) (i q : Nat) (d : NodeDesc) (dyn : Bool) : Except EdgeError (State × Word) :=
  let n := s.node i
  let h := handleOf (nextGen n.gen) i
  match addPreds true s d h with
  | .error e => .error e
  | .ok _ =>
    match addPreds false s d h with
    | .error e => .error e
    | .ok (s2, c2) =>
      let x := s2.queue q
      let s3 := (s2.setNode i (freshNode n d q dyn c2)).setQueue q { x with qsub := x.qsub + 1 }
      if c2 = 0 then
        let s4 := becomeReady s3 i
        .ok (if d.cls = .null then completeNode s4 i else s4, h)
      else .ok (s3, h)

/-- Reject a descriptor: the error, and no trace in any slot. -/
def reject (s : State) (q code : Nat) (d : NodeDesc) : State × Accepted :=
  (schedError s q code (d.slot.setWidth 32) 0xFFFF, .rejected code)

/-- Acceptance of a descriptor by queue `q` (R43). -/
def acceptDesc (s : State) (q : Nat) (bits : BitVec 512) : State × Accepted :=
  let d := descOf bits
  let x := s.queue q
  if !s.queueOpen q then (s.setQueue q { x with qdrop := x.qdrop + 1 }, .dropped)
  else if badDesc d || (d.slot != 0xFFFF#16 && !x.owns d.slot.toNat) then reject s q 2 d
  else
    let dyn := d.slot == 0xFFFF#16
    if !dyn && slotBusy (s.node d.slot.toNat) then reject s q 1 d
    else if dyn && !s.dynOpen then reject s q 3 d
    else
      match (if dyn then pickDyn s else some d.slot.toNat) with
      | none => reject s q 3 d
      | some i =>
        match placeNode (if dyn then s.bump else s) i q d dyn with
        | .error e => reject (e.2.foldl (fun s b => ovfUe s b .wr) s) q e.1 d
        | .ok (s1, h) => (s1, .handle h)

/-! ### Priority and the pool's order (R48) -/

/-- Base priority plus one for each AGE period, at most 6; a base of 7 stays 7; a discard's floor holds. -/
def effPrio (s : State) (i : Nat) : Nat :=
  let n := s.node i
  let base := (s.queue n.queue).prio.toNat
  max n.floor (if base = 7 then 7 else min 6 (base + n.aged))

/-- Does node `i` stand before node `j` in the pool: higher effective priority, then older. -/
def poolBefore (s : State) (i j : Nat) : Bool :=
  decide (effPrio s j < effPrio s i) || (effPrio s i == effPrio s j && decide ((s.node i).since < (s.node j).since))

/-- Nodes of equal effective priority that became ready at the same time keep the order in which they entered the pool (DESIGN CHOICE,
log 17: R48 orders by age alone). -/
def insertPool (s : State) (i : Nat) : List Nat → List Nat
  | [] => [i]
  | j :: r => if poolBefore s i j then i :: j :: r else j :: insertPool s i r

/-- The pool in order. -/
def State.poolOrder (s : State) : List Nat := s.sched.pool.foldl (fun l i => insertPool s i l) []

/-- The nodes of a class and of open queues, in pool order: those selected and not yet bound among them. -/
def State.openPool (s : State) (cls : NodeClass) : List Nat :=
  s.poolOrder.filter fun i => (s.node i).desc.cls == cls && s.queueOpen (s.node i).queue

/-- The node has been selected and is not yet bound. -/
def State.selected (s : State) (i : Nat) : Bool := s.sched.sel.any fun x => x.node == i

/-- The nodes of a class that may be selected, in pool order. -/
def State.candidates (s : State) (cls : NodeClass) : List Nat := (s.openPool cls).filter fun i => !s.selected i

/-! ### Banks and spans (R49, R52) -/

/-- A bank that a selection may take. -/
def State.bankFree (s : State) (c : Ctx) : Bool :=
  (s.bank c).phase == .free && !(s.sched.sel.any fun x => x.banks.contains c)

/-- The free banks of a core, A before B. -/
def State.freeBanks (s : State) (core : Nat) : List Ctx :=
  [0, 1].filterMap fun b => let c := ctxOf (2 * core + b); if s.bankFree c then some c else none

/-- Cores that a gang's reservation keeps from node `i`. -/
def State.reserved (s : State) (i core : Nat) : Bool :=
  match s.sched.resv with
  | some (n, cs) => n != i && cs.contains core
  | none => false

/-- The bank that the single class takes for a node: the lowest core with both banks free, else the lowest with one. -/
def pickSingle (s : State) (i : Nat) : Option Ctx :=
  let cs := (List.range 32).filter fun k => affAllows (s.node i).desc.aff (k / 4) && !s.reserved i k
  match cs.find? fun k => (s.freeBanks k).length == 2 with
  | some k => (s.freeBanks k).head?
  | none => (cs.find? fun k => (s.freeBanks k).length == 1).bind fun k => (s.freeBanks k).head?

/-- Cores of a span. -/
def spanCores (sp : List Nat) : List Nat := sp.flatMap fun c => (List.range 4).map fun k => 4 * c + k

/-- The banks of a gang in a span, on cores outside `keep`: the lowest cores with a free bank. -/
def gangInSpan (s : State) (n : Nat) (sp keep : List Nat) : Option (List Ctx) :=
  let bs := (spanCores sp).filterMap fun k => if keep.contains k then none else (s.freeBanks k).head?
  if n ≤ bs.length then some (bs.take n) else none

/-- Place a gang, keeping off the cores of `keep`. -/
def placeGang (s : State) (i : Nat) (keep : List Nat) : Option (List Ctx) :=
  let d := (s.node i).desc
  (gangSpans d).findSome? fun sp => gangInSpan s (d.gsize + 1) sp keep

/-- The span that a gang reserves: the one with the most free banks, ties to the lowest. -/
def reserveSpan (s : State) (i : Nat) : List Nat :=
  let free (sp : List Nat) : Nat := ((spanCores sp).map fun k => (s.freeBanks k).length).sum
  match (gangSpans (s.node i).desc).foldl (fun b sp =>
      match b with
      | none => some sp
      | some x => if free x < free sp then some sp else b) none with
  | some sp => spanCores sp
  | none => []

def addSelection (s : State) (i : Nat) (banks : List Ctx) : State :=
  { s with sched := { s.sched with sel := s.sched.sel ++ [{ node := i, at_ := s.time, banks := banks, prio := effPrio s i }] } }

/-- Cores that a reservation keeps from gang node `i`. -/
def State.keptFrom (s : State) (i : Nat) : List Nat :=
  match s.sched.resv with
  | some (n, cs) => if n = i then [] else cs
  | none => []

/-- A reservation stands while its holder is a gang node of an open queue in the pool: one of a disabled or stopped queue takes none and
loses the one it held (DESIGN CHOICE, log 17). -/
def dropResv (s : State) : State :=
  match s.sched.resv with
  | some (n, _) => if (s.openPool .gang).contains n then s else { s with sched := { s.sched with resv := none } }
  | none => s

/-- The span that gang node `g`, the first in pool order, has reserved or now reserves in place of another's. -/
def takeResv (s : State) (g : Nat) : State :=
  match s.sched.resv with
  | some (n, _) => if n = g then s else { s with sched := { s.sched with resv := some (g, reserveSpan s g) } }
  | none => { s with sched := { s.sched with resv := some (g, reserveSpan s g) } }

/-- Select the first gang node of a list that can be placed off the reserved cores of others. -/
def selectFrom (s : State) (l : List Nat) : State :=
  match l.findSome? fun i => if s.selected i then none else (placeGang s i (s.keptFrom i)).map fun bs => (i, bs) with
  | some (i, bs) => addSelection s i bs
  | none => s

/-- The gang selection of a cycle (R52). The reservation lasts until its holder binds. -/
def selectGang (s : State) : State :=
  let s0 := dropResv s
  match s0.openPool .gang with
  | [] => s0
  | g :: rest =>
    if s0.selected g then selectFrom s0 rest
    else
      match placeGang s0 g (s0.keptFrom g) with
      | some bs => addSelection s0 g bs
      | none => selectFrom (takeResv s0 g) rest

/-- The first node of the single class in pool order that some free bank suits, and that bank (R49). -/
def firstSingle (s : State) : Option (Nat × Ctx) :=
  (s.candidates .single).findSome? fun i => (pickSingle s i).map fun c => (i, c)

/-- The single-class selection of a cycle (R49). -/
def selectSingle (s : State) : State :=
  match firstSingle s with
  | some (i, c) => addSelection s i [c]
  | none => s

/-- The first gang node in pool order stands before the single-class node that would be selected. -/
def gangLeads (s : State) : Bool :=
  match s.candidates .gang, firstSingle s with
  | g :: _, some (i, _) => poolBefore s g i
  | _, _ => true

def classIx (c : NodeClass) : Nat :=
  match c with
  | .single => 0
  | .gang => 1
  | .application => 2
  | .null => 3

/-- Which node is first in its class, and since when (R53); a node of a disabled or stopped queue is passed over (DESIGN CHOICE, log 17). -/
def trackFirst (s : State) (c : NodeClass) : State :=
  match s.openPool c with
  | [] => { s with sched := { s.sched with first := tabDel s.sched.first (classIx c) } }
  | i :: _ =>
    match tabGet? s.sched.first (classIx c) with
    | some (j, _) =>
      if i = j then s else { s with sched := { s.sched with first := tabSet s.sched.first (classIx c) (i, s.time) } }
    | none => { s with sched := { s.sched with first := tabSet s.sched.first (classIx c) (i, s.time) } }

/-- The selections of a cycle: of the two classes, the one whose node stands first in the pool selects first (log 17). -/
def selectAll (s : State) : State := if gangLeads s then selectSingle (selectGang s) else selectGang (selectSingle s)

/-- One cycle of the distributor. -/
def distribute (s : State) : State := trackFirst (trackFirst (selectAll s) .single) .gang

end Sys2Proof.Machine
end

