-- ==== Sys2Proof/Machine/System.lean ====
section
/-! DEFINITION. The system words of major 0x00: NOP, SYSR, SYSW, TRAP, IDLE, EVSIG, HALT (R313, R314, R348, R355, R307, R310).
RTE, which takes a pending discard, stands with discards. -/

namespace Sys2Proof.Machine

/-- NOP (R313). -/
def execNop (h : Hdr) (o : YOps) (s : State) : Host.Outcome State Fault Refusal := word (.nop h o) s .ok

/-- SYSR (R348): latency 1. -/
def execSysr (h : Hdr) (o : YOps) (s : State) : Host.Outcome State Fault Refusal :=
  word (.sysr h o) s fun s =>
    let v := sysRead s s.iss.ctx s.cur o.srn.toNat
    .ok (s.setCur (s.cur.later 1 (.s o.sd.toNat v (BitVec.allOnes 32)) 0))

/-- SYSW (R348): the value takes effect from the next bundle (R81). -/
def execSysw (h : Hdr) (o : YOps) (s : State) : Host.Outcome State Fault Refusal :=
  word (.sysw h o) s fun s =>
    .ok (s.setCur (s.cur.later 1 (.sys o.srn.toNat (s.cur.sreg o.sa.toNat + o.imm.signExtend 32)) 0))

/-- TRAP (R355): software trap 0x10; EPC names the bundle that follows. -/
def execTrap (h : Hdr) (o : YOps) (s : State) : Host.Outcome State Fault Refusal :=
  word (.trap h o) s fun s => .error (.trap 0x10 (o.imm.setWidth 32) 0 false true, s)

/-- End an IDLE that waits, when its condition holds; nothing of a frozen core advances (R138). -/
def settleIdle (c : Ctx) (s : State) : State :=
  let b := s.bank c
  match b.pipe.wait with
  | .idle sd since imm =>
    match idleCode b (s.now c.core) since imm with
    | some v =>
      if (s.core c.core).freeze = 0 then s.setBank c ({ b with pipe := { b.pipe with wait := .none } }.lockS sd.toNat v) else s
    | none => s
  | _ => s

/-- IDLE (R314): the wait begins, and ends at once where its condition already holds. -/
def execIdle (h : Hdr) (o : YOps) (s : State) : Host.Outcome State Fault Refusal :=
  word (.idle h o) s fun s =>
    let b := s.cur
    let c := s.iss.ctx
    .ok (settleIdle c (s.setCur { b with pipe := { b.pipe with wait := .idle o.sd (s.now c.core) o.imm.toNat } }))

/-- SIGV of a core after a signal (R307). -/
def sigWord (old : DWord) (bank : Nat) (node : Nat) (v : Word) : DWord :=
  (1 : BitVec 1) ++ bit1 (old.getLsbD 63 || old.getLsbD 62) ++ (0 : BitVec 13) ++ BitVec.ofNat 1 bank ++
  BitVec.ofNat 16 node ++ v

/-- EVSIG (R307): the core's signal register, then event 8. -/
def execEvsig (h : Hdr) (o : YOps) (s : State) : Host.Outcome State Fault Refusal :=
  word (.evsig h o) s fun s =>
    let c := s.iss.ctx
    let v := s.cur.sreg o.sa.toNat + o.imm.signExtend 32
    let w := sigWord (tabGet s.plat.sigv c.core.val 0) c.bank.val s.cur.th.node v
    .ok (raiseEvent 8 { s with plat := { s.plat with sigv := tabSet s.plat.sigv c.core.val w } })

/-- HALT (R310): the firmware halt of R264; no later bundle of any thread issues. -/
def execHalt (h : Hdr) (o : YOps) (s : State) : Host.Outcome State Fault Refusal :=
  word (.halt h o) s fun s => .ok (fatalError 2 s)

end Sys2Proof.Machine
end

