-- ==== Sys2Proof/Machine/Task.lean ====
section
/-! DEFINITION. Threads, regions, domains and discard: SLICE, REGION, TNODE, TLAUNCH, TYIELD, TEXIT, TKW, BARA, BARW, DSYNC
(R24 to R38, R298, R299, R304, R336, R345, R350 to R356), and the end of the waits that IDLE and TKW time out of. -/

namespace Sys2Proof.Machine

/-! ### SLICE (R28, R345) -/

def helperOf (b : Bank) (bank : Fin 2) (entry : Addr) : Helper :=
  { on := true, owner := bank, pc := entry, s := b.regs.s, loops := b.loops,
    p := (List.range 16).foldl (fun v n => if (b.preg n).getLsbD 0 then v ||| (1#16 <<< n) else v) 0,
    counted := none, closings := 0 }

def execSlice (h : Hdr) (o : YOps) (s : State) : Host.Outcome State Fault Refusal :=
  word (.slice h o) s fun s =>
    let c := s.iss.ctx
    let b := s.cur
    let k := s.core c.core
    let entry := s.iss.pc + (o.imm.signExtend 48) * 8
    if b.sys.helpd.extractLsb' 0 8 = 0 ∨ (k.helper.on ∧ k.helper.owner ≠ c.bank) ∨ !codeRange b entry then .ok s
    else .ok ((s.setCur { b with pipe := { b.pipe with closings := [] } }).setCore c.core { k with helper := helperOf b c.bank entry })

/-! ### Region boundaries (R32, R33, R336) -/

/-- Scalars that a mask names, in ascending order. -/
def maskRegs (sa : Nat) (m : BitVec 16) : List Nat := ((List.range 16).filter fun j => m.getLsbD j).map fun j => sa + j

/-- Interlocked results that name one of these scalars. -/
def locksOn (b : Bank) (l : List Nat) : List Lock :=
  b.pipe.locks.filter fun k => l.any fun n => k.ws.any (writeHits b (.s n))

/-- Land the results that a boundary waits for. -/
def landOn (b : Bank) (l : List Nat) : Bank := ((locksOn b l).filter fun k => k.ready).foldl landLock b

/-- The bank as the bundle that follows reads the scalars `l`, the address of that bundle and the loop state it begins with. The thread
itself is left as it is: a push of the same bundle still reads the registers as they stood before it (R270). -/
def nextAfter (s : State) (l : List Nat) : Bank × Addr × Loops :=
  let b := landDue (landOn s.cur l) (s.cur.pipe.cyc + 1)
  match s.iss.target with
  | some t => (b, t, b.loops)
  | none =>
    let r := loopClosing b s.iss.pc
    (b, r.2.getD s.iss.fall, r.1.loops)

/-- Cleared at every boundary: AF, with the flags of results in flight (R90), and XFER. -/
def clearStatus (b : Bank) : Bank :=
  { b with tr := { b.tr with af := 0, xfer := 0 }
           pipe := { b.pipe with inflight := b.pipe.inflight.map fun x => { x with af := 0 }
                                 locks := b.pipe.locks.map fun x => { x with af := 0 } } }

/-- What a restart holds (R32, R58). -/
def restartOf (b : Bank) (l : List Nat) (rpc : Addr) (loops : Loops) : Restart :=
  let ws := l.map b.sreg
  { words := ws ++ List.replicate (16 - ws.length) 0, rpc := rpc,
    mask := l.foldl (fun m n => m ||| (1#64 <<< n)) 0, loops := loops }

/-- The boundary of thread `c`: `seen` is its bank as the next bundle reads it. It ends the helper (R30; log 41 for TYIELD). -/
def boundary (s : State) (c : Ctx) (seen : Bank) (rpc : Addr) (loops : Loops) : State :=
  let m := s.member c
  let r := restartOf seen (maskRegs m.maskSa m.mask) rpc loops
  let s1 := s.setMember c { m with restart := some r }
  let s2 := commitSlots (pinsBoundary s1 c) c
  endHelper c (s2.setBank c (clearStatus (s2.bank c)))

/-- The scalars that the thread's mask names. -/
def maskedRegs (s : State) (c : Ctx) : List Nat := maskRegs (s.member c).maskSa (s.member c).mask

/-- The boundary that the running word forms: REGION, TYIELD, and the DSYNC that completes its phase. That of a TYIELD after which the
thread goes on ends the helper like any other (DESIGN CHOICE, log 41: R30 does not list TYIELD). -/
def boundaryNow (s : State) : State :=
  let n := nextAfter s (maskedRegs s s.iss.ctx)
  boundary s s.iss.ctx n.1 n.2.1 n.2.2

/-- Land the results of earlier bundles that REGION waits for. Those of its own bundle are checkpointed (`nextAfter`) and land later: a
push of the same bundle still reads the registers as they stood before it (R270). -/
def landEarlier (s : State) (l : List Nat) : State :=
  s.setCur (((locksOn s.cur l).filter fun k => s.iss.fresh.all fun n => decide (k.id < n)).foldl landLock s.cur)

/-- REGION: one further cycle without issue for each named scalar, after its own. -/
def execRegion (h : Hdr) (o : YOps) (s : State) : Host.Outcome State Fault Refusal :=
  word (.region h o) s fun s =>
    let c := s.iss.ctx
    let mask := o.imm.extractLsb' 0 16
    let regs := maskRegs o.sa.toNat mask
    if (locksOn s.cur regs).any fun k => !k.ready then .error (.stall, endHelper c s)
    else
      let s1 := landEarlier s regs
      let s2 := s1.setMember c { s1.member c with maskSa := o.sa.toNat, mask := mask }
      let s3 := if s2.cur.sys.level = 0 then boundaryNow s2 else endHelper c (s2.setCur (clearStatus s2.cur))
      let b := s3.cur
      .ok (s3.setCur { b with pipe := { b.pipe with wait := if regs.isEmpty then .none else .hold (regs.length + 1) } })

/-! ### TNODE, TLAUNCH, TKW -/

/-- TNODE's result. -/
def acceptedWord (a : Accepted) : Word :=
  match a with
  | .handle h => h
  | .dropped => 0
  | .rejected code => BitVec.ofNat 32 code

def execTnode (h : Hdr) (o : YOps) (s : State) : Host.Outcome State Fault Refusal :=
  word (.tnode h o) s fun s =>
    match readDesc s (descVa s.cur (s.cur.sreg o.sa.toNat)) 64 with
    | .error e => .error e
    | .ok (s1, d) =>
      let (s2, a) := acceptDesc (wbAll s1 s.iss.ctx.core 2) (o.imm.extractLsb' 0 6).toNat (BitVec.ofNat 512 d)
      .ok (s2.setCur (s2.cur.lockS o.sd.toNat (acceptedWord a)))

/-- Translations of every page of a record array, or the first failure (R352); an array in the scratchpad window is no
memory that the scheduler can read (log 23). -/
def arrayPages (s : State) (c : Ctx) : List (Nat × Nat) → Except (Stop × State) (State × List Nat)
  | [] => .ok (s, [])
  | (va, n) :: r =>
    match reachWord s c va n .rd with
    | .error e => .error e
    | .ok (s1, .sp _) => .error (stopAddr 0x08 va, s1)
    | .ok (s1, .pa a) =>
      match arrayPages s1 c r with
      | .error e => .error e
      | .ok (s2, l) => .ok (s2, a :: l)

/-- The pieces of an array by page. -/
def arrayPieces (va n : Nat) : List (Nat × Nat) := pagePieces (n / 4096 + 2) va n

def execTlaunch (h : Hdr) (o : YOps) (s : State) : Host.Outcome State Fault Refusal :=
  word (.tlaunch h o) s fun s =>
    let c := s.iss.ctx
    let b := s.cur
    let cnt := (b.sreg (o.sa.toNat + 1)).toNat
    let va := descVa b (b.sreg o.sa.toNat)
    if 65536 < cnt then .error (illegalStop (.tlaunch h o), s)
    else match aligned s va 32 with
      | .error e => .error e
      | .ok () =>
        match arrayPages s c (arrayPieces va (32 * cnt)) with
        | .error e => .error e
        | .ok (s1, ps) =>
          let s2 := wbAll s1 c.core 2
          if cnt = 0 then .ok (s2.setCur (s2.cur.lockS o.sd.toNat 0))
          else if 64 ≤ s.sched.launch.length then .error (.stall, s)
          else
            let b2 := s2.cur
            let l : Launch :=
              { who := some c, node := b.th.node, queue := b.th.queue, join := b.sreg (o.imm.extractLsb' 0 6).toNat,
                lock := b2.lockId, pages := ps, addr := va, count := cnt, recs := [], batch := none, i := 0, j := 0, prev := 0,
                created := 0 }
            let s3 := s2.setCur (b2.lockWrites [.s o.sd.toNat 0 (BitVec.allOnes 32)] 0 false)
            .ok { s3 with sched := { s3.sched with launch := s3.sched.launch ++ [l] } }

/-- When the wait began, and whether its timeout has expired. -/
def tkwSince (b : Bank) (now : Nat) : Nat × Bool :=
  match b.pipe.wait with
  | .tkw _ t _ e => (t, e)
  | _ => (now, false)

def execTkw (h : Hdr) (o : YOps) (s : State) : Host.Outcome State Fault Refusal :=
  word (.tkw h o) s fun s =>
    let c := s.iss.ctx
    let b := s.cur
    let (t, e) := tkwSince b (s.now c.core)
    match tkwCode s c (b.sreg o.sa.toNat) e with
    | none => .error (.stall, s.setCur { b with pipe := { b.pipe with wait := .tkw (b.sreg o.sa.toNat) t o.imm.toNat e } })
    | some v =>
      let s1 := s.setCur ({ b with pipe := { b.pipe with wait := .none } }.lockS o.sd.toNat v)
      .ok (afterAcquire s1 c (v = 0 ∨ v = 1) 3)

/-- The timeout of a TKW expires; nothing of a frozen core advances (R138). -/
def execTkwTimeout (c : Ctx) (s : State) : Host.Outcome State Fault Refusal :=
  let b := s.bank c
  match b.pipe.wait with
  | .tkw a t imm false =>
    .next (if imm ≠ 0 ∧ t + 64 * imm ≤ s.now c.core ∧ (s.core c.core).freeze = 0 then
      s.setBank c { b with pipe := { b.pipe with wait := .tkw a t imm true } } else s)
  | _ => .next s

/-- IMM x 64 cycles pass during an IDLE. -/
def execIdleTimeout (c : Ctx) (s : State) : Host.Outcome State Fault Refusal := .next (settleIdle c s)

/-! ### Domains: members, barriers, DSYNC -/

/-- The members of a thread's domain, by rank. -/
def State.members (s : State) (c : Ctx) : List Ctx := (s.node (s.bank c).th.node).members
/-- Cores of the members that have executed TEXIT. -/
def exitedMask (n : Node) : Word :=
  n.exited.foldl (fun m r => match n.members[r]? with
    | some c => m ||| (1#32 <<< c.core.val)
    | none => m) 0

def barOf (s : State) (core : Fin 32) (b : Nat) : Option Barrier := tabGet? (s.core core).bars b
def setBar (s : State) (core : Fin 32) (b : Nat) (x : Option Barrier) : State :=
  let k := s.core core
  s.setCore core { k with bars := match x with
    | some v => tabSet k.bars b v
    | none => tabDel k.bars b }

/-- Set or clear barrier `b` on every core of a domain. -/
def setBars (s : State) (cs : List Ctx) (b : Nat) (x : Option Barrier) : State := cs.foldl (fun s m => setBar s m.core b x) s

/-- BARA and BARW name it (R298). -/
def barNo (s : State) (o : MOps) : Nat := ((s.cur.sreg o.bs.toNat) + (o.off.extractLsb' 0 10).setWidth 32).toNat

/-- A wait of `c` ends with FENCE `all` at its domain scope. -/
def fenceWait (s : State) (c : Ctx) : State :=
  let b := s.bank c
  fenceOps (s.setBank c { b with pipe := { b.pipe with wait := .none } }) c 3 (domScope b)

/-- The members that wait in barrier `b` go on. -/
def releaseBar (s : State) (cs : List Ctx) (b : Nat) : State :=
  cs.foldl (fun s m => if (s.bank m).pipe.wait = .barw b then fenceWait s m else s) s

/-- Complete the phase of barrier `b` if every member has arrived or exited. -/
def barCheck (s : State) (c : Ctx) (b : Nat) : State :=
  let n := s.node (s.bank c).th.node
  match barOf s c.core b with
  | some x =>
    if x.node = (s.bank c).sys.nodeh ∧ (x.mask ||| exitedMask n) &&& (s.bank c).sys.mask = (s.bank c).sys.mask then
      releaseBar (setBars s n.members b none) n.members b
    else s
  | none => s

/-- An arrival (R298): none where it must wait. -/
def barArrive (s : State) (c : Ctx) (b : Nat) : Except (Stop × State) State :=
  let cs := s.members c
  let me := (s.bank c).sys.nodeh
  if cs.any fun m => match barOf s m.core b with
    | some x => x.node != me
    | none => false
  then .error (.stall, s)
  else
    let old := ((barOf s c.core b).map fun x => x.mask).getD 0
    if old.getLsbD c.core.val then .error (stopTrap 0x0F (BitVec.ofNat 32 b), s)
    else .ok (setBars s cs b (some { node := me, mask := old ||| (1#32 <<< c.core.val) }))

def execBara (h : Hdr) (o : MOps) (s : State) : Host.Outcome State Fault Refusal :=
  word (.bara h o) s fun s =>
    let c := s.iss.ctx
    let b := barNo s o
    if 1024 ≤ b then .error (stopTrap 0x0F (BitVec.ofNat 32 b), s)
    else match barArrive s c b with
      | .error e => .error e
      | .ok s1 => .ok (barCheck (wbAll s1 c.core (domScope s.cur)) c b)

def execBarw (h : Hdr) (o : MOps) (s : State) : Host.Outcome State Fault Refusal :=
  word (.barw h o) s fun s =>
    let c := s.iss.ctx
    let b := barNo s o
    if 1024 ≤ b then .error (stopTrap 0x0F (BitVec.ofNat 32 b), s)
    else match barArrive s c b with
      | .error e => .error e
      | .ok s1 =>
        let k := s1.bank c
        .ok (barCheck (s1.setBank c { k with pipe := { k.pipe with wait := .barw b } }) c b)

/-- The thread has arrived at a named barrier whose phase is not complete. -/
def atBarrier (s : State) (c : Ctx) : Bool :=
  (s.core c.core).bars.any fun e => e.2.node == (s.bank c).sys.nodeh && e.2.mask.getLsbD c.core.val

/-- KIND 011 commands that the thread has pushed and that have not completed. -/
def peerCopies (e : Engines) : Bool := e.cmds.any fun x => x.kind == .cpy && x.copy.kind == 3

/-- The peer writes that a member now sees: those whose writers are not gone (R25). -/
def seePeers (s : State) (c : Ctx) (gone : List Ctx) : State :=
  let l := (s.bank c).peerW.filter fun w => !gone.contains w.src
  let s1 := l.foldl (fun s w => healPool (s.setBank c ((s.bank c).scrWrite w.off w.val)) c w.off w.val.length) s
  s1.setBank c { s1.bank c with peerW := [] }

/-- PHASE advances, split commands count from 0 (R24, R216). -/
def phaseUp (s : State) (c : Ctx) : State :=
  let b := s.bank c
  s.setBank c { b with sys := { b.sys with phase := b.sys.phase + 1 }, eng := { b.eng with phases := b.eng.phases + 1, split := 0 } }

/-- A member that waits in DSYNC leaves it: what its core has cached since it arrived goes, so that its later accesses see what every
member did before its own DSYNC (R24, R153); then its boundary, and it goes on. -/
def leaveDsync (s : State) (c : Ctx) : State :=
  let s0 := afterAcquire s c true (domScope (s.bank c))
  let b := s0.bank c
  let b1 := landOn b (maskedRegs s0 c)
  let s1 := phaseUp (s0.setBank c { b1 with pipe := { b1.pipe with wait := .none } }) c
  boundary s1 c (s1.bank c) b.th.pc b.loops

/-- Members that exited and so count as arrived (R24). -/
def goneMembers (n : Node) : List Ctx := n.exited.filterMap fun r => n.members[r]?

/-- Every member has arrived at the phase barrier or exited. -/
def dsyncFull (n : Node) : Bool :=
  (List.range n.members.length).all fun r => n.dsync.getLsbD r || n.exited.contains r

/-- The last arrival releases the members that wait; PHASE increments in the DOM of every member, an exited one too (R24). -/
def dsyncRelease (s : State) (i : Nat) : State :=
  let n := s.node i
  if n.dsync ≠ 0 ∧ dsyncFull n then
    let s1 := s.setNode i { n with dsync := 0 }
    n.members.foldl (fun s m =>
      if (s.bank m).pipe.wait = .dsync then leaveDsync (seePeers s m (goneMembers n)) m
      else if (goneMembers n).contains m then phaseUp s m
      else s) s1
  else s

/-- The boundary of the member whose DSYNC is running: it sees its own bundle's results. -/
def dsyncOwn (s : State) (n : Node) : State :=
  let c := s.iss.ctx
  boundaryNow (phaseUp (seePeers s c (goneMembers n)) c)

def execDsync (h : Hdr) (o : MOps) (s : State) : Host.Outcome State Fault Refusal :=
  word (.dsync h o) s fun s =>
    let c := s.iss.ctx
    let b := s.cur
    if atBarrier s c then .error (stopTrap 0x0F 0x400, s)
    else if peerCopies b.eng then .error (.stall, endHelper c s)
    else
      let s1 := endHelper c (fenceOps s c 3 (domScope b))
      let i := b.th.node
      let n := s1.node i
      if b.sys.level = 0 then .ok (dsyncOwn s1 n)
      else
        let n1 := { n with dsync := n.dsync ||| (1#32 <<< b.th.rank) }
        let s2 := s1.setNode i n1
        if dsyncFull n1 then .ok (dsyncRelease (dsyncOwn s2 n1) i)
        else .ok (s2.setCur { s2.cur with pipe := { s2.cur.pipe with wait := .dsync } })

/-! ### Discard (R35 to R38) -/

/-- Launches of a thread that is gone: their results are dropped (R353). -/
def orphanLaunches (s : State) (c : Ctx) : State :=
  { s with sched := { s.sched with launch := s.sched.launch.map fun l => if l.who = some c then { l with who := none } else l } }

/-- A bank gives up its thread: the bank is free, its streams are unbound (R82, R333), and the core's other bank issues if it can. -/
def freeBank (s : State) (c : Ctx) : State :=
  let b := s.bank c
  leaveBank c (s.setBank c { b with phase := .free, frec := { b.frec with v := false }, dfault := none, discard := false,
                                    peerW := [], q := [], eng := { Engines.reset with nextId := b.eng.nextId },
                                    pipe := { b.pipe with
                                      wait := .none, inflight := [], locks := [], steps := [], early := [], routes := [], stall := 0 } })

/-- One member of a discarded node (R35). Its stores stand: those still waiting for charge are made, and its core's lines are written
back, so that the thread reads its own stores wherever it runs next (R146 item 1; log 26). -/
def discardMember (s0 : State) (c : Ctx) : State :=
  let s := wbAll (finishRoutes (finishSteps s0 c) c) c.core 3
  let s1 := freeTree (endLease (endHelper c (orphanLaunches s c)) c) c
  let s2 := pinsDiscard (releaseAllHandles s1 c) c
  let m := s2.member c
  let s3 := m.slots.foldl returnSlot (s2.setMember c { m with slots := [] })
  freeBank s3 c

/-- Barriers open for a node become idle (R299). -/
def closeBars (s : State) (h : Word) (cs : List Ctx) : State :=
  cs.foldl (fun s m =>
    let k := s.core m.core
    s.setCore m.core { k with bars := k.bars.filter fun e => e.2.node != h }) s

/-- Discard a node: every member, then back to the ready pool with its binding priority as a floor (R37, R50; log 26). A member that had
exited runs again with the others, from the last boundary of its own (DESIGN CHOICE, log 26: R37 names the bundle after the domain's
last DSYNC, which such a member may never have executed). -/
def discardNode (s : State) (i : Nat) : State :=
  let n := s.node i
  let ph := (n.members.head?.map fun m => (s.bank m).sys.phase).getD n.phase
  let s1 := closeBars (n.members.foldl discardMember s) (handleOf n.gen i) n.members
  let s2 := s1.setNode i { s1.node i with floor := n.bprio, members := [], exited := [], dsync := 0, phase := ph, binds := [] }
  becomeReady s2 i

/-- A member of the node runs monitor code. -/
def inMonitor (s : State) (i : Nat) : Bool :=
  (s.node i).members.any fun m => (s.bank m).tr.mode && (s.bank m).phase != .free && (s.bank m).phase != .exited

/-- A member in monitor mode puts the discard off until its RTE; the others stop issuing (R35, R38). -/
def discardDue (s : State) (i : Nat) : State :=
  if inMonitor s i then (s.node i).members.foldl (fun s m => let b := s.bank m; s.setBank m { b with discard := true }) s
  else discardNode s i

/-- A discard that monitor code put off takes effect once no member of the node is in monitor mode (R38). -/
def settleDiscard (c : Ctx) (s : State) : State :=
  let b := s.bank c
  if b.discard && b.phase != .free && !inMonitor s b.th.node then discardNode s b.th.node else s

/-- RTE (R340): the return of R232, and a discard that waits for it, at once (R38). A pending domain fault or engine fault is taken at
the first task-mode boundary (R239). -/
def execRte (h : Hdr) (o : YOps) (s : State) : Host.Outcome State Fault Refusal :=
  match runWord (.rte h o) s (fun s => .ok (settleDiscard s.iss.ctx (trapReturn s.iss.ctx s))) with
  | .ok t => .next (t.verdict .diverted)
  | .error (st, t) => .next (takeStop st t)

/-! ### TYIELD (R356) -/

/-- TEXIT's step 1: nothing of the thread is outstanding in engines or launches. -/
def quiet (s : State) (c : Ctx) : Bool :=
  (s.bank c).eng.cmds.isEmpty && !(s.sched.launch.any fun l => l.who == some c)

/-- A ready single-class node that this core may run and whose priority reaches the thread's binding priority (R356): any, whether or not
its queue is open or it has been selected. -/
def yieldTo (s : State) (c : Ctx) : Bool :=
  let p := (s.node (s.bank c).th.node).bprio
  s.sched.nodes.any fun e => e.2.st == .ready && e.2.desc.cls == .single && affAllows e.2.desc.aff (clusterOf c.core) &&
    decide (p ≤ effPrio s e.1)

def execTyield (h : Hdr) (o : YOps) (s : State) : Host.Outcome State Fault Refusal :=
  match runWord (.tyield h o) s (fun s =>
      let c := s.iss.ctx
      let b := s.cur
      if b.sys.level ≠ 0 then .ok s
      else
        if !quiet s c || (locksOn b (maskedRegs s c)).any fun k => !k.ready then .error (.stall, s)
        else
          let s1 := boundaryNow s
          .ok (if yieldTo s1 c then discardNode s1 b.th.node else s1)) with
  | .ok t => .next (t.verdict (if (t.bank s.iss.ctx).phase = .free ∧ s.cur.phase ≠ .free then .diverted else .done))
  | .error (st, t) => .next (takeStop st t)

/-! ### TEXIT (R350, R233, R27) -/

/-- A monitor's TEXIT cancels the commands that an engine fault has stopped. -/
def cancelStopped (e : Engines) : Engines :=
  { e with mx := e.mx.cancelStopped, de := e.de.cancelStopped, ci := e.ci.cancelStopped, co := e.co.cancelStopped }

/-- Members of a domain that still run take a domain fault when a monitor ends a member (R27); INFO of the record is the domain's mask
(R238). -/
def domainFault (s : State) (c : Ctx) : State :=
  let n := s.node (s.bank c).th.node
  let live := n.members.filter fun m => m != c && !(goneMembers n).contains m
  if live.isEmpty then s
  else
    let s1 := crock (crockThread s c 4 0x12 (s.bank c).sys.mask.toNat) s
    live.foldl (fun s m => let b := s.bank m; s.setBank m { b with dfault := some c.core.val }) s1

/-- Every open barrier and the phase barrier of a node count the member as arrived (R24, R298). -/
def countExited (s : State) (c : Ctx) (i : Nat) : State :=
  dsyncRelease ((s.core c.core).bars.foldl (fun s e => barCheck s c e.1) s) i

/-- The last member has exited: every barrier that the node left open has all its members and is idle (R298), the banks are free and the
node completes (R16, R27). -/
def nodeOver (s : State) (i : Nat) : State :=
  let n := s.node i
  completeNode (n.members.foldl freeBank (closeBars s (handleOf n.gen i) n.members)) i

/-- Steps 2 to 5 of TEXIT. -/
def retireThread (s : State) (c : Ctx) : State :=
  let i := (s.bank c).th.node
  let s1 := wbAll (commitSlots (finishRoutes (finishSteps s c) c) c) c.core 3
  let s2 := freeTree (endLease (pinsRelease (releaseAllHandles s1 c) c) c) c
  let b := s2.bank c
  let s3 := endHelper c (s2.setBank c { b with q := [], eng := { b.eng with wantMx := false }, dfault := none,
                                                phase := .exited, pipe := { b.pipe with wait := .none } })
  let s4 := if b.tr.mode then domainFault s3 c else s3
  let n := s4.node i
  let s5 := s4.setNode i { n with exited := n.exited ++ [b.th.rank] }
  if (s5.node i).exited.length < n.members.length then leaveBank c (countExited s5 c i) else nodeOver s5 i

/-- TEXIT's wait ends when step 1 allows. -/
def settleTexit (c : Ctx) (s : State) : State :=
  if (s.bank c).pipe.wait = .texit then
    let b := s.bank c
    let s1 := if b.tr.mode then s.setBank c { b with eng := cancelStopped b.eng } else s
    if quiet s1 c then retireThread s1 c else s1
  else s

/-- TEXIT: the helper ends (R30) and the wait begins, which ends at once where nothing is outstanding. In monitor mode it writes the
record of R233. -/
def execTexit (h : Hdr) (o : YOps) (s : State) : Host.Outcome State Fault Refusal :=
  match runWord (.texit h o) s (fun s =>
      let c := s.iss.ctx
      let b := s.cur
      let s1 := if b.tr.mode then crock (crockThread s c 3 (b.tr.ecause.toNat % 256) b.tr.eval.toNat) s else s
      .ok (settleTexit c (endHelper c (s1.setCur { s1.cur with pipe := { s1.cur.pipe with wait := .texit } })))) with
  | .ok t => .next (t.verdict .diverted)
  | .error (st, t) => .next (takeStop st t)

end Sys2Proof.Machine
end

