-- ==== Sys2Proof/Machine/Banks.lean ====
section
/-! DEFINITION. The events of banks and clusters that no word performs: results that land, engine faults and fault answers,
quanta and stalls, correctable errors, the matrix lease and the charge-budget bucket (R84, R85, R17, R133, R138, R209, R229,
R234, R241 to R243, R403). -/

namespace Sys2Proof.Machine

/-! ### Results that land -/

/-- INTERLOCKED_WRITE_LAND: the first result that exists lands (R85); nothing of a frozen core advances (R138). -/
def execInterlockedWriteLand (c : Ctx) (s : State) : Host.Outcome State Fault Refusal :=
  let b := s.bank c
  .next (match b.pipe.locks.find? fun l => l.ready with
    | some l => if (s.core c.core).freeze = 0 then s.setBank c (landLock b l) else s
    | none => s)

/-- FIXED_LATENCY_VISIBLE: the writes that are due land (R84). -/
def execFixedLatencyVisible (c : Ctx) (s : State) : Host.Outcome State Fault Refusal :=
  let b := s.bank c
  .next (s.setBank c (landDue b b.pipe.cyc))

/-! ### Engine faults and domain faults -/

/-- The fault that is taken first: matrix, copy, data (R231). -/
def firstFault (l : List EngFault) : Option EngFault :=
  ((l.filter fun f => f.fifo == .mx) ++ (l.filter fun f => f.fifo == .ci || f.fifo == .co) ++
    (l.filter fun f => f.fifo == .de)).head?

/-- ECAUSE.ENG and SRC of an engine. -/
def engNo (f : FifoId) : BitVec 3 :=
  match f with
  | .mx => 1
  | .ci => 2
  | .co => 2
  | .de => 3
def engSrc (f : FifoId) : BitVec 4 :=
  match f with
  | .ci => 4
  | .co => 4
  | .mx => 5
  | .de => 6

/-- The bank stands at a bundle boundary: no word that has issued is still in its wait. A stalled bundle has not issued. -/
def atBoundary (b : Bank) : Bool :=
  match b.pipe.wait with
  | .none => true
  | .tkw .. => true
  | .pop .. => true
  | _ => false

/-- The issuing bank of a core that neither switches nor is frozen. -/
def activeBank (s : State) (c : Ctx) : Bool :=
  let k := s.core c.core
  k.issuing == some c.bank && k.switch == 0 && k.freeze == 0 && (s.bank c).phase == .ready

/-- A pending engine fault can be taken: at a task-mode boundary with no domain fault due, or during TEXIT's wait, which is no boundary
(R350; a domain fault then waits for the boundary after RTE); with no discard due (R38), and no memory step of an earlier word left to
perform (R132). -/
def takesFault (s : State) (c : Ctx) : Bool :=
  let b := s.bank c
  activeBank s c && !b.tr.mode && !b.discard && b.pipe.steps.isEmpty && (atBoundary b && b.dfault.isNone || b.pipe.wait == .texit)

/-- Take one engine fault. -/
def takeEngFault (s : State) (c : Ctx) (f : EngFault) : State :=
  let b := s.bank c
  let s1 := s.setEng c { b.eng with faults := b.eng.faults.filter fun x => x != f }
  if f.code = 0x07 then pageBlock c 0x07 (f.vah ++ f.eval) (engSrc f.fifo) f.cf s1
  else trapEntry c { code := f.code, eval := f.eval, vah := f.vah, slot := s1.freeSlot, fetch := false, eng := engNo f.fifo,
                     epc := b.th.pc } s1.bump

/-- ENGINE_FAULT_TAKEN: an IDLE that waits ends with code 2 first (R314). -/
def execEngineFaultTaken (c : Ctx) (s : State) : Host.Outcome State Fault Refusal :=
  let s1 := if (s.bank c).eng.faults.isEmpty then s else settleIdle c s
  .next (match firstFault (s1.bank c).eng.faults with
    | some f => if takesFault s1 c then takeEngFault s1 c f else s1
    | none => s)

/-- DOMAIN_FAULT_TAKEN (R27). -/
def execDomainFaultTaken (c : Ctx) (s : State) : Host.Outcome State Fault Refusal :=
  let b := s.bank c
  .next (match b.dfault with
    | some k =>
      if activeBank s c && !b.tr.mode && !b.discard && b.pipe.steps.isEmpty && atBoundary b then
        trapEntry c { code := 0x12, eval := BitVec.ofNat 32 k, vah := 0, slot := s.freeSlot, fetch := false, eng := 0, epc := b.th.pc }
          (s.bump.setBank c { b with dfault := none })
      else s
    | none => s)

/-! ### Fault answers (R133) -/

/-- The answer matches the record of a blocked bank; its V clears. -/
def answered (s : State) (c : Ctx) (seq : BitVec 16) : Option State :=
  let b := s.bank c
  if b.frec.v ∧ b.frec.seq = seq ∧ b.phase = .pageFault then some (s.setBank c { b with frec := { b.frec with v := false } })
  else none

/-- FRESP_RETRY: the bundle re-executes, an engine goes on at its STEP. -/
def execFrespRetry (c : Ctx) (seq : BitVec 16) (s : State) : Host.Outcome State Fault Refusal :=
  .next (match answered s c seq with
    | none => s
    | some s1 =>
      let b := s1.bank c
      bankReady c (if b.frec.cause = 0x07 then s1.setEng c b.eng.resume else s1))

/-- ECAUSE.ENG by the record's SRC. -/
def srcEng (src : BitVec 4) : BitVec 3 :=
  match src.toNat with
  | 4 => 2
  | 5 => 1
  | 6 => 3
  | _ => 0

/-- FRESP_DELIVER: the recorded cause is delivered as a trap. -/
def execFrespDeliver (c : Ctx) (seq : BitVec 16) (s : State) : Host.Outcome State Fault Refusal :=
  .next (match answered s c seq with
    | none => s
    | some s1 =>
      let b := s1.bank c
      let r := b.frec
      bankReady c (trapEntry c { code := r.cause, eval := r.va.extractLsb' 0 32, vah := r.va.extractLsb' 32 16, slot := r.slot,
                                 fetch := r.src == 2, eng := srcEng r.src, epc := b.th.pc } s1))

/-! ### Monitor limit, quantum, stalls -/

/-- MONITOR_LIMIT_EXPIRY: 2^22 issue cycles in monitor mode (R234); not of a frozen core (R138). No cause is raised: CODE of the record
is 0 (DESIGN CHOICE, log 49). -/
def execMonitorLimitExpiry (c : Ctx) (s : State) : Host.Outcome State Fault Refusal :=
  let b := s.bank c
  .next (if b.tr.mode ∧ 2 ^ 22 ≤ b.pipe.mon ∧ b.pipe.wait ≠ .texit ∧ (s.core c.core).freeze = 0 then
    settleTexit c (doubleFault c 0 true false s) else s)

/-- The issuing bank of a core that neither switches nor is frozen (R138). -/
def issuer (s : State) (core : Fin 32) : Option Ctx :=
  let k := s.core core
  if k.switch = 0 ∧ k.freeze = 0 then k.issuing.map fun b => { core := core, bank := b } else none

/-- 20 µs in reference periods. -/
def quantum : Nat := 38000

/-- QUANTUM_EXPIRY: a bank in monitor mode keeps the core until its RTE (R225). -/
def execQuantumExpiry (core : Fin 32) (s : State) : Host.Outcome State Fault Refusal :=
  .next (match issuer s core with
    | none => s
    | some c =>
      let b := s.bank c
      if s.time < b.pipe.since + quantum ∨ b.tr.mode then s
      else if s.isReady (otherBank c) then switchTo (otherBank c) s
      else s.setBank c { b with pipe := { b.pipe with since := s.time } })

/-- STALL_LIMIT_EXPIRY: more than 64 consecutive stall cycles and a ready other bank. -/
def execStallLimitExpiry (core : Fin 32) (s : State) : Host.Outcome State Fault Refusal :=
  .next (match issuer s core with
    | none => s
    | some c => if 64 < (s.bank c).pipe.stall ∧ s.isReady (otherBank c) then switchTo (otherBank c) s else s)

/-! ### Correctable errors (R138, R140) -/

/-- ECC_CORRECTABLE_FREEZE: the error counts; pools, L1s and the near tier freeze the core. `freeze` holds the cycles that
remain, plus one. -/
def execEccCorrectableFreeze (core : Fin 32) (st : Fin 5) (s : State) : Host.Outcome State Fault Refusal :=
  let k := s.core core
  let s1 := { s with mem := { s.mem with eccce := tabSet s.mem.eccce st.val (tabGet s.mem.eccce st.val 0 + 1) } }
  .next (if st.val < 3 ∧ k.freeze = 0 then s1.setCore core { k with freeze := 25 } else s1)

/-- FREEZE_END: the 24 cycles are over. -/
def execFreezeEnd (core : Fin 32) (s : State) : Host.Outcome State Fault Refusal :=
  let k := s.core core
  .next (if k.freeze = 1 then s.setCore core { k with freeze := 0 } else s)

/-- L1_CAPACITY_EVICTION: a line goes, its dirty bytes written back (R118); an uncorrectable error in a dirty line loses them (R139). -/
def execL1CapacityEviction (core : Fin 32) (line : Nat) (s : State) : Host.Outcome State Fault Refusal := .next (evictLine s core line)

/-! ### The matrix lease (R209) -/

/-- Bank `k` of a cluster, 0 to 7: (core 4c, A), (4c, B), … -/
def clusterBank (cl k : Nat) : Ctx := ctxOf (8 * cl + k)

/-- A thread that requests the array. -/
def wantsLease (s : State) (c : Ctx) : Bool :=
  let b := s.bank c
  b.phase != .free && b.phase != .exited && (b.eng.wantMx || (!b.eng.mx.run && b.eng.mx.q.head?.any Cmd.needsLease))

/-- LEASE_GRANT: the next requester after the last holder. -/
def execLeaseGrant (cl : Fin 8) (s : State) : Host.Outcome State Fault Refusal :=
  let k := s.cluster cl.val
  .next (if k.lease.isSome then s
    else match ((List.range 8).map fun i => (k.lastH + 1 + i) % 8).find? fun i => wantsLease s (clusterBank cl.val i) with
      | none => s
      | some i =>
        let c := clusterBank cl.val i
        let n := (s.bank c).sys.leaseq.toNat % 2 ^ 16
        let l : Lease := { holder := c, left := max 1 n, since := s.time }
        let s1 := s.setCluster cl.val { k with lease := some l, lastH := i }
        s1.setEng c { (s1.bank c).eng with wantMx := false })

/-- LEASE_TIMEOUT: a command that runs completes first. -/
def execLeaseTimeout (cl : Fin 8) (s : State) : Host.Outcome State Fault Refusal :=
  let k := s.cluster cl.val
  .next (match k.lease with
    | none => s
    | some l =>
      if s.time < l.since + 65536 then s
      else
        let q := (s.bank l.holder).eng.mx
        if q.run && q.q.head?.any Cmd.needsLease then s.setCluster cl.val { k with lease := some { l with left := 0 } }
        else endLease s l.holder)

/-! ### The charge-budget bucket (R241 to R243) -/

/-- An ECC freeze of the core whose bank asks keeps a request from being made; the Steamer asks for no core (R241). A frozen lease holder
freezes the array (R138). -/
def frozenReq (s : State) (cl : Nat) (r : ChargeReq) : Bool :=
  r.who != whoSteamer &&
  ((s.core (ctxOf r.bank).core).freeze != 0 ||
   (r.who == whoMatrix && (s.cluster cl).lease.any fun l => (s.core l.holder.core).freeze != 0))

def reqOf (b : Bucket) (who : Nat) : Option ChargeReq := b.reqs.find? fun r => r.who == who

/-- Grant a request, or refuse it; the eighth refusal in a row takes a reservation. -/
def grantOne (b : Bucket) (r : ChargeReq) : Bucket :=
  { b with level := b.level - r.weight, reqs := b.reqs.erase r, granted := b.granted ++ [r],
           refused := tabDel b.refused r.who, resv := b.resv.filter (fun w => w != r.who), last := r.who,
           units := b.units + r.weight }
def refuseOne (b : Bucket) (r : ChargeReq) : Bucket :=
  let n := tabGet b.refused r.who 0 + 1
  { b with refused := tabSet b.refused r.who n, anyRef := true,
           resv := if n = 8 && !b.resv.contains r.who then b.resv ++ [r.who] else b.resv }

/-- Serve the reservations in the order they were taken; a frozen holder keeps its reservation, and a requester that has gone
away loses it. -/
def serveResv (b : Bucket) (asleep : List ChargeReq) : List Nat → Bucket
  | [] => b
  | w :: r =>
    match reqOf b w with
    | none => if asleep.any fun x => x.who == w then b else serveResv { b with resv := b.resv.filter fun x => x != w } asleep r
    | some q => if q.weight ≤ b.level then serveResv (grantOne b q) asleep r else b

/-- The round-robin pass: nobody is granted while a reservation stands. -/
def grantPass (b : Bucket) : List Nat → Bucket
  | [] => b
  | w :: r =>
    match reqOf b w with
    | none => grantPass b r
    | some q => grantPass (if b.resv.isEmpty && q.weight ≤ b.level then grantOne b q else refuseOne b q) r

/-- A grant of a memory-step requester. -/
def stepGrant (r : ChargeReq) : Bool := decide (r.who < 16) && r.who % 4 == 1

/-- Memory steps that have been granted are performed. -/
def takeSteps (s : State) (cl : Nat) : State :=
  let b := (s.cluster cl).bucket
  (b.granted.filter stepGrant).foldl (fun s r => nextStep s (ctxOf r.bank))
    (s.setBucket cl { b with granted := b.granted.filter fun r => !stepGrant r })

/-- A requester that made no request in this cycle, or was granted, has not been refused in consecutive cycles. -/
def keepRefused (b : Bucket) : Bucket := { b with refused := b.refused.filter fun e => b.reqs.any fun r => r.who == e.1 }

/-- BUCKET_CYCLE: the reservations, then the round-robin pass, which begins after the requester granted last before this cycle, whatever
the reservations were granted in it (DESIGN CHOICE, log 43). -/
def execBucketCycle (cl : Fin 8) (s : State) : Host.Outcome State Fault Refusal :=
  let b := (s.cluster cl.val).bucket
  let asleep := b.reqs.filter (frozenReq s cl.val)
  let b1 := { b with level := min b.cap (b.level + b.cur), reqs := b.reqs.filter fun r => !frozenReq s cl.val r }
  let b2 := keepRefused (grantPass (serveResv b1 asleep b1.resv) ((List.range 19).map fun i => (b.last + 1 + i) % 19))
  .next (takeSteps (s.setBucket cl.val { b2 with reqs := asleep ++ b2.reqs, full := b2.full && b2.level == b2.cap }) cl.val)

/-- TEFF: the lower of TARGET and the thermal cap. -/
def teff (k : Cluster) : Nat := match k.clk.thrCap with
  | some t => min t k.bucket.target
  | none => k.bucket.target

/-- A TEFF below CUR takes CUR down at once. -/
def clampCur (s : State) (cl : Nat) : State :=
  let k := s.cluster cl
  s.setBucket cl { k.bucket with cur := min k.bucket.cur (teff k) }

/-- Reference periods in a microsecond. -/
def perMicro : Nat := 1900

/-- REFILL_TICK: CUR changes once per microsecond of reference time (R243). -/
def execRefillTick (cl : Fin 8) (s : State) : Host.Outcome State Fault Refusal :=
  let k := s.cluster cl.val
  let b := k.bucket
  let cur := if b.anyRef then min (teff k) (b.cur + b.ramp) else if b.full then max b.min (b.cur - b.ramp) else b.cur
  .next (if s.time / perMicro ≤ b.tickAt / perMicro then s
    else s.setBucket cl.val { b with cur := cur, anyRef := false, full := true, tickAt := s.time })

end Sys2Proof.Machine
end

