-- ==== Sys2Proof/Machine/Crypto.lean ====
section
/-! DEFINITION. The symmetric primitives that the manual names by their standards, as those standards define them: AES-256 in
Galois/counter mode (R186, R268) and SHA3-256 (R266 to R269). The asymmetric ones stand in Config (log 9). -/

namespace Sys2Proof.Machine

/-! ### AES-256 -/

/-- Multiplication by x in the field of AES. -/
def xtime (a : Byte) : Byte := (a <<< 1) ^^^ (if a.getLsbD 7 then 0x1B else 0)

/-- Multiplication in the field of AES. -/
def gmul (a b : Byte) : Byte :=
  ((List.range 8).foldl (fun (x : Byte × Byte) i => (if b.getLsbD i then x.1 ^^^ x.2 else x.1, xtime x.2)) (0, a)).1

/-- a^254: the inverse, with 0 for 0. -/
def ginv (a : Byte) : Byte :=
  let a2 := gmul a a
  let a3 := gmul a2 a
  let a6 := gmul a3 a3
  let a12 := gmul a6 a6
  let a15 := gmul a12 a3
  let a30 := gmul a15 a15
  let a60 := gmul a30 a30
  let a120 := gmul a60 a60
  let a126 := gmul a120 a6
  let a127 := gmul a126 a
  gmul a127 a127

def rotl8 (a : Byte) (n : Nat) : Byte := (a <<< n) ||| (a >>> (8 - n))

/-- The S-box. -/
def aesSbox (a : Byte) : Byte :=
  let b := ginv a
  b ^^^ rotl8 b 1 ^^^ rotl8 b 2 ^^^ rotl8 b 3 ^^^ rotl8 b 4 ^^^ 0x63

/-- Xor of two byte strings. -/
def xorBytes (a b : List Byte) : List Byte := (a.zip b).map fun x => x.1 ^^^ x.2

/-- One more word of the key schedule: `w` holds the words so far, last first. -/
def aesKeyWord (w : List (List Byte)) (i : Nat) (rcon : Byte) : List Byte :=
  let prev := w.headD []
  let t := if i % 8 = 0 then xorBytes ((prev.drop 1 ++ prev.take 1).map aesSbox) [rcon, 0, 0, 0]
    else if i % 8 = 4 then prev.map aesSbox else prev
  xorBytes (w.getD 7 []) t

/-- The 60 words of AES-256's key schedule. -/
def aesSchedule (key : List Byte) : List (List Byte) :=
  let first := (List.range 8).map fun i => (key.drop (4 * i)).take 4
  let r := (List.range 52).foldl (fun (x : List (List Byte) × Byte) k =>
    let i := k + 8
    (aesKeyWord x.1 i x.2 :: x.1, if i % 8 = 0 then xtime x.2 else x.2)) (first.reverse, (1 : Byte))
  r.1.reverse

def roundKey (ks : List (List Byte)) (r : Nat) : List Byte := ((ks.drop (4 * r)).take 4).flatten

/-- SubBytes and ShiftRows: byte 4c + r comes from column c + r. -/
def subShift (st : List Byte) : List Byte := (List.range 16).map fun i => aesSbox (st.getD ((i + 4 * (i % 4)) % 16) 0)

def mixColumn (a : List Byte) : List Byte :=
  (List.range 4).map fun i =>
    gmul (a.getD i 0) 2 ^^^ gmul (a.getD ((i + 1) % 4) 0) 3 ^^^ a.getD ((i + 2) % 4) 0 ^^^ a.getD ((i + 3) % 4) 0
def mixColumns (st : List Byte) : List Byte := (List.range 4).flatMap fun c => mixColumn ((st.drop (4 * c)).take 4)

/-- One block of AES-256 under a key schedule. -/
def aesBlock (ks : List (List Byte)) (x : List Byte) : List Byte :=
  let st := (List.range 13).foldl (fun st r => xorBytes (mixColumns (subShift st)) (roundKey ks (r + 1))) (xorBytes x (roundKey ks 0))
  xorBytes (subShift st) (roundKey ks 14)

/-! ### Galois/counter mode -/

/-- A big-endian block as 128 bits. -/
def beBlock (b : List Byte) : BitVec 128 := BitVec.ofNat 128 (leNat b.reverse)
def blockBytes (x : BitVec 128) : List Byte := (natLe 16 x.toNat).reverse

/-- Multiplication in the field of GCM, the first bit highest. -/
def ghMul (x y : BitVec 128) : BitVec 128 :=
  ((List.range 128).foldl (fun (s : BitVec 128 × BitVec 128) i =>
    (if x.getLsbD (127 - i) then s.1 ^^^ s.2 else s.1,
     (s.2 >>> 1) ^^^ (if s.2.getLsbD 0 then (0xE1#128 <<< 120) else 0))) (0, y)).1

/-- Bytes cut into blocks of 16, the last filled with zeros. -/
def gcmBlocks (fuel : Nat) (b : List Byte) : List (List Byte) :=
  match fuel with
  | 0 => []
  | k + 1 => if b.isEmpty then [] else (b.take 16 ++ List.replicate (16 - min 16 b.length) 0) :: gcmBlocks k (b.drop 16)

def ghash (h : BitVec 128) (blocks : List (List Byte)) : BitVec 128 :=
  blocks.foldl (fun y b => ghMul (y ^^^ beBlock b) h) 0

/-- The counter block of a 12-byte IV. -/
def gcmCounter (iv : List Byte) (n : Nat) : List Byte := iv.take 12 ++ (natLe 4 n).reverse

/-- Counter-mode encryption, which is its own inverse. -/
def gcmStream (ks : List (List Byte)) (iv : List Byte) (n : Nat) : List (List Byte) → List Byte
  | [] => []
  | b :: r => xorBytes b (aesBlock ks (gcmCounter iv n)) ++ gcmStream ks iv (n + 1) r

def gcmCrypt (ks : List (List Byte)) (iv x : List Byte) : List Byte :=
  (gcmStream ks iv 2 (gcmBlocks (x.length + 1) x)).take x.length

/-- The tag over the additional data and the ciphertext. -/
def gcmTag (ks : List (List Byte)) (iv aad c : List Byte) : List Byte :=
  let h := beBlock (aesBlock ks (List.replicate 16 0))
  let len := (natLe 8 (8 * aad.length)).reverse ++ (natLe 8 (8 * c.length)).reverse
  let s := ghash h (gcmBlocks (aad.length + 1) aad ++ gcmBlocks (c.length + 1) c ++ [len])
  xorBytes (aesBlock ks (gcmCounter iv 1)) (blockBytes s)

def gcmSeal (key : BitVec 256) (iv aad plain : List Byte) : List Byte × List Byte :=
  let ks := aesSchedule (natLe 32 key.toNat)
  let c := gcmCrypt ks iv plain
  (c, gcmTag ks iv aad c)

/-- Authenticate and decrypt; none where the tag does not match. -/
def gcmOpen (key : BitVec 256) (iv aad c tag : List Byte) : Option (List Byte) :=
  let ks := aesSchedule (natLe 32 key.toNat)
  if gcmTag ks iv aad c = tag then some (gcmCrypt ks iv c) else none

/-! ### SHA3-256 -/

/-- Rotation offsets of Keccak's lanes, lane x + 5y. -/
def keccakRot : List Nat :=
  [0, 1, 62, 28, 27, 36, 44, 6, 55, 20, 3, 10, 43, 25, 39, 41, 45, 15, 21, 8, 18, 2, 61, 56, 14]

/-- Keccak's round constants from its shift register: one step, and the bit of step `t`. -/
def keccakStep (r : BitVec 8) : BitVec 8 := (r <<< 1) ^^^ (if r.getLsbD 7 then 0x71 else 0)
def keccakBits : List Bool :=
  ((List.range 168).foldl (fun (x : List Bool × BitVec 8) _ => (x.2.getLsbD 0 :: x.1, keccakStep x.2)) ([], (1 : BitVec 8))).1.reverse
def keccakRc (i : Nat) : DWord :=
  (List.range 7).foldl (fun v j => if keccakBits.getD (7 * i + j) false then v ||| (1#64 <<< (2 ^ j - 1)) else v) 0

def keccakLane (a : List DWord) (x y : Nat) : DWord := a.getD (x % 5 + 5 * (y % 5)) 0

def keccakRound (a : List DWord) (rc : DWord) : List DWord :=
  let c := (List.range 5).map fun x => keccakLane a x 0 ^^^ keccakLane a x 1 ^^^ keccakLane a x 2 ^^^ keccakLane a x 3 ^^^ keccakLane a x 4
  let d := (List.range 5).map fun x => c.getD ((x + 4) % 5) 0 ^^^ (c.getD ((x + 1) % 5) 0).rotateLeft 1
  let t := (List.range 25).map fun i => a.getD i 0 ^^^ d.getD (i % 5) 0
  -- lane (x, y) after rho and pi comes from lane (x + 3y, x)
  let b := (List.range 25).map fun i =>
    let x := i % 5
    let y := i / 5
    let j := (x + 3 * y) % 5 + 5 * x
    (t.getD j 0).rotateLeft (keccakRot.getD j 0)
  let e := (List.range 25).map fun i =>
    let x := i % 5
    let y := i / 5
    keccakLane b x y ^^^ (~~~(keccakLane b (x + 1) y) &&& keccakLane b (x + 2) y)
  (e.headD 0 ^^^ rc) :: e.drop 1

def keccakF (a : List DWord) : List DWord := (List.range 24).foldl (fun a i => keccakRound a (keccakRc i)) a

def absorb (a : List DWord) (b : List Byte) : List DWord :=
  keccakF ((List.range 25).map fun i => a.getD i 0 ^^^ BitVec.ofNat 64 (leNat ((b.drop (8 * i)).take 8)))

def sha3Blocks (fuel : Nat) (a : List DWord) (b : List Byte) : List DWord :=
  match fuel with
  | 0 => a
  | k + 1 => if b.length < 136 then a else sha3Blocks k (absorb a (b.take 136)) (b.drop 136)

/-- SHA3-256 of a byte string. -/
def sha3 (m : List Byte) : List Byte :=
  let n := 136 - m.length % 136
  let pad : List Byte := if n = 1 then [0x86] else (0x06 :: List.replicate (n - 2) 0) ++ [0x80]
  let a := sha3Blocks (m.length / 136 + 1) (List.replicate 25 0) (m ++ pad)
  (a.take 4).flatMap fun l => natLe 8 l.toNat

end Sys2Proof.Machine
end

