-- ==== Sys2Proof/Machine/Dispatching.lean ====
section
/-! DEFINITION. The scheduler's events: submission windows, selection, binding and the clear engine, ageing, pre-emption,
application nodes, the consumption of tile records, and the queue registers that have rows of their own (R16, R37, R40, R45,
R48 to R53, R57, R60 to R63, R82, R83). -/

namespace Sys2Proof.Machine

/-- The NPU domain is awake: its blocks answer (R252). -/
def State.awake (s : State) : Bool := s.plat.power == .on

/-! ### Submission windows (R40) -/

def setStaging (s : State) (hart : Nat) (x : Option Staging) : State :=
  { s with sched := { s.sched with staging := match x with
    | some v => tabSet s.sched.staging hart v
    | none => tabDel s.sched.staging hart } }

/-- WINDOW_SUBMIT_64: the descriptor is submitted at once, and the pieces that the same hart had gathered count no more. -/
def execWindowSubmit64 (q _slot : Fin 64) (x : LineStore) (s : State) : Host.Outcome State Fault Refusal :=
  .next (if s.awake then (acceptDesc (setStaging s x.hart none) q.val x.desc).1 else s)

/-- BAD_WRITE in the queue that the store addressed; the agent's buffer is emptied. -/
def badWrite (s : State) (p : PieceStore) : State :=
  setStaging (schedError s p.q.val 0x0A (BitVec.ofNat 32 (p.off.val / 64)) 0xFFFF) p.hart none

/-- Take a piece into the agent's buffer; the last piece submits. -/
def takePiece (s : State) (p : PieceStore) (x : Staging) : State :=
  let y := { x with pieces := tabSet x.pieces (p.off.val % 64 / 8) p.val }
  if p.off.val % 64 = 56 then
    if y.pieces.length = 8 then
      let d := (List.range 8).foldl (fun v i => v + (tabGet y.pieces i 0).toNat * 2 ^ (64 * i)) 0
      (acceptDesc (setStaging s p.hart none) p.q.val (BitVec.ofNat 512 d)).1
    else badWrite s p
  else setStaging s p.hart (some y)

/-- WINDOW_PIECE_STORE. -/
def execWindowPieceStore (p : PieceStore) (s : State) : Host.Outcome State Fault Refusal :=
  .next (if !s.awake then s
    else if p.size ≠ 8 ∨ p.off.val % 8 ≠ 0 then badWrite s p
    else match tabGet? s.sched.staging p.hart with
      | none => takePiece s p { q := p.q.val, slot := p.off.val / 64, pieces := [] }
      | some x => if x.q = p.q.val ∧ x.slot = p.off.val / 64 then takePiece s p x else badWrite s p)

/-! ### Selection and binding -/

/-- DISTRIBUTOR_SELECTION: one cycle. -/
def execDistributorSelection (s : State) : Host.Outcome State Fault Refusal := .next (if s.awake && !s.plat.slp.busy then distribute s else s)

/-- What a read by the scheduler comes to: bytes; a wait for a frame that migrates; or a failure, with what it records. -/
inductive SideRead where
  | ok (s : State) (b : List Byte)
  | wait
  | fail (s : State)

/-- The scheduler reads a range of the node's address space (R41): each piece's checks, then its bytes. The window is the bound thread's
scratchpad (R117). -/
def sideRead (s : State) (c : Ctx) : List (Nat × Nat) → SideRead
  | [] => .ok s []
  | (va, n) :: r =>
    match reach s c false va n .rd true with
    | .error (.mig, _) => .wait
    | .error (.ue strc key, s1) => .fail (foundUe s1 (some c) strc key)
    | .error (_, s1) => .fail s1
    | .ok (s1, l) =>
      match sideRead s1 c r with
      | .ok s2 b => .ok s2 ((match l with
          | .sp o => (s1.bank c).scrBytes o n
          | .pa pa => sysBytes s1 pa n) ++ b)
      | x => x

/-- A binding entry (R149). -/
def bindEntryOf (x : Nat) : BindEntry :=
  { start := bits x 0 48, size := bits x 64 48, sync := BitVec.ofNat 48 (bits x 128 48), scope := BitVec.ofNat 2 (bits x 192 2) }

/-- A declared tile operand (R41): its start, its size, and the access that its mode names; a reserved mode names none. -/
structure TileOperand where
  start : Nat
  size  : Nat
  acc   : Option Acc
  deriving DecidableEq, Repr

def tileOperandOf (x : Nat) : TileOperand :=
  { start := bits x 0 48, size := bits x 64 48,
    acc := match bits x 56 2 with
      | 0 => some .rd
      | 1 => some .wr
      | 2 => some .wr
      | _ => none }

/-- Translate `n` pages from `va` up for a core's TLBs. The walks set no A or D bit, and a page without a translation is passed over
(R130). -/
def warmPages (s : State) (c : Ctx) (satp : DWord) (acc : Acc) (va : Nat) : Nat → State
  | 0 => s
  | n + 1 =>
    let s1 := if inWindow va then s else (match translate s c.core satp va acc false with
      | .ok (t, _) => t
      | .error _ => s)
    warmPages s1 c satp acc (va + 4096) n

/-- The scheduler warms the TLBs of a bound core with the declared operands' translations (R41). -/
def warmOperands (s : State) (c : Ctx) (satp : DWord) (l : List TileOperand) : State :=
  l.foldl (fun s x => match x.acc with
    | some acc => warmPages s c satp acc (x.start / 4096 * 4096) ((x.start % 4096 + x.size + 4095) / 4096)
    | none => s) s

/-- Cycles of the clear engine (R83). -/
def clearCycles (w : DWord) : Nat :=
  let x := w.toNat
  8 * (bits x 0 4 + (if bitOf x 63 then bits x 8 8 + ((List.range 8).map (partBank w)).sum else 0)) + 1

/-- System registers at dispatch (R82). -/
def dispatchSys (s : State) (n : Node) (banks : List Ctx) (h : Word) : SysRegs :=
  { SysRegs.reset with
    partw := n.desc.partw &&& partwMask, phase := n.phase, mask := banks.foldl (fun m c => m ||| (1#32 <<< c.core.val)) 0,
    level := BitVec.ofNat 2 (levelFor banks.length), nodeh := h, rowm := n.rowm, xpol := s.res.xpoldef &&& xpolMask,
    paceMx := (s.pwr.pacedef.extractLsb' 0 16).setWidth 32, paceCp := (s.pwr.pacedef.extractLsb' 16 16).setWidth 32,
    paceDe := (s.pwr.pacedef.extractLsb' 32 16).setWidth 32 }

/-- A bank as the clear engine finds it: everything that R82 lists is at its value, and the trap registers that R82 does not
list keep theirs. -/
def freshBank (b : Bank) (th : Thread) (sys : SysRegs) (left : Nat) : Bank :=
  { Bank.reset with
    phase := .clearing left, th := th, sys := sys, tr := { b.tr with mode := false, xfer := 0, af := 0 },
    eng := { Engines.reset with nextId := b.eng.nextId }, frec := { b.frec with v := false } }

/-- The banks of a node are bound and their clear engines start (R16 steps 1, 3 and 4). -/
def bindBanks (s : State) (i : Nat) (banks : List Ctx) : State :=
  let n := s.node i
  let h := handleOf n.gen i
  let sys := dispatchSys s n banks h
  ((List.range banks.length).zip banks).foldl (fun s x =>
    let c := x.2
    let b := s.bank c
    let th : Thread := { node := i, rank := x.1, entry := n.desc.entry, pc := n.desc.entry, args := n.desc.args,
                         satp := tabGet s.mem.qatp n.queue 0, queue := n.queue }
    let s1 := { s with mem := { s.mem with bad := s.mem.bad.filter fun y => !(y.1 == 0 && y.2 / 2 ^ 24 == ctxIx c) } }
    s1.setBank c (freshBank b th sys (clearCycles n.desc.partw))) (banks.foldl (fun s c => invAll s c.core 3) s)

/-- A binding that fails gives its banks back. -/
def unbind (s : State) (i : Nat) (banks : List Ctx) : State :=
  failDispatch (banks.foldl (fun s c => s.setBank c { s.bank c with phase := .free }) s) i

/-- The reservation that a gang held ends when it binds (R52). -/
def endResv (r : Option (Nat × List Nat)) (i : Nat) : Option (Nat × List Nat) := r.filter fun x => x.1 != i

/-- What the scheduler reads of a node's side table, from its first bank. -/
def nodeSide (s : State) (i : Nat) : SideRead :=
  let n := s.node i
  sideRead s (n.members.headD (ctxOf 0)) (pagePieces 3 n.desc.side.toNat (32 * n.desc.nbind + 16 * n.desc.nops))

/-- R16 steps 2 to 4 for a bound node: its side table is read, and its clear engines start. While a frame of the table migrates its banks
stay bound and nothing further begins (R134); selections after it bind meanwhile. -/
def startNode (s : State) (i : Nat) : State :=
  let n := s.node i
  let d := n.desc
  let phase (s : State) (p : Phase) : State := n.members.foldl (fun s c => s.setBank c { s.bank c with phase := p }) s
  match nodeSide s i with
  | .wait => phase s .bound
  | .fail s1 => unbind s1 i n.members
  | .ok s1 b =>
    let v := leNat b
    let ops := (List.range d.nops).map fun k => tileOperandOf (bits v (256 * d.nbind + 128 * k) 128)
    let s2 := s1.setNode i { s1.node i with binds := (List.range d.nbind).map fun k => bindEntryOf (bits v (256 * k) 256) }
    phase (n.members.foldl (fun s m => warmOperands s m (s.bank m).th.satp ops) s2) (.clearing (clearCycles d.partw))

/-- A bound node whose side table has still to be read, and can be read now. -/
def sideDue (s : State) : Option Nat :=
  (s.sched.nodes.find? fun e => e.2.st == .bound && e.2.members.any (fun c => (s.bank c).phase == .bound) &&
    (match nodeSide s e.1 with
      | .wait => false
      | _ => true)).map Prod.fst

/-- Bind a selection (R50): binding always completes; then come the partition word and the side table (R16 steps 1 and 2). -/
def bindNode (s : State) (x : Selection) : State :=
  let i := x.node
  let s1 := leavePool { s with sched := { s.sched with
    sel := s.sched.sel.filter fun y => y != x, bindSeq := s.sched.bindSeq + 1, resv := endResv s.sched.resv i } } i
  let s2 := s1.setNode i { s1.node i with st := .bound, members := x.banks, bprio := x.prio, bseq := s.sched.bindSeq }
  let s3 := bindBanks s2 i x.banks
  if partFits (s3.node i).desc.partw then startNode s3 i else unbind s3 i x.banks

/-- BINDING: the oldest selection whose two cycles are over; before it a bound node whose side table no longer waits. -/
def execBinding (s : State) : Host.Outcome State Fault Refusal :=
  .next (match sideDue s, s.sched.sel.find? fun x => decide (x.at_ + 2 ≤ s.time) with
    | some i, _ => startNode s i
    | none, some x => bindNode s x
    | none, none => s)

/-! ### The clear engine (R82, R37) -/

/-- s1 to s8, then the restart: masked scalars, loops, ROT, PROT, restart point. -/
def launchRegs (s : State) (c : Ctx) : Bank :=
  let b := s.bank c
  let d := (s.node b.th.node).desc
  let put (b : Bank) (n : Nat) (v : Word) : Bank := landWrite b (.s n v (BitVec.allOnes 32))
  let b1 := put (put b 1 (d.args.extractLsb' 0 32)) 2 ((d.args.extractLsb' 32 16).setWidth 32)
  let b2 := (List.range 6).foldl (fun b k => put b (3 + k) (d.lv.getD k 0)) b1
  match (s.member c).restart with
  | none => b2
  | some r =>
    let regs := (List.range 64).filter fun n => r.mask.getLsbD n
    let b3 := ((List.range regs.length).zip regs).foldl (fun b x => put b x.2 (r.words.getD x.1 0)) b2
    { b3 with loops := r.loops, th := { b3.th with pc := r.rpc } }

/-- The restart point at a first dispatch is the code entry, with an empty mask (R32). -/
def firstRestart (s : State) (c : Ctx) : State :=
  let m := s.member c
  match m.restart with
  | some _ => s
  | none => s.setMember c { m with restart := some { words := List.replicate 16 0, rpc := (s.bank c).th.entry, mask := 0,
                                                     loops := .reset } }

/-- CLEAR_ENGINE_DONE. -/
def execClearEngineDone (c : Ctx) (s : State) : Host.Outcome State Fault Refusal :=
  .next (if (s.bank c).phase = .clearing 0 ∧ (s.core c.core).freeze = 0 then
    let s1 := firstRestart s c
    bankReady c (s1.setBank c (launchRegs s1 c))
  else s)

/-! ### Ageing and pre-emption -/

/-- NODE_AGEING (R48). With AGE = 0 a node is always due, and each event raises it by one (DESIGN CHOICE, log 17). -/
def execNodeAgeing (n : NodeIx) (s : State) : Host.Outcome State Fault Refusal :=
  let x := s.node n.val
  .next (if x.st = .ready ∧ x.since + (x.aged + 1) * s.sched.age.toNat ≤ s.time then
    s.setNode n.val { x with aged := x.aged + 1 } else s)

/-- A bound or running node whose thread on a bank may be a victim. -/
structure PreVictim where
  node : Nat
  prio : Nat
  seq  : Nat
  core : Nat
  deriving DecidableEq, Repr

/-- Lowest binding priority, then most recently bound, then highest core. -/
def PreVictim.before (x y : PreVictim) : Bool :=
  decide (x.prio < y.prio) || (x.prio == y.prio && (decide (y.seq < x.seq) || (x.seq == y.seq && decide (y.core < x.core))))

def insertPre (x : PreVictim) : List PreVictim → List PreVictim
  | [] => [x]
  | y :: r => if x.before y then x :: y :: r else y :: insertPre x r

/-- Cores on which room is made: AFF's for a single node, the reserved span for a gang. -/
def roomCores (s : State) (i : Nat) : List Nat :=
  if (s.node i).desc.cls = .gang then (match s.sched.resv with
    | some (n, cs) => if n = i then cs else reserveSpan s i
    | none => reserveSpan s i)
  else (List.range 32).filter fun k => affAllows (s.node i).desc.aff (k / 4) && !s.reserved i k

/-- Victims in order. -/
def preVictims (s : State) (i : Nat) : List PreVictim :=
  let cores := roomCores s i
  let p := effPrio s i
  let all := s.sched.nodes.flatMap fun e =>
    if (e.2.st == .bound || e.2.st == .running) && decide (e.2.bprio < p) then
      (e.2.members.filter fun c => cores.contains c.core.val && (s.bank c).phase != .exited).map fun c =>
        ({ node := e.1, prio := e.2.bprio, seq := e.2.bseq, core := c.core.val } : PreVictim)
    else []
  all.foldl (fun l v => insertPre v l) []

/-- A bank that is free, or will be when its discard is due (R53). -/
def willFree (s : State) (c : Ctx) : Bool := s.bankFree c || (s.bank c).discard

/-- The node fits as far as banks go. -/
def fitsNow (s : State) (i : Nat) : Bool :=
  let has (k : Nat) : Bool := [0, 1].any fun b => willFree s (ctxOf (2 * k + b))
  let n := if (s.node i).desc.cls = .gang then (s.node i).desc.gsize + 1 else 1
  decide (n ≤ ((roomCores s i).filter has).length)

def preempt (s : State) (i : Nat) : List PreVictim → State
  | [] => s
  | v :: r =>
    if fitsNow s i then s
    else
      let n := s.node v.node
      preempt (if n.st = .bound ∨ n.st = .running then discardDue s v.node else s) i r

/-- PREEMPT_TRIGGER (R53). -/
def execPreemptTrigger (cls : NodeClass) (s : State) : Host.Outcome State Fault Refusal :=
  .next (match tabGet? s.sched.first (classIx cls) with
    | some (i, t) =>
      if (cls = .single ∨ cls = .gang) ∧ s.sched.preempt ≠ 0 ∧ t + s.sched.preempt.toNat ≤ s.time ∧ (s.node i).st = .ready ∧
        !(s.sched.sel.any fun x => x.node == i) then preempt s i (preVictims s i)
      else s
    | none => s)

/-! ### Application nodes (R45) -/

/-- APP_NODE_CLAIM: the first application node that may be selected. -/
def execAppNodeClaim (n : NodeIx) (s : State) : Host.Outcome State Fault Refusal :=
  .next (if s.awake ∧ !s.plat.slp.busy ∧ (s.candidates .application).head? = some n.val then
    let s1 := leavePool s n.val
    s1.setNode n.val { s1.node n.val with st := .running }
  else s)

/-- APP_NODE_COMPLETE. -/
def execAppNodeComplete (n : NodeIx) (s : State) : Host.Outcome State Fault Refusal :=
  let x := s.node n.val
  .next (if s.awake ∧ x.st = .running ∧ x.desc.cls = .application then completeNode s n.val else s)

/-! ### Tile records (R59 to R63, R352, R353) -/

/-- A descriptor of a disabled or stopped queue is dropped (R43). -/
def dropQ (s : State) (q : Nat) : State :=
  let x := s.queue q
  s.setQueue q { x with qdrop := x.qdrop + 1 }

/-- The head consumption: the residency unit's first. -/
def headLaunch (s : State) : Option Launch := match s.sched.resid.head? with
  | some l => some l
  | none => s.sched.launch.head?

/-- Change or remove the head consumption. -/
def setHeadLaunch (s : State) (x : Option Launch) : State :=
  let go (l : List Launch) : List Launch := match x with
    | some v => v :: l.drop 1
    | none => l.drop 1
  if s.sched.resid.isEmpty then { s with sched := { s.sched with launch := go s.sched.launch } }
  else { s with sched := { s.sched with resid := go s.sched.resid } }

/-- Records of 32 bytes out of a run of bytes. -/
def recordsOf (x : Nat) (n : Nat) : List (BitVec 256) := (List.range n).map fun i => BitVec.ofNat 256 (bits x (256 * i) 256)

/-- The array as the scheduler reads it, through the translations made at issue. -/
def launchRecords (s : State) (l : Launch) : List (BitVec 256) :=
  let b := ((arrayPieces l.addr (32 * l.count)).zip l.pages).flatMap fun x => sysBytes s x.2 x.1.2
  recordsOf (leNat b) l.count

/-- The uncorrectable errors that the read meets are recorded (R139). -/
def launchUe (s : State) (l : Launch) : State :=
  ((arrayPieces l.addr (32 * l.count)).zip l.pages).foldl (fun s x => unitUe s x.2 x.1.2 .rd) s

/-- Arrays that wait are read now: accesses that have translated complete before a shootdown is acknowledged (R131), and before a
frame of theirs begins to migrate (R134). -/
def readLaunches (s : State) : State :=
  let s1 := (s.sched.launch.filter fun l => l.recs.isEmpty).foldl launchUe s
  { s1 with sched := { s1.sched with launch := s1.sched.launch.map fun l =>
      if l.recs.isEmpty then { l with recs := launchRecords s l } else l } }

/-- Every access that has translated completes: arrays that wait, and the memory steps of issued words (R131, R134). What has been read
ahead is read anew, by the new translation and in its new place. -/
def completeAccesses (s : State) : State := dropEarly (readLaunches (finishAll s))

/-- RECORD_CONSUMPTION: the next TLAUNCH's array is read, once no residency array waits; the residency unit's records are
already with the scheduler. -/
def execRecordConsumption (s : State) : Host.Outcome State Fault Refusal :=
  .next (match s.sched.resid, s.sched.launch.head? with
    | [], some l => if l.recs.isEmpty then setHeadLaunch (launchUe s l) (some { l with recs := launchRecords s l }) else s
    | _, _ => s)

/-- The end of a consumption: TLAUNCH's result exists, or a batch has all its records in. -/
def endLaunch (s : State) (l : Launch) : State :=
  let s1 := setHeadLaunch s none
  match l.batch, l.who with
  | some b, _ => batchAllIn s1 b
  | none, none => s1
  | none, some c =>
    let b := s1.bank c
    let fill (k : Lock) : Lock :=
      if k.id = l.lock then
        { k with ready := true, ws := k.ws.map fun w => match w with
            | .s n _ m => .s n (BitVec.ofNat 32 l.created) m
            | w => w }
      else k
    s1.setBank c { b with pipe := { b.pipe with locks := b.pipe.locks.map fill } }

/-- Step past a tile or a record, and end the consumption after the last. -/
def nextTile (s : State) (l : Launch) (tiles : Nat) : State :=
  let l1 := if l.j + 1 < tiles then { l with j := l.j + 1 } else { l with i := l.i + 1, j := 0, prev := 0 }
  if l1.i < l1.count then setHeadLaunch s (some l1) else endLaunch s l1

def skipQ (s : State) (q : Nat) : State :=
  let x := s.queue q
  s.setQueue q { x with qskip := x.qskip + 1 }

/-- The join of a launch gains the new node as a predecessor (R61). A join scalar that holds 0 names no join, whichever register it is
(DESIGN CHOICE, log 17: R352 says so of s0 only, and no live handle is 0). -/
def joinNode (s : State) (l : Launch) (i : Nat) : State :=
  if l.join = 0 then s
  else
    let j := handleIx l.join
    let n := s.node j
    if n.gen ≠ handleGen l.join ∨ n.st ≠ .waiting ∨ 65535 ≤ n.cnt then schedError s l.queue 9 l.join j
    else
      let s1 := s.setNode j { n with cnt := n.cnt + 1 }
      let m := s1.node i
      s1.setNode i { m with succ := m.succ ++ [l.join] }

/-- The node that a template and a record give (R60, R62); the residency unit's carries its queue's cluster (R63). -/
def tileNode (s : State) (l : Launch) (t : BitVec 512) (r : Nat) (mask : Word) : NodeDesc :=
  let d := descOf t
  let aff := match l.batch with
    | some (tix, q, _) => 1#8 <<< ((s.tag tix).xq q).clu.toNat
    | none => d.aff
  { d with slot := 0xFFFF, aff := aff, pred0 := if bitOf r 11 then l.prev else 0, pred1 := 0,
           lv := [BitVec.ofNat 32 (bits r 32 32), BitVec.ofNat 32 (bits r 64 32 + 32 * l.j), mask,
                  BitVec.ofNat 32 (bits r 128 32), BitVec.ofNat 32 (bits r 160 32), BitVec.ofNat 32 (bits r 192 32)] }

/-- Create one node: consumption waits for a dynamic slot, then come the checks (R60). The residency unit submits through the acceptance
path of R43 (R40), so that its node is dropped where the template's queue is disabled or stopped. R60 applies the BAD_DESC row alone to
a node of a TLAUNCH, which is created for a disabled or stopped queue too and stays in the pool (DESIGN CHOICE, log 17). -/
def createTile (s : State) (l : Launch) (tiles q : Nat) (r : Nat) (d : NodeDesc) (mask : Word) : State :=
  let room := if l.batch.isSome then decide (0 < s.dynFree) else s.dynOpen
  if !room then s
  else if l.batch.isSome && !s.queueOpen q then nextTile (dropQ s q) { l with prev := 0 } tiles
  else if badDesc d then nextTile (schedError s (if l.batch.isSome then q else l.queue) 8 (BitVec.ofNat 32 l.i) 0xFFFF) l tiles
  else match pickDyn s with
    | none => s
    | some i =>
      match placeNode s.bump i q d true with
      | .error e => e.2.foldl (fun s b => ovfUe s b .wr) s
      | .ok (s1, h) =>
        let n := s1.node i
        let xp := if l.batch.isSome && bitOf r 12 then some (BitVec.ofNat 32 (bits r 32 32), BitVec.ofNat 32 (bits r 160 32))
          else none
        let s2 := joinNode (s1.setNode i { n with rowm := mask, xp := xp, batch := l.batch }) l i
        let s3 := match l.batch with
          | some (tix, k, id) => mapBatch s2 tix k id fun b => { b with left := b.left + 1 }
          | none => s2
        nextTile s3 { l with prev := h, created := l.created + 1 } tiles

/-- One pass of R60's loops: a record or a tile is skipped, or a node is created; while the template's frame migrates the pass waits. -/
def consumeOne (s0 : State) (l : Launch) : State :=
  let r := (l.recs.getD l.i 0).toNat
  let tmpl := bits r 0 10
  let rows := bits r 16 16
  let valid := decide (tmpl < s0.sched.tcnt)
  let t := s0.template tmpl
  let s := if valid && (l.batch.isSome || rows != 0) then s0.templateUe tmpl else s0
  let q := bits t.toNat 112 6
  let eq := if l.batch.isSome then (if valid then q else 0) else l.queue
  if valid && (l.batch.isSome || rows != 0) && s.templateWaits tmpl then s
  else if rows = 0 then nextTile (skipQ s eq) l 0
  else if !valid || decide (2 ≤ bits t.toNat 48 2) then nextTile (schedError s eq 8 (BitVec.ofNat 32 l.i) 0xFFFF) l 0
  else
    let tiles := (rows + 31) / 32
    let n := min 32 (rows - 32 * l.j)
    let full : Nat := 2 ^ n - 1
    let mask := if l.j + 1 = tiles && bitOf r 10 then full &&& bits r 96 32 else full
    if mask = 0 then nextTile (skipQ s eq) l tiles
    else createTile s l tiles q r (tileNode s l t r (BitVec.ofNat 32 mask)) (BitVec.ofNat 32 mask)

/-- TILE_NODE_CREATE. -/
def execTileNodeCreate (s : State) : Host.Outcome State Fault Refusal :=
  .next (match headLaunch s with
    | some l => if l.recs.isEmpty then s else consumeOne s l
    | none => s)

/-! ### Queue registers -/

/-- QUEUE_ENABLE (R57). -/
def execQueueEnable (q : Fin 64) (on : Bool) (s : State) : Host.Outcome State Fault Refusal :=
  .next (if s.awake then s.setQueue q.val { s.queue q.val with en := on } else s)

/-- QUEUE_STOP_CLEAR (R47). -/
def execQueueStopClear (q : Fin 64) (s : State) : Host.Outcome State Fault Refusal :=
  .next (if s.awake ∧ (s.queue q.val).stop then resumeWalks (s.setQueue q.val { s.queue q.val with stop := false }) q.val else s)

/-- QSLOT_WRITE (R54): ignored while the queue is enabled, past slot 65,535, and where the range overlaps another's. A stopped queue acts
as if its EN were 0 (R55). -/
def execQslotWrite (q : Fin 64) (val : BitVec 32) (s : State) : Host.Outcome State Fault Refusal :=
  let x := s.queue q.val
  let size := val.extractLsb' 16 16
  let base := val.extractLsb' 0 16
  let lo := base.toNat
  let hi := base.toNat + size.toNat
  let clash := s.sched.queues.any fun e => e.1 != q.val && e.2.size != 0 && size != 0 &&
    decide (lo < e.2.base.toNat + e.2.size.toNat) && decide (e.2.base.toNat < hi)
  .next (if !s.awake || s.queueOpen q.val || clash || decide (65536 < hi) then s else s.setQueue q.val { x with size := size, base := base })

end Sys2Proof.Machine
end

