-- ==== Sys2Proof/Machine/Frames.lean ====
section
/-! DEFINITION. The memory block's events: accesses of application cores and PCIe devices, compressed-frame faults, shootdowns,
FAMCMD, expansion, the swap engine, migration requests, and the ends of holds (R123, R125, R128, R129, R131, R134 to R136, R139,
R163, R164). -/

namespace Sys2Proof.Machine

/-! ### FAMCMD (R125) -/

/-- The form of a frame: 00 plain ordinary, 01 row-linear, 10 compressed. -/
def frameForm (s : State) (f : Nat) : BitVec 2 := if s.famHas f famCMP then 2 else if s.famHas f famRL then 1 else 0

/-- A frame's third bounce within 1 ms of its first pins it (R136). -/
def bounce (s : State) (f : Nat) : State :=
  let old := s.mem.bounce.find? fun b => b.frame == f
  let rest := s.mem.bounce.filter fun b => b.frame != f
  let b : Bounce := match old with
    | some x => if s.time ≤ x.first + 1900000 then { x with n := x.n + 1 } else { frame := f, n := 1, first := s.time }
    | none => { frame := f, n := 1, first := s.time }
  let s1 := { s with mem := { s.mem with bounce := (b :: rest).take 1024 } }
  if b.n = 3 then raiseEvent 3 (crock { crockBase 8 0 with info := f % 2 ^ 32, addr := f * 4096 } (s1.famSet f famMPIN 0)) else s1

/-- A frame's page has changed its form: one bounce counts, and the requests that it was pending for end (R136). -/
def reachForm (s : State) (f : Nat) (form : BitVec 2) : State :=
  bounce { s with mem := { s.mem with mreqs := s.mem.mreqs.map fun r =>
    if r.frame = f ∧ r.dest = form then { r with pend := false } else r } } f

/-- The effect of a FAMCMD write on its frame. -/
def famApply (s : State) (val : BitVec 64) : State :=
  let f := (val.extractLsb' 0 36).toNat
  let may : Byte := famPSN ||| famCMP ||| famMPIN
  let set : Byte := val.extractLsb' 40 8 &&& may
  let clr : Byte := val.extractLsb' 48 8 &&& may
  let psn := (s.fam f ||| set) &&& ~~~clr &&& famPSN != 0
  let keepOut := s.famHas f famRL || s.famHas f famNM || psn
  let set' := if keepOut then set &&& ~~~famCMP else set
  let s1 := s.famSet f set' clr
  let s2 := if clr &&& famMPIN ≠ 0 then { s1 with mem := { s1.mem with bounce := s1.mem.bounce.filter fun b => b.frame != f } } else s1
  if frameForm s f ≠ frameForm s2 f then reachForm s2 f (frameForm s2 f) else s2

/-- FAMCMD. -/
def execFamcmd (val : BitVec 64) (s : State) : Host.Outcome State Fault Refusal :=
  let f := (val.extractLsb' 0 36).toNat
  .next (if !s.awake || !s.mainFrame f then s
    else if s.famHas f famMIG then { s with mem := { s.mem with famHeld := s.mem.famHeld ++ [val] } }
    else famApply s val)

/-- FAMCMD_HELD_APPLY: the first held write whose frame's MIG has cleared. -/
def execFamcmdHeldApply (s : State) : Host.Outcome State Fault Refusal :=
  .next (match s.mem.famHeld.find? fun v => !s.famHas (v.extractLsb' 0 36).toNat famMIG with
    | some v => famApply { s with mem := { s.mem with famHeld := s.mem.famHeld.erase v } } v
    | none => s)

/-! ### Accesses from outside (R121, R123, R125, R128, R139) -/

/-- Record a compressed-frame fault. -/
def cfFault (s : State) (pa : Addr) : State :=
  match s.mem.cfaddr with
  | none => raiseEvent 2 { s with mem := { s.mem with cfaddr := some pa } }
  | some _ => { s with mem := { s.mem with cflost := s.mem.cflost + 1 } }

/-- COMPRESSED_FRAME_FAULT. -/
def execCompressedFrameFault (pa : BitVec 48) (s : State) : Host.Outcome State Fault Refusal :=
  .next (if s.famHas (frameOf pa.toNat) famCMP then cfFault s pa else s)

/-- The bus error response, with what it records. -/
inductive ExtAnswer where
  | served (s : State)
  | waits
  | error (s : State)
  deriving DecidableEq, Repr

/-- The checks of an outside access to one frame. Where a frame has both CMP and MIG the compressed-frame fault comes before the stall
(DESIGN CHOICE, log 38: no rule orders the two). -/
def extCheck (s : State) (pa : Nat) (wr : Bool) : ExtAnswer :=
  let f := frameOf pa
  match s.region pa with
  | none => .error s
  | some r =>
    if 2 ≤ r.cls then .error s
    else if wr && s.famHas f famNM then .error s
    else if s.famHas f famCMP then .error (cfFault s (BitVec.ofNat 48 pa))
    else if s.famHas f famPSN then .error s
    else if (s.mainUe f).isSome then .error (foundUe s none ((s.mainUe f).getD 4) f)
    else if s.famHas f famMIG then .waits
    else .served s

/-- A PCIe access that meets the control block: it receives the error response (R252). -/
def meetsCtl (s : State) (a : ExtAccess) (n : Nat) : Bool :=
  let b := s.plat.ctlBase.toNat
  a.agent == .pcie && decide (b < a.pa.toNat + n) && decide (a.pa.toNat < b + 2 ^ 24)

/-- EXTERNAL_ACCESS: a write that is refused is dropped; one that waits for MIG changes nothing yet. -/
def execExternalAccess (a : ExtAccess) (s : State) : Host.Outcome State Fault Refusal :=
  let n := match a.wr with
    | some b => b.length
    | none => a.size
  let chk := (pagePieces (n / 4096 + 2) a.pa.toNat n).foldl (fun r p =>
    match r with
    | ExtAnswer.served s => extCheck s p.1 a.wr.isSome
    | r => r) (if meetsCtl s a n then ExtAnswer.error s else .served s)
  .next (match chk with
    | .error t => t
    | .waits => s
    | .served t => match a.wr with
      | some b => (sysPut t a.pa.toNat b).syncStore a.pa.toNat n
      | none => t.syncRead a.pa.toNat n)

/-! ### Shootdowns (R131) -/

def tlbHit (i : Invalidate) (e : TlbEntry) : Bool :=
  (match i.root with
    | some r => e.root == r.toNat
    | none => true) &&
  (match i.va with
    | some a => e.covers e.root a.toNat
    | none => true)

/-- Does the invalidation match the cached translation of a handle of bank `c`? The same page, or a leaf that covers both. -/
def xlHit (s : State) (i : Invalidate) (c : Ctx) (h : Handle) : Bool :=
  match satpRoot (s.bank c).th.satp, h.xl with
  | some root, some _ =>
    (match i.root with
      | some r => root == r.toNat
      | none => true) &&
    (match i.va with
      | some a => a.toNat / 4096 == h.va.toNat / 4096 ||
          ((s.core c.core).tlb.any fun e => e.covers root a.toNat && e.covers root h.va.toNat)
      | none => true)
  | _, _ => false

/-- Break the holds that `p` picks, XL with them where asked, and answer how many there were. -/
def breakHolds (s : State) (p : Hold → Bool) (noXl : Bool) : State × Nat :=
  let l := s.heap.holds.filter p
  (l.foldl (fun s x => breakHold s x noXl) s, l.length)

/-- Drop the XL of every handle that `p` picks. -/
def dropXl (s : State) (p : Ctx → Handle → Bool) : State :=
  { s with banks := tabMap s.banks fun k b => { b with h := tabMap b.h fun _ h => if p (ctxOf k) h then { h with xl := none } else h } }

/-- The holds of a set of handles break and count in HBRK.SWP, and their XL goes; XL of unheld handles goes too. -/
def breakSwp (s : State) (p : Ctx → Handle → Bool) : State :=
  let (s1, n) := breakHolds s (fun x => x.hs.any fun k => p x.ctx ((s.bank x.ctx).hreg k)) true
  dropXl { s1 with heap := { s1.heap with hbSwp := s1.heap.hbSwp + BitVec.ofNat 16 n } } p

/-- SHOOTDOWN: accesses that have translated complete first. -/
def execShootdown (inv : Invalidate) (s : State) : Host.Outcome State Fault Refusal :=
  let s1 := breakSwp (completeAccesses s) (fun c h => xlHit s inv c h)
  .next { s1 with cores := tabMap s1.cores fun _ k => { k with tlb := k.tlb.filter fun e => !tlbHit inv e } }

/-! ### Expansion (R128, R129) -/

def framesAll (s : State) (f n : Nat) (p : Nat → Bool) : Bool := (List.range n).all fun i => p (f + i) && (s.region ((f + i) * 4096)).isSome

/-- The bytes of a chunk that is compressed and decodes (R126, R127); EXPSRC's. -/
def chunkAt (s : State) (a : Nat) : Option (List Byte) :=
  if a % 65536 = 0 ∧ framesAll s (frameOf a) 16 (fun f => s.famHas f famCMP) then chunkDecode (memBytes s.mem.main a 65536) else none

/-- A destination of plain ordinary frames. -/
def expandDest (s : State) (a : Nat) : Bool :=
  a % 65536 == 0 && framesAll s (frameOf a) 16 (fun f =>
    (match s.region (f * 4096) with
      | some r => r.cls == 0
      | none => false) && s.fam f &&& (famCMP ||| famNM ||| famPSN ||| famMIG) == 0)

/-- ERR with its code. -/
def Ctl.fail (c : Ctl) (code : BitVec 4) : Ctl := { c with busy := false, err := true, ecode := code }

def expandErr (s : State) (code : BitVec 4) : State :=
  raiseEvent 3 { s with mem := { s.mem with expctl := s.mem.expctl.fail code, expWait := false } }

/-- The uncorrectable error that an expansion's read of a frame meets, with what it records; a poisoned frame is one (R139). -/
def expandUe (s : State) (src : Nat) : Option State :=
  ((List.range 16).find? fun i => (s.mainUe (src + i)).isSome || s.famHas (src + i) famPSN).map fun i =>
    match s.mainUe (src + i) with
    | some strc => foundUe s none strc (src + i)
    | none => s

/-- The source's frames as GO takes them: aligned, and all of a compressed chunk. -/
def expandForm (s : State) (a : Nat) : Bool := decide (a % 65536 = 0) && framesAll s (frameOf a) 16 fun f => s.famHas f famCMP

/-- An expansion begins (R128, R129): the codes in the order of R129's list, or MIG on both ranges. While another operation's MIG stands on
the source it waits before it reads (R134). -/
def expandStart (s : State) : State :=
  let a := s.mem.expRun.1.toNat
  let d := s.mem.expRun.2.toNat
  let src := frameOf a
  let wait (s : State) (w : Bool) : State := { s with mem := { s.mem with expctl := { s.mem.expctl with busy := true }, expWait := w } }
  if !expandForm s a then expandErr s 1
  else if (List.range 16).any fun i => s.famHas (src + i) famMIG then wait s true
  else match expandUe s src with
    | some s1 => if expandDest s d then expandErr s1 4 else expandErr s 2
    | none =>
      if (chunkAt s a).isNone then expandErr s 1
      else if !expandDest s d then expandErr s 2
      else wait (((completeAccesses s).famSetRange src 16 famMIG 0).famSetRange (frameOf d) 16 famMIG 0) false

/-- EXPAND_GO: ignored while an expansion runs or its DONE stands (log 28). -/
def execExpandGo (s : State) : Host.Outcome State Fault Refusal :=
  .next (if !s.awake || s.mem.expctl.busy || s.mem.expctl.done then s
    else expandStart { s with mem := { s.mem with expRun := (s.mem.expsrc, s.mem.expdst) } })

/-- MIG clears on both ranges of an expansion, and accesses that waited for it are made. -/
def expandUnlock (s : State) : State :=
  resumeStalled ((s.famSetRange (frameOf s.mem.expRun.1.toNat) 16 0 famMIG).famSetRange (frameOf s.mem.expRun.2.toNat) 16 0 famMIG).releaseHeld

/-- EXPAND_DONE: an expansion that waits begins; one that runs writes the decoded bytes, or ends with ERR where its source has met an
uncorrectable error, both ranges unchanged (R129). -/
def execExpandDone (s : State) : Host.Outcome State Fault Refusal :=
  let src := frameOf s.mem.expRun.1.toNat
  .next (if !s.mem.expctl.busy then s
    else if s.mem.expWait then expandStart s
    else match expandUe s src with
    | some s1 => expandErr (expandUnlock s1) 4
    | none =>
      let s1 := sysPut s s.mem.expRun.2.toNat ((chunkAt s s.mem.expRun.1.toNat).getD [])
      let s2 := { s1 with mem := { s1.mem with expctl := { s1.mem.expctl with busy := false, done := true } } }
      raiseEvent 3 ((List.range 16).foldl (fun s i => reachForm s (src + i) 0) s2))

/-- EXPAND_DONE_CLEAR. -/
def execExpandDoneClear (s : State) : Host.Outcome State Fault Refusal :=
  .next (if s.awake && s.mem.expctl.done then
    let s1 := expandUnlock s
    { s1 with mem := { s1.mem with expctl := { s1.mem.expctl with done := false } } }
  else s)

/-! ### The swap engine (R134, R135) -/

/-- Bytes of a swap by SIZE. -/
def swapBytes (sz : BitVec 2) : Nat :=
  match sz.toNat with
  | 0 => 4096
  | 1 => 65536
  | _ => 2097152

def swapFrames (s : State) : Nat := swapBytes s.mem.swpRun.sz / 4096

/-- The swap registers as an operation. -/
def swapRegs (s : State) : SwapOp :=
  { a := s.mem.swpa, b := s.mem.swpb, pa := s.mem.swppa, pb := s.mem.swppb, sz := s.mem.swpsz, pte := s.mem.swppte }

/-- What refuses a swap: its ECODE. -/
def swapRefused (s : State) : Option (BitVec 4) :=
  let a := s.mem.swpa.toNat
  let b := s.mem.swpb.toNat
  let n := swapBytes s.mem.swpsz
  let odd (f : Nat) : Bool := (s.region (f * 4096)).isNone || s.fam f &&& (famMGD ||| famNM ||| famPSN ||| famMPIN ||| famMIG) != 0
  let ordinary (p : Nat) : Bool := match s.region p with
    | some r => r.cls == 0
    | none => false
  if s.mem.swpsz = 3 ∨ a % n ≠ 0 ∨ b % n ≠ 0 then some 1
  else if a < b + n ∧ b < a + n then some 2
  else if (List.range (n / 4096)).any fun i => odd (a / 4096 + i) || odd (b / 4096 + i) ||
      (s.famHas (a / 4096 + i) famCMP != s.famHas (b / 4096 + i) famCMP) then some 3
  else if s.mem.swppte && !(ordinary s.mem.swppa.toNat && ordinary s.mem.swppb.toNat) then some 4
  else none

/-- A physical address lies in one of the two ranges. -/
def inSwap (s : State) (pa : Nat) : Bool :=
  let x := s.mem.swpRun
  let n := swapBytes x.sz
  (decide (x.a.toNat ≤ pa) && decide (pa < x.a.toNat + n)) || (decide (x.b.toNat ≤ pa) && decide (pa < x.b.toNat + n))

/-- SWAP_GO: SIZE and PTE as written, the checks, MIG, and the holds; GO is ignored while a swap runs or its DONE stands (log 28). -/
def execSwapGo (val : BitVec 32) (s : State) : Host.Outcome State Fault Refusal :=
  let s0 := { s with mem := { s.mem with swpsz := val.extractLsb' 4 2, swppte := val.getLsbD 6 } }
  .next (if !s.awake then s
    else if s.mem.swpctl.busy || s.mem.swpctl.done then s0
    else match swapRefused s0 with
      | some code => raiseEvent 3 { s0 with mem := { s0.mem with swpctl := s0.mem.swpctl.fail code } }
      | none =>
        let sr := completeAccesses { s0 with mem := { s0.mem with swpRun := swapRegs s0 } }
        let n := swapFrames sr
        let s1 := (sr.famSetRange (sr.mem.swpRun.a.toNat / 4096) n famMIG 0).famSetRange (sr.mem.swpRun.b.toNat / 4096) n famMIG 0
        let s2 := breakSwp s1 (fun _ h => match h.xl with
          | some x => inSwap s1 x.pa
          | none => false)
        { s2 with mem := { s2.mem with swpctl := { s2.mem.swpctl with busy := true } } })

/-- MIG clears on both ranges, and accesses that waited for it are made. -/
def swapUnlock (s : State) : State :=
  let n := swapFrames s
  let x := s.mem.swpRun
  resumeStalled ((s.famSetRange (x.a.toNat / 4096) n 0 famMIG).famSetRange (x.b.toNat / 4096) n 0 famMIG).releaseHeld

/-- A write of the swap engine to a PTE; one in a frame with NM is dropped (R125, log 28). -/
def putPte (s : State) (p v : Nat) : State := if s.famHas (frameOf p) famNM then s else sysPut s p (natLe 8 v)

/-- The PTEs lie in a frame that another operation migrates: the exchange waits before it (R134). -/
def swapPteWaits (s : State) : Bool :=
  s.mem.swpRun.pte && [s.mem.swpRun.pa.toNat, s.mem.swpRun.pb.toNat].any fun p => s.famHas (frameOf p) famMIG && !inSwap s p

/-- Exchange the PPN fields of the two leaf PTEs. -/
def swapPtes (s : State) : State :=
  let p := s.mem.swpRun.pa.toNat
  let q := s.mem.swpRun.pb.toNat
  let x := rawLe s p 8
  let y := rawLe s q 8
  let put (p ppn : Nat) : Nat := p - bits p 10 44 * 2 ^ 10 + ppn * 2 ^ 10
  putPte (putPte s p (put x (bits y 10 44))) q (put y (bits x 10 44))

/-- Pages that the exchange has brought to the other side's form (R136). -/
def swapForms (s : State) : State :=
  let x := s.mem.swpRun
  (List.range (swapFrames s)).foldl (fun t i =>
    let f := x.a.toNat / 4096 + i
    let g := x.b.toNat / 4096 + i
    if frameForm s f = frameForm s g then t else reachForm (reachForm t f (frameForm s g)) g (frameForm s f)) s

/-- A TLB entry leads to one of the ranges. -/
def TlbEntry.leadsToSwap (s : State) (e : TlbEntry) : Bool :=
  let x := s.mem.swpRun
  let n := swapBytes x.sz
  let lo := e.ppn * 4096
  let hi := (e.ppn + e.pages) * 4096
  (decide (lo < x.a.toNat + n) && decide (x.a.toNat < hi)) || (decide (lo < x.b.toNat + n) && decide (x.b.toNat < hi))

/-- The exchange, the PTEs, the TLBs. -/
def swapFinish (s : State) : State :=
  let n := swapBytes s.mem.swpRun.sz
  let a := s.mem.swpRun.a.toNat
  let b := s.mem.swpRun.b.toNat
  let x := rawBytes s a n
  let y := rawBytes s b n
  let s1 := sysPut (sysPut s a y) b x
  let s2 := if s.mem.swpRun.pte then swapPtes s1 else s1
  { s2 with cores := tabMap s2.cores fun _ k => { k with tlb := k.tlb.filter fun e => !e.leadsToSwap s2 } }

/-- SWAP_DONE: an uncorrectable error, in a range or in a PTE's frame, ends the exchange with ERR before anything moves (R139); no rule gives its ECODE, which
is a free value (log 28). -/
def execSwapDone (s : State) : Host.Outcome State Fault Refusal :=
  let n := swapFrames s
  let x := s.mem.swpRun
  let ue := ((List.range n).map fun i => x.a.toNat / 4096 + i) ++ ((List.range n).map fun i => x.b.toNat / 4096 + i) ++
    (if x.pte then [frameOf x.pa.toNat, frameOf x.pb.toNat] else [])
  .next (if !s.mem.swpctl.busy || swapPteWaits s then s
    else match ue.find? fun f => (s.mainUe f).isSome with
      | some f =>
        let s1 := swapUnlock (foundUe s none ((s.mainUe f).getD 4) f)
        let code := (Config.freeWord s1.freeCtr).extractLsb' 0 4
        raiseEvent 3 { s1.bump with mem := { s1.mem with swpctl := s1.mem.swpctl.fail code } }
      | none =>
        let s1 := swapForms (swapFinish s)
        raiseEvent 3 { s1 with mem := { s1.mem with swpctl := { s1.mem.swpctl with busy := false, done := true } } })

/-- SWAP_DONE_CLEAR. -/
def execSwapDoneClear (s : State) : Host.Outcome State Fault Refusal :=
  .next (if s.awake && s.mem.swpctl.done then
    let s1 := swapUnlock s
    { s1 with mem := { s1.mem with swpctl := { s1.mem.swpctl with done := false } } }
  else s)

/-! ### Migration requests (R136) -/

/-- MIGRATION_REQUEST: a COMMON requester's page is to be plain ordinary; a page that has its destination form already is not waited for. A
request that is answered PINNED is pending for nothing, but it has arrived. -/
def execMigrationRequest (val : BitVec 64) (s : State) : Host.Outcome State Fault Refusal :=
  let f := (val.extractLsb' 0 36).toNat
  let form := val.extractLsb' 36 2
  let side := val.getLsbD 38
  let live := s.mem.mreqs.filter fun r => r.pend || decide (s.time ≤ r.at_ + 4096)
  let clash := live.any fun r => r.frame == f && r.side != side && r.form != form
  .next (if !s.awake then s
    else
      let pin := s.famHas f famMPIN
      let dest := if clash then 0 else form
      { s with mem := { s.mem with mrsp := if pin then 2 else if clash then 1 else 0,
                                   mreqs := live ++ [{ frame := f, form := form, dest := dest, side := side, at_ := s.time,
                                                       pend := !pin && frameForm s f != dest }] } })

/-! ### Ends of holds (R163, R164) -/

/-- HOLD_EXPIRY: HOLDMAX µs of reference time. -/
def execHoldExpiry (r : RowBank) (s : State) : Host.Outcome State Fault Refusal :=
  .next (match holdOn s.heap.holds r with
    | some x =>
      if x.since + s.heap.holdmax.toNat * 1900 ≤ s.time then
        let s1 := breakHold s x false
        { s1 with heap := { s1.heap with hbExp := s1.heap.hbExp + 1 } }
      else s
    | none => s)

/-- HOLD_QUEUE_LIMIT: the DRAM controller finds that a request of another agent has waited HOLDQ cycles behind the hold (R164). The hold
stood while it waited, so that it is at least that old (log 50). -/
def execHoldQueueLimit (r : RowBank) (s : State) : Host.Outcome State Fault Refusal :=
  .next (match holdOn s.heap.holds r with
    | some x =>
      if x.at_ + s.heap.holdq.toNat ≤ s.now x.ctx.core then
        let s1 := breakHold s x false
        { s1 with heap := { s1.heap with hbQ := s1.heap.hbQ + 1 } }
      else s
    | none => s)

def markClosed (s : State) (r : RowBank) (v : Bool) : State :=
  s.setHolds (s.heap.holds.map fun x => if x.rb = r then { x with closed := v } else x)

/-- ROW_AUTO_CLOSE and ROW_REOPEN: the hold stands. -/
def execRowAutoClose (r : RowBank) (s : State) : Host.Outcome State Fault Refusal := .next (markClosed s r true)
def execRowReopen (r : RowBank) (s : State) : Host.Outcome State Fault Refusal := .next (markClosed s r false)

/-- Every hold breaks for power. -/
def breakPower (s : State) : State :=
  let (s1, n) := breakHolds s (fun _ => true) false
  { s1 with heap := { s1.heap with hbPwr := s1.heap.hbPwr + BitVec.ofNat 16 n } }

/-- MAIN_TIER_RATE_CHANGE. -/
def execMainTierRateChange (s : State) : Host.Outcome State Fault Refusal := .next (breakPower s)

end Sys2Proof.Machine
end

