-- ==== Sys2Proof/Machine/Compact.lean ====
section
/-! DEFINITION. The managed heap's own units: compaction by the Spatula, retirement, freeing of poisoned entries, eviction of cold
objects and their recall (R171, R175, R176, R179, R180). -/

namespace Sys2Proof.Machine

/-! ### Objects and granules -/

/-- Bytes of an object that are live where its header stands: a stub keeps 256, and a DEAD object its space while it is pinned (R174). -/
def Obj.liveBytes (s : State) (o : Obj) : Nat :=
  match o.st with
  | .free => 0
  | .dead => if o.pins = 0 then 0 else s.objSize o.addr
  | .cold => 256
  | .recall => 256
  | .poison => 256
  | _ => s.objSize o.addr

/-- Bytes of a range that lie in granule `g`. -/
def overlapGran (g a n : Nat) : Nat := min (a + n) ((g + 1) * 2 ^ 21) - max a (g * 2 ^ 21)

/-- Live bytes of a granule; the space that a recall has taken counts. -/
def State.granLive (s : State) (g : Nat) : Nat :=
  (s.heap.ot.map fun e => overlapGran g e.2.addr (e.2.liveBytes s)).sum +
  (s.heap.recallTo.map fun e => (e.2.map fun a => overlapGran g a (tabGet s.heap.coldAt e.1 (0, 0)).2).getD 0).sum

/-- Objects of granule `g`, by index: those whose header lies in it. An object that reaches into further granules is none of theirs, for
step 3 of R175 as for R179's FROM (DESIGN CHOICE, log 51). -/
def State.granObjs (s : State) (g : Nat) : List Nat :=
  (s.heap.ot.filter fun e => e.2.st != .free && e.2.addr / 2 ^ 21 == g).map Prod.fst

/-- A granule below LIVEPCT that no allocation region uses. -/
def State.granLean (s : State) (g : Nat) : Bool :=
  (match tabGet s.heap.gran g .free with
    | .used => true
    | _ => false) && decide (s.granLive g * 100 < s.heap.livepct.toNat * 2 ^ 21)

def State.leanGrans (s : State) : List Nat := (List.range s.heap.size.toNat).filter s.granLean

/-- An object that a cycle can free or relocate. -/
def Obj.movable (o : Obj) : Bool := o.pins == 0 && (o.st == .dead || o.st == .live)

/-- Free entries of the forwarding table; the object being copied has its own, and so has a recall that has taken its space (R180 step 1). -/
def State.fwdFree (s : State) : Nat :=
  16384 - s.heap.fwd.length - (if s.heap.spat.cur.isSome then 1 else 0) - (s.heap.recallTo.filter fun e => e.2.isSome).length

/-- Which granules a cycle chooses where the free forwarding entries do not suffice for all: in ascending order, up to the first whose
relocations do not fit (DESIGN CHOICE, log 51: R175 bounds their number only). -/
def takeGrans (s : State) (room : Nat) : List Nat → List Nat
  | [] => []
  | g :: r =>
    let n := ((s.granObjs g).filter fun i => (s.obj i).st == .live && (s.obj i).pins == 0).length
    if n ≤ room then g :: takeGrans s (room - n) r else []

/-- Objects in ascending heap address. -/
def insertByAddr (s : State) (i : Nat) : List Nat → List Nat
  | [] => [i]
  | j :: r => if (s.obj i).addr < (s.obj j).addr then i :: j :: r else j :: insertByAddr s i r

def setSpat (s : State) (x : Spatula) : State := { s with heap := { s.heap with spat := x } }

/-! ### Compaction cycles (R175) -/

/-- HEAP_COMPACT: a cycle is asked for. -/
def execHeapCompact (s : State) : Host.Outcome State Fault Refusal :=
  .next (if s.awake then setSpat s { s.heap.spat with want := true } else s)

/-- COMPACTION_AUTOSTART. -/
def execCompactionAutostart (s : State) : Host.Outcome State Fault Refusal :=
  let x := s.heap.spat
  .next (if s.awake && !x.want && !x.busy && decide (s.freeGrans < s.heap.freelow.toNat) &&
      ((takeGrans s s.fwdFree s.leanGrans).any fun g => (s.granObjs g).any fun i => (s.obj i).movable) then setSpat s { x with want := true } else s)

/-- Step 1's wait: forwarding entries of cycle n - 2 are still valid. -/
def waitsForOld (s : State) (n : BitVec 8) : Bool := s.heap.fwd.any fun e => e.cyc == (n - 2).toNat

/-- COMPACTION_CYCLE_START: steps 1 and 2; a start that must wait counts in SPWAIT. -/
def execCompactionCycleStart (s : State) : Host.Outcome State Fault Refusal :=
  let x := s.heap.spat
  let n := s.heap.cycle + 1
  .next (if !s.awake || !x.want || x.busy then s
    else if waitsForOld s n then { s with heap := { s.heap with spwait := s.heap.spwait + 1 } }
    else
      let gs := takeGrans s s.fwdFree s.leanGrans
      let todo := (gs.flatMap s.granObjs).foldl (fun l i => insertByAddr s i l) []
      { s with heap := { s.heap with cycle := n, from_ := s.heap.from_ ++ gs,
                                     spat := { x with want := false, busy := true, todo := todo, cur := none,
                                                      chosen := gs } } })

/-- Room for a copy: the Spatula's own fresh granule, or granules of its own for a large object; the lowest that are free (DEDUCED,
log 51: R401 and R402 name granule 5). -/
def spatSpace (s : State) (n : Nat) : Option (State × Nat) :=
  let lowest (k : Nat) : Option Nat := granFrom s k s.heap.size.toNat 0
  if 2 ^ 20 < n then
    let k := (n + 2 ^ 21 - 1) / 2 ^ 21
    (lowest k).map fun g => ((List.range k).foldl (fun s j => s.setGran (g + j) .used) s, g * 2 ^ 21)
  else
    let fresh (s : State) : Option (State × Nat) :=
      (lowest 1).map fun g =>
        let s1 := match s.heap.spat.dest with
          | some (o, _) => s.setGran o .used
          | none => s
        let s2 := s1.setGran g (.region 32)
        (setSpat s2 { s2.heap.spat with dest := some (g, n) }, g * 2 ^ 21)
    match s.heap.spat.dest with
    | some (g, p) =>
      if p + n ≤ 2 ^ 21 then some (setSpat s { s.heap.spat with dest := some (g, p + n) }, g * 2 ^ 21 + p) else fresh s
    | none => fresh s

/-- The generation of an entry that is freed: 0xFFF is followed by 0x001. -/
def nextObjGen (g : BitVec 12) : BitVec 12 := if g = 0xFFF#12 then 1 else g + 1
def freeEntry (s : State) (i : Nat) : State :=
  let o := s.obj i
  s.setObj i { o with st := .free, gen := nextObjGen o.gen }

/-- Step 3 for one object: one that has left the chosen granules since they were chosen is none of theirs, and one for which no room or
forwarding entry can be had stays where it is. -/
def takeObject (s : State) (i : Nat) : State :=
  let o := s.obj i
  if o.pins ≠ 0 || !s.heap.spat.chosen.contains (o.addr / 2 ^ 21) then s
  else match o.st with
    | .dead => freeEntry s i
    | .live =>
      match (if s.fwdFree = 0 then none else spatSpace s (s.objSize o.addr)) with
      | none => s
      | some (s1, a) =>
        let s2 := s1.setObj i { o with st := .reloc }
        setSpat s2 { s2.heap.spat with cur := some { oti := i, old := o.addr, new := a } }
    | _ => s

/-- COMPACTION_OBJECT. -/
def execCompactionObject (s : State) : Host.Outcome State Fault Refusal :=
  let x := s.heap.spat
  .next (match s.awake && x.busy && x.cur.isNone, x.todo with
    | true, i :: r => takeObject (setSpat s { x with todo := r }) i
    | _, _ => s)

/-- RELOCATION_COMMIT: nothing changes an object in RELOC (R177), so its bytes are the old copy's; then the forwarding entry, ADDR
and LIVE in one action. An uncorrectable error in the old copy is recorded, and the object stays where it is (R139, log 51). -/
def execRelocationCommit (s : State) : Host.Outcome State Fault Refusal :=
  .next (match s.awake, s.heap.spat.cur with
    | true, some r =>
      if unitFault s (s.heapPa r.old) (s.objSize r.old) .rd then
        let s1 := unitUe s (s.heapPa r.old) (s.objSize r.old) .rd
        setSpat (s1.setObj r.oti { s1.obj r.oti with st := .live }) { s1.heap.spat with cur := none }
      else
      let s1 := heapPut s r.new (rawBytes s (s.heapPa r.old) (s.objSize r.old))
      let s2 := dropEarly (s1.setObj r.oti { s1.obj r.oti with st := .live, addr := r.new })
      { s2 with heap := { s2.heap with fwd := s2.heap.fwd ++ [{ cyc := s2.heap.cycle.toNat, new := r.new, old := r.old }],
                                       reloc := s2.heap.reloc + 1, spat := { s2.heap.spat with cur := none } } }
    | _, _ => s)

/-- A reference with its resolved address and the new colour. -/
def recolour (s : State) (col : BitVec 2) (w : DWord) : DWord :=
  if refNull w || refCol w == 0 then w else refMake col w (fwdLoop s 3 (refCol w == s.heap.goodc) (refAddr w))

/-- The k registers of a bank, and the ones on their way, under a new colour. -/
def recolourBank (s : State) (col : BitVec 2) (b : Bank) : Bank :=
  let go (w : RegWrite) : RegWrite := match w with
    | .k n v => .k n (recolour s col v)
    | w => w
  { b with regs := { b.regs with k := tabMap b.regs.k fun _ w => recolour s col w }
           pipe := { b.pipe with locks := b.pipe.locks.map fun l => { l with ws := l.ws.map go } } }

/-- COMPACTION_FLIP: step 4; chosen granules that hold no object any more wait for the cycle's retirement. -/
def execCompactionFlip (s : State) : Host.Outcome State Fault Refusal :=
  let x := s.heap.spat
  .next (if s.awake && x.busy && x.todo.isEmpty && x.cur.isNone then
    let col := BitVec.ofNat 2 (s.heap.goodc.toNat % 3 + 1)
    let s1 := { s with banks := tabMap s.banks fun _ (b : Bank) => if b.phase = Phase.free then b else recolourBank s col b }
    let gone := x.chosen.filter fun g => s.granLive g == 0 && (s.granObjs g).isEmpty
    let s2 := gone.foldl (fun s g => s.setGran g (.emptied s.heap.cycle.toNat)) s1
    let s3 := match x.dest with
      | some (g, _) => s2.setGran g .used
      | none => s2
    { s3 with heap := { s3.heap with goodc := col, from_ := [],
                                     spat := { x with busy := false, dest := none, chosen := [] } } }
  else s)

/-- RETIRE (R176). The cycle that runs has not flipped; of one that has not run yet, nothing bears the number. Before the first cycle has
run CYCLE 0 counts as flipped, so that RETIRE 0 drops the stub entries that recalls have tagged 0 (DESIGN CHOICE, log 51). -/
def execRetire (n : BitVec 8) (s : State) : Host.Outcome State Fault Refusal :=
  .next (if !s.awake || (s.heap.spat.busy && n == s.heap.cycle) then s
    else
      { s with heap := { s.heap with
          fwd := s.heap.fwd.filter fun e => e.cyc != n.toNat
          gran := s.heap.gran.map fun e => match e.2 with
            | .emptied k => if k = n.toNat then (e.1, Gran.free) else e
            | _ => e } })

/-- HEAPCMD_FREE (R171). -/
def execHeapcmdFree (oti : Nat) (s : State) : Host.Outcome State Fault Refusal :=
  .next (if s.awake ∧ (s.obj oti).st = .poison then freeEntry s oti else s)

/-! ### Cold objects (R179, R180) -/

/-- Milliseconds since an object's last use, modulo 2^16. -/
def objAge (s : State) (o : Obj) : Nat := (nowMs s - o.last).toNat

/-- An object that may be evicted (R179). The granule that the Spatula copies into counts as an allocation region in use (DESIGN CHOICE,
log 51). -/
def evictable (s : State) (i : Nat) : Bool :=
  let o := s.obj i
  let g := o.addr / 2 ^ 21
  s.heap.ce && o.st == .live && o.pins == 0 && decide (s.heap.coldmin.toNat * 1024 ≤ s.objSize o.addr) &&
  decide (s.heap.coldage.toNat ≤ objAge s o) && !s.heap.from_.contains g &&
  (match tabGet s.heap.gran g .free with
    | .region _ => false
    | _ => true)

/-- Chunks of an object: up to 64 KiB each; and its blocks of 4 KiB in the cold area, each chunk followed by a block that holds its
tag (log 12). -/
def coldChunks (n : Nat) : Nat := (n + 65535) / 65536
def coldBlocks (n : Nat) : Nat := 17 * coldChunks n

/-- COLD_EVICTION_START: the object becomes EVICT and the Steamer is asked; a full cold area counts in EVFULL. -/
def execColdEvictionStart (oti : Nat) (s : State) : Host.Outcome State Fault Refusal :=
  .next (if !s.awake || s.heap.evict.isSome || !evictable s oti then s
    else
      let h := s.heap
      if h.coldlen.toNat < h.coldNext + coldBlocks (s.objSize (s.obj oti).addr) then { s with heap := { h with evfull := h.evfull + 1 } }
      else
        let s1 := s.setObj oti { s.obj oti with st := .evict }
        let r := s1.res
        { s1 with heap := { s1.heap with evict := some oti }
                  res := { r with reqs := r.reqs ++
                            [{ cls := 6, what := .evict oti, chunk := 0, seq := r.seq, cl := 0, paid := 0, img := [], askers := [] }],
                                  seq := r.seq + 1 } })

/-- The far tier by drive and namespace. -/
def farKey (drive : BitVec 3) (ns : Word) : Nat := drive.toNat + 8 * ns.toNat
def State.farMem (s : State) (k : Nat) : Mem := tabGet s.mem.far k []
def State.setFar (s : State) (k : Nat) (m : Mem) : State := { s with mem := { s.mem with far := tabSet s.mem.far k m } }
def coldFar (s : State) : Nat := farKey s.heap.colddrv s.heap.coldns

/-- Where chunk `i` of a cold object begins, in bytes of its namespace. -/
def coldByte (s : State) (lba i : Nat) : Nat := 4096 * (s.heap.coldlba.toNat + lba + 17 * i)

/-- The IV of a cold chunk: object index, generation, chunk (log 12). -/
def coldIv (s : State) (oti i : Nat) : List Byte := natLe 4 oti ++ natLe 4 (s.obj oti).gen.toNat ++ natLe 4 i

/-- Seal chunk `i` of an object into the cold area at `lba`. -/
def sealChunk (s : State) (oti lba i : Nat) : State :=
  let a := (s.obj oti).addr
  let n := min 65536 (s.objSize a - 65536 * i)
  let (c, tag) := gcmSeal Config.coldKey (coldIv s oti i) [] (rawBytes s (s.heapPa a + 65536 * i) n)
  let p := coldByte s lba i
  s.setFar (coldFar s) (memSetBytes (memSetBytes (s.farMem (coldFar s)) p c) (p + 65536) tag)

/-- Open chunk `i` of an object of `n` bytes. -/
def openChunk (s : State) (oti lba n i : Nat) : Option (List Byte) :=
  let p := coldByte s lba i
  let m := s.farMem (coldFar s)
  gcmOpen Config.coldKey (coldIv s oti i) [] (memBytes m p (min 65536 (n - 65536 * i))) (memBytes m (p + 65536) 16)

/-- COLD_EVICTION_DONE: every chunk has been written; the body beyond the stub is dead space. -/
def execColdEvictionDone (s : State) : Host.Outcome State Fault Refusal :=
  .next (match s.heap.evict with
    | none => s
    | some i =>
      if s.res.reqs.any fun q => q.what == .evict i then s
      else
        let o := s.obj i
        let n := s.objSize o.addr
        let s1 := s.setObj i { o with st := .cold }
        { s1 with heap := { s1.heap with evict := none, coldAt := tabSet s1.heap.coldAt i (s1.heap.coldNext, n),
                                         coldNext := s1.heap.coldNext + coldBlocks n, evictN := s1.heap.evictN + 1 } })

/-- The banks that wait for an object become ready. -/
def wakeCold (s : State) (oti : Nat) : State :=
  s.banks.foldl (fun s e => if e.2.phase = .cold oti then bankReady (ctxOf e.1) s else s) s

/-- A recall is over. -/
def endRecall (s : State) (oti : Nat) : State :=
  wakeCold { s with heap := { s.heap with recalls := s.heap.recalls.filter fun i => i != oti, recallTo := tabDel s.heap.recallTo oti } } oti

/-- A recall that fails poisons the object. -/
def poisonObj (s : State) (oti : Nat) : State :=
  let mark (b : Bank) : Bank := if b.phase = .cold oti then { b with pipe := { b.pipe with lost := some oti } } else b
  let s0 := { s with banks := tabMap s.banks fun _ b => mark b }
  let s1 := s0.setObj oti { s0.obj oti with st := .poison }
  endRecall (crock { crockBase 7 0x0B with info := oti } s1) oti

/-- A forwarding entry from the stub, tagged with the current cycle, and FROM for the stub's granule. -/
def forwardStub (s : State) (old new : Nat) : State :=
  let g := old / 2 ^ 21
  { s with heap := { s.heap with
      fwd := s.heap.fwd ++ [{ cyc := s.heap.cycle.toNat, new := new, old := old }]
      from_ := if s.heap.from_.contains g then s.heap.from_ else s.heap.from_ ++ [g] } }

/-- Step 1 of a recall: the space that it has, or takes now as KNEW would, from the allocation region of core 0 (log 17); none while no
space or forwarding entry is free. -/
def recallPlace (s : State) (oti : Nat) : Option (State × Nat) :=
  match tabGet s.heap.recallTo oti none with
  | some a => some (s, a)
  | none =>
    if s.fwdFree = 0 then none
    else (heapSpace s 0 (((tabGet? s.heap.coldAt oti).map Prod.snd).getD 256)).map fun x =>
      ({ x.1 with heap := { x.1.heap with recallTo := tabSet x.1.heap.recallTo oti (some x.2) } }, x.2)

/-- RECALL_COMPLETE: every chunk is written. Steps 4 and 5; the recall has had its forwarding entry since it took its space. -/
def execRecallComplete (oti : Nat) (s : State) : Host.Outcome State Fault Refusal :=
  .next (if !s.heap.recalls.contains oti || (s.res.reqs.any fun q => q.what == .recall oti) then s
    else match tabGet s.heap.recallTo oti none with
      | none => s
      | some a =>
        let o := s.obj oti
        let s1 := dropEarly (forwardStub (s.setObj oti { o with st := .live, addr := a }) o.addr a)
        endRecall { s1 with heap := { s1.heap with recallN := s1.heap.recallN + 1, coldAt := tabDel s1.heap.coldAt oti } } oti)

end Sys2Proof.Machine
end

