-- ==== Sys2Proof/Machine/Experts.lean ====
section
/-! DEFINITION. The expert words of major 0x1C: XROUTE, XCLOSE, XFETCH, XPIN, XUNPIN, XPRED, XQRY, XSNAP, XREPL (R377 to R389,
R187, R200). -/

namespace Sys2Proof.Machine

/-- Lane `i` of a vector as a word, and a vector from words; the lanes beyond them are zero. -/
def lane32 (v : VReg) (i : Nat) : Word := v.extractLsb' (32 * i) 32
def vecOfWords (l : List Word) : VReg := BitVec.ofNat 4096 (leNat (l.flatMap fun w => natLe 4 w.toNat))

/-- An interlocked result in vector registers, by name. -/
def Bank.lockV (b : Bank) (l : List (Nat × VReg)) : Bank :=
  b.lockWrites (l.map fun x => .v (b.physV x.1) x.2 allOnesV) 0 true

/-! ### XROUTE (R386, R387) -/

/-- The pairs of lanes 0 to n - 1, for the result numbered `lock`. -/
def routeSteps (b : Bank) (o : XOps) (n lock : Nat) : List RouteStep :=
  (List.range n).map fun i =>
    { row := lane32 (b.vreg o.va.toNat) i, xid := lane32 (b.vreg o.vb.toNat) i, xpol := b.sys.xpol, lock := lock, lane := i, last := i + 1 == n }

/-- XROUTE: the release, then the pairs, which ROUTE_PAIR moves treat one by one: other threads' pairs, closes and XREPLs fall between
them. -/
def execXroute (h : Hdr) (o : XOps) (s : State) : Host.Outcome State Fault Refusal :=
  word (.xroute h o) s fun s =>
    let c := s.iss.ctx
    let b := s.cur
    let n := (b.sreg o.sa.toNat).toNat
    if 128 < n ∨ 2048 < n + (s.member c).slots.length then .error (stopTrap 0x01 (b.sreg o.sa.toNat), s)
    else
      let s1 := if n = 0 then s else wbAll s c.core 2
      let b1 := s1.bank c
      let d := o.vd.toNat
      let b2 := b1.lockWrites [.v (b.physV d) 0 allOnesV, .v (b.physV (d + 1)) 0 allOnesV] 0 (n == 0)
      .ok (s1.setBank c { b2 with pipe := { b2.pipe with routes := b2.pipe.routes ++ routeSteps b o n b1.lockId } })

/-! ### XCLOSE (R379, R380) -/

def execXclose (h : Hdr) (o : XOps) (s : State) : Host.Outcome State Fault Refusal :=
  word (.xclose h o) s fun s =>
    let c := s.iss.ctx
    let s1 := commitSlots (wbAll s c.core 2) c
    match s1.tagIx? (s.cur.sreg o.sa.toNat) with
    | none => .ok s1
    | some i => .ok (if (s1.tag i).fin then s1 else closeExpert s1 i false)

/-- The final form: step 1 of R195; the Colander does the rest. -/
def execXcloseFinal (h : Hdr) (o : XOps) (s : State) : Host.Outcome State Fault Refusal :=
  word (.xcloseFinal h o) s fun s =>
    let c := s.iss.ctx
    let x := s.cur.sreg o.sa.toNat
    let s1 := commitSlots (wbAll s c.core 2) c
    let m := s1.xslot (xidSlot x)
    .ok (if m.v && decide (xidLayer x < m.layN) then finalStart s1 (xidSlot x) (xidLayer x) else s1)

/-! ### XFETCH, XPIN, XUNPIN (R381, R382) -/

/-- XFETCH's action and status. -/
def xfetchOf (s : State) (xid : Word) (b : Bool) : State × Nat :=
  match s.tagIx? xid with
  | none => (s, 5)
  | some i =>
    let t := s.tag i
    if t.psn then (s, 6)
    else match (t.copy b).st with
      | .none => (s, 4)
      | .resident => (s, 1)
      | .filling => (s, 2)
      | .absent =>
        let (s1, ok) := requestFill s i b 4
        if ok then (s1, 0) else (s, 3)

def execXfetch (h : Hdr) (o : XOps) (s : State) : Host.Outcome State Fault Refusal :=
  word (.xfetch h o) s fun s =>
    let (s1, st) := xfetchOf s (s.cur.sreg o.sa.toNat) (o.xf.getLsbD 0)
    .ok (s1.setCur (s1.cur.lockS o.sb.toNat (BitVec.ofNat 32 st)))

/-- XPIN's and XUNPIN's status word. -/
def pinWord (unk psn fill sat : Bool) (pins : Nat) : Word :=
  bit1 unk ++ bit1 psn ++ (0 : BitVec 12) ++ bit1 fill ++ bit1 sat ++ BitVec.ofNat 16 pins

/-- XPIN's fetch: the copy A when it is absent, or B when A is not provided and B is absent. -/
def pinFetch (s : State) (i : Nat) : State × Bool :=
  let t := s.tag i
  if t.psn || (t.copy t.prefB).st != .absent then (s, false) else requestFill s i t.prefB 4

def execXpin (h : Hdr) (o : XOps) (s : State) : Host.Outcome State Fault Refusal :=
  word (.xpin h o) s fun s =>
    match s.tagIx? (s.cur.sreg o.sa.toNat) with
    | none => .ok (s.setCur (s.cur.lockS o.sb.toNat (pinWord true false false false 0)))
    | some i =>
      let t := s.tag i
      let sat := decide (65535 ≤ t.pins)
      let p := if sat then t.pins else t.pins + 1
      let s1 := s.setTag i { t with pins := p }
      let (s2, fill) := if o.xf.getLsbD 0 then pinFetch s1 i else (s1, false)
      .ok (s2.setCur (s2.cur.lockS o.sb.toNat (pinWord false t.psn fill sat p)))

def execXunpin (h : Hdr) (o : XOps) (s : State) : Host.Outcome State Fault Refusal :=
  word (.xunpin h o) s fun s =>
    match s.tagIx? (s.cur.sreg o.sa.toNat) with
    | none => .ok (s.setCur (s.cur.lockS o.sb.toNat (pinWord true false false false 0)))
    | some i =>
      let t := s.tag i
      let s1 := s.setTag i { t with pins := t.pins - 1 }
      .ok (s1.setCur (s1.cur.lockS o.sb.toNat (pinWord false t.psn false (t.pins == 0) (t.pins - 1))))

/-! ### XPRED (R383, R200) -/

/-- A range read through the system cache, 4 KiB at a time. -/
def sysRange (s : State) (pa n : Nat) : List Byte := (pagePieces (n / 4096 + 2) pa n).flatMap fun p => sysBytes s p.1 p.2

/-- p_j from the predictor matrix: one fp32 rounding per product and per addition, in ascending i. -/
def predMatrix (scores : List Nat) (w : Nat → Nat → Nat) (j : Nat) : Num :=
  ofF32 (((List.range scores.length).zip scores).foldl (fun acc x =>
    let p := roundF32 .rne (numMul (ofF32 x.2) (ofB16 (w x.1 j))).1
    (roundF32 .rne (numAdd .rne (ofF32 acc) (ofF32 p.1)).1).1) 0)

/-- p_j from the co-occurrence lists. -/
def predLists (scores : List Nat) (names : Nat → List Nat) (j : Nat) : Num :=
  ofF32 (((List.range scores.length).zip scores).foldl (fun acc x =>
    if (names x.1).contains j then (roundF32 .rne (numAdd .rne (ofF32 acc) (ofF32 x.2)).1).1 else acc) 0)

/-- What XPRED's prediction reads: PM, or CO where there is no PM. -/
def predRange (a : LayerRec) (n n1 : Nat) : Nat × Nat := if a.pm ≠ 0 then (a.pm, 2 * n * n1) else (a.co, 8 * n)

/-- The predictions of layer l + 1's experts, or none where the Colander's read of PM or CO fails. -/
def predictions (s : State) (a : LayerRec) (n1 : Nat) (scores : List Nat) : Option (List Num) :=
  let n := scores.length
  if unitFault s (predRange a n n1).1 (predRange a n n1).2 .rd then none
  else if a.pm ≠ 0 then
      let m := leNat (sysRange s a.pm (2 * n * n1))
      some ((List.range n1).map (predMatrix scores fun i j => bits m (16 * (i * n1 + j)) 16))
  else
    let m := leNat (sysRange s a.co (8 * n))
    some ((List.range n1).map (predLists scores fun i => (List.range 4).map fun k => bits m (64 * i + 16 * k) 16))

/-- The experts of the `m` highest ranks. -/
def topRanks (ps : List Num) (m : Nat) : List Nat :=
  (List.range (min m ps.length)).filterMap fun r => (List.range ps.length).find? fun j => rankOf ps j == r

/-- A prediction's fill (R200). -/
def predictFill (s : State) (xid : Word) : State :=
  match s.tagIx? xid with
  | none => s
  | some i =>
    let t := s.tag i
    if t.psn || (t.copy t.prefB).st != .absent then s
    else
      let (s1, ok) := requestFill s i t.prefB 5
      if ok then
        let s2 := s1.setTag i { s1.tag i with pred := true }
        { s2 with res := { s2.res with pfIss := s2.res.pfIss + 1 } }
      else { s with res := { s.res with pfDrop := s.res.pfDrop + 1 } }

/-- Every page of a range is checked before anything moves. -/
def reachPieces (s : State) (c : Ctx) (acc : Acc) : List (Nat × Nat) → Except (Stop × State) (State × List (Loc × Nat))
  | [] => .ok (s, [])
  | (va, n) :: r =>
    match reachWord s c va n acc with
    | .error e => .error e
    | .ok (s1, l) =>
      match reachPieces s1 c acc r with
      | .error e => .error e
      | .ok (s2, ls) => .ok (s2, (l, n) :: ls)

def execXpred (h : Hdr) (o : XOps) (s : State) : Host.Outcome State Fault Refusal :=
  word (.xpred h o) s fun s =>
    let c := s.iss.ctx
    let x := s.cur.sreg o.sb.toNat
    let m := s.xslot (xidSlot x)
    let l := xidLayer x
    let give (s : State) (ids : List Word) : Res := .ok (s.setBank c ((s.bank c).lockV [(o.vd.toNat, vecOfWords ids)]))
    if !m.v || decide (m.layN ≤ l + 1) then give s []
    else if s.layerWaits (xidSlot x) l || s.layerWaits (xidSlot x) (l + 1) then .error (.stall, s)
    else
      let s := (s.layerUe (xidSlot x) l).layerUe (xidSlot x) (l + 1)
      let a := s.layer (xidSlot x) l
      let n1 := (s.layer (xidSlot x) (l + 1)).nexp
      if a.pm = 0 ∧ a.co = 0 then give s []
      else
        let va := descVa s.cur (s.cur.sreg o.sa.toNat)
        match aligned s va 4 with
        | .error e => .error e
        | .ok () =>
          let ps := pagePieces (4 * a.nexp / 4096 + 2) va (4 * a.nexp)
          match reachPieces s c .rd ps with
          | .error e => .error e
          | .ok (s1, ls) =>
            let s2 := wbAll s1 c.core 2
            let v := leNat (engBytes s2 c ls)
            let rg := predRange a a.nexp n1
            if unitWait s2 rg.1 rg.2 .rd then .error (.stall, s)
            else match predictions s2 a n1 ((List.range a.nexp).map fun i => bits v (32 * i) 32) with
            | none => give (unitUe s2 rg.1 rg.2 .rd) []
            | some p =>
              let ids := (topRanks p ((o.xf.extractLsb' 0 4).toNat + 1)).map fun j => xidOf (xidSlot x) (l + 1) j
              give (ids.foldl predictFill s2) ids

/-! ### XQRY (R384, R187) -/

def copyStCode (c : CopySt) : Nat :=
  match c with
  | .absent => 0
  | .filling => 1
  | .resident => 2
  | .none => 3

/-- The status word of a tag entry. -/
def statusWord (tix : Nat) (t : Tag) : DWord :=
  (0 : BitVec 3) ++ BitVec.ofNat 13 t.home.occ ++ BitVec.ofNat 16 t.pins ++ BitVec.ofNat 3 t.home.bmode ++ bit1 t.psn ++
  bit1 t.fin ++ BitVec.ofNat 3 t.reps.length ++ BitVec.ofNat 2 (copyStCode t.a.st) ++ BitVec.ofNat 2 (copyStCode t.b.st) ++
  bit1 t.hasMain ++ bit1 t.hasFar ++ bit1 t.pred ++ (0 : BitVec 2) ++ BitVec.ofNat 15 tix

def execXqry (h : Hdr) (o : XOps) (s : State) : Host.Outcome State Fault Refusal :=
  word (.xqry h o) s fun s =>
    let v := match s.tagIx? (s.cur.sreg o.sa.toNat) with
      | some i => statusWord i (s.tag i)
      | none => BitVec.allOnes 64
    .ok (s.setCur (s.cur.lockD o.sb.toNat v))

/-! ### XSNAP (R388) -/

/-- The entry of an expert by slot, layer and index; none where the index has left its field. -/
def snapTag (s : State) (f : Word) (k : Nat) : Option Nat :=
  let i := xidIndex f + k
  if 4096 ≤ i then none else s.tagIx? (xidOf (xidSlot f) (xidLayer f) i)

/-- The counters, cleared in one action. -/
def snapCounters (s : State) (f : Word) : List Nat → State × List Word
  | [] => (s, [])
  | k :: r =>
    let (s1, w) := match snapTag s f k with
      | none => (s, (0 : Word))
      | some i => (s.setTag i { s.tag i with routed := 0 }, (s.tag i).routed)
    let (s2, ws) := snapCounters s1 f r
    (s2, w :: ws)

/-- Write back and invalidate the L1 lines of the places. -/
def clearPlaces (s : State) (c : Ctx) : List (Nat × Loc × Nat) → Except (Stop × State) State
  | [] => .ok s
  | (va, .pa a, n) :: r =>
    match clearLines s c a va n with
    | .error e => .error e
    | .ok s1 => clearPlaces s1 c r
  | (_, .sp _, _) :: r => clearPlaces s c r

/-- A store of the thread at the places (R146 item 1). -/
def overPlaces (s : State) (c : Ctx) (ls : List (Loc × Nat)) : State :=
  ls.foldl (fun s x => match x.1 with
    | .pa a => s.storeOver c a x.2
    | .sp _ => s) s

def execXsnap (h : Hdr) (o : XOps) (s : State) : Host.Outcome State Fault Refusal :=
  word (.xsnap h o) s fun s =>
    let c := s.iss.ctx
    let f := s.cur.sreg o.sb.toNat
    let n := (s.cur.sreg (o.sb.toNat + 1)).toNat
    let va := descVa s.cur (s.cur.sreg o.sa.toNat)
    if 4096 < n then .error (illegalStop (.xsnap h o), s)
    else if n = 0 then .ok s
    else match aligned s va 4 with
      | .error e => .error e
      | .ok () =>
        let ps := pagePieces (4 * n / 4096 + 2) va (4 * n)
        match reachPieces s c .wr ps with
        | .error e => .error e
        | .ok (s1, ls) =>
          match clearPlaces s1 c ((ps.map Prod.fst).zip ls) with
          | .error e => .error e
          | .ok s2 =>
            let (s3, ws) := snapCounters s2 f (List.range n)
            .ok (engPut (overPlaces s3 c ls) c ls (ws.flatMap fun w => natLe 4 w.toNat))

/-! ### XREPL (R385) -/

/-- The status code, the replica index and the state after XREPL. Whether a peer holds an entry is known to the peer alone: a
free bit (log 13). -/
def xreplOf (s : State) (xid target : Word) : State × Nat × Nat :=
  let dev : BitVec 2 := target.extractLsb' 4 2
  let clu : BitVec 3 := target.extractLsb' 0 3
  if target &&& ~~~0x37#32 ≠ 0 then (s, 6, 0)
  else match s.tagIx? xid with
    | none => (s, 3, 0)
    | some i =>
      let t := s.tag i
      let same (q : XQueue) : Bool := q.dev == dev && q.clu == clu
      if t.psn then (s, 3, 0)
      else if same t.home then (s, 1, 7)
      else match (List.range t.reps.length).find? fun k => same (t.reps.getD k (.fresh 0 0)) with
        | some k => (s, 1, k)
        | none =>
          if 4 ≤ t.reps.length then (s, 2, 0)
          else if !s.devUp dev then (s, 4, 0)
          else if dev != s.devNo && (Config.freeWord s.freeCtr).getLsbD 0 then (s.bump, 5, 0)
          else ((s.bump).setTag i { t with reps := t.reps ++ [.fresh dev clu] }, 0, t.reps.length)

def execXrepl (h : Hdr) (o : XOps) (s : State) : Host.Outcome State Fault Refusal :=
  word (.xrepl h o) s fun s =>
    let (s1, code, ix) := xreplOf s (s.cur.sreg o.sa.toNat) (s.cur.sreg o.sb.toNat)
    .ok (s1.setCur (s1.cur.lockS o.sb.toNat (BitVec.ofNat 32 (code + 16 * ix))))

/-! ### Final close (R195) -/

/-- FINAL_CLOSE: every claim of the layer is committed or returned. -/
def execFinalClose (slot : Fin 8) (layer : Nat) (s : State) : Host.Outcome State Fault Refusal :=
  .next (if finalReady s slot.val layer then finalCloseLayer s slot.val layer else s)

/-- FREQUENCY_DECAY: the frequency of each near copy halves once XREP.DECAY ms have passed (R201). -/
def execFrequencyDecay (s : State) : Host.Outcome State Fault Refusal :=
  let ms := max 1 s.res.xrepDec.toNat
  .next (if s.res.decayAt + ms * 1000000 ≤ s.aon then
      { s with res := { s.res with decayAt := s.aon, tags := tabMap s.res.tags fun _ t =>
        { t with a := { t.a with freq := t.a.freq / 2 }, b := { t.b with freq := t.b.freq / 2 } } } }
    else s)

end Sys2Proof.Machine
end

