-- ==== Sys2Proof/Machine/Power.lean ====
section
/-! DEFINITION. Body bias, clocks, droop, sensors and the throttle of a cluster (R246 to R250). -/

namespace Sys2Proof.Machine

def State.setClk (s : State) (cl : Nat) (x : Clocking) : State := s.setCluster cl { s.cluster cl with clk := x }

/-! ### Hops (R247) -/

/-- The rate that is asked for: half when CLK.HALF, a bias change, the sensor cap or stage 2 asks for it. -/
def Clocking.wantHalf (k : Clocking) : Bool := k.half || k.busy || k.sensCap || k.stage == 2

/-- Ask for the clock that the settings give: a hop, or nothing where nothing changes. A hop in progress, or one that waits for its
retry, takes the settings then: what was asked meanwhile makes one further hop. -/
def wantHop (k : Clocking) : Clocking :=
  if k.hop || k.retry then k else { k with ask := !(k.src == k.curSrc && k.wantHalf == k.curHalf) }

/-- A hop that has been asked for begins: at a cluster cycle boundary. -/
def beginHop (now : Nat) (k : Clocking) : Clocking :=
  if k.ask && !k.hop && !k.retry then { k with ask := false, hop := true, hopSince := now, tgtSrc := k.src, tgtHalf := k.wantHalf }
  else k

/-- CLOCK_HOP_REQUEST: a write of CLK.SRC and CLK.HALF. -/
def clkWrite (s : State) (cl : Nat) (src half : Bool) : State :=
  s.setClk cl (wantHop { (s.cluster cl).clk with src := src, half := half })

def execClockHopRequest (cl : Fin 8) (src half : Bool) (s : State) : Host.Outcome State Fault Refusal :=
  .next (if s.plat.power = .on then clkWrite s cl.val src half else s)

/-- Reference periods of a hop. -/
def hopPeriods : Nat := 8

/-- HOP_COMPLETE: the new clock; the generator settles from the moment the reduced clock runs (R246); a merged request follows. -/
def execHopComplete (cl : Fin 8) (s : State) : Host.Outcome State Fault Refusal :=
  let k := (s.cluster cl.val).clk
  .next (if k.hop ∧ k.hopSince + hopPeriods ≤ s.time then
    s.setClk cl.val (wantHop { k with
      hop := false, curSrc := k.tgtSrc, curHalf := k.tgtHalf,
      biasSince := if k.busy && k.tgtHalf && !k.curHalf then s.time else k.biasSince })
  else s)

/-! ### Body bias (R246) -/

def biasChange (s : State) (cl : Nat) (bb : BitVec 4) : State :=
  let k := (s.cluster cl).clk
  if k.busy ∨ 0xD ≤ bb.toNat ∨ bb = k.bb then s
  else s.setClk cl (wantHop { k with bb := bb, busy := true, biasSince := s.time })

/-- BIAS_WRITE. -/
def execBiasWrite (cl : Fin 8) (bb : BitVec 4) (s : State) : Host.Outcome State Fault Refusal :=
  .next (if s.plat.power = .on then biasChange s cl.val bb else s)

/-- 20 µs of settling. -/
def settlePeriods : Nat := 38000

/-- BIAS_SETTLE_DONE: back to the clock that CLK selects. -/
def execBiasSettleDone (cl : Fin 8) (s : State) : Host.Outcome State Fault Refusal :=
  let k := (s.cluster cl.val).clk
  .next (if k.busy ∧ !k.hop ∧ k.curHalf ∧ k.biasSince + settlePeriods ≤ s.time then
    s.setClk cl.val (wantHop { k with busy := false }) else s)

/-! ### Droop (R248) -/

/-- A crossing has a cluster on one of its sides. -/
def Crossing.meets (x : Crossing) (cl : Fin 8) : Bool := x.a == cl || x.b == cl

/-- The cluster's clock period is doubled: by its own stretch, or by a handshake whose two sides are stretched together. -/
def State.stretched (s : State) (cl : Fin 8) : Bool :=
  (s.cluster cl.val).clk.stretch || s.pwr.cross.any fun x => x.slow && x.meets cl

/-- A handshake of a clock-domain crossing opens; where a side is stretched, both are until it completes. -/
def crossingOpen (a b : Fin 8) (s : State) : State :=
  { s with pwr := { s.pwr with cross := s.pwr.cross ++
      [{ a := a, b := b, slow := (s.cluster a.val).clk.stretch || (s.cluster b.val).clk.stretch }] } }
/-- It completes. -/
def crossingDone (a b : Fin 8) (s : State) : State :=
  { s with pwr := { s.pwr with cross := s.pwr.cross.filter fun x => !(x.a == a && x.b == b) } }

/-- DROOP_DETECT: the stretch begins, or goes on; a hop in progress is abandoned; both sides of an open crossing are stretched. -/
def execDroopDetect (cl : Fin 8) (s0 : State) : Host.Outcome State Fault Refusal :=
  let s := { s0 with pwr := { s0.pwr with cross := s0.pwr.cross.map fun (x : Crossing) => { x with slow := x.slow || x.meets cl } } }
  let k := (s.cluster cl.val).clk
  let k1 := { k with stretch := true, droopAt := k.cycles, droop := if k.stretch then k.droop else k.droop + 1 }
  .next (if s.plat.power = .on then
    s.setClk cl.val (if k.hop then { k1 with hop := false, retry := true, dhop := k1.dhop + 1 } else k1)
  else s0)

/-- DROOP_RECOVER: 16 consecutive stretched cycles above the threshold. -/
def execDroopRecover (cl : Fin 8) (s : State) : Host.Outcome State Fault Refusal :=
  let k := (s.cluster cl.val).clk
  .next (if k.stretch ∧ k.droopAt + 16 ≤ k.cycles then s.setClk cl.val { k with stretch := false } else s)

/-- HOP_RETRY: 256 consecutive cycles without droop. -/
def execHopRetry (cl : Fin 8) (s : State) : Host.Outcome State Fault Refusal :=
  let k := (s.cluster cl.val).clk
  .next (if k.retry ∧ !k.stretch ∧ k.droopAt + 256 ≤ k.cycles then s.setClk cl.val (wantHop { k with retry := false }) else s)

/-! ### Sensors (R249) -/

/-- Reading of sensor `i` of a cluster: 0 to 3 thermal, 4 and 5 current. -/
def sensorVal (r : SensorSet) (i : Nat) : Int :=
  (match i with
    | 0 => r.t0
    | 1 => r.t1
    | 2 => r.t2
    | 3 => r.t3
    | 4 => r.i0
    | _ => r.i1).toInt

def thermal (i : Nat) : Bool := decide (i < 4)

/-- −40 to 150 °C in eighths, 0 to 120 A in sixteenths. -/
def sensorOutside (i : Nat) (v : Int) : Bool :=
  if thermal i then decide (v < -320) || decide (1200 < v) else decide (v < 0) || decide (1920 < v)

/-- Neighbours of a sensor: the other sensors of its kind in its cluster and in the clusters beside it. -/
def neighbours (cl i : Nat) : List (Nat × Nat) :=
  (((if cl = 0 then [] else [cl - 1]) ++ [cl, cl + 1]).filter fun c => decide (c < 8)).flatMap fun c =>
    ((if thermal i then [0, 1, 2, 3] else [4, 5]).map fun j => (c, j)).filter fun x => x != (cl, i)

/-- Readings of the neighbours that are in service: not failed, and read since their SENSF bit was cleared. -/
def neighbourVals (s : State) (cl i : Nat) : List Int :=
  (neighbours cl i).filterMap fun x =>
    let k := (s.cluster x.1).clk
    if (k.sensf ||| k.sensIn).getLsbD x.2 then none else some (sensorVal k.sensv x.2)

def insertInt (x : Int) : List Int → List Int
  | [] => [x]
  | y :: r => if x ≤ y then x :: y :: r else y :: insertInt x r

/-- Twice the median: of an even count, the sum of the middle two. -/
def median2 (l : List Int) : Option Int :=
  let m := l.foldl (fun a x => insertInt x a) []
  let n := m.length
  match m[(n - 1) / 2]?, m[n / 2]? with
  | some a, some b => some (a + b)
  | _, _ => none

/-- It disagrees with the median of its neighbours by more than DISAG. -/
def disagrees (s : State) (cl i : Nat) : Bool :=
  let d := (if thermal i then s.pwr.disagT else s.pwr.disagI).toInt
  match median2 (neighbourVals s cl i) with
  | some m => decide (2 * d < (2 * sensorVal (s.cluster cl).clk.sensv i - m).natAbs)
  | none => false

/-- Granted units of successive milliseconds of the last ten that differ by more than 10% of the earlier one's (DESIGN CHOICE, log 47: R249
does not say of which). -/
def unitsVary : List Nat → Bool
  | a :: b :: r => decide (b < 10 * (max a b - min a b)) || unitsVary (b :: r)
  | _ => false

/-- It has not changed for 10 ms although the load has. -/
def stuck (s : State) (cl i : Nat) : Bool :=
  let k := s.cluster cl
  (tabGet? k.clk.lastChg i).any (fun t => decide (t + 19000000 ≤ s.time)) && unitsVary (k.bucket.hist.take 10)

/-- SENSOR_FAILED: SENSF, event 9, a record of kind 9. -/
def markFailed (s : State) (cl i : Nat) : State :=
  let k := (s.cluster cl).clk
  let v := wrapInt 32 (sensorVal k.sensv i)
  raiseEvent 9 (crock { crockBase 9 (6 * cl + i) with info := v } (s.setClk cl { k with sensf := k.sensf ||| (1#6 <<< i) }))

/-- Mark the sensors in number order: first by themselves, then against their neighbours. -/
def markSensors (s : State) (cl : Nat) : State :=
  let bad (p : State → Nat → Bool) (s : State) (i : Nat) : State :=
    if !(s.cluster cl).clk.sensf.getLsbD i && p s i then markFailed s cl i else s
  let s1 := (List.range 6).foldl (bad fun s i => sensorOutside i (sensorVal (s.cluster cl).clk.sensv i) || stuck s cl i) s
  (List.range 6).foldl (bad fun s i => disagrees s cl i) s1

/-- The new readings, and when each last changed: the first since power came counts as a change. A sensor whose SENSF bit was cleared is
in service again. -/
def takeReadings (s : State) (cl : Nat) (r : SensorSet) : State :=
  let k := (s.cluster cl).clk
  let chg := (List.range 6).foldl (fun t i => if sensorVal r i ≠ sensorVal k.sensv i ∨ (tabGet? k.lastChg i).isNone then tabSet t i s.time else t) k.lastChg
  s.setClk cl { k with sensv := r, lastChg := chg, sensIn := 0, sensAt := some s.time }

def maxInt : List Int → Option Int
  | [] => none
  | x :: r => match maxInt r with
    | none => some x
    | some y => some (max x y)

/-- A cluster's value of a kind: its sensors, and for each failed one the maximum of its neighbours plus MARGIN. -/
def clusterValue (s : State) (cl : Nat) (th : Bool) : Option Int :=
  let k := (s.cluster cl).clk
  let margin := (if th then s.pwr.marginT else s.pwr.marginI).toInt
  maxInt ((if th then [0, 1, 2, 3] else [4, 5]).filterMap fun i =>
    if k.sensf.getLsbD i then (maxInt (neighbourVals s cl i)).map fun v => v + margin else some (sensorVal k.sensv i))

/-! ### The throttle (R250) -/

/-- A value at or above its limit; below the limit less HYST. -/
def isOver (v : Option Int) (limit : BitVec 16) : Bool :=
  match v with
  | some x => decide (limit.toInt ≤ x)
  | none => false
def isUnder (v : Option Int) (limit hyst : BitVec 16) : Bool :=
  match v with
  | some x => decide (x < limit.toInt - hyst.toInt)
  | none => true

/-- One reading's action: refill first, clock second. -/
def throttle (s : State) (cl : Nat) : State :=
  let t := clusterValue s cl true
  let i := clusterValue s cl false
  let x := s.cluster cl
  let k := x.clk
  let b := x.bucket
  let cap := k.thrCap.getD b.target
  let step := b.target / 8
  let hot := isOver t s.pwr.ttrip || isOver i s.pwr.ilim
  let cool := isUnder t s.pwr.ttrip s.pwr.hystT && isUnder i s.pwr.ilim s.pwr.hystI
  let k1 :=
    if hot then
      (if cap ≤ b.min then { k with stage := 2, thrCap := some cap }
       else if k.stage ≤ 1 then { k with stage := 1, thrCap := some (max b.min (cap - step)) } else k)
    else if cool then
      (match k.stage with
        | 0 => k
        | 1 => if b.target ≤ cap + step then { k with stage := 0, thrCap := none } else { k with thrCap := some (cap + step) }
        | _ => { k with stage := 1 })
    else k
  clampCur (s.setClk cl k1) cl

/-- Every sensor of one kind has failed. -/
def allFailed (k : Clocking) : Bool := k.sensf &&& 0xF#6 == 0xF#6 || k.sensf &&& 0x30#6 == 0x30#6

/-- 100 µs in reference periods: the sensors are read that often (R249). -/
def sensorPeriods : Nat := 190000

/-- A reading is due. -/
def sensorDue (s : State) (cl : Nat) : Bool :=
  match (s.cluster cl).clk.sensAt with
  | some t => decide (t + sensorPeriods ≤ s.time)
  | none => true

/-- SENSOR_READING: mark, cap, throttle, hop; TCRIT is a fatal error (R264). -/
def execSensorReading (cl : Fin 8) (r : SensorSet) (s : State) : Host.Outcome State Fault Refusal :=
  .next (if s.plat.power ≠ .on ∨ !sensorDue s cl.val then s
    else
      let s1 := markSensors (takeReadings s cl.val r) cl.val
      let k := (s1.cluster cl.val).clk
      let s2 := throttle (s1.setClk cl.val { k with sensCap := allFailed k }) cl.val
      let s3 := s2.setClk cl.val (wantHop (s2.cluster cl.val).clk)
      if isOver (clusterValue s3 cl.val true) s3.pwr.tcrit then fatalError 1 s3 else s3)

/-- SENSF_CLEAR: back in service at the next reading. -/
def sensfWrite (s : State) (cl : Nat) (mask : BitVec 6) : State :=
  let k := (s.cluster cl).clk
  s.setClk cl { k with sensf := k.sensf &&& ~~~mask, sensIn := k.sensIn ||| (k.sensf &&& mask) }

def execSensfClear (cl : Fin 8) (mask : BitVec 6) (s : State) : Host.Outcome State Fault Refusal :=
  .next (if s.plat.power = .on then sensfWrite s cl.val mask else s)

end Sys2Proof.Machine
end

