-- ==== Sys2Proof/Machine/Steamer.lean ====
section
/-! DEFINITION. Model slots and the fetch engine (the Steamer): install and uninstall, the chunks of fills, streams, recalls and
evictions, the conversion into a near copy's format, and what arrives over the Birith link (R184 to R186, R192, R196 to R199,
R257 to R259). -/

namespace Sys2Proof.Machine

/-! ### Descriptors (R184, R185) -/

/-- A copy descriptor of 128 bits. SB and the reserved bit of its FMT are ignored: they are held as 0 (R185, R5). -/
def copyDescOf (x : Nat) : CopyDesc :=
  { tab := BitVec.ofNat 48 (bits x 80 48), nch := bits x 64 16, fmt := BitVec.ofNat 15 (bits x 32 15) &&& 0x0FEF, scoff := bits x 0 32 }

def CopyDesc.bf (d : CopyDesc) : Bf := bfOf (d.fmt.setWidth 32)

/-- The tag entry that a descriptor of 128 bytes makes. -/
def tagOf (x : Nat) : Tag :=
  let near (d : CopyDesc) : NearCopy := { NearCopy.absent with st := if d.nch = 0 then .none else .absent }
  let ca := copyDescOf (bits x 512 128)
  let cb := copyDescOf (bits x 640 128)
  { Tag.zero with
    xid := BitVec.ofNat 32 x, ca := ca, cb := cb, cm := copyDescOf (bits x 768 128), cf := copyDescOf (bits x 896 128),
    rpb := BitVec.ofNat 48 (bits x 464 48), subst := if bitOf x 396 then some (BitVec.ofNat 32 (bits x 416 32)) else none,
    bthr := bits x 384 12, nel := bits x 352 32, a := near ca, b := near cb,
    home := .fresh (BitVec.ofNat 2 (bits x 36 2)) (BitVec.ofNat 3 (bits x 32 3)) }

/-- A chunk-table entry (R186). -/
structure ChunkEnt where
  tag  : List Byte
  cmpr : Bool
  clen : Nat
  loc  : Nat
  deriving DecidableEq, Repr

def chunkEnt (s : State) (d : CopyDesc) (i : Nat) : ChunkEnt :=
  let x := sysLe s (d.tab.toNat + 32 * i) 32
  { tag := natLe 16 (bits x 128 128), cmpr := bitOf x 112, clen := bits x 96 16, loc := bits x 0 64 }

/-- A copy that R185 allows: a format that is not reserved (log 30), NEL a multiple of G, elements and scales inside the image. -/
def copyFits (nel : Nat) (d : CopyDesc) : Bool :=
  d.nch == 0 ||
  (!d.bf.reserved && nel % d.bf.g == 0 && decide ((nel * d.bf.width + 7) / 8 ≤ d.nch * 65536) &&
   (d.bf.grp == 0 || decide (d.scoff + nel / d.bf.g * scaleBytes d.bf ≤ d.nch * 65536)))

/-- The install check of ECODE 1. -/
def tagFits (s : State) (t : Tag) : Bool :=
  [t.ca, t.cb, t.cm, t.cf].all (copyFits t.nel) && (t.ca.nch != 0 || t.cb.nch != 0) && (t.hasMain || t.hasFar) &&
  decide (t.ca.nch ≤ s.fillFrames) && decide (t.cb.nch ≤ s.fillFrames)

/-- An expert id that the layer table of slot `m` knows. -/
def xidKnown (s : State) (m : Nat) (x : Word) : Bool :=
  let sl := s.xslot m
  x.toNat % 512 == 0 && xidSlot x == m && decide (xidLayer x < sl.layN) &&
  decide (xidIndex x < (layerAt s sl.lay.toNat (xidLayer x)).nexp)

/-! ### Install and uninstall (R184) -/

/-- The descriptors of a slot, in array order. -/
def slotTags (s : State) (m : Nat) : List Tag :=
  let sl := s.xslot m
  (List.range sl.ndesc.toNat).map fun i => tagOf (sysLe s (sl.dir.toNat + 128 * i) 128)

/-- The chunks of an expert's main copy. -/
def mainChunks (s : State) (t : Tag) : List ChunkEnt := (List.range t.cm.nch).map (chunkEnt s t.cm)

/-- Frames that a chunk covers. -/
def ChunkEnt.frames (e : ChunkEnt) : List Nat :=
  if e.clen = 0 then [] else (List.range ((e.loc % 4096 + 64 * e.clen + 4095) / 4096)).map fun k => e.loc / 4096 + k

def mainFrames (s : State) (t : Tag) : List Nat := (mainChunks s t).flatMap ChunkEnt.frames

/-- A frame that may hold ciphertext. -/
def mainFrameOk (s : State) (f : Nat) : Bool :=
  (match s.region (f * 4096) with
    | some r => decide (r.cls ≤ 1)
    | none => false) && s.fam f &&& (famMGD ||| famCMP ||| famPSN ||| famNM) == 0

/-- No two descriptors carry one id. -/
def noRepeat : List Word → Bool
  | [] => true
  | x :: r => !r.contains x && noRepeat r

/-- The first free tag-store entry at or after `i`. -/
def tixFrom (s : State) (fuel i : Nat) : Option Nat :=
  match fuel with
  | 0 => none
  | k + 1 => if (tabGet? s.res.tags i).isNone then some i else tixFrom s k ((i + 1) % 32768)

/-- Which free entry a descriptor gets is left open: a free value (log 16). -/
def addTag (s : State) (t : Tag) : State :=
  match tixFrom s 32768 ((Config.freeWord s.freeCtr).toNat % 32768) with
  | some i => s.bump.setTag i t
  | none => s

/-- What an install reads: the descriptors, the layer table, and the chunk tables of the main copies. -/
def installReads (s : State) (m : Nat) : List (Nat × Nat) :=
  let sl := s.xslot m
  (sl.dir.toNat, 128 * sl.ndesc.toNat) :: (sl.lay.toNat, 32 * sl.layN) ::
    (slotTags s m).map fun t => (t.cm.tab.toNat, 32 * t.cm.nch)

/-- The ECODE of an install, by the first row of R184's table that holds. A chunk table that cannot be read has no row: it gives
ECODE 5, once the descriptors have passed their checks (log 30). -/
def installCode (s : State) (m : Nat) : Option (BitVec 4) :=
  let sl := s.xslot m
  let ts := slotTags s m
  if sl.v then some 4
  else if sl.key.isNone then some 3
  else if unitFault s sl.dir.toNat (128 * sl.ndesc.toNat) .rd || unitFault s sl.lay.toNat (32 * sl.layN) .rd then some 5
  else if !(ts.all fun t => xidKnown s m t.xid) || !noRepeat (ts.map Tag.xid) || !ts.all (tagFits s) then some 1
  else if ts.any (fun t => unitFault s t.cm.tab.toNat (32 * t.cm.nch) .rd) then some 5
  else if ts.any fun t => !(mainFrames s t).all (mainFrameOk s) then some 7
  else if 32768 < s.res.tags.length + ts.length then some 2
  else none

def setNm (s : State) (on : Bool) (fs : List Nat) : State :=
  fs.foldl (fun s f => s.famSet f (if on then famNM else 0) (if on then 0 else famNM)) s

/-- Install slot `m`: it fails with a code, and an uncorrectable error in what it read is recorded (R139); waits while
a frame of a main copy or of what it reads has MIG, or creates the entries. -/
def modelInstall (s : State) (m : Nat) : State :=
  let sl := s.xslot m
  if (installReads s m).any fun r => unitWait s r.1 r.2 .rd then s.setXslot m { sl with inst := true }
  else match installCode s m with
  | some code =>
    let s1 := if code = 5 then (installReads s m).foldl (fun s r => unitUe s r.1 r.2 .rd) s else s
    s1.setXslot m { s1.xslot m with err := true, ecode := code, inst := false }
  | none =>
    let ts := slotTags s m
    let fs := ts.flatMap (mainFrames s)
    if fs.any fun f => s.famHas f famMIG then s.setXslot m { sl with inst := true }
    else
      let s1 := (ts.map fun t => { t with nm := mainFrames s t }).foldl addTag (setNm s true fs)
      s1.setXslot m { s1.xslot m with v := true, inst := false }

def execModelInstall (m : Fin 8) (s : State) : Host.Outcome State Fault Refusal :=
  .next (if s.awake then modelInstall s m.val else s)

/-- Forget one expert: its frames, its requests and its stream frames go with its entry. -/
def forgetTag (s : State) (i : Nat) : State :=
  let t := s.tag i
  let s1 := setNm s false t.nm
  let r := s1.res
  { s1 with res := { r with
      tags := tabDel r.tags i
      reqs := r.reqs.filter fun q => !(q.what.tix == some i)
      retry := r.retry.filter fun x => x.1 != i
      streams := r.streams.filter fun f => f.tix != i
      claims := r.claims.filter fun x => x != i
      dist := r.dist.filter fun e => e.1 / 65536 != i } }

/-- Uninstall slot `m`: entries, frames, NM, and the slot's key (R268). -/
def modelUninstall (s : State) (m : Nat) : State :=
  let sl := s.xslot m
  let is := (s.res.tags.filter fun e => xidSlot e.2.xid == m).map Prod.fst
  if is.any fun i => (s.tag i).pins != 0 || (s.tag i).queues.any XQueue.busy then s.setXslot m { sl with err := true, ecode := 6 }
  else
    let s1 := is.foldl forgetTag s
    retryFills (s1.setXslot m { sl with v := false, key := none, inst := false })

def execModelUninstall (m : Fin 8) (s : State) : Host.Outcome State Fault Refusal :=
  .next (if s.awake then modelUninstall s m.val else s)

/-! ### One chunk (R186, R197) -/

/-- The IV and the additional data of a chunk. -/
def chunkIv (ver xid : Word) (i : Nat) (far : Bool) : List Byte :=
  natLe 4 ver.toNat ++ natLe 4 xid.toNat ++ natLe 2 i ++ natLe 1 (b2n far) ++ [0]
def chunkAad (xid : Word) (i : Nat) (far : Bool) (d : CopyDesc) : List Byte :=
  natLe 4 xid.toNat ++ natLe 4 i ++ natLe 1 (b2n far) ++ natLe 1 d.fmt.toNat ++ List.replicate 6 0

/-- Steps 2 and 3: authenticate, decrypt, decode. -/
def openModelChunk (sl : Slot) (xid : Word) (far : Bool) (d : CopyDesc) (e : ChunkEnt) (i : Nat) (c : List Byte) : Option (List Byte) :=
  match sl.key with
  | none => none
  | some key =>
    match gcmOpen key (chunkIv sl.ver xid i far) (chunkAad xid i far d) c e.tag with
    | none => none
    | some p => if e.cmpr then chunkDecode p else if p.length = 65536 then some p else none

/-- The copy that a fill reads: main if it exists, else far (R381). -/
def Tag.srcFar (t : Tag) : Bool := !t.hasMain
def Tag.srcDesc (t : Tag) (far : Bool) : CopyDesc := if far then t.cf else t.cm

/-- Step 1: the ciphertext; none where its table or its frames cannot be read. -/
def chunkCipher (s : State) (sl : Slot) (d : CopyDesc) (far : Bool) (i : Nat) : Option (ChunkEnt × List Byte) :=
  if unitFault s (d.tab.toNat + 32 * i) 32 .rd then none
  else
    let e := chunkEnt s d i
    if e.clen = 0 ∨ 1024 < e.clen then none
    else if far then some (e, memBytes (s.farMem (farKey sl.drive sl.ns)) (4096 * e.loc) (64 * e.clen))
    else if unitFault s e.loc (64 * e.clen) .rd then none
    else some (e, rawBytes s e.loc (64 * e.clen))

/-- Steps 1 to 3 for chunk `i` of an expert. -/
def plainChunk (s : State) (t : Tag) (far : Bool) (i : Nat) : Option (List Byte) :=
  let sl := s.xslot (xidSlot t.xid)
  match chunkCipher s sl (t.srcDesc far) far i with
  | none => none
  | some (e, c) => openModelChunk sl t.xid far (t.srcDesc far) e i c

/-- What step 1 reads of main memory: the chunk's table entry, and the ciphertext of a main copy. -/
def chunkReads (s : State) (t : Tag) (far : Bool) (i : Nat) : List (Nat × Nat) :=
  let d := t.srcDesc far
  let e := chunkEnt s d i
  (d.tab.toNat + 32 * i, 32) :: (if far then [] else [(e.loc, 64 * e.clen)])

/-- An uncorrectable error in what step 1 reads is recorded where it is found (R139). -/
def chunkUe (s : State) (t : Tag) (far : Bool) (i : Nat) : State :=
  (chunkReads s t far i).foldl (fun s r => unitUe s r.1 r.2 .rd) s

/-! ### Conversion (R199) -/

/-- The largest finite magnitude of a format. -/
def Bf.qmax (b : Bf) : Nat × Int :=
  match b.fmt with
  | 5 => (fmtB16.maxM, fmtB16.maxE)
  | 6 => (fmtF32.maxM, fmtF32.maxE)
  | k =>
    if k ≤ 4 then (if b.sg then 2 ^ (b.width - 1) - 1 else 2 ^ b.width - 1, 0)
    else (b.b8.fmt.maxM, b.b8.fmt.maxE)

/-- The larger of two magnitudes; what is not finite counts nothing. -/
def magMax (a : Nat × Int) (x : Num) : Nat × Int :=
  match x with
  | .fin _ m e => if magGt m e a.1 a.2 then (m, e) else a
  | _ => a

/-- The least e with a ≤ Q x 2^e, clamped to the scale format's normal powers; 0 where a = 0. -/
def scaleExp (b : Bf) (xs : List Num) : Int :=
  let a := xs.foldl magMax (0, 0)
  if a.1 = 0 then 0
  else
    let q := b.qmax
    let d : Int := (Nat.log2 a.1 : Int) + a.2 - ((Nat.log2 q.1 : Int) + q.2)
    let e := if magGt a.1 a.2 q.1 (q.2 + d) then d + 1 else d
    if b.sf then max (-31) (min 31 e) else max (-126) (min 127 e)

/-- The scale 2^e in a bank's scale format. -/
def scaleCode (b : Bf) (e : Int) : Nat :=
  if b.sf then (encode8 { p := 3, sg := false, ext := false } false .rne (.fin false 1 e)).1 else (roundB16 .rne (.fin false 1 e)).1

/-- x / 2^e. -/
def numShift (x : Num) (e : Int) : Num :=
  match x with
  | .fin n m f => .fin n m (f - e)
  | x => x

/-- The value of element `i` of a plain image. -/
def imageElem (d : CopyDesc) (img i : Nat) : Elem :=
  let b := d.bf
  let v := b.decode (bits img (b.width * i) b.width)
  if b.grp = 0 then v else scaleElem v (b.scale (bits img (8 * (d.scoff + i / b.g * scaleBytes b)) (8 * scaleBytes b)))

/-- Replace bytes of an image from offset `o`. -/
def patchBytes (l : List Byte) (o : Nat) (b : List Byte) : List Byte := l.take o ++ b ++ l.drop (o + b.length)

/-- One group of a block-scaled target: the scale's exponent and the patterns. -/
def convertGroup (b : Bf) (xs : List Num) : Int × List Nat :=
  let e := scaleExp b xs
  (e, xs.map fun x => b.encode 64 (.flt (numShift x e)))

/-- Groups of `g` elements. -/
def groupsOf {α : Type} (fuel g : Nat) (l : List α) : List (List α) :=
  match fuel with
  | 0 => []
  | k + 1 => if l.isEmpty then [] else l.take g :: groupsOf k g (l.drop g)

/-- The plain image of `dst` that step 4 makes of the image of `src`. No rule converts raw elements: those bytes are free values
(log 30). -/
def convertImage (s : State) (src dst : CopyDesc) (nel : Nat) (image : List Byte) : List Byte :=
  let n := dst.nch * 65536
  if src.fmt = dst.fmt then (image ++ List.replicate n 0).take n
  else if src.bf.fmt = 0 ∨ dst.bf.fmt = 0 then (List.range n).map fun i => Config.freeByte (s.freeCtr + i)
  else
    let img := leNat image
    let vs := (List.range nel).map (imageElem src img)
    let b := dst.bf
    if b.grp = 0 then natLe n (packLanes b.width (vs.map (b.encode src.bf.width)))
    else
      let gs := (groupsOf nel b.g (vs.map Elem.num)).map (convertGroup b)
      let body := natLe n (packLanes b.width (gs.flatMap Prod.snd))
      patchBytes body dst.scoff (gs.flatMap fun x => natLe (scaleBytes b) (scaleCode b x.1))

/-! ### Writing near frames -/

/-- Write one near frame; what stood there, errors too, is gone. -/
def nearPut (s : State) (f : Nat) (x : List Byte) : State :=
  { s with mem := { s.mem with near := memSetBytes s.mem.near (65536 * f) x
                               bad := s.mem.bad.filter fun y => !(y.1 == 2 && y.2 / 8192 == f) } }

/-- Write an image into a copy's frames. -/
def nearPutAll (s : State) : List Nat → List Byte → State
  | [], _ => s
  | f :: r, x => nearPutAll (nearPut s f (x.take 65536)) r (x.drop 65536)

/-- The elements of a near copy that the first `k` of its source's `n` chunks settle: those whose bits and scales lie in them, in whole
groups of the near copy. -/
def settledElems (src dst : CopyDesc) (nel n k : Nat) : Nat :=
  if k = n then nel
  else if src.bf.fmt = 0 ∨ dst.bf.fmt = 0 then 0
  else
    let m := min nel (65536 * k * 8 / src.bf.width)
    let m1 := if src.bf.grp = 0 then m else min m ((65536 * k - src.scoff) / scaleBytes src.bf * src.bf.g)
    m1 / dst.bf.g * dst.bf.g

/-- The bytes of a near copy that `e` settled elements fill: patterns, and the scales of their groups. -/
def settledBytes (dst : CopyDesc) (e : Nat) : Nat :=
  (e * dst.bf.width + 7) / 8 + (if dst.bf.grp = 0 then 0 else e / dst.bf.g * scaleBytes dst.bf)

/-- The bytes written of a near copy once `k` of its source's `n` chunks are in hand: all of it with the last. -/
def fillBytes (src dst : CopyDesc) (nel n k : Nat) : Nat :=
  if k = n then dst.nch * 65536
  else if src.fmt = dst.fmt then min k dst.nch * 65536
  else settledBytes dst (settledElems src dst nel n k)

/-- The frames of a copy beyond the chunks of its source hold zeros (R185). -/
def zeroFrames (s : State) (l : List Nat) : State := l.foldl (fun s f => nearPut s f (List.replicate 65536 0)) s

/-- Steps 4 and 5 for chunk `i` of a source of `n` chunks, with `k` leading chunks in hand, whose bytes are `image`. Equal formats write
the chunk's frame; a conversion writes what those chunks settle, since the scales of an element can stand in a later chunk (log 30). With
all chunks in hand the copy is RESIDENT. -/
def storeChunk (s : State) (tix : Nat) (b far : Bool) (i k : Nat) (x image : List Byte) (all : Bool) : State :=
  let t := s.tag tix
  let src := t.srcDesc far
  let dst := t.nearDesc b
  let fs := (t.copy b).frames
  let s1 :=
    if src.fmt = dst.fmt then
      let s1 := match fs[i]? with
        | some f => nearPut s f x
        | none => s
      if all then zeroFrames s1 (fs.drop src.nch) else s1
    else
      let y := convertImage s src dst (settledElems src dst t.nel src.nch k) image
      nearPutAll { s with freeCtr := s.freeCtr + y.length } fs y
  if all then fillComplete s1 tix b else s1

/-! ### STEAMER_CHUNK (R197) -/

/-- A command that still stands in its FIFO: it may read the stream frame again. -/
def liveReader (s : State) (r : Reader) : Bool :=
  let e := (s.bank r.1).eng
  (e.ci.q ++ e.co.q).any fun x => x.id == r.2.1

/-- A stream frame that every command which read it, or asked for it, has passed. -/
def StreamFrame.passed (s : State) (f : StreamFrame) : Bool := !f.readers.any (liveReader s)

/-- The stream frame that a chunk takes, and those in use without it: one more while fewer than STREAMF are used, else the one in use
longest that has been passed; none where the chunk must wait (R196, log 25). -/
def streamFrame (s : State) : Option (Nat × List StreamFrame) :=
  let l := s.res.streams
  match decide (l.length < s.res.streamf.toNat), s.freeFrames.getLast? with
  | true, some f => some (f, l)
  | _, _ => (l.find? (StreamFrame.passed s)).map fun x => (x.frame, l.erase x)

/-- A request that cannot begin: a stream chunk for which there is no frame, a recall for which there is no space. -/
def reqBlocked (s : State) (q : FillReq) : Bool :=
  match q.what with
  | .stream _ => (streamFrame s).isNone
  | .recall oti => (recallPlace s oti).isNone
  | _ => false

/-- The request that the Steamer serves: the chunk in flight, else the first of the highest class. -/
def pickReq (s : State) : Option FillReq :=
  let l := s.res.reqs.filter fun q => q.paid != 0 || !reqBlocked s q
  match l.find? fun q => q.paid != 0 with
  | some q => some q
  | none => l.foldl (fun b q =>
    match b with
    | none => some q
    | some x => if q.cls < x.cls ∨ (q.cls = x.cls ∧ q.seq < x.seq) then some q else b) none

def setReq (s : State) (q : FillReq) (x : Option FillReq) : State :=
  let l := s.res.reqs
  { s with res := { s.res with reqs := match x with
    | some y => l.map fun z => if z.seq = q.seq then y else z
    | none => l.filter fun z => z.seq != q.seq } }

/-- A chunk of a request is done: the next one is chosen afresh. `x` is what the request keeps. -/
def nextChunk (s : State) (q : FillReq) (n : Nat) : State :=
  setReq s q (if q.chunk + 1 < n then some { q with chunk := q.chunk + 1, paid := 0 } else none)

/-- A chunk of a fill: steps 1 to 5. -/
def fillChunk (s : State) (q : FillReq) (tix : Nat) (b : Bool) : State :=
  let t := s.tag tix
  let far := t.srcFar
  let n := (t.srcDesc far).nch
  match plainChunk s t far q.chunk with
  | none => poisonExpert (chunkUe s t far q.chunk) tix
  | some x =>
    let image := if (t.srcDesc far).fmt = (t.nearDesc b).fmt then [] else q.img ++ x
    storeChunk (nextChunk s { q with img := image } n) tix b far q.chunk (q.chunk + 1) x image (q.chunk + 1 == n)

/-- The decoded chunks of a distribution to entry `i`, and how many lead without a gap. -/
def distMine (s : State) (i : Nat) : Tab (List Byte) := s.res.dist.filter fun x => x.1 / 65536 == i
def leading (l : Tab (List Byte)) (i fuel k : Nat) : Nat :=
  match fuel with
  | 0 => k
  | f + 1 => if (tabGet? l (65536 * i + k)).isSome then leading l i f (k + 1) else k

/-- The chunks that steps 4 and 5 of a distributed chunk have in hand. -/
def distInHand (t : Tag) (i : Nat) (far : Bool) (l : Tab (List Byte)) : Nat :=
  if (t.srcDesc far).fmt = (t.nearDesc t.prefB).fmt then l.length else leading l i (t.srcDesc far).nch 0

/-- What a distributed chunk is opened with: its entry of the chunk table, where that can be read. -/
def distPlain (s : State) (i : Nat) (far : Bool) (idx : Nat) (data : List Byte) : Option (List Byte) :=
  let t := s.tag i
  let c := t.srcDesc far
  if unitFault s (c.tab.toNat + 32 * idx) 32 .rd then none
  else openModelChunk (s.xslot (xidSlot t.xid)) t.xid far c (chunkEnt s c idx) idx data

/-- A distributed chunk: steps 2 to 5 of R197 (R259). -/
def distServe (s : State) (q : FillReq) (i : Nat) (far : Bool) : State :=
  let s0 := setReq s q none
  let t := s.tag i
  match distPlain s i far q.chunk q.img with
  | none => poisonExpert (unitUe s0 ((t.srcDesc far).tab.toNat + 32 * q.chunk) 32 .rd) i
  | some x =>
    let l := tabSet (distMine s i) (65536 * i + q.chunk) x
    let n := (t.srcDesc far).nch
    let k := distInHand t i far l
    let all := l.length == n
    let rest := s.res.dist.filter fun y => y.1 / 65536 != i
    let s1 := { s0 with res := { s0.res with dist := if all then rest else tabSet s0.res.dist (65536 * i + q.chunk) x } }
    storeChunk s1 i t.prefB far q.chunk k x (l.flatMap Prod.snd) all

def streamChunk (s : State) (q : FillReq) (tix : Nat) : State :=
  let t := s.tag tix
  match plainChunk s t false q.chunk, streamFrame s with
  | none, _ =>
    let s1 := setReq (chunkUe s t false q.chunk) q none
    poisonExpert { s1 with res := { s1.res with reqs := s1.res.reqs.filter fun z => z.what != .stream tix } } tix
  | some _, none => s
  | some x, some (f, l) =>
    let s1 := nearPut (setReq s q none) f x
    let n : StreamFrame := { frame := f, tix := tix, chunk := q.chunk, bad := false, readers := q.askers }
    { s1 with res := { s1.res with streams := l ++ [n] } }

/-- A chunk of a recall (R180): the space is taken with the first, each chunk is read, authenticated and written, and a failure poisons the
object. -/
def recallChunk (s : State) (q : FillReq) (oti : Nat) : State :=
  match recallPlace s oti, tabGet? s.heap.coldAt oti with
  | some (s0, a), some (lba, n) =>
    (match openChunk s0 oti lba n q.chunk with
      | none => poisonObj (setReq s0 q none) oti
      | some x =>
        let s1 := if (s0.obj oti).st = .cold then s0.setObj oti { s0.obj oti with st := .recall } else s0
        nextChunk (heapPut s1 (a + 65536 * q.chunk) x) q (coldChunks n))
  | some (s0, _), none => poisonObj (setReq s0 q none) oti
  | none, _ => s

/-- A chunk of an eviction. An uncorrectable error in what it reads ends the eviction: the object stays LIVE (R139, log 12). -/
def evictChunk (s : State) (q : FillReq) (oti : Nat) : State :=
  let o := s.obj oti
  let a := s.heapPa o.addr + 65536 * q.chunk
  let n := min 65536 (s.objSize o.addr - 65536 * q.chunk)
  if unitFault s a n .rd then
    let s1 := setReq (unitUe s a n .rd) q none
    { s1.setObj oti { o with st := if o.st = .evict then .live else o.st } with heap := { s1.heap with evict := none } }
  else nextChunk (sealChunk s oti s.heap.coldNext q.chunk) q (coldChunks (s.objSize o.addr))

/-- Steps 1 to 5 for the chunk of a request. -/
def serveChunk (s : State) (q : FillReq) : State :=
  match q.what with
  | .fill tix b => fillChunk s q tix b
  | .stream tix => streamChunk s q tix
  | .recall oti => recallChunk s q oti
  | .evict oti => evictChunk s q oti
  | .dist tix far => distServe s q tix far

/-- How many 64-byte near-frame writes the chunk in flight takes (R241): those of a fill are the bytes that it adds to the near copy; a
stream frame takes a whole chunk, and the last of a recalled object is what is left of it. -/
def chunkWrites (s : State) (q : FillReq) : Nat :=
  let adds (t : Tag) (b far : Bool) (before after : Nat) : Nat :=
    let c := t.srcDesc far
    let at_ (k : Nat) : Nat := (fillBytes c (t.nearDesc b) t.nel c.nch k + 63) / 64
    at_ after - at_ before
  match q.what with
  | .recall oti => (min 65536 ((tabGet s.heap.coldAt oti (0, 0)).2 - 65536 * q.chunk) + 63) / 64
  | .fill tix b => adds (s.tag tix) b (s.tag tix).srcFar q.chunk (q.chunk + 1)
  | .dist tix far =>
    let t := s.tag tix
    let l := distMine s tix
    adds t t.prefB far (distInHand t tix far l) (distInHand t tix far (tabSet l (65536 * tix + q.chunk) []))
  | _ => 1024

/-- Step 1 waits: a frame that it reads migrates (R134). -/
def reqWaits (s : State) (q : FillReq) : Bool :=
  let on (t : Tag) (far : Bool) : Bool := (chunkReads s t far q.chunk).any fun r => unitWait s r.1 r.2 .rd
  match q.what with
  | .fill tix _ => on (s.tag tix) (s.tag tix).srcFar
  | .stream tix => on (s.tag tix) false
  | .dist tix far => unitWait s (((s.tag tix).srcDesc far).tab.toNat + 32 * q.chunk) 32 .rd
  | _ => false

/-- Recalls that find no space or forwarding entry wait, and RCWAIT counts each once (R180). -/
def noteWaits (s : State) : State :=
  s.res.reqs.foldl (fun s q => match q.what with
    | .recall oti =>
      if (tabGet? s.heap.recallTo oti).isNone && (recallPlace s oti).isNone then
        { s with heap := { s.heap with recallTo := tabSet s.heap.recallTo oti none, rcwait := s.heap.rcwait + 1 } }
      else s
    | _ => s) s

/-- One 64-byte write of the chunk in flight is charged; with the last, the chunk is done (R241, class 15). Evictions, and chunks of a
conversion that settle nothing yet, write no near frame. -/
def steamerStep (s0 : State) : State :=
  let s := noteWaits s0
  match pickReq s with
  | none => s
  | some q =>
    if reqWaits s q then s
    else match q.what, chunkWrites s q with
    | .evict _, _ => serveChunk s q
    | _, 0 => serveChunk s { q with paid := q.paid + 1 }
    | _, _ => charged s q.cl { who := whoSteamer, bank := 0, weight := s.clsWeight q.cl 15 } fun s =>
      if q.paid + 1 < chunkWrites s q then setReq s q (some { q with paid := q.paid + 1 }) else serveChunk s { q with paid := q.paid + 1 }

def execSteamerChunk (s : State) : Host.Outcome State Fault Refusal := .next (if s.awake then steamerStep s else s)

/-! ### What arrives over the Birith link -/

/-- The queue of an expert that stands on this device: the home queue, else a replica's. -/
def localQueue (s : State) (t : Tag) : Option Nat :=
  (List.range t.queues.length).find? fun q => (t.xq q).dev == s.devNo

/-- A peer's claim (R192): committed on arrival, and lost while this device enters sleep (log 13); the queue's batch opens as WAIT opens
one where no copy is resident. -/
def execRemoteClaim (xid row : BitVec 32) (s : State) : Host.Outcome State Fault Refusal :=
  .next (match s.awake && !s.plat.slp.busy, s.tagIx? xid with
    | true, some i =>
      let t := s.tag i
      match localQueue s t with
      | none => s
      | some q =>
        if t.psn || t.fin || decide (4096 ≤ (t.xq q).occ) then s
        else
          let s1 := if (t.xq q).bmode ≠ 0 then s
            else if (t.copy t.prefB).st = .resident then setBmode s i q (if t.prefB then 2 else 1)
            else
              let (s2, m) := openWait s i
              setBmode s2 i q m
          let s2 := (claimFor s1 none i q row none).1
          if (((s2.tag i).xq q).slots.filter fun e => e.2.committed).length = (s2.tag i).threshold then closeQueue s2 i q false else s2
    | _, _ => s)

/-- A remote copy or reduction performed at this device's system cache, element by element (R220). -/
def remoteElems (b : Bf) (red : Nat) (old new : Nat) (n : Nat) : Nat :=
  packLanes b.width ((List.range n).map fun i =>
    let o := bits old (b.width * i) b.width
    let x := bits new (b.width * i) b.width
    if red = 0 ∨ b.fmt = 0 then x else b.encodeSum (combine red (b.decode o) (b.decode x)))

/-- REMOTE_COMMAND: only plain ordinary memory takes it; one that meets MIG waits. -/
def execRemoteCommand (cmd : RemoteCopy) (s : State) : Host.Outcome State Fault Refusal :=
  let data := wireData cmd.wire
  let n := data.length
  let pa := cmd.pa.toNat
  let chk := (pagePieces (n / 4096 + 2) pa n).foldl (fun r p =>
    match r with
    | ExtAnswer.served s =>
      if (match s.region p.1 with
        | some g => g.cls == 0
        | none => false) then extCheck s p.1 true else .error s
    | r => r) (ExtAnswer.served s)
  .next (match s.awake, chk with
    | true, .served t =>
      let b := memFmt cmd.fmt.toNat
      sysPut t pa (natLe n (remoteElems b cmd.red.toNat (rawLe t pa n) (leNat data) (8 * n / b.width)))
    | true, .error t => t
    | _, _ => s)

/-- The next device in ring order, less device 0, where the distribution began. -/
def nextDev (s : State) : Option Nat := (List.range 4).find? fun d => decide (s.devNo.toNat < d) && s.devUp (BitVec.ofNat 2 d)

def forwardChunk (s : State) (d : DistChunk) (data : List Byte) : State :=
  match nextDev s with
  | some k => { s with plat := { s.plat with out := s.plat.out ++ [LinkMsg.chunk k d.xid d.far d.idx data] } }
  | none => s

/-- A near copy that a distribution may fill: FILLING without a request of a fill's, or ABSENT with frames to be had; WAIT fills are retried
with what its victims leave (R14, R191). -/
def distTarget (s : State) (i : Nat) : Option State :=
  let t := s.tag i
  let b := t.prefB
  match (t.copy b).st with
  | .filling => if s.res.reqs.any fun q => q.what == .fill i b then none else some s
  | .absent =>
    if t.psn then none
    else (takeFrames s false (t.nearDesc b).nch).map fun x =>
      afterVictims s i b (x.1.setTag i ((x.1.tag i).beginFill b x.2 s.time))
  | _ => none

/-- A chunk that arrived goes to the Steamer, among its fills of class 4 (log 30). -/
def distChunk (s : State) (i : Nat) (d : DistChunk) : State :=
  match distTarget s i with
  | none => s
  | some s1 =>
    let r := s1.res
    let q : FillReq := { cls := 4, what := .dist i d.far, chunk := d.idx, seq := r.seq, cl := (s1.tag i).home.clu.toNat, paid := 0, img := d.data,
                         askers := [] }
    { s1 with res := { r with reqs := r.reqs ++ [q], seq := r.seq + 1 } }

/-- Device 0 reads a ciphertext chunk, sends it on and serves it like the others; a read that fails poisons the expert there (R199), and
one that meets a migrating frame is not made yet (R134). -/
def distRead (s : State) (i : Nat) (d : DistChunk) : State :=
  let t := s.tag i
  if (chunkReads s t d.far d.idx).any fun r => unitWait s r.1 r.2 .rd then s
  else match chunkCipher s (s.xslot (xidSlot t.xid)) (t.srcDesc d.far) d.far d.idx with
    | some (_, x) => distChunk (forwardChunk s d x) i { d with data := x }
    | none => poisonExpert (chunkUe s t d.far d.idx) i

/-- DISTRIBUTION_CHUNK (R259): device 0 reads the chunk; the others forward one that arrives before they authenticate it, whatever they
make of it themselves. -/
def execDistributionChunk (d : DistChunk) (s : State) : Host.Outcome State Fault Refusal :=
  .next (if !s.awake then s
    else match (s.tagIx? d.xid).filter fun i => decide (d.idx < ((s.tag i).srcDesc d.far).nch) with
      | some i => if s.devNo = 0 then distRead s i d else distChunk (forwardChunk s d d.data) i d
      | none => if s.devNo = 0 then s else forwardChunk s d d.data)

/-- LINK_CHANGE (R258): LNKID, event 10, a record of kind 10; the time of each device's last change is kept for R266. -/
def execLinkChange (l : LinkChange) (s : State) : Host.Outcome State Fault Refusal :=
  let p := s.plat
  let own : BitVec 4 := 1#4 <<< s.devNo.toNat
  let port : BitVec 2 := 1#2 <<< l.port.val
  let ports := if l.up then p.lnkid.extractLsb' 4 2 ||| port else p.lnkid.extractLsb' 4 2 &&& ~~~port
  let reach := l.reach ||| own
  let id : BitVec 12 := reach ++ (0 : BitVec 2) ++ ports ++ p.lnkid.extractLsb' 0 4
  let links := (List.range 4).foldl (fun t d =>
    if reach.getLsbD d != p.lnkid.getLsbD (8 + d) then tabSet t d s.aon else t) p.links
  .next (if p.power = .off then s
    else raiseEvent 10 (crock { crockBase 10 0 with info := l.port.val + (if l.up then 256 else 0) }
      { s with plat := { p with lnkid := id, links := links, joined := p.joined ||| reach } }))

end Sys2Proof.Machine
end

