-- ==== Sys2Proof/Machine/Registers.lean ====
section
/-! DEFINITION. The registers of the control block as application cores read them (R54, R55, R133, R140, R182, R205, R251, R252,
R254). -/

namespace Sys2Proof.Machine

/-! ### Scheduler block (R54, R55) -/

def nodeStateCode (x : NodeState) : Nat :=
  match x with
  | .free => 0
  | .waiting => 1
  | .ready => 2
  | .bound => 3
  | .running => 4
  | .done => 5

def nstatWord (n : Node) : Word :=
  n.gen ++ (0 : BitVec 10) ++ bit1 n.pend ++ bit1 n.failed ++ (0 : BitVec 1) ++ BitVec.ofNat 3 (nodeStateCode n.st)

def qctlWord (q : Queue) : Word :=
  bit1 q.en ++ bit1 q.stop ++ (0 : BitVec 6) ++ q.ecode ++ (0 : BitVec 5) ++ q.prio ++ (0 : BitVec 8)

def qslotWord (q : Queue) : Word := q.size ++ q.base

def schedRead (s : State) (off : Nat) : DWord :=
  let q := s.queue (off % 0x1000 / 16)
  let w (x : Word) : DWord := x.setWidth 64
  if off = 0x0000 then BitVec.ofNat 16 s.sched.tcnt ++ s.sched.tbase
  else if off = 0x0008 then BitVec.ofNat 16 s.sched.ovfn ++ s.sched.ovfa
  else if off = 0x0010 then w s.sched.age
  else if off = 0x0018 then w s.sched.preempt
  else if off = 0x0020 then w s.sched.dynres
  else if 0x1000 ≤ off ∧ off < 0x1400 then
    (match off % 16 with
      | 0 => w (qctlWord q)
      | 4 => w (qslotWord q)
      | 8 => w q.qerr
      | 12 => w q.qskip
      | _ => 0)
  else if 0x2000 ≤ off ∧ off < 0x2400 then
    (match off % 16 with
      | 0 => w q.qsub
      | 4 => w q.qdone
      | 8 => w q.qdrop
      | _ => 0)
  else if 0x40000 ≤ off ∧ off < 0x80000 ∧ off % 4 = 0 then w (nstatWord (s.node ((off - 0x40000) / 4)))
  else 0

/-! ### Memory block (R133, R140) -/

/-- FREC0 and FREC1 as one value. -/
def frecBits (r : Frec) : BitVec 128 :=
  bit1 r.v ++ (0 : BitVec 7) ++ r.cause ++ r.va ++ (0 : BitVec 16) ++ r.seq ++ r.src ++ (0 : BitVec 27) ++ bit1 r.cf

def expctlWord (c : Ctl) : Word :=
  (0 : BitVec 24) ++ c.ecode ++ bit1 c.err ++ bit1 c.done ++ bit1 c.busy ++ (0 : BitVec 1)

def swpctlWord (m : MemBlk) : Word :=
  (0 : BitVec 20) ++ m.swpctl.ecode ++ (0 : BitVec 1) ++ bit1 m.swppte ++ m.swpsz ++ bit1 m.swpctl.err ++ bit1 m.swpctl.done ++
  bit1 m.swpctl.busy ++ (0 : BitVec 1)

def cfaddrWord (m : MemBlk) : DWord :=
  match m.cfaddr with
  | some a => (1 : BitVec 1) ++ (0 : BitVec 15) ++ a
  | none => 0

/-- The bits of a region map entry that are fields (R121); the others read 0 (R5). -/
def rmapMask : BitVec 128 := 0xE000FFFFFFE3FFFF0000FFFFFFE00000#128

def memRead (s : State) (off : Nat) : DWord :=
  let m := s.mem
  if off < 0x400 ∧ off % 8 = 0 then (tabGet m.rmap (off / 16) 0 &&& rmapMask).extractLsb' (8 * (off % 16)) 64
  else if 0x800 ≤ off ∧ off < 0xA00 ∧ off % 8 = 0 then tabGet m.qatp ((off - 0x800) / 8) 0
  else if 0x1000 ≤ off ∧ off < 0x1800 then
    (let r := frecBits (s.bank (ctxOf ((off - 0x1000) / 32))).frec
     match off % 32 with
      | 0 => r.extractLsb' 0 64
      | 8 => r.extractLsb' 64 64
      | _ => 0)
  else if 0x2000 ≤ off ∧ off < 0x2050 then
    (match off % 16 with
      | 0 => tabGet m.eccce ((off - 0x2000) / 16) 0
      | 8 => tabGet m.eccue ((off - 0x2000) / 16) 0
      | _ => 0)
  else match off with
    | 0x400 => m.famBase.setWidth 64
    | 0x408 => BitVec.ofNat 64 m.famFirst
    | 0x420 => m.expsrc.setWidth 64
    | 0x428 => m.expdst.setWidth 64
    | 0x430 => (expctlWord m.expctl).setWidth 64
    | 0x440 => m.swpa.setWidth 64
    | 0x448 => m.swpb.setWidth 64
    | 0x450 => m.swppa.setWidth 64
    | 0x458 => m.swppb.setWidth 64
    | 0x460 => (swpctlWord m).setWidth 64
    | 0x478 => m.mrsp.setWidth 64
    | 0x480 => cfaddrWord m
    | 0x488 => m.cflost
    | _ => 0

/-! ### Heap block (R182) -/

/-- HEAPCTL: BUSY from the request for a cycle on, so that a host that waits for BUSY = 0 waits for the cycle (R401, log 51). -/
def heapctlWord (h : Heap) : Word :=
  (0 : BitVec 16) ++ h.cycle ++ (0 : BitVec 2) ++ h.goodc ++ bit1 h.ce ++ bit1 (h.spat.busy || h.spat.want) ++ (0 : BitVec 1) ++ bit1 h.en

def hbrkWord (h : Heap) : DWord := h.hbSwp ++ h.hbPwr ++ h.hbQ ++ h.hbExp
def spcntWord (h : Heap) : DWord := h.spwait ++ h.reloc
def coldcntWord (h : Heap) : DWord := h.evfull ++ h.rcwait ++ h.recallN ++ h.evictN

def heapRead (s : State) (off : Nat) : DWord :=
  let h := s.heap
  match off with
  | 0x00 => h.base.setWidth 64
  | 0x08 => h.size.setWidth 64
  | 0x10 => h.va.setWidth 64
  | 0x18 => (heapctlWord h).setWidth 64
  | 0x30 => h.freelow.setWidth 64
  | 0x34 => h.livepct.setWidth 64
  | 0x38 => h.coldage.setWidth 64
  | 0x3C => h.coldmin.setWidth 64
  | 0x40 => h.coldns ++ (0 : BitVec 29) ++ h.colddrv
  | 0x48 => h.coldlba
  | 0x50 => h.coldlen
  | 0x58 => h.holdmax.setWidth 64
  | 0x5C => h.holdq.setWidth 64
  | 0x60 => hbrkWord h
  | 0x68 => h.hbLimit ++ h.hbBusy
  | 0x70 => spcntWord h
  | 0x78 => coldcntWord h
  | 0x80 => h.knewfail.setWidth 64
  | 0x100 => h.otbase.setWidth 64
  | 0x108 => h.ftbase.setWidth 64
  | _ => 0

/-! ### Residency block (R205) -/

def msctlWord (x : Slot) : Word :=
  x.ndesc ++ (0 : BitVec 8) ++ x.ecode ++ bit1 x.err ++ bit1 x.v ++ (0 : BitVec 2)

def residRead (s : State) (off : Nat) : DWord :=
  let r := s.res
  if off < 0x200 then
    (let x := s.xslot (off / 64)
     match off % 64 with
      | 0x00 => x.dir.setWidth 64
      | 0x08 => (0 : BitVec 7) ++ BitVec.ofNat 9 x.layN ++ x.lay
      | 0x10 => x.ns ++ (0 : BitVec 29) ++ x.drive
      | 0x18 => x.ver.setWidth 64
      | 0x20 => (msctlWord x).setWidth 64
      | _ => 0)
  else match off with
    | 0x200 => r.xpoldef.setWidth 64
    | 0x208 => (0 : BitVec 32) ++ r.xrepDec ++ (0 : BitVec 14) ++ r.xrepPol
    | 0x210 => r.streamf.setWidth 64
    | 0x218 => (0 : BitVec 36) ++ r.warmN ++ (0 : BitVec 15) ++ bit1 r.warmEn
    | 0x220 => r.wconv.setWidth 64
    | 0x228 => r.drop.setWidth 64
    | 0x230 => r.pfDrop ++ r.pfWrong ++ r.pfHit ++ r.pfIss
    | 0x238 => (0 : BitVec 32) ++ r.xpsnN ++ (0 : BitVec 1) ++ r.xpsnTix
    | _ => 0

/-! ### Power block (R251) -/

def thrWord (k : Clocking) : Word :=
  (0 : BitVec 13) ++ bit1 k.sensCap ++ BitVec.ofNat 2 k.stage ++ BitVec.ofNat 16 (k.thrCap.getD 0)
def biasWord (k : Clocking) : Word := (0 : BitVec 23) ++ bit1 k.busy ++ (0 : BitVec 4) ++ k.bb
def clkWord (k : Clocking) : Word :=
  (0 : BitVec 28) ++ bit1 k.curHalf ++ bit1 k.hop ++ bit1 k.half ++ bit1 k.src
def buckWord (b : Bucket) : DWord := (0 : BitVec 12) ++ BitVec.ofNat 20 b.cap ++ (0 : BitVec 12) ++ BitVec.ofNat 20 b.level
def refillWord (b : Bucket) : DWord :=
  BitVec.ofNat 16 b.ramp ++ BitVec.ofNat 16 b.min ++ BitVec.ofNat 16 b.cur ++ BitVec.ofNat 16 b.target

def powerRead (s : State) (off : Nat) : DWord :=
  let x := s.cluster (off / 256)
  let k := x.clk
  if off < 0x800 then
    (match off % 256 with
      | 0x00 => buckWord x.bucket
      | 0x08 => refillWord x.bucket
      | 0x10 => (thrWord k).setWidth 64
      | 0x18 => (biasWord k).setWidth 64
      | 0x1C => (clkWord k).setWidth 64
      | 0x20 => k.dhop ++ k.droop
      | 0x28 => k.sensv.t3 ++ k.sensv.t2 ++ k.sensv.t1 ++ k.sensv.t0
      | 0x30 => (0 : BitVec 32) ++ k.sensv.i1 ++ k.sensv.i0
      | 0x38 => k.sensf.setWidth 64
      | o => if 0x40 ≤ o ∧ o < 0x80 ∧ o % 4 = 0 then BitVec.ofNat 64 (s.clsWeight (off / 256) ((o - 0x40) / 4)) else 0)
  else match off with
    | 0x800 => s.pwr.pacedef.setWidth 64
    | 0x808 => (0 : BitVec 16) ++ s.pwr.tcrit ++ s.pwr.hystT ++ s.pwr.ttrip
    | 0x810 => (0 : BitVec 32) ++ s.pwr.hystI ++ s.pwr.ilim
    | 0x818 => s.pwr.marginI ++ s.pwr.marginT ++ s.pwr.disagI ++ s.pwr.disagT
    | _ => 0

/-! ### Platform block (R254) -/

def slpctlWord (c : Ctl) : Word := (0 : BitVec 24) ++ c.ecode ++ (0 : BitVec 1) ++ bit1 c.err ++ bit1 c.busy ++ (0 : BitVec 1)
def keyctlWord (p : Platform) : Word :=
  (0 : BitVec 20) ++ p.key.ecode ++ (0 : BitVec 2) ++ bit1 p.key.err ++ bit1 p.key.done ++ (0 : BitVec 1) ++ p.keySlot

/-- WDSTAT: the period in ms, and the last heartbeat in µs of always-on time. -/
def wdstatWord (p : Platform) : DWord := (0 : BitVec 16) ++ BitVec.ofNat 32 (p.wdLast / 1000) ++ BitVec.ofNat 16 p.wdPer

def platRead (s : State) (off : Nat) : DWord :=
  let p := s.plat
  if 0x40 ≤ off ∧ off < 0xA8 ∧ off % 8 = 0 then (tabGet p.evtrt ((off - 0x40) / 8) 0).setWidth 64
  else if 0x700 ≤ off ∧ off < 0x800 ∧ off % 8 = 0 then tabGet p.sigv ((off - 0x700) / 8) 0
  else if 0x10000 ≤ off ∧ off < 0x30000 ∧ off % 8 = 0 then
    (tabGet p.crock ((off - 0x10000) / 32) 0).extractLsb' (8 * (off % 32)) 64
  else match off with
    | 0x000 => p.evtst.setWidth 64
    | 0x008 => p.evten.setWidth 64
    | 0x100 => (slpctlWord p.slp).setWidth 64
    | 0x108 => p.wakesrc.setWidth 64
    | 0x200 => (keyctlWord p).setWidth 64
    | 0x208 => p.keyaddr.setWidth 64
    | 0x300 => p.attaddr.setWidth 64
    | 0x308 => ((0 : BitVec 29) ++ bit1 p.att.err ++ bit1 p.att.done ++ (0 : BitVec 1) : Word).setWidth 64
    | 0x400 => p.rsaddr.setWidth 64
    | 0x408 => ((0 : BitVec 30) ++ bit1 p.rs.done ++ (0 : BitVec 1) : Word).setWidth 64
    | 0x500 => p.lnkid.setWidth 64
    | 0x510 => wdstatWord p
    | 0x600 => ((p.crkN ++ (0 : BitVec 4) ++ p.crkHead : Word)).setWidth 64
    | _ => 0

/-! ### The block (R252) -/

/-- What a register reads as: none is the bus error response, outside the platform block while the NPU domain is not awake. -/
def ctlRead (s : State) (off : Nat) : Option DWord :=
  let o := off % 2 ^ 20
  match off / 2 ^ 20 with
  | 5 => if s.plat.power = .off then none else some (platRead s o)
  | b =>
    if !s.awake then none
    else some (match b with
      | 0 => schedRead s o
      | 1 => memRead s o
      | 2 => heapRead s o
      | 3 => residRead s o
      | 4 => powerRead s o
      | _ => 0)

end Sys2Proof.Machine
end

