-- ==== Sys2Proof/Machine/Platform.lean ====
section
/-! DEFINITION. The platform: sleep and wake, keys, attestation, re-sync, the management port, the watchdog, boot and loss of
power (R181, R204, R260 to R269). -/

namespace Sys2Proof.Machine

/-! ### Sleep (R260, R261, R181, R204) -/

/-- Why sleep is refused: the ECODE of the first row of R260 that holds. -/
def sleepRefused (s : State) : Option (BitVec 4) :=
  if s.sched.nodes.any fun e => e.2.st == .bound || e.2.st == .running then some 1
  else if s.plat.key.busy || s.plat.att.busy || s.mem.swpctl.busy || s.mem.expctl.busy || !s.sched.launch.isEmpty then some 2
  else if s.res.tags.any fun e => e.2.fin || e.2.queues.any fun q => !q.slots.isEmpty || !q.batches.isEmpty then some 3
  else none

/-- The heap at sleep entry (R181): the object in hand is finished, an eviction is abandoned. -/
def sleepHeap (s : State) : State :=
  let s1 := match execRelocationCommit s with
    | .next t => t
    | _ => s
  match s1.heap.evict with
  | none => s1
  | some i =>
    let o := s1.obj i
    let s2 := if o.st = .evict then s1.setObj i { o with st := .live } else s1
    { s2 with heap := { s2.heap with evict := none } }

/-- A near copy after sleep entry (R188). -/
def NearCopy.lost (c : NearCopy) : NearCopy :=
  { c with st := if c.st = .none then .none else .absent, frames := [] }

/-- A queue on wake: no batch is open (R204). -/
def XQueue.lost (q : XQueue) : XQueue := { q with bmode := 0, kept := [] }

/-- The residency unit at sleep entry: every near copy is ABSENT, and of the Steamer's requests only recalls stay, from their
first chunk. -/
def sleepResid (s : State) : State :=
  let r := s.res
  let keep (q : FillReq) : Bool := match q.what with
    | .recall _ => true
    | _ => false
  { s with res := { r with
      tags := tabMap r.tags fun _ t => { t with a := t.a.lost, b := t.b.lost, home := t.home.lost, reps := t.reps.map XQueue.lost }
      reqs := (r.reqs.filter keep).map fun q => { q with chunk := 0, paid := 0 }
      retry := [], streams := [], dist := [] } }

/-! ### What the re-sync record holds of the NPU domain (R266) -/

/-- Fields in sequence, filled with zeros to `n` bytes (the places within each part: log 33). -/
def padTo (n : Nat) (b : List Byte) : List Byte := (b ++ List.replicate n 0).take n

def resyncBank (s : State) (k : Nat) : List Byte :=
  let b := s.bank (ctxOf k)
  let free := b.phase == .free
  natLe 4 (if free then 0 else b.sys.nodeh.toNat) ++ natLe 1 (if free then 0 else nodeStateCode (s.node b.th.node).st) ++
  natLe 1 (b2n b.tr.mode) ++ natLe 1 (b.tr.ecause.toNat % 256) ++ natLe 1 (b2n b.frec.v)

/-- The lease holder: twice its core number plus its bank, 0xFF for none (DESIGN CHOICE, log 33). -/
def leaseByte (k : Cluster) : Nat :=
  match k.lease with
  | some l => ctxIx l.holder
  | none => 0xFF

def resyncCluster (s : State) (c : Nat) : List Byte :=
  let x := s.cluster c
  padTo 32 (natLe 4 (thrWord x.clk).toNat ++ natLe 4 (biasWord x.clk).toNat ++ natLe 4 (clkWord x.clk).toNat ++
    natLe 4 x.clk.sensf.toNat ++ natLe 4 x.bucket.level ++ natLe 4 (leaseByte x))

/-- The banks' and the clusters' parts of the record. -/
def domainPart (s : State) : List Byte := (List.range 64).flatMap (resyncBank s) ++ (List.range 8).flatMap (resyncCluster s)

/-- What a cluster keeps without power: its registers; its sensors are read and its load is counted from the wake on (R249). -/
def Cluster.dark (k : Cluster) : Cluster :=
  let b := k.bucket
  { k with lease := none, lastH := 7, clk := { k.clk with sensIn := 0x3F, lastChg := [] }, tree := [], outMx := none, outTree := none
           bucket := { b with level := b.cap, cur := b.min, reqs := [], granted := [], refused := [], resv := [], last := 18,
                              anyRef := false, full := true, units := 0, hist := [] } }

/-- The NPU domain loses power: L1s have been written back; banks, cores and the near tier lose what they hold. TVEC is firmware's and
stands again after it starts (log 32). Each core's allocation region stays its own (R181). -/
def darken (s : State) : State :=
  let s1 := (List.range 32).foldl (fun s k => invLines s (Fin.ofNat 32 k) fun _ => true) s
  { s1 with
    banks := tabMap s1.banks fun _ b => { Bank.reset with tr := { TrapRegs.reset with tvec := b.tr.tvec } }
    cores := tabMap s1.cores fun _ k => { Core.reset with alloc := k.alloc }
    clusters := tabMap s1.clusters fun _ k => k.dark
    mem := { s1.mem with near := [], bad := s1.mem.bad.filter fun x => x.1 == 4 }
    sched := { s1.sched with sel := [], resv := none, staging := [] } }

/-- SLEEP_ENTER: refused, or entry begins: BUSY, selection and the watchdog stop. A request during entry changes nothing. -/
def sleepEnter (s : State) : State :=
  let p := s.plat
  if p.slp.busy then s
  else match sleepRefused s with
    | some code => { s with plat := { p with slp := { p.slp with err := true, ecode := code } } }
    | none =>
      { s with plat := { p with slp := { p.slp with busy := true }, wdRun := false }
               sched := { s.sched with sel := [], resv := none } }

def execSleepEnter (s : State) : Host.Outcome State Fault Refusal := .next (if s.awake then sleepEnter s else s)

/-- A key, attestation, swap or expand command that was started during entry ends first. -/
def sleepWaits (s : State) : Bool := s.plat.key.busy || s.plat.att.busy || s.mem.swpctl.busy || s.mem.expctl.busy

/-! ### Wake (R262, R261, R204) -/

/-- Times of the scheduler move on by the time asleep, until selection restarts, which does not count toward AGE or PREEMPT. -/
def shiftSched (s : State) : State :=
  let d := s.time - s.plat.sleptAt
  { s with sched := { s.sched with
      nodes := tabMap s.sched.nodes fun _ n => { n with since := n.since + d }
      first := tabMap s.sched.first fun _ x => (x.1, x.2 + d) } }

/-- The firmware image in device-private memory still has the digest that the always-on domain keeps. -/
def firmwareIntact (s : State) : Bool := sha3 (rawBytes s s.plat.fwBase.toNat s.plat.fwLen) == s.plat.fwDig

/-- A wake request: ignored but in sleep; one that arrives during entry is held. A firmware image that has changed leaves the NPU domain
off. -/
def wakeUp (s : State) (src : BitVec 4) : State :=
  if s.awake && s.plat.slp.busy then { s with plat := { s.plat with wakeHeld := some (s.plat.wakeHeld.getD src) } }
  else if s.plat.power ≠ .asleep then s
  else
    let s1 := crock { crockBase 13 0 with info := src.toNat } { s with plat := { s.plat with wakesrc := src } }
    if firmwareIntact s1 then { s1 with plat := { s1.plat with power := .waking } }
    else
      let s2 := crock { crockBase 11 0 with info := 1 } s1
      { s2 with plat := { s2.plat with power := .dead } }

/-- The end of sleep entry, which a fatal error cuts off: tables are saved, holds break, the power goes, and a wake request that was held
is served (R260). -/
def sleepDone (s : State) : State :=
  if !s.awake || !s.plat.slp.busy || sleepWaits s then s
  else
    let s1 := crock (crockBase 12 0) (darken (breakPower (sleepResid (sleepHeap s))))
    let p := s1.plat
    let s2 := { s1 with plat := { p with power := .asleep, sleptAt := s1.time, rsSaved := domainPart s,
                                          slp := { p.slp with busy := false }, wakeHeld := none } }
    match s.plat.wakeHeld with
    | some src => wakeUp s2 src
    | none => s2

def wakeCode (x : WakeSource) : BitVec 4 :=
  match x with
  | .pcie => 1
  | .timer => 3
  | .host => 4

def execWake (src : WakeSource) (s : State) : Host.Outcome State Fault Refusal := .next (wakeUp s (wakeCode src))

/-- One expert of the warm fill: the state, and whether the fill goes on. -/
def warmOne (x : State × Bool) (i : Nat) : State × Bool :=
  if x.2 then
    (let s := x.1
     if (s.tag i).a.st = .absent && !(s.tag i).psn then requestFill s i false 5 else (s, true))
  else x

/-- The warm fill (R204): the experts pinned at sleep, by rising tag-store index (DESIGN CHOICE, log 16: R204 gives them no order), then the
WARM.N claimed last, until no frames can be found. -/
def warmFill (s : State) : State :=
  if s.res.warmEn then
    let pinned := (s.res.tags.filter fun e => e.2.pins != 0).map Prod.fst
    ((pinned ++ s.res.claims.take s.res.warmN.toNat).foldl warmOne (s, true)).1
  else s

/-- WAKE_COMPLETE: the scheduler's times, event 11, the watchdog, the warm fill. -/
def execWakeComplete (s : State) : Host.Outcome State Fault Refusal :=
  .next (if s.plat.power = .waking then
    let s1 := shiftSched s
    warmFill (raiseEvent 11 { s1 with plat := { s1.plat with power := .on, rsSaved := [], wdRun := true, wdLast := s1.aon } })
  else s)

/-! ### Keys (R268) -/

/-- GO is taken while no key load runs. -/
def keyLoad (s : State) : State :=
  let p := s.plat
  if p.key.busy then s else { s with plat := { p with key := { p.key with busy := true }, keyRun := (p.keySlot, p.keyaddr) } }

def execKeyLoad (s : State) : Host.Outcome State Fault Refusal := .next (if s.awake then keyLoad s else s)

def keyOfBytes (b : List Byte) : BitVec 256 := BitVec.ofNat 256 (leNat b)

/-- The slot key that a blob carries for a slot. -/
def unwrapKey (blob : List Byte) (slot : Nat) : Option (BitVec 256) :=
  match Config.mlkemDecap (blob.take 1088) with
  | none => none
  | some ss =>
    let k := keyOfBytes (sha3 (natLe 32 ss.toNat ++ natLe 1 slot))
    (gcmOpen k ((blob.drop 1088).take 12) [] ((blob.drop 1100).take 32) ((blob.drop 1132).take 16)).map keyOfBytes

/-- The end of a key load: the key, or the ECODE of the first row that holds. A blob that cannot be read does not decapsulate. -/
def keyResult (s : State) : Except (BitVec 4) (BitVec 256) :=
  let m := s.plat.keyRun.1.toNat
  let a := s.plat.keyRun.2.toNat
  let blob := sysRange s a 1152
  match (if unitFault s a 1152 .rd then none else unwrapKey blob m) with
  | none => .error 1
  | some k =>
    if (s.xslot m).v then .error 2
    else if leNat (blob.drop 1148) ≠ (s.xslot m).ver.toNat then .error 3
    else .ok k

/-- KEY_LOAD_DONE, once no frame of the blob migrates: DONE, or ERR with a record of kind 15; event 12. An uncorrectable error in the blob
is recorded first
(R139). -/
def execKeyLoadDone (s : State) : Host.Outcome State Fault Refusal :=
  let p := s.plat
  let m := p.keyRun.1.toNat
  .next (if !p.key.busy || unitWait s p.keyRun.2.toNat 1152 .rd then s
    else match keyResult s with
      | .ok k =>
        let s1 := s.setXslot m { s.xslot m with key := some k }
        raiseEvent 12 { s1 with plat := { p with key := { p.key with busy := false, done := true } } }
      | .error code =>
        let s1 := unitUe s p.keyRun.2.toNat 1152 .rd
        raiseEvent 12 (crock { crockBase 15 0 with info := code.toNat } { s1 with plat := { s1.plat with key := s1.plat.key.fail code } }))

/-! ### Re-sync (R266) -/

/-- The codes of the power state in the record and the status are the model's (DESIGN CHOICE, log 33). -/
def powerCode (p : Power) : Nat :=
  match p with
  | .off => 0
  | .booting => 1
  | .on => 2
  | .asleep => 3
  | .waking => 4
  | .dead => 5

def slotExperts (s : State) (m : Nat) : List Tag := (s.res.tags.filter fun e => xidSlot e.2.xid == m).map Prod.snd

def resyncSlot (s : State) (m : Nat) : List Byte :=
  padTo 32 (natLe 4 (msctlWord (s.xslot m)).toNat ++ natLe 4 (slotExperts s m).length ++
    natLe 4 ((slotExperts s m).filter fun t => t.psn).length)

def resyncHeap (s : State) : List Byte :=
  let h := s.heap
  padTo 448 (natLe 8 (heapctlWord h).toNat ++ natLe 8 (spcntWord h).toNat ++ natLe 8 (coldcntWord h).toNat ++ natLe 8 s.freeGrans ++
    natLe 8 h.knewfail.toNat ++
    ((List.range 5).flatMap fun x => natLe 8 (tabGet s.mem.eccce x 0).toNat ++ natLe 8 (tabGet s.mem.eccue x 0).toNat) ++
    natLe 8 (cfaddrWord s.mem).toNat)

def resyncDevice (s : State) (d : Nat) : List Byte :=
  padTo 64 (natLe 8 (b2n (s.plat.lnkid.getLsbD (8 + d))) ++ natLe 8 (tabGet s.plat.links d 0))

def resyncHead (s : State) : List Byte :=
  let p := s.plat
  padTo 64 (natLe 4 0x37594D52 ++ natLe 4 1 ++ natLe 4 s.devNo.toNat ++ natLe 4 (powerCode p.power) ++ natLe 8 s.aon ++
    natLe 4 (p.crkSeq - 1).toNat ++ natLe 4 p.rsSeq.toNat)

def resyncQueue (s : State) (q : Nat) : List Byte :=
  let x := s.queue q
  natLe 4 (qctlWord x).toNat ++ natLe 2 x.qsub.toNat ++ natLe 2 x.qdone.toNat

/-- The record of 4 KiB; its last 32 bytes are the digest of the rest. Where the NPU domain has no power its parts are those that it saved at
sleep entry, which stand until it has woken. -/
def resyncRecord (s : State) : List Byte :=
  let body := padTo 0xFE0 (resyncHead s ++ (List.range 64).flatMap (resyncQueue s) ++
    (if s.plat.rsSaved.isEmpty then domainPart s else s.plat.rsSaved) ++ (List.range 8).flatMap (resyncSlot s) ++ resyncHeap s ++
    (List.range 4).flatMap (resyncDevice s))
  body ++ sha3 body

/-- A record has been taken. -/
def nextResync (s : State) : State := { s with plat := { s.plat with rsSeq := s.plat.rsSeq + 1 } }

def resyncGo (s : State) : State :=
  let p := s.plat
  if p.rs.busy then s else { s with plat := { p with rs := { p.rs with busy := true }, rsRun := p.rsaddr } }

/-- The always-on side has power. -/
def State.alive (s : State) : Bool := s.plat.power != .off

/-- RESYNC, with the NPU domain powered or not: it contributes its saved values. -/
def execResync (s : State) : Host.Outcome State Fault Refusal := .next (if s.alive then resyncGo s else s)

/-- RESYNC_DONE, once no frame of its place migrates: the record is written unless its place cannot be; DONE; event 12. -/
def execResyncDone (s : State) : Host.Outcome State Fault Refusal :=
  let a := s.plat.rsRun.toNat
  .next (if !s.plat.rs.busy || unitWait s a 4096 .wr then s
    else
      let s1 := if unitFault s a 4096 .wr then s else sysPut s a (resyncRecord s)
      let s2 := nextResync s1
      raiseEvent 12 { s2 with plat := { s2.plat with rs := { s2.plat.rs with busy := false, done := true } } })

/-! ### Attestation (R269) -/

def attGo (s : State) : State :=
  let p := s.plat
  if p.att.busy then s else { s with plat := { p with att := { p.att with busy := true }, attRun := p.attaddr } }

def execAttestation (s : State) : Host.Outcome State Fault Refusal := .next (if s.awake then attGo s else s)

/-- A slot in the report: V, MSVER, whether a key is loaded, the digests of its arrays. -/
def reportSlot (s : State) (m : Nat) : List Byte :=
  let x := s.xslot m
  natLe 1 (b2n x.v) ++ natLe 4 x.ver.toNat ++ natLe 1 (b2n x.key.isSome) ++
  sha3 (sysRange s x.dir.toNat (128 * x.ndesc.toNat)) ++ sha3 (sysRange s x.lay.toNat (32 * x.layN))

/-- The report over a nonce, signed (the places of its parts: log 33). -/
def attReport (s : State) (nonce : List Byte) : List Byte :=
  let body := nonce ++ s.plat.meas.flatMap (fun m => natLe 32 m.toNat) ++ (List.range 8).flatMap (reportSlot s) ++
    natLe 4 s.plat.rsSeq.toNat
  body ++ (List.range 2420).map (Config.mldsaSign body)

/-- What the report reads of the slots. -/
def reportReads (s : State) : List (Nat × Nat) :=
  (List.range 8).flatMap fun m => let x := s.xslot m; [(x.dir.toNat, 128 * x.ndesc.toNat), (x.lay.toNat, 32 * x.layN)]

/-- ATTESTATION_DONE: it waits while a slot installs or a frame that it reads or writes migrates; DONE, or ERR
where its memory cannot be reached or what it reads of a slot has an uncorrectable error (R139); event 12. -/
def execAttestationDone (s : State) : Host.Outcome State Fault Refusal :=
  let p := s.plat
  let a := p.attRun.toNat
  .next (if !p.att.busy || (s.res.slots.any fun e => e.2.inst) || unitWait s a 4096 .wr ||
      (reportReads s).any fun r => unitWait s r.1 r.2 .rd then s
    else if unitFault s a 4096 .rd || unitFault s a 4096 .wr || (reportReads s).any fun r => unitMeetsUe s r.1 r.2 .rd then
      let s1 := ((a, 4096) :: reportReads s).foldl (fun s r => unitUe s r.1 r.2 .rd) s
      raiseEvent 12 { s1 with plat := { s1.plat with att := { s1.plat.att with busy := false, err := true } } }
    else
      let s1 := sysPut s a (attReport s (sysBytes s a 32))
      raiseEvent 12 { s1 with plat := { p with att := { p.att with busy := false, done := true } } })

/-! ### The management port (R263) -/

def answer (s : State) (b : List Byte) : State := { s with plat := { s.plat with mgmt := b } }

/-- MGMT_STATUS: power state, LNKID, CRKHEAD, last boot result, which is 0 for a good boot and one more than the number of the failing
stage for another (DESIGN CHOICE, log 33). -/
def execMgmtStatus (s : State) : Host.Outcome State Fault Refusal :=
  let p := s.plat
  .next (if s.alive then
    answer s (natLe 4 (powerCode p.power) ++ natLe 4 p.lnkid.toNat ++ natLe 4 (p.crkN ++ (0 : BitVec 4) ++ p.crkHead).toNat ++
      natLe 4 p.bootOk.toNat)
  else s)

/-- MGMT_READ_CROCK: at most 64 records from an index, oldest first. -/
def execMgmtReadCrock (start count : BitVec 16) (s : State) : Host.Outcome State Fault Refusal :=
  let recs := (List.range (min 64 count.toNat)).filterMap fun i => tabGet? s.plat.crock ((start.toNat + i) % 4096)
  .next (if s.alive then answer s (recs.flatMap fun r => natLe 32 r.toNat) else s)

def execMgmtResync (s : State) : Host.Outcome State Fault Refusal :=
  .next (if s.alive then nextResync (answer s (resyncRecord s)) else s)

def execMgmtWake (s : State) : Host.Outcome State Fault Refusal := .next (wakeUp s 2)

/-! ### The watchdog (R265) -/

def execHeartbeat (s : State) : Host.Outcome State Fault Refusal :=
  .next (if s.plat.power = .on then { s with plat := { s.plat with wdLast := s.aon } } else s)

def execWatchdogExpiry (s : State) : Host.Outcome State Fault Refusal :=
  let p := s.plat
  .next (if p.power = .on ∧ p.wdRun ∧ p.wdLast + 1000000 * p.wdPer < s.aon then fatalError 4 s else s)

/-! ### The Birith link and the drives, beside the event rows (R12, R257) -/

/-- The device that a message is for. -/
def LinkMsg.dev (m : LinkMsg) : Nat :=
  match m with
  | .copy d .. => d
  | .claim d .. => d
  | .chunk d .. => d

/-- A message that a neighbour sends for another device goes on to it (R257). -/
def transit (m : LinkMsg) (s : State) : State :=
  if m.dev = s.devNo.toNat then s else { s with plat := { s.plat with out := s.plat.out ++ [m] } }

/-- An NVMe write of host software to a drive: whole logical blocks of 4 KiB (R12, R256). -/
def hostNvme (drive : BitVec 3) (ns : Word) (block : Nat) (data : List Byte) (s : State) : State :=
  let k := farKey drive ns
  if data.length % 4096 = 0 then s.setFar k (memSetBytes (s.farMem k) (4096 * block) data) else s

/-! ### Boot and loss of power (R262, R264, R267) -/

/-- What outlasts a reset: the always-on side's records, time and keys, the tiers, and the model's own bookkeeping (log 34). -/
def afterReset (s : State) : State :=
  { State.reset with
    mem := { MemBlk.reset with main := s.mem.main, far := s.mem.far }
    res := { Resid.reset with slots := tabMap s.res.slots fun _ x => { Slot.reset with key := x.key } }
    plat := { Platform.reset with crkHead := s.plat.crkHead, crkSeq := s.plat.crkSeq, crock := s.plat.crock,
                                  flash := s.plat.flash, links := s.plat.links }
    time := s.time, aon := s.aon, agenda := s.agenda, freeCtr := s.freeCtr }

/-- MEAS j extended by a digest. -/
def extendMeas (l : List (BitVec 256)) (j : Nat) (d : List Byte) : List (BitVec 256) :=
  l.set j (keyOfBytes (sha3 (natLe 32 (l.getD j 0).toNat ++ d)))

/-- Verify and measure the stages from number `j`: the state, and the stage that failed. Stage j, the always-on firmware being stage 0,
extends measurement register j, and a record of kind 11 gives its number (DESIGN CHOICE, log 34); a stage that has no register of its own
cannot be measured, and fails. -/
def bootStages (s : State) (j : Nat) : List BootStage → State × Option Nat
  | [] => (s, none)
  | st :: r =>
    let d := sha3 st.image
    if decide (j < s.plat.meas.length) && Config.mldsaVerify (keyOfBytes d) st.sig && decide (Config.fusedVersion j ≤ st.version) then
      bootStages { s with plat := { s.plat with meas := extendMeas s.plat.meas j d } } (j + 1) r
    else (crock { crockBase 11 0 with info := j } s, some j)

/-- The monitor and unit firmware. -/
def firmwareImage (b : BootImage) : List Byte := (b.stages.drop 1).flatMap BootStage.image

/-- LNKID as the straps give it (R254): its reserved bits are 0 and the device's own bit is set. -/
def strapId (x : BitVec 12) : BitVec 12 := (x &&& 0xF33#12) ||| (0x100#12 <<< (x.extractLsb' 0 2).toNat)

/-- What firmware does when it starts: its image in device-private memory, the registers that are its own, TVEC, the watchdog. -/
def startFirmware (s : State) (b : BootImage) : State :=
  let c := b.cfg
  let img := firmwareImage b
  let s1 := sysPut s c.fwBase.toNat img
  let bank : Bank := { Bank.reset with tr := { TrapRegs.reset with tvec := c.tvec &&& 0xFFFFFFF8#32 } }
  { s1 with
    banks := (List.range 64).map fun k => (k, bank)
    mem := { s1.mem with rmap := c.rmap.foldl (fun t e => tabSet t e.1 e.2) [], famBase := c.famBase, famFirst := c.famFirst,
                         famCount := c.famCount }
    heap := { s1.heap with otbase := c.otBase, ftbase := c.ftBase }
    plat := { s1.plat with power := .on, bootOk := 0, ctlBase := c.ctlBase, wdPer := c.wdPeriod, wdRun := true, wdLast := s1.aon,
                           lnkid := strapId c.lnkid, joined := (strapId c.lnkid).extractLsb' 8 4, fwBase := c.fwBase, fwLen := img.length, fwDig := sha3 img } }

/-- The images that a boot verifies: the always-on firmware, the monitor and at least one unit's (R267). -/
def stagesNeeded : Nat := 3

/-- BOOT: a stage that fails, or that is missing, never runs; without the always-on firmware nothing answers. -/
def execBoot (b : BootImage) (s : State) : Host.Outcome State Fault Refusal :=
  let n := b.stages.length
  let r := bootStages (afterReset s) 0 b.stages
  .next (match (if r.2.isNone && decide (n < stagesNeeded) then (crock { crockBase 11 0 with info := n } r.1, some n) else r) with
    | (s1, none) => startFirmware s1 b
    | (s1, some j) =>
      { s1 with plat := { s1.plat with power := if j = 0 then .off else .dead, bootOk := BitVec.ofNat 8 (j + 1) } })

/-- POWER_LOSS: the main tier, the saved tables and the keys go; always-on time and the Crock too if that domain loses power. -/
def execPowerLoss (aon : Bool) (s : State) : Host.Outcome State Fault Refusal :=
  let p := s.plat
  let keep : Platform := { Platform.reset with flash := p.flash, power := .off, aonUp := false }
  let kept : Platform := { keep with crkHead := p.crkHead, crkN := p.crkN, crkSeq := p.crkSeq, crock := p.crock, meas := p.meas,
                                     links := p.links, power := .dead, aonUp := true }
  .next { State.reset with
    mem := { MemBlk.reset with far := s.mem.far }
    plat := if aon then keep else kept
    time := s.time, aon := if aon then 0 else s.aon, agenda := s.agenda, freeCtr := s.freeCtr }

end Sys2Proof.Machine
end

