-- ==== Sys2Proof/Machine/Mmio.lean ====
section
/-! DEFINITION. Writes of application cores to the registers of the control block (R252): each register's writable fields, and the
commands that a write starts. -/

namespace Sys2Proof.Machine

/-- The state after a command that another row describes. -/
def after (o : Host.Outcome State Fault Refusal) (s : State) : State :=
  match o with
  | .next t => t
  | _ => s

def low (v : BitVec 64) (lo n : Nat) : BitVec n := v.extractLsb' lo n

/-! ### Scheduler block (R54, R55) -/

/-- QCTL: EN, PRIO, and STOP written 1 to clear. -/
def qctlWrite (s : State) (q : Fin 64) (v : BitVec 64) : State :=
  let x := s.queue q.val
  let s1 := s.setQueue q.val { x with prio := low v 8 3 }
  let s2 := after (execQueueEnable q (v.getLsbD 31) s1) s1
  if v.getLsbD 30 then after (execQueueStopClear q s2) s2 else s2

/-- A write of the scheduler block (R54). TBASE and OVFA keep address bits 5:0, and TCNT a count above 1024, as written (DESIGN CHOICE, log 28:
R54 says what software writes there and not what the device does otherwise). -/
def schedWrite (s : State) (off : Nat) (v : BitVec 64) : State :=
  let d := s.sched
  if 0x1000 ≤ off ∧ off < 0x1400 then
    (let q : Fin 64 := Fin.ofNat 64 ((off - 0x1000) / 16)
     match off % 16 with
      | 0 => qctlWrite s q v
      | 4 => after (execQslotWrite q (low v 0 32) s) s
      | _ => s)
  else match off with
    | 0x00 => { s with sched := { d with tbase := low v 0 48, tcnt := (low v 48 11).toNat } }
    | 0x08 => { s with sched := { d with ovfa := low v 0 48, ovfn := (low v 48 16).toNat } }
    | 0x10 => { s with sched := { d with age := low v 0 32 } }
    | 0x18 => { s with sched := { d with preempt := low v 0 32 } }
    | 0x20 => { s with sched := { d with dynres := low v 0 32 } }
    | _ => s

/-! ### Memory block (R133, R140) -/

/-- FRESP: SEQ in [31:16], ACTION in [1:0]. -/
def frespWrite (s : State) (c : Ctx) (v : BitVec 64) : State :=
  match (low v 0 2).toNat with
  | 0 => after (execFrespRetry c (low v 16 16) s) s
  | 1 => after (execFrespDeliver c (low v 16 16) s) s
  | _ => s

/-- DONE and ERR written 1 to clear, then GO. -/
def expctlWrite (s : State) (v : BitVec 64) : State :=
  let s1 := if v.getLsbD 2 then after (execExpandDoneClear s) s else s
  let s2 := if v.getLsbD 3 then { s1 with mem := { s1.mem with expctl := { s1.mem.expctl with err := false } } } else s1
  if v.getLsbD 0 then after (execExpandGo s2) s2 else s2

def swpctlWrite (s : State) (v : BitVec 64) : State :=
  let s1 := if v.getLsbD 2 then after (execSwapDoneClear s) s else s
  let s2 := if v.getLsbD 3 then { s1 with mem := { s1.mem with swpctl := { s1.mem.swpctl with err := false } } } else s1
  if v.getLsbD 0 then after (execSwapGo (low v 0 32) s2) s2
  else { s2 with mem := { s2.mem with swpsz := low v 4 2, swppte := v.getLsbD 6 } }

/-- A running command keeps what it was started with (log 28). -/
def memWrite (s : State) (off : Nat) (v : BitVec 64) : State :=
  let m := s.mem
  let put (m' : MemBlk) : State := { s with mem := m' }
  if 0x800 ≤ off ∧ off < 0xA00 ∧ off % 8 = 0 then { s with mem := { m with qatp := tabSet m.qatp ((off - 0x800) / 8) v } }
  else if 0x1000 ≤ off ∧ off < 0x1800 ∧ off % 32 = 16 then frespWrite s (ctxOf ((off - 0x1000) / 32)) v
  else match off with
    | 0x410 => after (execFamcmd v s) s
    | 0x420 => put { m with expsrc := low v 0 48 }
    | 0x428 => put { m with expdst := low v 0 48 }
    | 0x430 => expctlWrite s v
    | 0x440 => put { m with swpa := low v 0 48 }
    | 0x448 => put { m with swpb := low v 0 48 }
    | 0x450 => put { m with swppa := low v 0 48 }
    | 0x458 => put { m with swppb := low v 0 48 }
    | 0x460 => swpctlWrite s v
    | 0x470 => after (execMigrationRequest v s) s
    | 0x480 => if v.getLsbD 63 then { s with mem := { m with cfaddr := none } } else s
    | _ => s

/-! ### Heap block (R182) -/

/-- HEAPCTL: EN and CE, and COMPACT. -/
def heapctlWrite (s : State) (v : BitVec 64) : State :=
  let s1 := { s with heap := { s.heap with en := v.getLsbD 0, ce := v.getLsbD 3 } }
  if v.getLsbD 1 then after (execHeapCompact s1) s1 else s1

def heapWrite (s : State) (off : Nat) (v : BitVec 64) : State :=
  let h := s.heap
  let put (p : Bool) (h' : Heap) : State := if p then { s with heap := h' } else s
  let n (lo w : Nat) : Nat := (v.toNat / 2 ^ lo) % 2 ^ w
  match off with
  | 0x00 => put (!h.en) { h with base := low v 21 27 ++ (0 : BitVec 21) }
  | 0x08 => put (!h.en) { h with size := low v 0 16 }
  | 0x10 => put (!h.en) { h with va := low v 21 27 ++ (0 : BitVec 21) }
  | 0x18 => heapctlWrite s v
  | 0x20 => after (execRetire (low v 0 8) s) s
  | 0x28 => if n 30 2 = 1 then after (execHeapcmdFree (n 0 18) s) s else s
  | 0x30 => put true { h with freelow := low v 0 32 }
  | 0x34 => put (decide (1 ≤ n 0 7) && decide (n 0 7 ≤ 99)) { h with livepct := low v 0 7 }
  | 0x38 => put true { h with coldage := low v 0 16 }
  | 0x3C => put (decide (8 ≤ n 0 16)) { h with coldmin := low v 0 16 }
  | 0x40 => put true { h with colddrv := low v 0 3, coldns := low v 32 32 }
  | 0x48 => put true { h with coldlba := v }
  | 0x50 => put true { h with coldlen := v }
  | 0x58 => put (decide (1 ≤ n 0 7) && decide (n 0 7 ≤ 64)) { h with holdmax := low v 0 7 }
  | 0x5C => put (decide (64 ≤ n 0 16)) { h with holdq := low v 0 16 }
  | _ => s

/-! ### Residency block (R205) -/

/-- MSCTL: NDESC, ERR written 1 to clear, INST, UNINST. -/
def msctlWrite (s : State) (m : Fin 8) (v : BitVec 64) : State :=
  let x := s.xslot m.val
  let s1 := s.setXslot m.val { x with ndesc := low v 16 16, err := x.err && !v.getLsbD 3 }
  let s2 := if v.getLsbD 0 then after (execModelInstall m s1) s1 else s1
  if v.getLsbD 1 then after (execModelUninstall m s2) s2 else s2

/-- A stream batch, open or not complete. -/
def streamBatch (s : State) : Bool :=
  s.res.tags.any fun e => e.2.queues.any fun q => q.bmode == 4 || q.batches.any fun b => b.mode == 4

def residWrite (s : State) (off : Nat) (v : BitVec 64) : State :=
  let r := s.res
  if off < 0x200 then
    (let m : Fin 8 := Fin.ofNat 8 (off / 64)
     let x := s.xslot m.val
     let put (y : Slot) : State := if x.v then s else s.setXslot m.val y
     match off % 64 with
      | 0x00 => put { x with dir := low v 0 48 }
      | 0x08 => put { x with lay := low v 0 48, layN := (low v 48 9).toNat }
      | 0x10 => put { x with drive := low v 0 3, ns := low v 32 32 }
      | 0x18 => put { x with ver := low v 0 32 }
      | 0x20 => msctlWrite s m v
      | _ => s)
  else match off with
    | 0x200 => { s with res := { r with xpoldef := low v 0 32 &&& xpolMask } }
    | 0x208 => { s with res := { r with xrepPol := low v 0 2, xrepDec := low v 16 16 } }
    | 0x210 =>
      let n := (low v 0 12).toNat
      if 16 ≤ n ∧ n ≤ 512 ∧ !streamBatch s then retryFills { s with res := { r with streamf := low v 0 12, streams := [] } } else s
    | 0x218 => { s with res := { r with warmEn := v.getLsbD 0, warmN := low v 16 12 } }
    | _ => s

/-! ### Power block (R244, R251) -/

/-- REFILL: a write that breaks a limit is ignored; CUR and the thermal cap do not stay below MIN. -/
def refillWrite (s : State) (cl : Nat) (v : BitVec 64) : State :=
  let k := s.cluster cl
  let target := (low v 0 16).toNat
  let mn := (low v 32 16).toNat
  if mn < 512 ∨ target < mn then s
  else
    let b := { k.bucket with target := target, min := mn, ramp := (low v 48 16).toNat, cur := max k.bucket.cur mn }
    clampCur (s.setCluster cl { k with bucket := b, clk := { k.clk with thrCap := k.clk.thrCap.map (max mn) } }) cl

def buckWrite (s : State) (cl : Nat) (v : BitVec 64) : State :=
  let cap := (low v 32 20).toNat
  if cap < 16384 then s else s.setBucket cl { (s.cluster cl).bucket with cap := cap }

def powerWrite (s : State) (off : Nat) (v : BitVec 64) : State :=
  let cl := off / 256
  let p := s.pwr
  if off < 0x800 then
    (match off % 256 with
      | 0x00 => buckWrite s cl v
      | 0x08 => refillWrite s cl v
      | 0x18 => biasChange s cl (low v 0 4)
      | 0x1C => clkWrite s cl (v.getLsbD 0) (v.getLsbD 1)
      | 0x38 => sensfWrite s cl (low v 0 6)
      | o =>
        if 0x40 ≤ o ∧ o < 0x80 ∧ o % 4 = 0 then
          s.setCluster cl { s.cluster cl with clsw := tabSet (s.cluster cl).clsw ((o - 0x40) / 4) (low v 0 12).toNat }
        else s)
  else match off with
    | 0x800 => { s with pwr := { p with pacedef := low v 0 48 } }
    | 0x808 => { s with pwr := { p with ttrip := low v 0 16, hystT := low v 16 16, tcrit := low v 32 16 } }
    | 0x810 => { s with pwr := { p with ilim := low v 0 16, hystI := low v 16 16 } }
    | 0x818 => { s with pwr := { p with disagT := low v 0 16, disagI := low v 16 16, marginT := low v 32 16, marginI := low v 48 16 } }
    | _ => s

/-! ### Platform block (R254) -/

/-- Commands that need the NPU domain start only while it is awake. -/
def ifAwake (s : State) (go : Bool) (f : State → State) : State := if go && s.awake then f s else s

def keyctlWrite (s : State) (v : BitVec 64) : State :=
  let p := s.plat
  let k := p.key
  let s1 := { s with plat := { p with keySlot := low v 0 3, key := { k with done := k.done && !v.getLsbD 4, err := k.err && !v.getLsbD 5 } } }
  ifAwake s1 (v.getLsbD 3) keyLoad

def attctlWrite (s : State) (v : BitVec 64) : State :=
  let p := s.plat
  let k := p.att
  let s1 := { s with plat := { p with att := { k with done := k.done && !v.getLsbD 1, err := k.err && !v.getLsbD 2 } } }
  ifAwake s1 (v.getLsbD 0) attGo

def rsctlWrite (s : State) (v : BitVec 64) : State :=
  let p := s.plat
  let s1 := { s with plat := { p with rs := { p.rs with done := p.rs.done && !v.getLsbD 1 } } }
  if v.getLsbD 0 then after (execResync s1) s1 else s1

def slpctlWrite (s : State) (v : BitVec 64) : State :=
  let p := s.plat
  let s1 := { s with plat := { p with slp := { p.slp with err := p.slp.err && !v.getLsbD 2 } } }
  ifAwake s1 (v.getLsbD 0) sleepEnter

def platWrite (s : State) (off : Nat) (v : BitVec 64) : State :=
  let p := s.plat
  if 0x40 ≤ off ∧ off < 0xA8 ∧ off % 8 = 0 then
    { s with plat := { p with evtrt := tabSet p.evtrt ((off - 0x40) / 8) (low v 0 32 &&& 0x8FFF0FFF#32) } }
  else if 0x700 ≤ off ∧ off < 0x800 ∧ off % 8 = 0 then
    (let c := (off - 0x700) / 8
     { s with plat := { p with sigv := tabSet p.sigv c (tabGet p.sigv c 0 &&& ~~~(v &&& 0xC000000000000000#64)) } })
  else match off with
    | 0x000 => { s with plat := { p with evtst := p.evtst &&& ~~~(low v 0 13) } }
    | 0x008 => { s with plat := { p with evten := low v 0 13 } }
    | 0x100 => slpctlWrite s v
    | 0x200 => keyctlWrite s v
    | 0x208 => { s with plat := { p with keyaddr := low v 0 48 } }
    | 0x300 => { s with plat := { p with attaddr := low v 0 48 } }
    | 0x308 => attctlWrite s v
    | 0x400 => { s with plat := { p with rsaddr := low v 0 48 } }
    | 0x408 => rsctlWrite s v
    | _ => s

/-! ### The block (R252) -/

/-- A write at an offset of the control block: only the platform block answers while the NPU domain is not awake. -/
def ctlWrite (s : State) (off : Nat) (v : BitVec 64) : State :=
  let o := off % 2 ^ 20
  match off / 2 ^ 20 with
  | 5 => if s.plat.power = .off then s else platWrite s o v
  | b =>
    if !s.awake then s
    else match b with
      | 0 => schedWrite s o v
      | 1 => memWrite s o v
      | 2 => heapWrite s o v
      | 3 => residWrite s o v
      | 4 => powerWrite s o v
      | _ => s

/-- REGISTER_WRITE: reserved bits and unassigned offsets take nothing. -/
def execRegisterWrite (off : BitVec 24) (val : BitVec 64) (s : State) : Host.Outcome State Fault Refusal :=
  .next (ctlWrite s off.toNat val)

end Sys2Proof.Machine
end

