-- ==== Sys2Proof/Machine/Scalar.lean ====
section
/-! DEFINITION. The scalar words: majors 0x01, 0x02 and 0x03 (R341 to R344, R330). A lane operation takes the width W, the
lanes a and b and the old destination lane; register forms work on packed lanes (R66, R67), immediate forms at 32 bits. -/

namespace Sys2Proof.Machine

/-- A lane result that raises no flag. -/
def lane (x : Nat) : Flagged := { val := x, af := 0 }

/-- The lane results of R342. -/
def laneAdd (w a b _d : Nat) : Flagged := lane ((a + b) % 2 ^ w)
def laneSub (w a b _d : Nat) : Flagged := lane ((a + 2 ^ w - b % 2 ^ w) % 2 ^ w)
def laneMul (w a b _d : Nat) : Flagged := lane (a * b % 2 ^ w)
def laneMulh (w a b _d : Nat) : Flagged := lane (wrapInt w (signed w a * signed w b / (2 ^ w : Nat)))
def laneDiv (w a b _d : Nat) : Flagged := sdivLane w a b
def laneRem (w a b _d : Nat) : Flagged := sremLane w a b
def laneAnd (_w a b _d : Nat) : Flagged := lane (a &&& b)
def laneOr (_w a b _d : Nat) : Flagged := lane (a ||| b)
def laneXor (_w a b _d : Nat) : Flagged := lane (a ^^^ b)
def laneShl (w a b _d : Nat) : Flagged := lane (a * 2 ^ (b % w) % 2 ^ w)
def laneShr (w a b _d : Nat) : Flagged := lane (a / 2 ^ (b % w))
def laneSra (w a b _d : Nat) : Flagged := lane (wrapInt w (signed w a / (2 ^ (b % w) : Nat)))
def laneMin (w a b _d : Nat) : Flagged := lane (if signed w b < signed w a then b else a)
def laneMax (w a b _d : Nat) : Flagged := lane (if signed w a < signed w b then b else a)
def laneSel (_w a b d : Nat) : Flagged := lane (if a ≠ 0 then b else d)
def laneMov (_w a _b _d : Nat) : Flagged := lane a
def laneMovb (_w _a b _d : Nat) : Flagged := lane b
def laneClz (w a _b _d : Nat) : Flagged := lane (clzLane w a)
def lanePop (w a _b _d : Nat) : Flagged := lane (popLane w a)
/-- SLUI: (IMM[15:0] << 16) OR a[15:0]. -/
def laneLui (_w a b _d : Nat) : Flagged := lane (b % 2 ^ 16 * 2 ^ 16 + a % 2 ^ 16)
/-- SLEA: 0xFFE0_0000 + ((a + b) mod 2^21). -/
def laneLea (_w a b _d : Nat) : Flagged := lane (0xFFE00000 + (a + b) % 2 ^ 21)

/-- The effective length of a field descriptor (R343). -/
def fieldLen (b : Nat) : Nat := min (bits b 5 5 + 1) (32 - bits b 0 5)

/-- SEXT: a[p+l-1:p], sign-extended from bit l - 1 when X = 1. -/
def laneExt (_w a b _d : Nat) : Flagged :=
  let l := fieldLen b
  let f := bits a (bits b 0 5) l
  lane (if bitOf b 10 && bitOf f (l - 1) then f + (2 ^ 32 - 2 ^ l) else f)

/-- SINS: d with bits [p+l-1:p] replaced by a[l-1:0]. -/
def laneIns (_w a b d : Nat) : Flagged :=
  let l := fieldLen b
  let p := bits b 0 5
  lane (d % 2 ^ p + a % 2 ^ l * 2 ^ p + d / 2 ^ (p + l) * 2 ^ (p + l))

/-- The results of a register-form word, lane by lane, from the registers as they stand. -/
def srResults (o : SrOps) (b : Bank) (f : Nat → Nat → Nat → Nat → Flagged) : List Flagged :=
  srLanes o (b.sreg o.sa.toNat) (b.sreg o.sb.toNat) (b.sreg o.sd.toNat) f

/-- The write of a register-form word to sD: all lanes, or the selected element. -/
def srWrite (o : SrOps) (b : Bank) (f : Nat → Nat → Nat → Nat → Flagged) : RegWrite :=
  let v := srValue o (srResults o b f)
  .s o.sd.toNat v.1 v.2

/-- The result of an immediate-form word (R283, R341): b = sext(IMM, 32). -/
def siResult (o : SiOps) (b : Bank) (f : Nat → Nat → Nat → Nat → Flagged) : Flagged :=
  f 32 (b.sreg o.sa.toNat).toNat (o.imm.signExtend 32).toNat (b.sreg o.sd.toNat).toNat

/-- The write of an immediate-form word to sD. -/
def siWrite (o : SiOps) (b : Bank) (f : Nat → Nat → Nat → Nat → Flagged) : RegWrite :=
  .s o.sd.toNat (BitVec.ofNat 32 (siResult o b f).val) (BitVec.allOnes 32)

/-- A scalar word of latency 1 (R84). -/
def srFixed (o : SrOps) (f : Nat → Nat → Nat → Nat → Flagged) (s : State) : Res :=
  .ok (s.setCur (s.cur.later 1 (srWrite o s.cur f) 0))
def siFixed (o : SiOps) (f : Nat → Nat → Nat → Nat → Flagged) (s : State) : Res :=
  .ok (s.setCur (s.cur.later 1 (siWrite o s.cur f) 0))

/-- A scalar word whose result is interlocked (R85): SDIV and SREM. -/
def srLocked (o : SrOps) (f : Nat → Nat → Nat → Nat → Flagged) (s : State) : Res :=
  .ok (s.setCur (s.cur.lockWrites [srWrite o s.cur f] (srFlags o (srResults o s.cur f)) true))
def siLocked (o : SiOps) (f : Nat → Nat → Nat → Nat → Flagged) (s : State) : Res :=
  .ok (s.setCur (s.cur.lockWrites [siWrite o s.cur f] (siResult o s.cur f).af true))

/-- SADD, register and immediate form (R342). -/
def execSadd (h : Hdr) (o : SrOps) (s : State) : Host.Outcome State Fault Refusal :=
  word (.sadd h o) s (srFixed o laneAdd)
def execSaddSi (h : Hdr) (o : SiOps) (s : State) : Host.Outcome State Fault Refusal :=
  word (.saddSi h o) s (siFixed o laneAdd)

/-- SSUB, register and immediate form (R342). -/
def execSsub (h : Hdr) (o : SrOps) (s : State) : Host.Outcome State Fault Refusal :=
  word (.ssub h o) s (srFixed o laneSub)
def execSsubSi (h : Hdr) (o : SiOps) (s : State) : Host.Outcome State Fault Refusal :=
  word (.ssubSi h o) s (siFixed o laneSub)

/-- SMUL, register and immediate form (R342). -/
def execSmul (h : Hdr) (o : SrOps) (s : State) : Host.Outcome State Fault Refusal :=
  word (.smul h o) s (srFixed o laneMul)
def execSmulSi (h : Hdr) (o : SiOps) (s : State) : Host.Outcome State Fault Refusal :=
  word (.smulSi h o) s (siFixed o laneMul)

/-- SMULH, register and immediate form (R342). -/
def execSmulh (h : Hdr) (o : SrOps) (s : State) : Host.Outcome State Fault Refusal :=
  word (.smulh h o) s (srFixed o laneMulh)
def execSmulhSi (h : Hdr) (o : SiOps) (s : State) : Host.Outcome State Fault Refusal :=
  word (.smulhSi h o) s (siFixed o laneMulh)

/-- SDIV, register and immediate form (R342). -/
def execSdiv (h : Hdr) (o : SrOps) (s : State) : Host.Outcome State Fault Refusal :=
  word (.sdiv h o) s (srLocked o laneDiv)
def execSdivSi (h : Hdr) (o : SiOps) (s : State) : Host.Outcome State Fault Refusal :=
  word (.sdivSi h o) s (siLocked o laneDiv)

/-- SREM, register and immediate form (R342). -/
def execSrem (h : Hdr) (o : SrOps) (s : State) : Host.Outcome State Fault Refusal :=
  word (.srem h o) s (srLocked o laneRem)
def execSremSi (h : Hdr) (o : SiOps) (s : State) : Host.Outcome State Fault Refusal :=
  word (.sremSi h o) s (siLocked o laneRem)

/-- SAND, register and immediate form (R342). -/
def execSand (h : Hdr) (o : SrOps) (s : State) : Host.Outcome State Fault Refusal :=
  word (.sand h o) s (srFixed o laneAnd)
def execSandSi (h : Hdr) (o : SiOps) (s : State) : Host.Outcome State Fault Refusal :=
  word (.sandSi h o) s (siFixed o laneAnd)

/-- SOR, register and immediate form (R342). -/
def execSor (h : Hdr) (o : SrOps) (s : State) : Host.Outcome State Fault Refusal :=
  word (.sor h o) s (srFixed o laneOr)
def execSorSi (h : Hdr) (o : SiOps) (s : State) : Host.Outcome State Fault Refusal :=
  word (.sorSi h o) s (siFixed o laneOr)

/-- SXOR, register and immediate form (R342). -/
def execSxor (h : Hdr) (o : SrOps) (s : State) : Host.Outcome State Fault Refusal :=
  word (.sxor h o) s (srFixed o laneXor)
def execSxorSi (h : Hdr) (o : SiOps) (s : State) : Host.Outcome State Fault Refusal :=
  word (.sxorSi h o) s (siFixed o laneXor)

/-- SSHL, register and immediate form (R342). -/
def execSshl (h : Hdr) (o : SrOps) (s : State) : Host.Outcome State Fault Refusal :=
  word (.sshl h o) s (srFixed o laneShl)
def execSshlSi (h : Hdr) (o : SiOps) (s : State) : Host.Outcome State Fault Refusal :=
  word (.sshlSi h o) s (siFixed o laneShl)

/-- SSHR, register and immediate form (R342). -/
def execSshr (h : Hdr) (o : SrOps) (s : State) : Host.Outcome State Fault Refusal :=
  word (.sshr h o) s (srFixed o laneShr)
def execSshrSi (h : Hdr) (o : SiOps) (s : State) : Host.Outcome State Fault Refusal :=
  word (.sshrSi h o) s (siFixed o laneShr)

/-- SSRA, register and immediate form (R342). -/
def execSsra (h : Hdr) (o : SrOps) (s : State) : Host.Outcome State Fault Refusal :=
  word (.ssra h o) s (srFixed o laneSra)
def execSsraSi (h : Hdr) (o : SiOps) (s : State) : Host.Outcome State Fault Refusal :=
  word (.ssraSi h o) s (siFixed o laneSra)

/-- SMIN, register and immediate form (R342). -/
def execSmin (h : Hdr) (o : SrOps) (s : State) : Host.Outcome State Fault Refusal :=
  word (.smin h o) s (srFixed o laneMin)
def execSminSi (h : Hdr) (o : SiOps) (s : State) : Host.Outcome State Fault Refusal :=
  word (.sminSi h o) s (siFixed o laneMin)

/-- SMAX, register and immediate form (R342). -/
def execSmax (h : Hdr) (o : SrOps) (s : State) : Host.Outcome State Fault Refusal :=
  word (.smax h o) s (srFixed o laneMax)
def execSmaxSi (h : Hdr) (o : SiOps) (s : State) : Host.Outcome State Fault Refusal :=
  word (.smaxSi h o) s (siFixed o laneMax)

/-- SSEL, register and immediate form (R342). -/
def execSsel (h : Hdr) (o : SrOps) (s : State) : Host.Outcome State Fault Refusal :=
  word (.ssel h o) s (srFixed o laneSel)
def execSselSi (h : Hdr) (o : SiOps) (s : State) : Host.Outcome State Fault Refusal :=
  word (.sselSi h o) s (siFixed o laneSel)

/-- SMOV, register and immediate form (R342). -/
def execSmov (h : Hdr) (o : SrOps) (s : State) : Host.Outcome State Fault Refusal :=
  word (.smov h o) s (srFixed o laneMov)
def execSmovSi (h : Hdr) (o : SiOps) (s : State) : Host.Outcome State Fault Refusal :=
  word (.smovSi h o) s (siFixed o laneMovb)

/-- SEXT, register and immediate form (R343). -/
def execSext (h : Hdr) (o : SrOps) (s : State) : Host.Outcome State Fault Refusal :=
  word (.sext h o) s (srFixed o laneExt)
def execSextSi (h : Hdr) (o : SiOps) (s : State) : Host.Outcome State Fault Refusal :=
  word (.sextSi h o) s (siFixed o laneExt)

/-- SINS, register and immediate form (R343). -/
def execSins (h : Hdr) (o : SrOps) (s : State) : Host.Outcome State Fault Refusal :=
  word (.sins h o) s (srFixed o laneIns)
def execSinsSi (h : Hdr) (o : SiOps) (s : State) : Host.Outcome State Fault Refusal :=
  word (.sinsSi h o) s (siFixed o laneIns)

/-- SLEA, register and immediate form (R342). -/
def execSlea (h : Hdr) (o : SrOps) (s : State) : Host.Outcome State Fault Refusal :=
  word (.slea h o) s (srFixed o laneLea)
def execSleaSi (h : Hdr) (o : SiOps) (s : State) : Host.Outcome State Fault Refusal :=
  word (.sleaSi h o) s (siFixed o laneLea)

/-- SLUI (R342). -/
def execSlui (h : Hdr) (o : SiOps) (s : State) : Host.Outcome State Fault Refusal :=
  word (.slui h o) s (siFixed o laneLui)

/-- SCLZ and SPOP (R342). -/
def execSclz (h : Hdr) (o : SrOps) (s : State) : Host.Outcome State Fault Refusal :=
  word (.sclz h o) s (srFixed o laneClz)
def execSpop (h : Hdr) (o : SrOps) (s : State) : Host.Outcome State Fault Refusal :=
  word (.spop h o) s (srFixed o lanePop)

/-- The comparison of SCMP (R344): eq, ne, lt signed, ltu. -/
def scmpHolds (c : Nat) (w a b : Nat) : Bool :=
  match c with
  | 0 => a == b
  | 1 => a != b
  | 2 => decide (signed w a < signed w b)
  | _ => decide (a < b)

/-- SCMP's new predicate: bit e for lane e, every other bit 0 (R344). -/
def scmpBits (o : SrOps) (b : Bank) : PReg :=
  let c := (o.sd.extractLsb' 4 2).toNat
  let ls := srLanes o (b.sreg o.sa.toNat) (b.sreg o.sb.toNat) 0 fun w x y _ => lane (b2n (scmpHolds c w x y))
  BitVec.ofNat 1024 (packLanes 1 (ls.map Flagged.val))

/-- SCMP (R344). -/
def execScmp (h : Hdr) (o : SrOps) (s : State) : Host.Outcome State Fault Refusal :=
  word (.scmp h o) s fun s =>
    .ok (s.setCur (s.cur.later 1 (.p (s.cur.physP (o.sd.extractLsb' 0 4).toNat) (scmpBits o s.cur) allOnesP) 0))

/-- Two predicates combined bit by bit under a truth table: bit i is TT[2 a + b] (R330). -/
def plogBits (tt : BitVec 4) (a b : PReg) : PReg :=
  let pick (k : Nat) : PReg := if tt.getLsbD k then allOnesP else 0
  (a &&& b &&& pick 3) ||| (a &&& ~~~b &&& pick 2) ||| (~~~a &&& b &&& pick 1) ||| (~~~a &&& ~~~b &&& pick 0)

/-- PLOG's new predicate (R330): TT = SD[5:4], SA[5:4]. -/
def plogResult (o : SrOps) (b : Bank) : PReg :=
  plogBits (o.sd.extractLsb' 4 2 ++ o.sa.extractLsb' 4 2) (b.preg (o.sa.extractLsb' 0 4).toNat)
    (b.preg (o.sb.extractLsb' 0 4).toNat)

/-- PLOG (R330). -/
def execPlog (h : Hdr) (o : SrOps) (s : State) : Host.Outcome State Fault Refusal :=
  word (.plog h o) s fun s =>
    .ok (s.setCur (s.cur.later 1 (.p (s.cur.physP (o.sd.extractLsb' 0 4).toNat) (plogResult o s.cur) allOnesP) 0))

end Sys2Proof.Machine
end

