-- ==== Sys2Proof/Machine/Dispatch.lean ====
section
/-! DEFINITION. The dispatch: one arm per constructor of `Instr`, each a direct call of the instruction's meaning. -/

namespace Sys2Proof.Machine

def exec (i : Instr) (s : State) : Host.Outcome State Fault Refusal :=
  match i with
  | .nop h o => Sys2Proof.Machine.execNop h o s
  | .sysr h o => Sys2Proof.Machine.execSysr h o s
  | .sysw h o => Sys2Proof.Machine.execSysw h o s
  | .trap h o => Sys2Proof.Machine.execTrap h o s
  | .rte h o => Sys2Proof.Machine.execRte h o s
  | .idle h o => Sys2Proof.Machine.execIdle h o s
  | .evsig h o => Sys2Proof.Machine.execEvsig h o s
  | .halt h o => Sys2Proof.Machine.execHalt h o s
  | .sadd h o => Sys2Proof.Machine.execSadd h o s
  | .saddSi h o => Sys2Proof.Machine.execSaddSi h o s
  | .ssub h o => Sys2Proof.Machine.execSsub h o s
  | .ssubSi h o => Sys2Proof.Machine.execSsubSi h o s
  | .smul h o => Sys2Proof.Machine.execSmul h o s
  | .smulSi h o => Sys2Proof.Machine.execSmulSi h o s
  | .smulh h o => Sys2Proof.Machine.execSmulh h o s
  | .smulhSi h o => Sys2Proof.Machine.execSmulhSi h o s
  | .sdiv h o => Sys2Proof.Machine.execSdiv h o s
  | .sdivSi h o => Sys2Proof.Machine.execSdivSi h o s
  | .srem h o => Sys2Proof.Machine.execSrem h o s
  | .sremSi h o => Sys2Proof.Machine.execSremSi h o s
  | .sand h o => Sys2Proof.Machine.execSand h o s
  | .sandSi h o => Sys2Proof.Machine.execSandSi h o s
  | .sor h o => Sys2Proof.Machine.execSor h o s
  | .sorSi h o => Sys2Proof.Machine.execSorSi h o s
  | .sxor h o => Sys2Proof.Machine.execSxor h o s
  | .sxorSi h o => Sys2Proof.Machine.execSxorSi h o s
  | .sshl h o => Sys2Proof.Machine.execSshl h o s
  | .sshlSi h o => Sys2Proof.Machine.execSshlSi h o s
  | .sshr h o => Sys2Proof.Machine.execSshr h o s
  | .sshrSi h o => Sys2Proof.Machine.execSshrSi h o s
  | .ssra h o => Sys2Proof.Machine.execSsra h o s
  | .ssraSi h o => Sys2Proof.Machine.execSsraSi h o s
  | .smin h o => Sys2Proof.Machine.execSmin h o s
  | .sminSi h o => Sys2Proof.Machine.execSminSi h o s
  | .smax h o => Sys2Proof.Machine.execSmax h o s
  | .smaxSi h o => Sys2Proof.Machine.execSmaxSi h o s
  | .ssel h o => Sys2Proof.Machine.execSsel h o s
  | .sselSi h o => Sys2Proof.Machine.execSselSi h o s
  | .smov h o => Sys2Proof.Machine.execSmov h o s
  | .smovSi h o => Sys2Proof.Machine.execSmovSi h o s
  | .slui h o => Sys2Proof.Machine.execSlui h o s
  | .sclz h o => Sys2Proof.Machine.execSclz h o s
  | .spop h o => Sys2Proof.Machine.execSpop h o s
  | .sext h o => Sys2Proof.Machine.execSext h o s
  | .sextSi h o => Sys2Proof.Machine.execSextSi h o s
  | .sins h o => Sys2Proof.Machine.execSins h o s
  | .sinsSi h o => Sys2Proof.Machine.execSinsSi h o s
  | .slea h o => Sys2Proof.Machine.execSlea h o s
  | .sleaSi h o => Sys2Proof.Machine.execSleaSi h o s
  | .scmp h o => Sys2Proof.Machine.execScmp h o s
  | .plog h o => Sys2Proof.Machine.execPlog h o s
  | .br h o => Sys2Proof.Machine.execBr h o s
  | .brc h o => Sys2Proof.Machine.execBrc h o s
  | .bri h o => Sys2Proof.Machine.execBri h o s
  | .call h o => Sys2Proof.Machine.execCall h o s
  | .callIndirect h o => Sys2Proof.Machine.execCallIndirect h o s
  | .ret h o => Sys2Proof.Machine.execRet h o s
  | .loop h o => Sys2Proof.Machine.execLoop h o s
  | .loopx h o => Sys2Proof.Machine.execLoopx h o s
  | .region h o => Sys2Proof.Machine.execRegion h o s
  | .slice h o => Sys2Proof.Machine.execSlice h o s
  | .tnode h o => Sys2Proof.Machine.execTnode h o s
  | .tlaunch h o => Sys2Proof.Machine.execTlaunch h o s
  | .tyield h o => Sys2Proof.Machine.execTyield h o s
  | .texit h o => Sys2Proof.Machine.execTexit h o s
  | .tkw h o => Sys2Proof.Machine.execTkw h o s
  | .ld h o => Sys2Proof.Machine.execLd h o s
  | .ldv h o => Sys2Proof.Machine.execLdv h o s
  | .ldm h o => Sys2Proof.Machine.execLdm h o s
  | .pref h o => Sys2Proof.Machine.execPref h o s
  | .st h o => Sys2Proof.Machine.execSt h o s
  | .stv h o => Sys2Proof.Machine.execStv h o s
  | .stm h o => Sys2Proof.Machine.execStm h o s
  | .amo h o => Sys2Proof.Machine.execAmo h o s
  | .cas h o => Sys2Proof.Machine.execCas h o s
  | .fence h o => Sys2Proof.Machine.execFence h o s
  | .acq h o => Sys2Proof.Machine.execAcq h o s
  | .rel h o => Sys2Proof.Machine.execRel h o s
  | .bara h o => Sys2Proof.Machine.execBara h o s
  | .barw h o => Sys2Proof.Machine.execBarw h o s
  | .dsync h o => Sys2Proof.Machine.execDsync h o s
  | .kld h o => Sys2Proof.Machine.execKld h o s
  | .kldObject h o => Sys2Proof.Machine.execKldObject h o s
  | .kst h o => Sys2Proof.Machine.execKst h o s
  | .kstObject h o => Sys2Proof.Machine.execKstObject h o s
  | .kget h o => Sys2Proof.Machine.execKget h o s
  | .kput h o => Sys2Proof.Machine.execKput h o s
  | .knew h o => Sys2Proof.Machine.execKnew h o s
  | .kpin h o => Sys2Proof.Machine.execKpin h o s
  | .kunpin h o => Sys2Proof.Machine.execKunpin h o s
  | .keq h o => Sys2Proof.Machine.execKeq h o s
  | .hopen h o => Sys2Proof.Machine.execHopen h o s
  | .hrel h o => Sys2Proof.Machine.execHrel h o s
  | .hld h o => Sys2Proof.Machine.execHld h o s
  | .hst h o => Sys2Proof.Machine.execHst h o s
  | .vadd h o => Sys2Proof.Machine.execVadd h o s
  | .vaddVs h o => Sys2Proof.Machine.execVaddVs h o s
  | .vsub h o => Sys2Proof.Machine.execVsub h o s
  | .vsubVs h o => Sys2Proof.Machine.execVsubVs h o s
  | .vmul h o => Sys2Proof.Machine.execVmul h o s
  | .vmulVs h o => Sys2Proof.Machine.execVmulVs h o s
  | .vfma h o => Sys2Proof.Machine.execVfma h o s
  | .vfmaVs h o => Sys2Proof.Machine.execVfmaVs h o s
  | .vmin h o => Sys2Proof.Machine.execVmin h o s
  | .vminVs h o => Sys2Proof.Machine.execVminVs h o s
  | .vmax h o => Sys2Proof.Machine.execVmax h o s
  | .vmaxVs h o => Sys2Proof.Machine.execVmaxVs h o s
  | .vabs h o => Sys2Proof.Machine.execVabs h o s
  | .vand h o => Sys2Proof.Machine.execVand h o s
  | .vandVs h o => Sys2Proof.Machine.execVandVs h o s
  | .vor h o => Sys2Proof.Machine.execVor h o s
  | .vorVs h o => Sys2Proof.Machine.execVorVs h o s
  | .vxor h o => Sys2Proof.Machine.execVxor h o s
  | .vxorVs h o => Sys2Proof.Machine.execVxorVs h o s
  | .vshl h o => Sys2Proof.Machine.execVshl h o s
  | .vshlVs h o => Sys2Proof.Machine.execVshlVs h o s
  | .vshr h o => Sys2Proof.Machine.execVshr h o s
  | .vshrVs h o => Sys2Proof.Machine.execVshrVs h o s
  | .vcmp h o => Sys2Proof.Machine.execVcmp h o s
  | .vcmpVs h o => Sys2Proof.Machine.execVcmpVs h o s
  | .vsel h o => Sys2Proof.Machine.execVsel h o s
  | .vselVs h o => Sys2Proof.Machine.execVselVs h o s
  | .vmov h o => Sys2Proof.Machine.execVmov h o s
  | .vmovVs h o => Sys2Proof.Machine.execVmovVs h o s
  | .vcvt h o => Sys2Proof.Machine.execVcvt h o s
  | .vwmul h o => Sys2Proof.Machine.execVwmul h o s
  | .vwmulVs h o => Sys2Proof.Machine.execVwmulVs h o s
  | .vwadd h o => Sys2Proof.Machine.execVwadd h o s
  | .vwaddVs h o => Sys2Proof.Machine.execVwaddVs h o s
  | .vdot4 h o => Sys2Proof.Machine.execVdot4 h o s
  | .vdot4Vs h o => Sys2Proof.Machine.execVdot4Vs h o s
  | .vexp2 h o => Sys2Proof.Machine.execVexp2 h o s
  | .vlog2 h o => Sys2Proof.Machine.execVlog2 h o s
  | .vrcp h o => Sys2Proof.Machine.execVrcp h o s
  | .vrsq h o => Sys2Proof.Machine.execVrsq h o s
  | .vtanh h o => Sys2Proof.Machine.execVtanh h o s
  | .vrsum h o => Sys2Proof.Machine.execVrsum h o s
  | .vrmax h o => Sys2Proof.Machine.execVrmax h o s
  | .vrmin h o => Sys2Proof.Machine.execVrmin h o s
  | .vmaxi h o => Sys2Proof.Machine.execVmaxi h o s
  | .vmini h o => Sys2Proof.Machine.execVmini h o s
  | .vscan h o => Sys2Proof.Machine.execVscan h o s
  | .vperm h o => Sys2Proof.Machine.execVperm h o s
  | .vcomp h o => Sys2Proof.Machine.execVcomp h o s
  | .vhist h o => Sys2Proof.Machine.execVhist h o s
  | .vhmerge h o => Sys2Proof.Machine.execVhmerge h o s
  | .vrng h o => Sys2Proof.Machine.execVrng h o s
  | .vchain h o => Sys2Proof.Machine.execVchain h o s
  | .mlease h o => Sys2Proof.Machine.execMlease h o s
  | .mfree h o => Sys2Proof.Machine.execMfree h o s
  | .mma h o => Sys2Proof.Machine.execMma h o s
  | .mmas h o => Sys2Proof.Machine.execMmas h o s
  | .mrank h o => Sys2Proof.Machine.execMrank h o s
  | .mrd h o => Sys2Proof.Machine.execMrd h o s
  | .mzero h o => Sys2Proof.Machine.execMzero h o s
  | .cpy h o => Sys2Proof.Machine.execCpy h o s
  | .qbind h o => Sys2Proof.Machine.execQbind h o s
  | .rinit h o => Sys2Proof.Machine.execRinit h o s
  | .radv h o => Sys2Proof.Machine.execRadv h o s
  | .epop h o => Sys2Proof.Machine.execEpop h o s
  | .estat h o => Sys2Proof.Machine.execEstat h o s
  | .merge h o => Sys2Proof.Machine.execMerge h o s
  | .hacc h o => Sys2Proof.Machine.execHacc h o s
  | .xroute h o => Sys2Proof.Machine.execXroute h o s
  | .xclose h o => Sys2Proof.Machine.execXclose h o s
  | .xcloseFinal h o => Sys2Proof.Machine.execXcloseFinal h o s
  | .xfetch h o => Sys2Proof.Machine.execXfetch h o s
  | .xpin h o => Sys2Proof.Machine.execXpin h o s
  | .xunpin h o => Sys2Proof.Machine.execXunpin h o s
  | .xpred h o => Sys2Proof.Machine.execXpred h o s
  | .xqry h o => Sys2Proof.Machine.execXqry h o s
  | .xsnap h o => Sys2Proof.Machine.execXsnap h o s
  | .xrepl h o => Sys2Proof.Machine.execXrepl h o s
  | .idleTimeout c => Sys2Proof.Machine.execIdleTimeout c s
  | .tkwTimeout c => Sys2Proof.Machine.execTkwTimeout c s
  | .finalClose slot layer => Sys2Proof.Machine.execFinalClose slot layer s
  | .interlockedWriteLand c => Sys2Proof.Machine.execInterlockedWriteLand c s
  | .fixedLatencyVisible c => Sys2Proof.Machine.execFixedLatencyVisible c s
  | .matrixCommandStart c => Sys2Proof.Machine.execMatrixCommandStart c s
  | .matrixMicroStep c => Sys2Proof.Machine.execMatrixMicroStep c s
  | .copyCommandStart c => Sys2Proof.Machine.execCopyCommandStart c s
  | .copyMicroStep c => Sys2Proof.Machine.execCopyMicroStep c s
  | .dataCommandStart c => Sys2Proof.Machine.execDataCommandStart c s
  | .dataMicroStep c => Sys2Proof.Machine.execDataMicroStep c s
  | .engineFaultTaken c => Sys2Proof.Machine.execEngineFaultTaken c s
  | .frespRetry c seq => Sys2Proof.Machine.execFrespRetry c seq s
  | .frespDeliver c seq => Sys2Proof.Machine.execFrespDeliver c seq s
  | .monitorLimitExpiry c => Sys2Proof.Machine.execMonitorLimitExpiry c s
  | .quantumExpiry core => Sys2Proof.Machine.execQuantumExpiry core s
  | .stallLimitExpiry core => Sys2Proof.Machine.execStallLimitExpiry core s
  | .eccCorrectableFreeze core st => Sys2Proof.Machine.execEccCorrectableFreeze core st s
  | .freezeEnd core => Sys2Proof.Machine.execFreezeEnd core s
  | .windowSubmit64 q slot desc => Sys2Proof.Machine.execWindowSubmit64 q slot desc s
  | .windowPieceStore p => Sys2Proof.Machine.execWindowPieceStore p s
  | .distributorSelection => Sys2Proof.Machine.execDistributorSelection s
  | .binding => Sys2Proof.Machine.execBinding s
  | .clearEngineDone c => Sys2Proof.Machine.execClearEngineDone c s
  | .nodeAgeing n => Sys2Proof.Machine.execNodeAgeing n s
  | .preemptTrigger cls => Sys2Proof.Machine.execPreemptTrigger cls s
  | .appNodeClaim n => Sys2Proof.Machine.execAppNodeClaim n s
  | .appNodeComplete n => Sys2Proof.Machine.execAppNodeComplete n s
  | .recordConsumption => Sys2Proof.Machine.execRecordConsumption s
  | .tileNodeCreate => Sys2Proof.Machine.execTileNodeCreate s
  | .queueEnable q on => Sys2Proof.Machine.execQueueEnable q on s
  | .queueStopClear q => Sys2Proof.Machine.execQueueStopClear q s
  | .qslotWrite q val => Sys2Proof.Machine.execQslotWrite q val s
  | .registerWrite off val => Sys2Proof.Machine.execRegisterWrite off val s
  | .l1CapacityEviction core line => Sys2Proof.Machine.execL1CapacityEviction core line s
  | .shootdown inv => Sys2Proof.Machine.execShootdown inv s
  | .externalAccess a => Sys2Proof.Machine.execExternalAccess a s
  | .compressedFrameFault pa => Sys2Proof.Machine.execCompressedFrameFault pa s
  | .famcmd val => Sys2Proof.Machine.execFamcmd val s
  | .famcmdHeldApply => Sys2Proof.Machine.execFamcmdHeldApply s
  | .expandGo => Sys2Proof.Machine.execExpandGo s
  | .expandDone => Sys2Proof.Machine.execExpandDone s
  | .expandDoneClear => Sys2Proof.Machine.execExpandDoneClear s
  | .swapGo val => Sys2Proof.Machine.execSwapGo val s
  | .swapDone => Sys2Proof.Machine.execSwapDone s
  | .swapDoneClear => Sys2Proof.Machine.execSwapDoneClear s
  | .migrationRequest val => Sys2Proof.Machine.execMigrationRequest val s
  | .holdExpiry r => Sys2Proof.Machine.execHoldExpiry r s
  | .holdQueueLimit r => Sys2Proof.Machine.execHoldQueueLimit r s
  | .rowAutoClose r => Sys2Proof.Machine.execRowAutoClose r s
  | .rowReopen r => Sys2Proof.Machine.execRowReopen r s
  | .heapCompact => Sys2Proof.Machine.execHeapCompact s
  | .compactionAutostart => Sys2Proof.Machine.execCompactionAutostart s
  | .compactionCycleStart => Sys2Proof.Machine.execCompactionCycleStart s
  | .compactionObject => Sys2Proof.Machine.execCompactionObject s
  | .relocationCommit => Sys2Proof.Machine.execRelocationCommit s
  | .compactionFlip => Sys2Proof.Machine.execCompactionFlip s
  | .retire n => Sys2Proof.Machine.execRetire n s
  | .heapcmdFree oti => Sys2Proof.Machine.execHeapcmdFree oti s
  | .coldEvictionStart oti => Sys2Proof.Machine.execColdEvictionStart oti s
  | .coldEvictionDone => Sys2Proof.Machine.execColdEvictionDone s
  | .recallComplete oti => Sys2Proof.Machine.execRecallComplete oti s
  | .modelInstall m => Sys2Proof.Machine.execModelInstall m s
  | .modelUninstall m => Sys2Proof.Machine.execModelUninstall m s
  | .steamerChunk => Sys2Proof.Machine.execSteamerChunk s
  | .frequencyDecay => Sys2Proof.Machine.execFrequencyDecay s
  | .remoteClaim xid row => Sys2Proof.Machine.execRemoteClaim xid row s
  | .remoteCommand cmd => Sys2Proof.Machine.execRemoteCommand cmd s
  | .distributionChunk d => Sys2Proof.Machine.execDistributionChunk d s
  | .linkChange l => Sys2Proof.Machine.execLinkChange l s
  | .leaseGrant cl => Sys2Proof.Machine.execLeaseGrant cl s
  | .leaseTimeout cl => Sys2Proof.Machine.execLeaseTimeout cl s
  | .bucketCycle cl => Sys2Proof.Machine.execBucketCycle cl s
  | .refillTick cl => Sys2Proof.Machine.execRefillTick cl s
  | .biasWrite cl bb => Sys2Proof.Machine.execBiasWrite cl bb s
  | .biasSettleDone cl => Sys2Proof.Machine.execBiasSettleDone cl s
  | .clockHopRequest cl src half => Sys2Proof.Machine.execClockHopRequest cl src half s
  | .hopComplete cl => Sys2Proof.Machine.execHopComplete cl s
  | .hopRetry cl => Sys2Proof.Machine.execHopRetry cl s
  | .droopDetect cl => Sys2Proof.Machine.execDroopDetect cl s
  | .droopRecover cl => Sys2Proof.Machine.execDroopRecover cl s
  | .sensorReading cl r => Sys2Proof.Machine.execSensorReading cl r s
  | .sensfClear cl mask => Sys2Proof.Machine.execSensfClear cl mask s
  | .sleepEnter => Sys2Proof.Machine.execSleepEnter s
  | .wake src => Sys2Proof.Machine.execWake src s
  | .wakeComplete => Sys2Proof.Machine.execWakeComplete s
  | .keyLoad => Sys2Proof.Machine.execKeyLoad s
  | .keyLoadDone => Sys2Proof.Machine.execKeyLoadDone s
  | .attestation => Sys2Proof.Machine.execAttestation s
  | .attestationDone => Sys2Proof.Machine.execAttestationDone s
  | .resync => Sys2Proof.Machine.execResync s
  | .resyncDone => Sys2Proof.Machine.execResyncDone s
  | .mgmtStatus => Sys2Proof.Machine.execMgmtStatus s
  | .mgmtReadCrock start count => Sys2Proof.Machine.execMgmtReadCrock start count s
  | .mgmtResync => Sys2Proof.Machine.execMgmtResync s
  | .mgmtWake => Sys2Proof.Machine.execMgmtWake s
  | .heartbeat => Sys2Proof.Machine.execHeartbeat s
  | .watchdogExpiry => Sys2Proof.Machine.execWatchdogExpiry s
  | .boot b => Sys2Proof.Machine.execBoot b s
  | .domainFaultTaken c => Sys2Proof.Machine.execDomainFaultTaken c s
  | .mainTierRateChange => Sys2Proof.Machine.execMainTierRateChange s
  | .powerLoss aon => Sys2Proof.Machine.execPowerLoss aon s

end Sys2Proof.Machine
end

