-- ==== Sys2Proof/Machine/Bundle.lean ====
section
/-! DEFINITION. Bundles: the checks of R271, the order in which the words of a bundle take effect, causes and their precedence
(R229, R231), what a bundle is charged (R241, R242), its end with the loop closings (R84, R301, R323), and the issue attempt of
a core (R17, R403). -/

namespace Sys2Proof.Machine

/-! ### The words of a bundle -/

/-- A word of a bundle: its index, its bits, and what they decode to. -/
structure Item where
  ix   : Nat
  bits : DWord
  dec  : Except DecodeError Instr
  deriving Repr

def itemsOf (ws : List DWord) : List Item :=
  ((List.range ws.length).zip ws).map fun x => { ix := x.1, bits := x.2, dec := decodeWord x.2 }

/-- Its slot: S, M, V, E are 0 to 3. -/
def Item.slot (x : Item) : Option Nat := slotOf x.bits
def Item.slotNo (x : Item) : Nat := (slotOf x.bits).getD 0
def Item.instr? (x : Item) : Option Instr := x.dec.toOption
def Item.dests (x : Item) : List RegName := (x.instr?.map destsOf).getD []

/-- The first word out of slot order: its slot is the slot of an earlier word, or before it. -/
def orderError : List Item → Option Nat → Option Item
  | [], _ => none
  | x :: r, seen =>
    match x.slot, seen with
    | none, _ => orderError r seen
    | some k, none => orderError r (some k)
    | some k, some m => if k ≤ m then some x else orderError r (some k)

/-- The first word that names a destination which an earlier word names. -/
def destError : List Item → List RegName → Option Item
  | [], _ => none
  | x :: r, seen => if x.dests.any fun d => seen.contains d then some x else destError r (seen ++ x.dests)

/-- Illegal instruction for a word as fetched. -/
def illegalBits (x : Item) : Stop := stopTrap 0x01 (x.bits.extractLsb' 0 32)

/-- The bundle checks of R271 in their order: the slot that ECAUSE shows, and the stop. -/
def bundleError (l : List Item) : Option (Nat × Stop) :=
  match l[3]? with
  | some x =>
    if !x.bits.getLsbD 63 then some (x.slotNo, stopTrap 0x02 3) else rest
  | none => rest
where
  rest : Option (Nat × Stop) :=
    match orderError l none with
    | some x => some (x.slotNo, stopTrap 0x02 (BitVec.ofNat 32 x.ix))
    | none =>
      match destError l [] with
      | some x => some (x.slotNo, stopTrap 0x02 (BitVec.ofNat 32 x.ix))
      | none => (l.find? fun x => x.slot.isNone).map fun x => (0, illegalBits x)

/-- The checks of each word in word order (R231): illegal instruction, then privilege. Beside the stop: the words before it. -/
def wordError (b : Bank) : List Item → Option (List Item × Nat × Stop)
  | [] => none
  | x :: r =>
    match x.dec with
    | .error _ => some ([], x.slotNo, illegalBits x)
    | .ok i =>
      match precheck i b with
      | some st => some ([], x.slotNo, st)
      | none => (wordError b r).map fun e => (x :: e.1, e.2)

/-! ### The order of effects -/

/-- A decoded word with its slot. -/
structure Word2 where
  slot : Nat
  i    : Instr
  deriving DecidableEq, Repr

def wordsOf (l : List Item) : List Word2 := l.filterMap fun x => x.instr?.map fun i => { slot := x.slotNo, i := i }

/-- Words that act on the thread as the whole bundle leaves it: they run after the bundle's other words. -/
def isLate (i : Instr) : Bool :=
  match i with
  | .trap .. | .rte .. | .idle .. | .region .. | .tyield .. | .texit .. | .dsync .. => true
  | _ => false

/-- Words that wait for the commands already pushed, so that a push of their own bundle follows them (R304, R356). -/
def waitsForPushes (i : Instr) : Bool :=
  match i with
  | .dsync .. | .tyield .. => true
  | _ => false

/-- Words that push an engine command. -/
def isPush (i : Instr) : Bool :=
  match i with
  | .vchain .. | .mlease .. | .mfree .. | .mma .. | .mmas .. | .mrank .. | .mrd .. | .mzero .. | .cpy .. | .merge .. | .hacc .. =>
    true
  | _ => false

def isTrap (i : Instr) : Bool :=
  match i with
  | .trap .. => true
  | _ => false

/-- The words of a bundle in the order in which they take effect; TRAP, whose EPC names the next bundle, comes last. -/
def effectOrder (l : List Word2) : List Word2 :=
  let late := l.filter fun x => isLate x.i && !isTrap x.i
  let tail (x : Word2) : Bool := isPush x.i && late.any fun y => waitsForPushes y.i
  (l.filter fun x => !isLate x.i && !tail x) ++ late ++ l.filter tail ++ l.filter fun x => isTrap x.i

/-- What became of the words of a bundle: all took effect; word `x` did not, in the state `t` that it left; or the machine stops. -/
inductive Ran where
  | all (s : State)
  | held (x : Word2) (t : State)
  | stop (r : Host.Outcome State Fault Refusal)

/-- Run words in order. A word that leaves the thread ends the run. -/
def runWords : List Word2 → State → Ran
  | [], s => .all s
  | x :: r, s =>
    match exec x.i { s with iss := { s.iss with slot := x.slot } } with
    | .next t => if t.iss.verdict = .done then runWords r t else .held x t
    | o => .stop o

/-- The effect of TEXIT, RTE and TYIELD takes the thread elsewhere: the bundle has issued. -/
def leavesThread (i : Instr) : Bool :=
  match i with
  | .rte .. | .texit .. | .tyield .. => true
  | _ => false

/-- How a bundle ends: it issued and goes on to its end; it issued and its thread is elsewhere; it issued and its TRAP was taken
(R355); a cause of its own was taken; or it waits. -/
inductive Ending where
  | issued (s : State)
  | gone (s : State)
  | trapped (s : State)
  | cause (s : State)
  | waits (s : State)
  | stop (r : Host.Outcome State Fault Refusal)

def endingOf (x : Word2) (t : State) : Ending :=
  match t.iss.verdict, x.i with
  | .stalled, _ => .waits t
  | _, .trap .. => .trapped t
  | _, i => if leavesThread i then .gone t else .cause t

/-! ### The cause that a bundle raises (R231) -/

/-- The item of R231 to which the cause of a word belongs. -/
def itemOf (code : BitVec 8) : Nat := if code = 0x01 ∨ code = 0x03 then 4 else if code = 0x10 then 6 else 5

/-- The first word, in word order, that raises a cause of item `n` in the state before its bundle, and the state in which that cause
has been taken. -/
def causeAt (n : Nat) (s : State) : List Word2 → Option State
  | [] => none
  | x :: r =>
    match exec x.i { s with iss := { s.iss with slot := x.slot } } with
    | .next t => if t.iss.cause.map itemOf = some n then some t else causeAt n s r
    | _ => causeAt n s r

/-- The registers that an LDM or STM of the bundle transfers before its faulting step stand, whatever cause the bundle takes then (R235):
the state in which their steps wait for their charge. -/
def transfers (l : List Word2) (s : State) : Option State :=
  l.findSome? fun x =>
    let r := match x.i with
      | .ldm _ o => runWord x.i s (ldmEffect o)
      | .stm _ o => runWord x.i s (stmEffect o)
      | _ => .ok s
    match r with
    | .error (.stall, t) => if t.cur.pipe.steps.isEmpty then none else some t
    | _ => none

/-- The words of a bundle that raises no cause by itself, from the state `s` before any of them. A word that only the words before it hold
up goes first (log 42). -/
def runOrdered (l : List Word2) (s : State) : Ending :=
  let order := effectOrder l
  match runWords order s with
  | .all t => .issued t
  | .stop o => .stop o
  | .held x t =>
    if isLate x.i ∧ t.iss.verdict ≠ .stalled then endingOf x t
    else match runWords [x] s with
      | .held _ t1 => endingOf x t1
      | .stop o => .stop o
      | .all _ =>
        match runWords (x :: order.erase x) s with
        | .all t2 => .issued t2
        | _ => .waits s

/-- A bundle whose checks pass: suppressed as a whole where a word of it raises a cause (R132, R231), a software trap excepted, or cannot
act. -/
def runBundle (l : List Word2) (s : State) : Ending :=
  match l with
  | [_] => runOrdered l s
  | _ =>
    match causeAt 4 s l, transfers l s with
    | some t, _ => .cause t
    | none, some t => .waits t
    | none, none =>
      match causeAt 5 s l with
      | some t => .cause t
      | none => runOrdered l s

/-! ### Charge (R241, R242) -/

/-- The class of a word (R242). VCHAIN's word has none: its vectors are charged. -/
def chargeClass (i : Instr) : Option Nat :=
  match i with
  | .vchain .. => none
  | .vmul .. | .vmulVs .. | .vfma .. | .vfmaVs .. | .vwmul .. | .vwmulVs .. | .vdot4 .. | .vdot4Vs .. => some 2
  | .vexp2 .. | .vlog2 .. | .vrcp .. | .vrsq .. | .vtanh .. => some 3
  | .vrsum .. | .vrmax .. | .vrmin .. | .vmaxi .. | .vmini .. | .vscan .. | .vhist .. | .vhmerge .. => some 4
  | .ld .. | .pref .. | .kld .. | .kldObject .. | .kget .. | .hld .. | .ldv .. | .ldm .. => some 5
  | .st .. | .kst .. | .kstObject .. | .kput .. | .hst .. | .stv .. | .stm .. => some 6
  | i =>
    match i.parts with
    | none => none
    | some x =>
      let maj := x.2.1.toNat
      if maj ≤ 5 then some 0 else if maj ≤ 0x0D then some 7 else if maj ≤ 0x13 then some 1
      else if maj ≤ 0x1A then some 0 else some 7

def wordWeight (s : State) (cl : Nat) (i : Instr) : Nat :=
  match chargeClass i with
  | some k => s.clsWeight cl k
  | none => 0

def bundleWeight (s : State) (cl : Nat) (l : List Word2) : Nat := (l.map fun x => wordWeight s cl x.i).sum

/-- Words that act on memory, on caches or on other agents, and a LOOP that pops a stream (R333): they follow the memory steps of the
thread's earlier words, so that each byte is accessed in program order (R146). -/
def followsSteps (i : Instr) : Bool :=
  match i with
  | .loop _ o => decide (2 ≤ (o.bf.extractLsb' 1 2).toNat)
  | .tnode .. | .tlaunch .. | .tkw .. | .texit .. | .tyield .. | .halt .. => true
  | i =>
    isPush i || (match i.parts with
      | some x => (decide (6 ≤ x.2.1.toNat) && decide (x.2.1.toNat ≤ 0x0D)) || decide (0x14 ≤ x.2.1.toNat)
      | none => false)

/-- Words that come after every pair of the thread's earlier XROUTEs (R193, R386): its own X-format words and its boundaries, which commit
the slots. -/
def followsRoutes (i : Instr) : Bool :=
  match i with
  | .region .. | .dsync .. | .tyield .. | .texit .. => true
  | i => i.parts.any fun x => x.2.1.toNat == 0x1C

/-- The bundle waits for memory steps, or for pairs, of earlier words. -/
def stepsWait (b : Bank) (l : List Word2) : Bool :=
  (!b.pipe.steps.isEmpty && l.any fun x => followsSteps x.i) || (!b.pipe.routes.isEmpty && l.any fun x => followsRoutes x.i)

/-! ### The end of a bundle -/

/-- The bank after its issue cycle: what becomes visible to the next bundle does. -/
def afterCycle (b : Bank) : Bank :=
  let b1 := { b with pipe := { b.pipe with cyc := b.pipe.cyc + 1, mon := if b.tr.mode then b.pipe.mon + 1 else 0 } }
  landDue b1 b1.pipe.cyc

/-- The bundle's own end: a taken branch gives the next bundle, else the loop closings do (R301, R323). -/
def endBundle (s : State) : State :=
  let b := afterCycle s.cur
  match s.iss.target with
  | some t => s.setCur { b with th := { b.th with pc := t } }
  | none =>
    let r := loopClosing b s.iss.pc
    s.setCur { r.1 with th := { r.1.th with pc := r.2.getD s.iss.fall } }

/-- The first bundle of a bound thread makes its node running (R45). -/
def nodeRuns (s : State) (i : Nat) : State :=
  let n := s.node i
  if n.st = .bound then s.setNode i { n with st := .running } else s

/-- What every issued bundle does to its bank, core and node: the stall count restarts (R403). -/
def markIssued (s : State) (c : Ctx) (node : Nat) : State :=
  let k := s.core c.core
  let b := s.bank c
  let w := match b.pipe.wait with
    | .pop _ _ => .none
    | w => w
  nodeRuns ((s.setBank c { b with pipe := { b.pipe with stall := 0, wait := w, lost := none } }).setCore c.core { k with issued := true }) node

/-! ### The issue attempt -/

/-- The bank meets its next bundle. -/
def startBundle (s : State) (c : Ctx) : State :=
  let b := s.bank c
  { s with iss := { ctx := c, pc := b.th.pc, fall := b.th.pc + 8, target := none, slot := 0, verdict := .done,
                    cause := none, fresh := some b.lockId } }

/-- A cause that the bundle itself raises, taken at slot `k`. -/
def takeCause (s : State) (k : Nat) (st : Stop) : State := takeStop st { s with iss := { s.iss with slot := k } }

/-- The domain fault is taken before the fetch faults of the bundle, but after an uncorrectable error of the fetch (R231). -/
def dueDomainFault (s : State) (c : Ctx) : Option Nat := if (s.bank c).tr.mode then none else (s.bank c).dfault

def takeDomainFault (s : State) (c : Ctx) (k : Nat) : State :=
  let b := s.bank c
  (trapEntry c { code := 0x12, eval := BitVec.ofNat 32 k, vah := 0, slot := s.freeSlot, fetch := false, eng := 0, epc := b.th.pc }
    (s.bump.setBank c { b with dfault := none })).raised 0x12

def isStorageError (st : Stop) : Bool :=
  match st with
  | .trap code .. => code == 0x11
  | _ => false

/-- A fetch that fails: no word has raised its cause, so that SLOT is free (log 49). In monitor mode it is a double fault, of
the TVEC fetch where the handler's first bundle fails (R234). -/
def fetchFailed (s : State) (c : Ctx) (st : Stop) (t : State) : State :=
  let b := s.bank c
  match st with
  | .stall => s
  | .trap code .. =>
    if b.tr.mode then doubleFault c code.toNat false (b.th.pc == b.tr.tvec.setWidth 48 && b.pipe.mon == 0) t
    else takeCause t.bump t.freeSlot.toNat st
  | st => takeCause t.bump t.freeSlot.toNat st

/-- The pool words of the vector registers that the words of a bundle read. -/
def poolReads (b : Bank) (c : Ctx) (l : List Word2) : List Nat :=
  (l.flatMap fun x => if isVector x.i || b.enabled x.i.hdr then readsOf x.i else []).flatMap fun r =>
    match r with
    | .v n => vectorWords c (b.physV n)
    | _ => []

/-- An uncorrectable error in a register that the bundle reads (R139, R231); the address that EVAL and VAH hold is not stated for it, a
free value (log 52). -/
def registerError (s : State) (c : Ctx) (l : List Word2) : Option (Nat × State) :=
  ((poolReads (s.bank c) c l).find? fun k => s.mem.bad.contains (0, k)).map fun k =>
    let slot := (l.find? fun x => (poolReads (s.bank c) c [x]).contains k).map Word2.slot
    let s1 := foundUe s (some c) 0 k
    (slot.getD 0, { s1 with freeCtr := s1.freeCtr + 2 })

def registerStop (s : State) : Stop :=
  .trap 0x11 (Config.freeWord (s.freeCtr - 2)) ((Config.freeWord (s.freeCtr - 1)).extractLsb' 0 16) false false

/-- A pending engine fault that this boundary may take, once no earlier memory step waits (R132). -/
def dueEngFault (s : State) (c : Ctx) : Option EngFault :=
  if (s.bank c).tr.mode || !(s.bank c).pipe.steps.isEmpty then none else firstFault (s.bank c).eng.faults

/-- The request of a bundle's charge. -/
def bundleReq (s : State) (c : Ctx) (l : List Word2) : ChargeReq := chargeReq (whoBank c.core) c (bundleWeight s (clusterOf c.core) l)

/-- The bundle's charge is granted. -/
def chargeGranted (s : State) (c : Ctx) (l : List Word2) : Bool :=
  let r := bundleReq s c l
  r.weight == 0 || (s.cluster (clusterOf c.core)).bucket.granted.contains r

/-- Commit an issued bundle, once its charge is granted; a refused bundle waits (R241). `go` is the state it leaves. -/
def commitBundle (s : State) (c : Ctx) (l : List Word2) (go : State) (done : State → State) : State :=
  let cl := clusterOf c.core
  let r := bundleReq s c l
  match (if r.weight = 0 then some go else takeGrant go cl r) with
  | some g => markIssued (done g) c (s.bank c).th.node
  | none => askCharge s cl r

/-- The bundle has been fetched into `s1` and decoded; `s` is the state before the fetch. -/
def issueWords (s s1 : State) (c : Ctx) (ws : List DWord) : Host.Outcome State Fault Refusal :=
  let items := itemsOf ws
  let s2 := { s1 with iss := { s1.iss with fall := s1.iss.pc + BitVec.ofNat 48 (8 * ws.length) } }
  match bundleError items with
  | some (k, st) => .next (takeCause s2 k st)
  | none =>
    match wordError s2.cur items with
    | some (before, k, st) => .next ((causeAt 4 s2 (wordsOf before)).getD (takeCause s2 k st))
    | none =>
      let l := wordsOf items
      let b := s2.cur
      let fault (t : State) : Host.Outcome State Fault Refusal :=
        match dueEngFault s c with
        | some f => .next (takeEngFault s c f)
        | none => .next t
      if stepsWait b l || l.any fun x => interlocked x.i b none then fault s
      else match runBundle l s2 with
        | .stop o => o
        | .cause t => .next t
        | .trapped t => if chargeGranted s2 c l then .next (commitBundle s2 c l t id) else fault (commitBundle s2 c l t id)
        | .waits t => fault t
        | .issued t => fault (commitBundle s2 c l t endBundle)
        | .gone t => fault (commitBundle s2 c l t fun t =>
            if (t.bank c).tr.mode = b.tr.mode then t else t.setBank c (afterCycle (t.bank c)))

/-- A cause is taken once the memory steps of earlier words are performed: those that had translated drain first (R132, R232). -/
def afterSteps (s : State) (c : Ctx) (o : Host.Outcome State Fault Refusal) : Host.Outcome State Fault Refusal :=
  match o with
  | .next t => .next (if !(s.bank c).pipe.steps.isEmpty && t.iss.cause.isSome then s else t)
  | o => o

/-- The attempt of the next bundle of bank `c` (R270): fetch, checks, words, end. While its fetch waits, a due engine fault is taken
(R229). -/
def tryBundle (s : State) (c : Ctx) : Host.Outcome State Fault Refusal :=
  let s0 := startBundle s c
  match fetchBundle s0 c s0.iss.pc 4 with
  | .error (st, t) =>
    .next (match dueDomainFault s c, isStorageError st with
      | some k, false => takeDomainFault s c k
      | _, _ =>
        match st, dueEngFault s c with
        | .stall, some f => takeEngFault s c f
        | _, _ => fetchFailed s0 c st t)
  | .ok (s1, ws) =>
    match registerError s1 c (wordsOf (itemsOf ws)) with
    | some (k, s2) => .next (takeCause s2 k (registerStop s2))
    | none =>
      match dueDomainFault s c with
      | some k => .next (takeDomainFault s c k)
      | none => issueWords s s1 c ws

/-- The next bundle of bank `c`. -/
def issueBundle (s : State) (c : Ctx) : Host.Outcome State Fault Refusal :=
  let s0 := { s with iss := { s.iss with cause := none } }
  afterSteps s0 c (tryBundle s0 c)

/-! ### What holds back a fault that an event would take (R229, R231) -/

/-- An uncorrectable error on the fetch of the next bundle, or in a register that it reads: item 1. -/
def firstItem (s : State) (c : Ctx) : Bool :=
  let s0 := startBundle s c
  match fetchBundle s0 c s0.iss.pc 4 with
  | .error (st, _) => isStorageError st
  | .ok (s1, ws) => (registerError s1 c (wordsOf (itemsOf ws))).isSome

/-- A cause of items 1 to 6 at the boundary at which bank `c` stands. -/
def earlierItem (s : State) (c : Ctx) : Bool :=
  let b := s.bank c
  match issueBundle (s.setBank c { b with eng := { b.eng with faults := [] } }) c with
  | .next t => t.iss.cause.isSome
  | _ => false

/-! ### Whether a bank may issue -/

/-- What the passage of the wait in which a bank stands allows. -/
def settle (c : Ctx) (s : State) : State := settleTexit c (settleIdle c (settleDiscard c s))

/-- The bank may issue: it is the issuing bank of a core that neither switches nor is frozen, in a clocked cluster, no issued word of it
still waits, and no discard of its task-mode code is due (R35). -/
def canIssue (s : State) (c : Ctx) : Bool :=
  activeBank s c && !(s.core c.core).issued && !(s.cluster (clusterOf c.core)).clk.hop && atBoundary (s.bank c) &&
  !((s.bank c).discard && !(s.bank c).tr.mode)

/-! ### The first bundles of a gang (R21) -/

/-- The attempt of a member to issue its first bundle did not leave it where it stood: it issued, was taken by a fault, or stands in a
wait instruction. -/
def attempted (t : State) (c : Ctx) : Bool :=
  (t.core c.core).issued || (t.bank c).tr.mode || (t.bank c).phase != .ready || (t.bank c).pipe.wait != .none

/-- Every member issues its next bundle; none where the machine stops. -/
def issueMembers (s : State) : List Ctx → Host.Outcome State Fault Refusal
  | [] => .next s
  | c :: r =>
    match issueBundle s c with
    | .next t => issueMembers t r
    | o => o

/-- A gang whose members have not issued yet: all issue their first bundle in this move, or none does (R21, log 45). -/
def issueGang (s : State) (ms : List Ctx) : Host.Outcome State Fault Refusal :=
  if ms.all (canIssue s) then
    match issueMembers s ms with
    | .next t => .next (if ms.all (attempted t) then t else s)
    | o => o
  else .next s

/-- The members of a gang that waits for its common first cycle. -/
def gangStart (s : State) (c : Ctx) : Option (List Ctx) :=
  let n := s.node (s.bank c).th.node
  if n.st = .bound ∧ 1 < n.members.length ∧ (s.bank c).phase = .ready then some n.members else none

/-- The next bundle of bank `c`, which may issue. -/
def issueNext (s : State) (c : Ctx) : Host.Outcome State Fault Refusal :=
  match gangStart s c with
  | some ms => issueGang s ms
  | none => issueBundle s c

end Sys2Proof.Machine
end

