-- ==== Sys2Proof/Machine/Helper.lean ====
section
/-! DEFINITION. The helper context (R28 to R31): its fetch and loads, which fault nothing, its words, run over a bank that holds its
copies, and its loop closings. What the helper changes beside its copies is caches and TLBs. -/

namespace Sys2Proof.Machine

/-! ### Reaching memory without a fault -/

/-- `n` bytes at a virtual address, for the helper: the walk sets no A bit; an access that would fault, or that meets a compressed
frame or a managed region, is dropped (R29). -/
def helperRead (s : State) (c : Ctx) (va n : Nat) (acc : Acc) : Option (State × List Byte) :=
  let b := s.bank c
  if inWindow va then
    let o := va - windowBase
    if b.spTotal < o + n || (badPool s c o n).isSome then none else some (s, b.scrBytes o n)
  else
    match translate s c.core b.th.satp va acc false with
    | .error _ => none
    | .ok (s1, pa) =>
      if (checkPa s1 c false pa n acc).isSome || s1.famHas (frameOf pa) famCMP || (s1.region pa).any (fun r => r.cls == 2) ||
        s1.lineBad c.core (lineOf pa) then none
      else if acc == .ex then some (s1, sysBytes s1 pa n)
      else some (cacheRead s1 c.core pa n true)

/-- The words of the helper's bundle, at most four. -/
def helperFetch (s : State) (c : Ctx) (a : Addr) : Nat → Option (State × List DWord)
  | 0 => some (s, [])
  | k + 1 =>
    if !codeRange (s.bank c) a then none
    else match helperRead s c a.toNat 8 .ex with
      | none => none
      | some (s1, x) =>
        let w := wordOfBytes x
        if w.getLsbD 63 then some (s1, [w])
        else match helperFetch s1 c (a + 8) k with
          | none => none
          | some (s2, ws) => some (s2, w :: ws)

/-! ### Its words -/

/-- What the helper runs (R29). -/
def helperRuns (i : Instr) : Bool :=
  match i with
  | .nop .. | .br .. | .brc .. | .loopx .. | .pref .. => true
  | .ld .. => true
  | .loop _ o => !o.bf.getLsbD 0 && o.bf.extractLsb' 1 2 != 2
  | i =>
    match i.parts with
    | some x => decide (1 ≤ x.2.1.toNat) && decide (x.2.1.toNat ≤ 3)
    | none => false

/-- A bank that holds the helper's copies: names are not rotated, nothing is in flight, and a predicate has bit 0 alone. -/
def helperBank (b : Bank) (h : Helper) : Bank :=
  { b with
    regs := { b.regs with s := h.s, p := ((List.range 16).filter fun n => h.p.getLsbD n).map fun n => (n, (1 : PReg)) }
    loops := { h.loops with rot := 0, prot := 0 }
    tr := { b.tr with mode := false }
    pipe := { b.pipe with inflight := [], locks := [], cyc := 0, wait := .none } }

/-- The helper's copies as a bank leaves them. -/
def helperCopies (h : Helper) (b : Bank) : Helper :=
  { h with
    s := b.regs.s
    loops := { b.loops with rot := h.loops.rot, prot := h.loops.prot }
    p := (List.range 16).foldl (fun v n => if (b.preg n).getLsbD 0 then v ||| (1#16 <<< n) else v) 0 }

/-- A scalar LD: its value, or no value where it would fault. It is weak. -/
def helperLd (s : State) (c : Ctx) (b : Bank) (o : MOps) : State × List RegWrite :=
  let va := mVa b o
  let n := szBytes o.sz
  if va % n ≠ 0 then (s, [])
  else match helperRead s c va n .rd with
    | none => (s, [])
    | some (s1, x) => (s1, dataWrites b o.sz o.dr.toNat x)

/-- PREF: the L1 line is filled, or the access dropped. -/
def helperPref (s : State) (c : Ctx) (b : Bank) (o : MOps) : State :=
  match helperRead s c (mVa b o) 1 .rd with
  | some (s1, _) => if o.sc = 0 then s1 else s
  | none => s

/-- A bundle of the helper as it runs: the device, the copies as a bank, and a taken branch. -/
structure HelperRun where
  s      : State
  b      : Bank
  target : Option Addr
  set_   : Option (Fin 4 × Addr × Addr)

/-- One word over the copies `b0` as they stood before the bundle; `none` ends the helper. -/
def helperWord (c : Ctx) (pc fall : Addr) (b0 : Bank) (x : HelperRun) (i : Instr) : Option HelperRun :=
  if !helperRuns i || (precheck i b0).isSome then none
  else if !b0.enabled i.hdr then some x
  else match i with
    | .ld _ o =>
      let r := helperLd x.s c b0 o
      some { x with s := r.1, b := if r.2.isEmpty then x.b else x.b.lockWrites r.2 0 true }
    | .pref _ o => some { x with s := helperPref x.s c b0 o }
    | .br _ o => some { x with target := some (pc + (o.off.signExtend 48) * 8) }
    | .brc _ o =>
      some (if brcHolds o.bf.toNat (b0.sreg o.sa.toNat) then { x with target := some (pc + (o.off.signExtend 48) * 8) } else x)
    | .loopx _ o => some { x with b := { x.b with loops := loopExit x.b.loops o.li.toNat },
                                  target := some (pc + (o.off.signExtend 48) * 8) }
    | .loop _ o =>
      let t := pc + (o.off.signExtend 48) * 8
      let n := if o.bf.extractLsb' 1 2 = 0 then o.sa.toNat else (b0.sreg o.sa.toNat).toNat
      if n = 0 then
        match helperFetch x.s c t 4 with
        | none => none
        | some (s1, ws) => some { x with s := s1, target := some (t + BitVec.ofNat 48 (8 * ws.length)) }
      else
        let l : LoopReg := { ls := fall, le := t, lc := BitVec.ofNat 32 n, active := true }
        some { x with b := { x.b with loops := x.b.loops.set o.li.toNat l },
                      set_ := some (Fin.ofNat 4 o.li.toNat, fall, t) }
    | .nop .. => some x
    | i =>
      let s1 := { x.s.setBank c x.b with iss := { x.s.iss with ctx := c, pc := pc, fall := fall, fresh := some 0 } }
      match exec i s1 with
      | .next t => some { x with b := t.bank c }
      | _ => none

def helperWords (c : Ctx) (pc fall : Addr) (b0 : Bank) : List Instr → HelperRun → Option HelperRun
  | [], x => some x
  | i :: r, x =>
    match helperWord c pc fall b0 x i with
    | none => none
    | some y => helperWords c pc fall b0 r y

/-- A closing over the copies: names do not rotate; p8 is set as the rule sets it (R323, R28). -/
def helperClose (b : Bank) (i : Nat) : Bank × Option Addr :=
  let x := b.loops.get i
  let lc := x.lc - 1
  let b1 := { b with loops := b.loops.set i { x with lc := lc, active := lc != 0 } }
  let d := x.le.toNat % 8 + 1
  let b2 := if x.ls.getLsbD 0 && lc != 0 then landWrite b1 (.p 8 (if d ≤ lc.toNat then allOnesP else 0) allOnesP) else b1
  (b2, if lc != 0 then some (BitVec.ofNat 48 (8 * bundleNo x.ls)) else none)

/-- Loop `i` is the one that the helper's first LOOP set up: its register still holds that loop's LS and LE. -/
def countedLoop (k : Option (Fin 4 × Addr × Addr)) (b : Bank) (i : Nat) : Bool :=
  match k with
  | some (j, ls, le) => j.val == i && (b.loops.get i).ls == ls && (b.loops.get i).le == le
  | none => false

/-- The closings in order, until one repeats, and how many of them were of the counted loop `k`. -/
def helperCloses (k : Option (Fin 4 × Addr × Addr)) (b : Bank) : List Nat → Bank × Option Addr × Nat
  | [] => (b, none, 0)
  | i :: r =>
    let x := helperClose b i
    let n := if countedLoop k b i then 1 else 0
    match x.2 with
    | some a => (x.1, some a, n)
    | none =>
      let y := helperCloses k x.1 r
      (y.1, y.2.1, n + y.2.2)

/-! ### Its issue -/

/-- The innermost active loop: the largest LS, then the higher index (R323's order). -/
def innermost (l : Loops) : Option LoopReg :=
  (([0, 1, 2, 3].filter fun i => (l.get i).active).foldr (insertLoop l) []).head?.map l.get

/-- HELPD.DIST (R31). -/
def Bank.dist (b : Bank) : Nat := bits b.sys.helpd.toNat 0 8

/-- The helper stops while its closings exceed by HELPD.DIST or more those of its owner's innermost active loop since SLICE (R30).
DESIGN CHOICE (log 41): while the owner has no active loop, which R30 does not speak of, the count compared with is 0. -/
def helperAhead (b : Bank) (h : Helper) : Bool :=
  decide (((innermost b.loops).map (closingsOf b.pipe.closings)).getD 0 + b.dist ≤ h.closings)

def endRun (s : State) (c : Ctx) : State :=
  let k := s.core c.core
  s.setCore c.core { k with helper := { k.helper with on := false } }

/-- One bundle of the helper of bank `c`. -/
def helperBundle (s : State) (c : Ctx) : State :=
  let h := (s.core c.core).helper
  match helperFetch s c h.pc 4 with
  | none => endRun s c
  | some (s1, ws) =>
    let items := itemsOf ws
    let b0 := helperBank (s1.bank c) h
    let l := wordsOf items
    if (bundleError items).isSome || (wordError b0 items).isSome then endRun s c
    else
      let fall := h.pc + BitVec.ofNat 48 (8 * ws.length)
      match helperWords c h.pc fall b0 (l.map Word2.i) { s := s1, b := b0, target := none, set_ := none } with
      | none => endRun s c
      | some x =>
        let b1 := drain x.b
        let counted := if h.counted.isSome then h.counted else x.set_
        let (b2, t, n) := match x.target with
          | some t => (b1, some t, 0)
          | none => helperCloses counted b1 (closingLoops b1.loops h.pc)
        let h1 := helperCopies { h with pc := t.getD fall, counted := counted, closings := h.closings + n } b2
        let s2 := x.s
        s2.setCore c.core { s2.core c.core with helper := h1 }

/-- The helper's turn in a cycle in which its owner is the issuing bank and issues no bundle (R30). DIST = 0 ends a running helper
(R348). -/
def helperTurn (s : State) (c : Ctx) : State :=
  let k := s.core c.core
  let b := s.bank c
  if k.helper.on && k.helper.owner == c.bank && b.dist == 0 then endRun s c
  else if k.helper.on && k.helper.owner == c.bank && activeBank s c && !k.issued && !b.tr.mode && !b.discard &&
    !(s.cluster (clusterOf c.core)).clk.hop && !helperAhead b k.helper
  then helperBundle s c else s

end Sys2Proof.Machine
end

