-- ==== Sys2Proof/Machine/Clock.lean ====
section
/-! DEFINITION. The passage of time: reference periods, the clusters' cycles, and what counts in them (R240 to R243, R247, R248,
R403, R404). -/

namespace Sys2Proof.Machine

/-! ### A cluster cycle of a bank and of a core -/

/-- The clear engine and REGION's cycles go on by one. -/
def bankCycle (c : Ctx) (s : State) : State :=
  let b := s.bank c
  match b.phase, b.pipe.wait with
  | .clearing (n + 1), _ => s.setBank c { b with phase := .clearing n }
  | .ready, .hold n =>
    if n ≤ 1 then s.setBank c { b with pipe := { b.pipe with wait := .none } }
    else s.setBank c { b with pipe := { b.pipe with wait := .hold (n - 1) } }
  | _, _ => s

/-- A stall cycle: the bank is the issuing bank, is not frozen, and its next bundle does not issue, whatever the cause (R403). -/
def stallCycle (core : Fin 32) (s : State) : State :=
  let k := s.core core
  match k.issued, k.issuing with
  | true, _ => s.setCore core { k with issued := false }
  | false, some i =>
    let c : Ctx := { core := core, bank := i }
    let b := s.bank c
    if b.phase = .ready then s.setBank c { b with pipe := { b.pipe with stall := b.pipe.stall + 1 } } else s
  | false, none => s

/-- One cluster cycle of a core: a freeze stands still (R138); a switch counts down (R17). -/
def coreCycle (core : Fin 32) (s : State) : State :=
  let k := s.core core
  if 0 < k.freeze then s.setCore core { k with freeze := max 1 (k.freeze - 1) }
  else
    let s1 := bankCycle { core := core, bank := 1 } (bankCycle { core := core, bank := 0 } s)
    let k1 := s1.core core
    if 0 < k1.switch then s1.setCore core { k1 with switch := k1.switch - 1 } else stallCycle core s1

/-- Core `i` of a cluster. -/
def clusterCore (cl : Fin 8) (i : Nat) : Fin 32 := Fin.ofNat 32 (4 * cl.val + i)

/-! ### The clusters' clocks -/

/-- Reference periods of a cluster cycle: two at the reduced clock, twice as many while stretched (R247, R248). -/
def clusterClock (s : State) (cl : Fin 8) : Nat := (if (s.cluster cl.val).clk.curHalf then 2 else 1) * (if s.stretched cl then 2 else 1)

/-- The outcome's state, where it is a next state. -/
def nextOr (s : State) (o : Host.Outcome State Fault Refusal) : State :=
  match o with
  | .next t => t
  | _ => s

/-! ### Requests for charge (R241) -/

/-- The requests that an attempt `t` has filed from `s`, filed without the rest of it, but for requesters that have asked already. -/
def askedBy (cl : Nat) (s t : State) : State :=
  let b := (s.cluster cl).bucket
  let new := (t.cluster cl).bucket.reqs.filter fun r => !((b.reqs ++ b.granted).any fun x => x.who == r.who && x.bank == r.bank)
  if new.isEmpty then s else s.setBucket cl { b with reqs := b.reqs ++ new }

/-- The issuing bank's next bundle asks, unless its charge stands granted. -/
def askBundle (core : Fin 32) (s : State) : State :=
  match (s.core core).issuing with
  | none => s
  | some bank =>
    let c : Ctx := { core := core, bank := bank }
    let cl := clusterOf core
    let s1 := settle c s
    if canIssue s1 c && !((s.cluster cl).bucket.granted.any fun x => x.who == whoBank core && x.bank == ctxIx c) then
      askedBy cl s (nextOr s (issueBundle s1 c))
    else s

/-- The engines that serve a bank ask for their next micro-steps. -/
def askEngines (c : Ctx) (s : State) : State :=
  if (s.bank c).phase = .free then s
  else [execMatrixMicroStep c, execCopyMicroStep c, execDataMicroStep c].foldl
    (fun s f => askedBy (clusterOf c.core) s (nextOr s (f s))) s

/-- The memory-step requester asks for a bank's next step (R241). -/
def askStep (c : Ctx) (s : State) : State :=
  let cl := clusterOf c.core
  match (s.bank c).phase, (s.bank c).pipe.steps with
  | .free, _ => s
  | _, [] => s
  | _, m :: _ => askCharge s cl (chargeReq (whoMem c.core) c (s.clsWeight cl m.cls))

/-- Every requester of a core. -/
def askCore (core : Fin 32) (s : State) : State :=
  let a : Ctx := { core := core, bank := 0 }
  let b : Ctx := { core := core, bank := 1 }
  askEngines b (askEngines a (askStep b (askStep a (askBundle core s))))

/-- The requests of a cycle that stood before it, in their order, then those that are new. -/
def keepOrder (old new : List ChargeReq) : List ChargeReq := old.filter new.contains ++ new.filter fun r => !old.contains r

/-- Every requester of a cluster asks anew: of the requests that stood, those are left that are still made, and those of a frozen core,
which wait for the end of its freeze (R241). -/
def askCluster (cl : Fin 8) (s : State) : State :=
  let old := (s.cluster cl.val).bucket.reqs
  let bare := s.setBucket cl.val { (s.cluster cl.val).bucket with reqs := old.filter (frozenReq s cl.val) }
  let s1 := [0, 1, 2, 3].foldl (fun s i => askCore (clusterCore cl i) s) bare
  let s2 := askedBy cl.val s1 (nextOr s1 (execSteamerChunk s1))
  let b := (s2.cluster cl.val).bucket
  s2.setBucket cl.val { b with reqs := keepOrder old b.reqs }

/-- A cluster cycle: its cores, what they and the Steamer ask for, then its bucket (R241). -/
def clusterCycle (cl : Fin 8) (s : State) : State :=
  let s1 := askCluster cl ([0, 1, 2, 3].foldl (fun s i => coreCycle (clusterCore cl i) s) s)
  nextOr s1 (execBucketCycle cl s1)

/-- A reference period of a cluster: its clock stops during a hop, which begins at the end of a cycle (R247). -/
def clusterPeriod (cl : Fin 8) (s : State) : State :=
  let x := s.cluster cl.val
  let k := x.clk
  if k.hop then s
  else if k.phase + 1 < clusterClock s cl then s.setCluster cl.val { x with clk := { k with phase := k.phase + 1 } }
  else
    let s1 := clusterCycle cl (s.setCluster cl.val { x with clk := { k with phase := 0, cycles := k.cycles + 1 } })
    s1.setClk cl.val (beginHop s.time (s1.cluster cl.val).clk)

/-- Each millisecond the units granted move into the history that the sensors are held against (R249). -/
def unitsTick (cl : Fin 8) (s : State) : State :=
  let b := (s.cluster cl.val).bucket
  s.setBucket cl.val { b with units := 0, hist := (b.units :: b.hist).take 11 }

/-- Reference periods in a millisecond. -/
def perMilli : Nat := 1900000

/-- The eight clusters. -/
def allClusters : List (Fin 8) := [0, 1, 2, 3, 4, 5, 6, 7]

/-- Always-on nanoseconds that reference periods make: 1.9 GHz. -/
def nanos (periods : Nat) : Nat := periods * 10 / 19

/-- One reference period. Without power only the always-on time runs, and that not where its own domain has none (R404). -/
def tick (s : State) : State :=
  let t := s.time + 1
  let s1 := { s with time := t, aon := if s.plat.aonUp then s.aon + (nanos t - nanos s.time) else s.aon }
  if s.plat.power ≠ .on then s1
  else
    let s2 := allClusters.foldl (fun s cl => clusterPeriod cl s) s1
    let s3 := if t % perMicro = 0 then allClusters.foldl (fun s cl => nextOr s (execRefillTick cl s)) s2 else s2
    if t % perMilli = 0 then allClusters.foldl (fun s cl => unitsTick cl s) s3 else s3

/-- `n` reference periods. -/
def elapse : Nat → State → State
  | 0, s => s
  | n + 1, s => elapse n (tick s)

end Sys2Proof.Machine
end

