-- ==== Sys2Proof/Machine/Arbiter.lean ====
section
/-! DEFINITION. What one step does (log 1): the move at the head of the agenda, or, with the agenda empty, the listing of one round of
the moves that the device makes by itself. And a word put where a thread fetches its next bundle (log 2). -/

namespace Sys2Proof.Machine

/-! ### One move -/

/-- An issue attempt of a core: the waits of its issuing bank, its next bundle, else its helper. Nothing of a frozen core advances
(R138). -/
def issueCore (core : Fin 32) (s : State) : Host.Outcome State Fault Refusal :=
  if (s.core core).freeze ≠ 0 then .next s else
  let s0 := rouse core s
  match (s0.core core).issuing with
  | none => .next s0
  | some bank =>
    let c : Ctx := { core := core, bank := bank }
    let s1 := settle c s0
    if canIssue s1 c then
      match issueNext s1 c with
      | .next t => .next (helperTurn t c)
      | o => o
    else .next (helperTurn s1 c)

/-- The events that need no power in the NPU domain: the always-on side's and its registers', the links', and those that give or take
power. -/
def powerless (i : Instr) : Bool :=
  match i with
  | .registerWrite .. | .resync | .resyncDone | .linkChange .. | .wake .. | .wakeComplete |
    .mgmtStatus | .mgmtReadCrock .. | .mgmtResync | .mgmtWake | .boot .. | .powerLoss .. =>
    true
  | _ => false

/-- A pending fault is not taken at a boundary at which a cause of higher precedence is present (R229, R231): an engine fault waits for
every other item, a domain fault for item 1. An IDLE that waits ends first (R314), and a fault taken during TEXIT's wait meets no
boundary (R350). -/
def overtaken (i : Instr) (s : State) : Bool :=
  match i with
  | .engineFaultTaken c => let s1 := settleIdle c s; takesFault s1 c && atBoundary (s1.bank c) && earlierItem s1 c
  | .domainFaultTaken c => activeBank s c && atBoundary (s.bank c) && firstItem s c
  | _ => false

/-- A core is asked to issue, an event row happens, reference time passes, or what the event rows do not name happens. -/
def makeMove (m : Move) (s : State) : Host.Outcome State Fault Refusal :=
  match m with
  | .issue core => if s.plat.power = .on then issueCore core s else .fault .noPower
  | .event i => if i.isEvent && (s.plat.power == .on || powerless i) && !overtaken i s then exec i s else .next s
  | .elapse n => .next (elapse n s)
  | .sleepDone => .next (sleepDone s)
  | .hostNvme d n b x => .next (if s.plat.power = .on then hostNvme d n b x s else s)
  | .transit m => .next (if s.plat.power = .on then transit m s else s)
  | .crossingOpen a b => .next (if s.plat.power = .on then crossingOpen a b s else s)
  | .crossingDone a b => .next (crossingDone a b s)
  | .strike strc key => .next (if s.plat.power = .on then strike strc key s else s)
  | .loadEarly c va n strong skip => .next (if s.plat.power = .on then loadEarly c va n strong skip s else s)
  | .rowEarly c pa n strong skip => .next (if s.plat.power = .on then rowEarly c pa n strong skip s else s)
  | .routePair c => .next (if s.plat.power = .on ∧ (s.core c.core).freeze = 0 then nextRoute c s else s)

/-! ### A round of the device's own moves -/

/-- Of a bank that holds a thread. -/
def bankMoves (c : Ctx) : List Instr :=
  [.interlockedWriteLand c, .fixedLatencyVisible c, .matrixCommandStart c, .matrixMicroStep c, .copyCommandStart c,
   .copyMicroStep c, .dataCommandStart c, .dataMicroStep c, .engineFaultTaken c, .domainFaultTaken c, .idleTimeout c,
   .tkwTimeout c, .monitorLimitExpiry c, .clearEngineDone c]

def busyBanks (s : State) : List Ctx := (s.banks.filter fun e => e.2.phase != .free).map fun e => ctxOf e.1

/-- Of a core. -/
def coreMoves (k : Fin 32) : List Instr := [.quantumExpiry k, .stallLimitExpiry k, .freezeEnd k]

def busyCores (s : State) : List (Fin 32) :=
  (s.cores.filter fun e => e.2.issuing.isSome || e.2.freeze != 0).map fun e => Fin.ofNat 32 e.1

/-- Of a cluster. -/
def clusterMoves (cl : Fin 8) : List Instr :=
  [.leaseGrant cl, .leaseTimeout cl, .hopComplete cl, .hopRetry cl, .biasSettleDone cl, .droopRecover cl]

/-- Of the scheduler. -/
def schedMoves (s : State) : List Instr :=
  [.distributorSelection, .binding, .preemptTrigger .single, .preemptTrigger .gang, .recordConsumption, .tileNodeCreate] ++
  (s.sched.nodes.filter fun e => e.2.st == .ready).map fun e => .nodeAgeing (Fin.ofNat 65536 e.1)

/-- Of memory and the heap. -/
def heapMoves (s : State) : List Instr :=
  [.famcmdHeldApply, .expandDone, .swapDone, .compactionAutostart, .compactionCycleStart, .compactionObject, .relocationCommit,
   .compactionFlip, .coldEvictionDone] ++
  (s.heap.holds.map fun x => .holdExpiry x.rb) ++ (s.heap.recalls.map fun i => .recallComplete i) ++
  (match (s.heap.ot.map Prod.fst).find? (evictable s) with
    | some i => [.coldEvictionStart i]
    | none => [])

/-- Of the residency unit. -/
def residMoves (s : State) : List Instr :=
  [.steamerChunk, .frequencyDecay] ++
  ((s.res.slots.filter fun e => e.2.inst).map fun e => .modelInstall (Fin.ofNat 8 e.1)) ++
  (s.res.finals.map fun x => .finalClose (Fin.ofNat 8 x.1) x.2)

/-- Of the platform. -/
def platMoves : List Instr := [.keyLoadDone, .attestationDone, .resyncDone, .watchdogExpiry]

/-- One round: in a reference period each core is asked to issue once, and every agent once makes the move that is due, if any. -/
def roundMoves (s : State) : List Move :=
  match s.plat.power with
  | .on =>
    (busyCores s).map Move.issue ++ ((busyBanks s).flatMap fun c => List.replicate (s.bank c).pipe.routes.length (Move.routePair c)) ++
    ((busyBanks s).flatMap bankMoves ++ (busyCores s).flatMap coreMoves ++ allClusters.flatMap clusterMoves ++ schedMoves s ++
      heapMoves s ++ residMoves s ++ platMoves).map Move.event ++ (if s.plat.slp.busy then [.sleepDone] else []) ++ [.elapse 1]
  | .waking => [.event .wakeComplete, .event .resyncDone, .elapse 1]
  | _ => (if s.plat.rs.busy then [.event .resyncDone] else []) ++ [.elapse 1]

/-- What a move leaves: registers that it has written are good again (R236). -/
def healed (s : State) (o : Host.Outcome State Fault Refusal) : Host.Outcome State Fault Refusal :=
  match o with
  | .next t => .next (healLanded s t)
  | o => o

/-- The whole of a step. -/
def nextMove (s : State) : Host.Outcome State Fault Refusal :=
  match s.agenda with
  | m :: r => healed s (makeMove m { s with agenda := r })
  | [] => .next { s with agenda := roundMoves s }

/-! ### A word in place of the next bundle -/

/-- Where the word is put, as a virtual and as a physical address. -/
def fetchAt : Nat := 0x10000

/-- A region of 2 MiB from address 0, ordinary (R121). -/
def fetchRegion : BitVec 128 := 1#128 <<< 127

/-- The page that holds the word, as the core's TLB has it (R130). -/
def fetchPage : TlbEntry :=
  { root := 0, vpn := fetchAt / 4096, pages := 1, ppn := fetchAt / 4096, r := true, w := true, x := true, u := true, d := true }

/-- Sv48 with its root at page 0. -/
def fetchSatp : DWord := 0x9000000000000000#64

/-- The word as a bundle of its own: E is 1 (R270). -/
def fetchWordOf (nbits w : Nat) : DWord := BitVec.ofNat 64 (w % 2 ^ nbits) ||| 0x8000000000000000#64

/-- The charge of that bundle, granted. -/
def fetchGrant (s : State) (w : DWord) : ChargeReq :=
  { who := whoBank 0, bank := 0, weight := bundleWeight s 0 (wordsOf (itemsOf [w])) }

/-- Core 0, bank A, about to fetch at `fetchAt`: RF is 8 where the bank has no partition word. -/
def fetchBank (b : Bank) : Bank :=
  { b with
    phase := .ready
    th := { b.th with entry := BitVec.ofNat 48 fetchAt, pc := BitVec.ofNat 48 fetchAt, satp := fetchSatp }
    sys := { b.sys with partw := if b.rf = 0 then 8 else b.sys.partw }
    eng := { b.eng with faults := [] }
    pipe := { b.pipe with wait := .none, steps := [], early := [], routes := [] }
    dfault := none
    discard := false }

/-- Put a word where the next step fetches, and make that step the issue of core 0. -/
def placeWord (s : State) (nbits w : Nat) : State :=
  let v := fetchWordOf nbits w
  let c : Ctx := { core := 0, bank := 0 }
  let f := frameOf fetchAt
  let s1 := s.setBank c (fetchBank (s.bank c))
  let k := s1.core 0
  let s2 := s1.setCore 0 { k with issuing := some 0, switch := 0, issued := false, freeze := 0, tlb := fetchPage :: k.tlb }
  let x := s2.cluster 0
  let s3 := s2.setCluster 0 { x with clk := { x.clk with hop := false }, bucket := { x.bucket with granted := [fetchGrant s2 v] } }
  let s4 := { s3 with
    mem := { s3.mem with rmap := [(0, fetchRegion)], bad := s3.mem.bad.filter fun y => y != (4, f) }
    plat := { s3.plat with power := .on }
    agenda := .issue 0 :: s3.agenda }
  sysPut (s4.famSet f 0 (famPSN ||| famMIG)) fetchAt (natLe 8 v.toNat)

end Sys2Proof.Machine
end

