-- ==== Sys2Proof/Machine/Step.lean ====
section
/-! DEFINITION. The step of the machine, and a word put where it fetches next. Both only call what Machine/Arbiter.lean defines. -/

namespace Sys2Proof.Machine

/-- One step: one move of one agent (log 1). -/
def step (s : State) : Host.Outcome State Fault Refusal := nextMove s

/-- The device about to run one instruction word as a bundle of its own on core 0, bank A (log 2). -/
def State.withFetchWord (s : State) (nbits w : Nat) : State := placeWord s nbits w

end Sys2Proof.Machine
end

