-- ==== Sys2Proof/Safety.lean ====
section
/-! DEFINITION. The terms in which claims are stated: the next states of the common shapes of a word, what a result does to the
registers once it is visible, what stays the same, the canonical form of every memory, and the invariant of a device without power. -/

namespace Sys2Proof.Machine

/-! ### Next states of the common shapes -/

/-- The word has started one fixed-latency write (R84) and changed nothing else. -/
def State.started (s : State) (lat : Nat) (w : RegWrite) (af : BitVec 6) : State := (s.setCur (s.cur.later lat w af)).verdict .done

/-- The word has started one interlocked result (R85) and changed nothing else. -/
def State.locked (s : State) (ws : List RegWrite) (af : BitVec 6) : State := (s.setCur (s.cur.lockWrites ws af true)).verdict .done

/-- An interlocked scalar, and an interlocked 64-bit pair. -/
def oneS (n : Nat) (v : Word) : List RegWrite := [.s n v (BitVec.allOnes 32)]
def pairD (n : Nat) (v : DWord) : List RegWrite := oneS n (v.extractLsb' 0 32) ++ oneS (n + 1) (v.extractLsb' 32 32)

/-- Nothing outside the banks and the word being run differs. -/
def SameDevice (s t : State) : Prop :=
  t.cores = s.cores ∧ t.clusters = s.clusters ∧ t.sched = s.sched ∧ t.mem = s.mem ∧ t.heap = s.heap ∧ t.res = s.res ∧
  t.plat = s.plat ∧ t.pwr = s.pwr ∧ t.time = s.time ∧ t.aon = s.aon ∧ t.agenda = s.agenda ∧ t.freeCtr = s.freeCtr

/-- No bank but `c` differs. -/
def OnlyBank (c : Ctx) (s t : State) : Prop := ∀ d, d ≠ c → t.bank d = s.bank d

/-! ### Results as the registers show them -/

/-- What one visible scalar write does to a bank: sD takes `v`, s0 takes nothing, every other register and part stays. -/
def WritesScalar (b : Bank) (w : RegWrite) (d : Nat) (v : Word) : Prop :=
  (landWrite b w).sreg d = (if d = 0 then 0 else v) ∧ (∀ m, m ≠ d → (landWrite b w).sreg m = b.sreg m) ∧
  landWrite b w = { b with regs := { b.regs with s := (landWrite b w).regs.s } }

/-- The lanes of a packed scalar result (R66, R67): lane j of sD is `f` of the width, the lanes of a and b that it reads and its own
old value, where it is written; it keeps its value where it is not. -/
def WritesLanes (b : Bank) (w : RegWrite) (o : SrOps) (f : Nat → Nat → Nat → Nat → Nat) : Prop :=
  let n := lanesOfSize (modSize o.md)
  let k := 32 / n
  let d := o.sd.toNat
  (∀ j, j < n → d ≠ 0 →
    elemOf ((landWrite b w).sreg d).toNat k j =
      if laneWritten o.md n j then
        f k (elemOf (b.sreg o.sa.toNat).toNat k (srcLane o.ma n j)) (elemOf (b.sreg o.sb.toNat).toNat k (srcLane o.mb n j))
          (elemOf (b.sreg d).toNat k j)
      else elemOf (b.sreg d).toNat k j) ∧
  (d = 0 → landWrite b w = b) ∧ (∀ m, m ≠ d → (landWrite b w).sreg m = b.sreg m) ∧
  landWrite b w = { b with regs := { b.regs with s := (landWrite b w).regs.s } }

/-- A register-form scalar word of latency 1 (R84, R341). -/
def ScalarLaw (i : Hdr → SrOps → Instr) (f : Nat → Nat → Nat → Nat → Nat) : Prop :=
  ∀ h o s, Runs (i h o) s → ∃ w, exec (i h o) s = .next (s.started 1 w 0) ∧ WritesLanes s.cur w o f

/-- An immediate-form scalar word of latency 1: `f` of a, b = sext(IMM, 32) and the old sD (R341). -/
def ImmediateLaw (i : Hdr → SiOps → Instr) (f : Word → Word → Word → Word) : Prop :=
  ∀ h o s, Runs (i h o) s → ∃ w, exec (i h o) s = .next (s.started 1 w 0) ∧
    WritesScalar s.cur w o.sd.toNat (f (s.cur.sreg o.sa.toNat) (o.imm.signExtend 32) (s.cur.sreg o.sd.toNat))

/-- What one visible vector write does to a bank: element i of vD is `f i` where guard bit `g i` is 1 and keeps its value where it is
0 (R75, R272); every other register and part stays. -/
def WritesElems (b : Bank) (w : RegWrite) (vd k : Nat) (g : Nat → Bool) (f : Nat → Nat) : Prop :=
  (∀ i, i < elemCount k → vElem ((landWrite b w).vreg vd) k i = if g i then f i % 2 ^ k else vElem (b.vreg vd) k i) ∧
  (∀ p, p ≠ b.physV vd → (landWrite b w).vphys p = b.vphys p) ∧
  landWrite b w = { b with regs := { b.regs with v := (landWrite b w).regs.v } }

/-- A vector word that computes element by element with latency `lat`: in element i, `f b i`, with the flags of the enabled elements. -/
def VectorLaw {α : Type} (i : Hdr → α → Instr) (lat : Nat) (vd : α → Nat) (width : α → Nat) (f : α → Bank → Nat → Flagged) : Prop :=
  ∀ h o s, Runs (i h o) s → ∃ w af, exec (i h o) s = .next (s.started lat w af) ∧
    WritesElems s.cur w (vd o) (width o) (fun j => (s.cur.guard h).getLsbD j) (fun j => (f o s.cur j).val) ∧
    (∀ k : Fin 6, af.getLsbD k.val = true ↔
      ∃ j, j < elemCount (width o) ∧ (s.cur.guard h).getLsbD j = true ∧ (f o s.cur j).af.getLsbD k.val = true)

/-- Element i of a source register of a VR word, and of the broadcast operand of a VS word (R283). -/
def vrElem (o : VrOps) (b : Bank) (n i : Nat) : Nat := vElem (b.vreg n) (etyOf o.ty).width i
def vsSrcElem (o : VsOps) (b : Bank) (i : Nat) : Nat := vElem (b.vreg o.va.toNat) (etyOf o.ty).width i

/-! ### Memory -/

/-- Every byte memory of the storage levels is in its canonical form. -/
def State.memWf (s : State) : Bool := Memory.wf s.mem.main && Memory.wf s.mem.near && s.mem.far.all fun x => Memory.wf x.2

/-- A byte of main memory, as stored. -/
def State.mainByte (s : State) (a : Nat) : Byte := memByte s.mem.main a

/-- The registers that a scalar load of the value `x` writes: zero-extended or sign-extended by its size code, or a pair (R279). -/
def loadedWrites (o : MOps) (x : Nat) : List RegWrite :=
  match o.sz.toNat with
  | 3 => pairD o.dr.toNat (BitVec.ofNat 64 x)
  | 4 => oneS o.dr.toNat (BitVec.ofInt 32 (signed 8 x))
  | 5 => oneS o.dr.toNat (BitVec.ofInt 32 (signed 16 x))
  | _ => oneS o.dr.toNat (BitVec.ofNat 32 x)

/-! ### The heap -/

/-- A reference names object `i`, which is live, has not moved and lies at the reference's own address (R168, R172). -/
def PlainObject (s : State) (r : DWord) (i : Nat) : Prop :=
  s.heap.en = true ∧ refNull r = false ∧ refCol r ≠ 0 ∧ refCol r = s.heap.goodc ∧ refAddr r % 32 = 0 ∧ refAddr r < s.heapBytes ∧
  s.heap.from_.contains (refAddr r / 2 ^ 21) = false ∧ s.famHas (frameOf (s.heapPa (refAddr r))) famPSN = false ∧
  s.mainUe (frameOf (s.heapPa (refAddr r))) = none ∧
  s.headerOti (refAddr r) = i ∧ (s.obj i).st = .live ∧ (s.obj i).gen = refGen r ∧ (s.obj i).addr = refAddr r

/-! ### Safe steps -/

/-- A step that neither faults nor refuses. -/
def SafeStep (s : State) : Prop := ∃ t, step s = .next t

/-- A move that can give the NPU domain its power, or take away what it has: a boot, and loss of supply (R262, R267). -/
def Move.revives (m : Move) : Bool :=
  match m with
  | .event (.boot _) => true
  | .event (.powerLoss _) => true
  | _ => false

/-- An NPU domain without power that nothing is about to give it: before its boot, off, or stopped by a fatal error (R264, R267). -/
def DarkInv (s : State) : Prop :=
  (s.plat.power = .booting ∨ s.plat.power = .off ∨ s.plat.power = .dead) ∧ s.agenda.all (fun m => !m.revives) = true

end Sys2Proof.Machine
end

