-- ==== Sys2Proof/Certificates/Slice0/Obligations.lean ====
section
/-! DEFINITION. The statements for the provers, in the order of OBLIGATIONS.json. -/

open Sys2Proof Sys2Proof.Machine

/-! ### Encoding -/

/-- Tier 3. The bytes of a well-formed instruction word decode to it, and to nothing more than it (R270, R273 to R278). -/
def Obligations.DecodeEncode : Prop :=
  ∀ (i : Instr) (w : DWord) (rest : List Byte), i.wf = true → encode i = some w →
    decodeBytes (natLe 8 w.toNat ++ rest) = .ok (i, rest)

/-- Tier 2. What decodes encodes back to the same word, bit for bit, and is no event row (R273 to R282). -/
def Obligations.EncodeDecode : Prop :=
  ∀ (w : DWord) (i : Instr), decodeWord w = .ok i → encode i = some w ∧ i.isEvent = false

/-- Tier 1. Words that the manual writes out decode to the instructions it gives them. -/
def Obligations.WordsOfTheManual : Prop :=
  decodeWord 0x810021228CC30C00#64 = .ok (.sdiv { last := true, pg := 0, pn := false }
    { sd := 9, sa := 5, sb := 6, ma := 0x18, mb := 0x18, md := 0x18, rz := 0 }) ∧
  decodeWord 0x8C00018060C00000#64 = .ok (.kld { last := true, pg := 0, pn := false }
    { kh := 3, kb := 0, dr := 12, ord := 0, sz := 3, off := 0 }) ∧
  decodeWord 0x8400_2C40_0000_0005#64 = .ok (.loop { last := true, pg := 0, pn := false } { bf := 4, li := 1, sa := 0, off := 5 })

/-- Tier 2. A word whose major belongs to no slot names no instruction, and so does any function code of major 0x1B (R282). -/
def Obligations.ReservedMajors : Prop :=
  ∀ w : DWord, (slotOf w = none → decodeWord w = .error (.noSlot (w.extractLsb' 56 7).toNat)) ∧
    (w.extractLsb' 56 7 = 0x1B#7 → decodeWord w = .error (.noFunction 0x1B (w.extractLsb' 43 8).toNat))

/-! ### What holds of every instruction word -/

/-- Tier 2. The checks of a word's fields, registers and privilege hold whatever its guard is: the trap is taken (R272). -/
def Obligations.ChecksPrecedeTheGuard : Prop :=
  ∀ (i : Instr) (s : State) (st : Stop), i.isEvent = false → precheck i s.cur = some st → exec i s = .next (takeStop st s)

/-- Tier 2. A word that is not governed element by element changes nothing under a false guard, and its bundle goes on (R272). VCHAIN stands
among these words: that bit 0 of its predicate governs its push is the model's reading (log 20). -/
def Obligations.FalseGuardDoesNothing : Prop :=
  ∀ (i : Instr) (s : State), i.isEvent = false → isVector i = false → precheck i s.cur = none →
    interlocked i s.cur s.iss.fresh = false → s.cur.enabled i.hdr = false → exec i s = .next (s.verdict .done)

/-- Tier 2. A word that reads or writes a register with an outstanding interlocked write waits, and changes nothing (R85). That the check
precedes the guard is the model's reading (log 39). -/
def Obligations.InterlockHoldsUp : Prop :=
  ∀ (i : Instr) (s : State), i.isEvent = false → precheck i s.cur = none → interlocked i s.cur s.iss.fresh = true →
    exec i s = .next (s.verdict .stalled)

/-- Tier 2. An ill-formed word in task mode raises illegal instruction: the trap saves the bundle's address, the cause 0x01 and, in EVAL,
the word's low half, or the number of a bank whose reserved format the word's push meets before the field that is wrong (R325); it goes on
in monitor mode from TVEC with every loop inactive; memory, heap and scheduler stay (R230, R232). -/
def Obligations.IllegalInstructionTraps : Prop :=
  ∀ (i : Instr) (s : State), i.isEvent = false → i.wf = false → s.cur.tr.mode = false →
    ∃ t, exec i s = .next t ∧ t.cur.tr.mode = true ∧ t.cur.tr.epc = s.iss.pc.extractLsb' 3 32 ∧
      t.cur.tr.ecause.extractLsb' 0 8 = 0x01#8 ∧
      (lateChecked i = none → t.cur.tr.eval = (wordOf i).extractLsb' 0 32) ∧
      (t.cur.tr.eval = (wordOf i).extractLsb' 0 32 ∨
        ∃ k, (bfOf (s.cur.bfmt k)).reserved = true ∧ t.cur.tr.eval = BitVec.ofNat 32 k) ∧
      t.cur.th.pc = (drain s.cur).tr.tvec.setWidth 48 ∧ t.cur.saved = (drain s.cur).loops ∧
      (∀ k, k < 4 → (t.cur.loops.get k).active = false) ∧ t.cur.loops.rot = 0 ∧ t.cur.loops.prot = 0 ∧
      t.mem = s.mem ∧ t.heap = s.heap ∧ t.sched = s.sched ∧ t.res = s.res ∧ t.plat = s.plat ∧ OnlyBank s.iss.ctx s t

/-- Tier 1. RTE and HALT in task mode, and the words that only task mode may run in monitor mode, the ten expert words among them, fail the
privilege check with 0x03 and their own low half; so do, in task mode, a SYSR or SYSW of a register that the table marks `none` and a SYSW
of one that is read-only there, with the register's number; no other access to a system register does (R340, R310, R336, R345, R356, R298,
R299, R304, R378, R80, R81). -/
def Obligations.PrivilegeChecks : Prop :=
  ∀ (i : Instr) (b : Bank), i.wf = true → regsExist i b = true →
    ((∃ h o, i = .rte h o) ∨ (∃ h o, i = .halt h o) → b.tr.mode = false →
      precheck i b = some (stopTrap 0x03 ((wordOf i).extractLsb' 0 32))) ∧
    ((∃ h o, i = .bara h o) ∨ (∃ h o, i = .barw h o) ∨ (∃ h o, i = .dsync h o) ∨ (∃ h o, i = .region h o) ∨
      (∃ h o, i = .slice h o) ∨ (∃ h o, i = .tyield h o) ∨ (∃ h o, i = .xroute h o) ∨ (∃ h o, i = .xclose h o) ∨
      (∃ h o, i = .xcloseFinal h o) ∨ (∃ h o, i = .xfetch h o) ∨ (∃ h o, i = .xpin h o) ∨ (∃ h o, i = .xunpin h o) ∨
      (∃ h o, i = .xpred h o) ∨ (∃ h o, i = .xqry h o) ∨ (∃ h o, i = .xsnap h o) ∨ (∃ h o, i = .xrepl h o) → b.tr.mode = true →
      precheck i b = some (stopTrap 0x03 ((wordOf i).extractLsb' 0 32))) ∧
    (∀ h o, i = .sysr h o →
      (b.tr.mode = false → 1 ≤ o.srn.toNat → o.srn.toNat ≤ 4 → precheck i b = some (stopTrap 0x03 (o.srn.setWidth 32))) ∧
      (b.tr.mode = true ∨ o.srn = 0 ∨ 4 < o.srn.toNat → precheck i b = none)) ∧
    (∀ h o, i = .sysw h o →
      let n := o.srn.toNat
      let ro : Prop := n ≤ 4 ∨ (0x010 ≤ n ∧ n ≤ 0x015) ∨ n = 0x01B ∨ n = 0x01C ∨ (0x020 ≤ n ∧ n ≤ 0x022) ∨ (0x024 ≤ n ∧ n ≤ 0x026)
      (b.tr.mode = false → ro → precheck i b = some (stopTrap 0x03 (o.srn.setWidth 32))) ∧
      (b.tr.mode = true ∨ ¬ro → precheck i b = none))

/-- Tier 2. A double fault: a synchronous cause in monitor mode saves nothing over the first; a record of kind 2 is written, with the second
cause, the first one's low byte, the thread's EPC, node, core and bank and the always-on time; event 7 is raised, and the thread goes on to
its end. So it is of an ill-formed word and of TRAP (R234, R237, R238, R355). -/
def Obligations.DoubleFault : Prop :=
  (∀ (st : Stop) (s : State), st ≠ .stall → (∀ q n, st ≠ .starved q n) → s.cur.tr.mode = true →
    let t := takeStop st s
    t.iss.verdict = .diverted ∧ t.cur.tr.epc = (drain s.cur).tr.epc ∧ t.cur.tr.ecause = (drain s.cur).tr.ecause ∧
    t.cur.tr.eval = (drain s.cur).tr.eval ∧ t.cur.tr.mode = true ∧ t.cur.pipe.wait = .texit ∧ t.cur.eng.faults = [] ∧
    (∃ x : BitVec 256, t.plat.crock = tabSet s.plat.crock s.plat.crkHead.toNat x ∧ x.extractLsb' 56 8 = 2 ∧
      x.extractLsb' 48 8 = (match st with
        | .trap code _ _ _ _ => code
        | .page cause _ _ _ => cause
        | .cold _ => 0x0C#8
        | _ => 0) ∧
      x.extractLsb' 96 32 = s.cur.tr.ecause &&& 0xFF#32 ∧ x.extractLsb' 64 32 = s.cur.tr.epc ∧
      x.extractLsb' 16 16 = BitVec.ofNat 16 s.cur.th.node ∧ x.extractLsb' 9 5 = BitVec.ofNat 5 s.iss.ctx.core.val ∧
      x.extractLsb' 8 1 = BitVec.ofNat 1 s.iss.ctx.bank.val ∧ x.extractLsb' 192 64 = BitVec.ofNat 64 s.aon) ∧
    t.plat.crkHead = s.plat.crkHead + 1 ∧ t.plat.crkN = s.plat.crkN + 1 ∧ t.plat.evtst.getLsbD 7 = true ∧ t.mem = s.mem ∧
    t.heap = s.heap ∧ t.sched = s.sched) ∧
  (∀ (i : Instr) (s : State), i.isEvent = false → i.wf = false → exec i s = .next (takeStop (formStop i s.cur) s)) ∧
  (∀ h o s, Runs (.trap h o) s → exec (.trap h o) s = .next (takeStop (.trap 0x10 (o.imm.setWidth 32) 0 false true) s))

/-! ### Scalar words -/

/-- Tier 2. The register-form scalar words: each lane of sD takes the lane result of R342, and nothing else changes. -/
def Obligations.ScalarRegisterForms : Prop :=
  ScalarLaw .sadd (fun w a b _ => (a + b) % 2 ^ w) ∧
  ScalarLaw .ssub (fun w a b _ => (a + (2 ^ w - b)) % 2 ^ w) ∧
  ScalarLaw .smul (fun w a b _ => a * b % 2 ^ w) ∧
  ScalarLaw .smulh (fun w a b _ => bits (wrapInt (2 * w) (signed w a * signed w b)) w w) ∧
  ScalarLaw .sand (fun _ a b _ => a &&& b) ∧
  ScalarLaw .sor (fun _ a b _ => a ||| b) ∧
  ScalarLaw .sxor (fun _ a b _ => a ^^^ b) ∧
  ScalarLaw .sshl (fun w a b _ => a <<< (b % w) % 2 ^ w) ∧
  ScalarLaw .sshr (fun w a b _ => a >>> (b % w)) ∧
  ScalarLaw .ssra (fun w a b _ => wrapInt w (signed w a / (2 ^ (b % w) : Nat))) ∧
  ScalarLaw .smin (fun w a b _ => if signed w a ≤ signed w b then a else b) ∧
  ScalarLaw .smax (fun w a b _ => if signed w b ≤ signed w a then a else b) ∧
  ScalarLaw .ssel (fun _ a b d => if a ≠ 0 then b else d) ∧
  ScalarLaw .smov (fun _ a _ _ => a)

/-- Tier 2. The register-form words that count or move fields: SCLZ, SPOP, SEXT, SINS, SLEA (R342, R343). -/
def Obligations.ScalarFieldForms : Prop :=
  ScalarLaw .sclz (fun w a _ _ => if a = 0 then w else w - 1 - Nat.log2 a) ∧
  ScalarLaw .spop (fun w a _ _ => ((List.range w).filter fun k => a.testBit k).length) ∧
  ScalarLaw .slea (fun _ a b _ => 0xFFE00000 + (a + b) % 2 ^ 21) ∧
  ScalarLaw .sext (fun _ a b _ =>
    let p := b % 32
    let l := min (b / 32 % 32 + 1) (32 - p)
    let f := a / 2 ^ p % 2 ^ l
    if b.testBit 10 && f.testBit (l - 1) then f + (2 ^ 32 - 2 ^ l) else f) ∧
  ScalarLaw .sins (fun _ a b d =>
    let p := b % 32
    let l := min (b / 32 % 32 + 1) (32 - p)
    d % 2 ^ p + a % 2 ^ l * 2 ^ p + d / 2 ^ (p + l) * 2 ^ (p + l))

/-- Tier 2. The immediate-form scalar words: sD takes the 32-bit result of R342 with b = sext(IMM, 32), and nothing else changes. -/
def Obligations.ScalarImmediateForms : Prop :=
  ImmediateLaw .saddSi (fun a b _ => a + b) ∧
  ImmediateLaw .ssubSi (fun a b _ => a - b) ∧
  ImmediateLaw .smulSi (fun a b _ => a * b) ∧
  ImmediateLaw .smulhSi (fun a b _ => (a.signExtend 64 * b.signExtend 64).extractLsb' 32 32) ∧
  ImmediateLaw .sandSi (fun a b _ => a &&& b) ∧
  ImmediateLaw .sorSi (fun a b _ => a ||| b) ∧
  ImmediateLaw .sxorSi (fun a b _ => a ^^^ b) ∧
  ImmediateLaw .sshlSi (fun a b _ => a <<< (b.toNat % 32)) ∧
  ImmediateLaw .sshrSi (fun a b _ => a >>> (b.toNat % 32)) ∧
  ImmediateLaw .ssraSi (fun a b _ => a.sshiftRight (b.toNat % 32)) ∧
  ImmediateLaw .sminSi (fun a b _ => if a.sle b then a else b) ∧
  ImmediateLaw .smaxSi (fun a b _ => if b.sle a then a else b) ∧
  ImmediateLaw .sselSi (fun a b d => if a ≠ 0 then b else d) ∧
  ImmediateLaw .smovSi (fun _ b _ => b) ∧
  ImmediateLaw .slui (fun a b _ => b <<< 16 ||| (a &&& 0xFFFF#32)) ∧
  ImmediateLaw .sleaSi (fun a b _ => 0xFFE00000#32 + BitVec.ofNat 32 ((a.toNat + b.toNat) % 2 ^ 21)) ∧
  ImmediateLaw .sextSi (fun a b _ =>
    let p := b.toNat % 32
    let l := min (b.toNat / 32 % 32 + 1) (32 - p)
    let f := a.toNat / 2 ^ p % 2 ^ l
    BitVec.ofNat 32 (if b.getLsbD 10 && f.testBit (l - 1) then f + (2 ^ 32 - 2 ^ l) else f)) ∧
  ImmediateLaw .sinsSi (fun a b d =>
    let p := b.toNat % 32
    let l := min (b.toNat / 32 % 32 + 1) (32 - p)
    BitVec.ofNat 32 (d.toNat % 2 ^ p + a.toNat % 2 ^ l * 2 ^ p + d.toNat / 2 ^ (p + l) * 2 ^ (p + l)))

/-- Tier 2. SDIV and SREM: the quotient is truncated toward zero and the remainder has the dividend's sign; a division by zero gives the
largest magnitude of the dividend's sign, or the dividend, and sets DZ alone; the result is interlocked (R93, R342, R85). That a lane which
is not written sets no DZ is the model's reading (log 39). -/
def Obligations.ScalarDivision : Prop :=
  let quo (w a b : Nat) : Nat :=
    if signed w b = 0 then (if signed w a < 0 then 2 ^ (w - 1) else 2 ^ (w - 1) - 1) else wrapInt w ((signed w a).tdiv (signed w b))
  let rem (w a b : Nat) : Nat := if signed w b = 0 then a else wrapInt w ((signed w a).tmod (signed w b))
  let law (i : Hdr → SrOps → Instr) (f : Nat → Nat → Nat → Nat) : Prop := ∀ h o s, Runs (i h o) s → ∃ w af,
    exec (i h o) s = .next (s.locked [w] af) ∧ WritesLanes s.cur w o (fun k a b _ => f k a b) ∧
    (let n := lanesOfSize (modSize o.md)
     af = if (List.range n).any (fun j => laneWritten o.md n j &&
       elemOf (s.cur.sreg o.sb.toNat).toNat (32 / n) (srcLane o.mb n j) == 0) then afDZ else 0)
  let lawSi (i : Hdr → SiOps → Instr) (f : Nat → Nat → Nat → Nat) : Prop := ∀ h o s, Runs (i h o) s → ∃ w,
    exec (i h o) s = .next (s.locked [w] (if o.imm = 0 then afDZ else 0)) ∧
    WritesScalar s.cur w o.sd.toNat (BitVec.ofNat 32 (f 32 (s.cur.sreg o.sa.toNat).toNat (o.imm.signExtend 32).toNat))
  law .sdiv quo ∧ law .srem rem ∧ lawSi .sdivSi quo ∧ lawSi .sremSi rem

/-- Tier 2. SCMP sets bit e of pD for each lane e that compares true and clears every other bit; PLOG combines two predicates bit by bit
under its truth table; both have latency 1, do nothing under a false guard, discard a write to p0, and raise illegal instruction where a
field that must be zero is not, or where a packed SCMP's MD is not the plain one; SCMP runs in the helper (R344, R330). -/
def Obligations.PredicateWords : Prop :=
  (∀ h o s, Runs (.scmp h o) s → ∃ v : PReg,
    exec (.scmp h o) s = .next (s.started 1 (.p (s.cur.physP (o.sd.extractLsb' 0 4).toNat) v allOnesP) 0) ∧
    (let n := lanesOfSize (modSize o.md)
     let w := 32 / n
     ∀ e, e < 1024 → v.getLsbD e = (decide (e < n) &&
      (let a := elemOf (s.cur.sreg o.sa.toNat).toNat w (srcLane o.ma n e)
       let b := elemOf (s.cur.sreg o.sb.toNat).toNat w (srcLane o.mb n e)
       match (o.sd.extractLsb' 4 2).toNat with
       | 0 => a == b
       | 1 => a != b
       | 2 => decide (signed w a < signed w b)
       | _ => decide (a < b))))) ∧
  (∀ h o s, Runs (.plog h o) s → ∃ v : PReg,
    exec (.plog h o) s = .next (s.started 1 (.p (s.cur.physP (o.sd.extractLsb' 0 4).toNat) v allOnesP) 0) ∧
    (∀ i, i < 1024 → v.getLsbD i = (o.sd.extractLsb' 4 2 ++ o.sa.extractLsb' 4 2).getLsbD
      (2 * b2n ((s.cur.preg (o.sa.extractLsb' 0 4).toNat).getLsbD i) + b2n ((s.cur.preg (o.sb.extractLsb' 0 4).toNat).getLsbD i)))) ∧
  (∀ h o s, lanesOfSize (modSize o.md) ≠ 1 → modSw o.md = false ∨ modIx o.md ≠ 0 →
    exec (.scmp h o) s = .next (takeStop (illegalStop (.scmp h o)) s)) ∧
  (∀ h o s, o.ma ≠ 0 ∨ o.mb ≠ 0 ∨ o.md ≠ 0 ∨ o.sb.extractLsb' 4 2 ≠ 0 →
    exec (.plog h o) s = .next (takeStop (illegalStop (.plog h o)) s)) ∧
  (∀ h o s, ∀ i ∈ [Instr.scmp h o, .plog h o], precheck i s.cur = none → interlocked i s.cur s.iss.fresh = false →
    s.cur.enabled h = false → exec i s = .next (s.verdict .done)) ∧
  (∀ (b : Bank) (v : PReg), landWrite b (.p (b.physP 0) v allOnesP) = b ∧
    ∀ n, n ≠ 0 → n < 16 → (landWrite b (.p (b.physP n) v allOnesP)).preg n = v) ∧
  (∀ h o, helperRuns (.scmp h o) = true)

/-! ### Vector words -/

/-- Tier 2. The element-wise vector words of two and three register operands: each enabled element takes the element result, in the latency
of R84, with the flags of the enabled elements; the other elements keep their values (R360, R75, R84, R364). -/
def Obligations.VectorRegisterForms : Prop :=
  let two (f : ETy → Rm → Bool → Nat → Nat → Flagged) (o : VrOps) (b : Bank) (j : Nat) : Flagged :=
    f (etyOf o.ty) (rmOf o.rm) o.sat (vrElem o b o.va.toNat j) (vrElem o b o.vb.toNat j)
  let law (i : Hdr → VrOps → Instr) (lat : Nat) (f : VrOps → Bank → Nat → Flagged) : Prop :=
    VectorLaw i lat (fun o => o.vd.toNat) (fun o => (etyOf o.ty).width) f
  law .vadd 4 (two elAdd) ∧ law .vsub 4 (two elSub) ∧ law .vmul 6 (two elMul) ∧ law .vmin 4 (two elMin) ∧
  law .vmax 4 (two elMax) ∧ law .vand 4 (two elAnd) ∧ law .vor 4 (two elOr) ∧ law .vxor 4 (two elXor) ∧
  law .vshl 4 (two elShl) ∧ law .vshr 4 (two elShr) ∧
  law .vfma 6 (fun o b j => elFma (etyOf o.ty) (rmOf o.rm) o.sat (vrElem o b o.va.toNat j) (vrElem o b o.vb.toNat j)
    (vrElem o b o.vc.toNat j)) ∧
  VectorLaw .vdot4 6 (fun o : VrOps => o.vd.toNat) (fun _ => 32) (fun o b j =>
    dotLane (o.ty == 2) o.sat (vElem (b.vreg o.vc.toNat) 32 j) (vElem (b.vreg o.va.toNat) 32 j) (vElem (b.vreg o.vb.toNat) 32 j))

/-- Tier 2. The same words with a broadcast scalar or immediate (R283). -/
def Obligations.VectorBroadcastForms : Prop :=
  let two (f : ETy → Rm → Bool → Nat → Nat → Flagged) (o : VsOps) (b : Bank) (j : Nat) : Flagged :=
    f (etyOf o.ty) (rmOf o.rm) o.sat (vsSrcElem o b j) (vsElem o b)
  let law (i : Hdr → VsOps → Instr) (lat : Nat) (f : VsOps → Bank → Nat → Flagged) : Prop :=
    VectorLaw i lat (fun o => o.vd.toNat) (fun o => (etyOf o.ty).width) f
  law .vaddVs 4 (two elAdd) ∧ law .vsubVs 4 (two elSub) ∧ law .vmulVs 6 (two elMul) ∧ law .vminVs 4 (two elMin) ∧
  law .vmaxVs 4 (two elMax) ∧ law .vandVs 4 (two elAnd) ∧ law .vorVs 4 (two elOr) ∧ law .vxorVs 4 (two elXor) ∧
  law .vshlVs 4 (two elShl) ∧ law .vshrVs 4 (two elShr) ∧
  law .vfmaVs 6 (fun o b j => elFma (etyOf o.ty) (rmOf o.rm) o.sat (vsSrcElem o b j) (vsElem o b)
    (vElem (b.vreg o.vd.toNat) (etyOf o.ty).width j)) ∧
  law .vmovVs 4 (fun o b _ => { val := vsElem o b, af := 0 }) ∧
  VectorLaw .vdot4Vs 6 (fun o : VsOps => o.vd.toNat) (fun _ => 32) (fun o b j =>
    dotLane (o.ty == 2) o.sat (vElem (b.vreg o.vd.toNat) 32 j) (vElem (b.vreg o.va.toNat) 32 j) (vElem (vsReg o b) 32 j))

/-- Tier 2. The element-wise words of one source, the special functions, VSEL, VPERM and VRNG, each in its latency (R360, R361, R365, R369,
R373, R84). How the special functions are computed is the model's (log 10). -/
def Obligations.VectorSingleForms : Prop :=
  let one (f : ETy → Nat → Flagged) (o : VrOps) (b : Bank) (j : Nat) : Flagged := f (etyOf o.ty) (vrElem o b o.va.toNat j)
  let law (i : Hdr → VrOps → Instr) (lat : Nat) (f : VrOps → Bank → Nat → Flagged) : Prop :=
    VectorLaw i lat (fun o => o.vd.toNat) (fun o => (etyOf o.ty).width) f
  law .vabs 4 (fun o b j => elAbs (etyOf o.ty) o.sat (vrElem o b o.va.toNat j)) ∧
  law .vmov 4 (one fun _ a => { val := a, af := 0 }) ∧
  law .vexp2 12 (one fun t a => fSpecial t .exp2 a) ∧ law .vlog2 12 (one fun t a => fSpecial t .log2 a) ∧
  law .vrcp 12 (one fun t a => fSpecial t .rcp a) ∧ law .vrsq 12 (one fun t a => fSpecial t .rsq a) ∧
  law .vtanh 12 (one fun t a => fSpecial t .tanh a) ∧
  law .vsel 4 (fun o b j =>
    { val := if (b.preg (o.vc.extractLsb' 0 4).toNat).getLsbD j then vrElem o b o.va.toNat j else vrElem o b o.vb.toNat j, af := 0 }) ∧
  law .vperm 3 (fun o b j =>
    let w := (etyOf o.ty).width
    let n := elemCount w
    let k := permIndex w (b.vreg o.vb.toNat) (b.vreg (o.vb.toNat + 1)) j
    { val := if k < n then vrElem o b o.va.toNat k else if k < 2 * n then vrElem o b o.vc.toNat (k - n) else 0, af := 0 }) ∧
  VectorLaw .vrng 4 (fun o : VrOps => o.vd.toNat) (fun _ => 32) (fun o b j =>
    { val := rngLane (vElem (b.vreg o.va.toNat) 32 j) (vElem (b.vreg o.vb.toNat) 32 j) j, af := 0 })

/-- Tier 2. Integer elements: VADD, VSUB and VMUL wrap modulo 2^W without SAT; with SAT they clamp to the type's range and set SA exactly
where they clamp (R92, R360). -/
def Obligations.IntegerElements : Prop :=
  ∀ (sg : Bool) (w a b : Nat) (rm : Rm), 0 < w →
    (let lo : Int := if sg then -(2 ^ (w - 1) : Nat) else 0
     let hi : Int := if sg then (2 ^ (w - 1) : Nat) - 1 else (2 ^ w : Nat) - 1
     let x := intOf sg w a
     let y := intOf sg w b
     let wraps (r : Flagged) (v : Int) : Prop := (r.val : Int) = v % (2 ^ w : Nat) ∧ r.af = 0
     let clamps (r : Flagged) (v : Int) : Prop :=
       intOf sg w r.val = max lo (min hi v) ∧ r.af = (if v < lo ∨ hi < v then afSA else 0)
     wraps (elAdd (.int sg w) rm false a b) (x + y) ∧ wraps (elSub (.int sg w) rm false a b) (x - y) ∧
     wraps (elMul (.int sg w) rm false a b) (x * y) ∧
     clamps (elAdd (.int sg w) rm true a b) (x + y) ∧ clamps (elSub (.int sg w) rm true a b) (x - y) ∧
     clamps (elMul (.int sg w) rm true a b) (x * y))

/-- Tier 2. VCMP writes the bits of pD below the element count under the guard, clears the bits above it and changes no other register; a
write to p0 is discarded; VSEL's broadcast form chooses by the guard in every element (R361). -/
def Obligations.VectorCompareAndSelect : Prop :=
  let cmp (b : Bank) (h : Hdr) (vd : BitVec 8) (w : Nat) (x : RegWrite) (f : Nat → Bool) : Prop :=
    let d := (vd.extractLsb' 0 4).toNat
    (d = 0 → landWrite b x = b) ∧
    (d ≠ 0 → ∀ i, i < 1024 → ((landWrite b x).preg d).getLsbD i =
      if i < elemCount w then (if (b.guard h).getLsbD i then f i else (b.preg d).getLsbD i) else false) ∧
    (∀ p, p ≠ b.physP d → (landWrite b x).pphys p = b.pphys p) ∧ landWrite b x = { b with regs := { b.regs with p := (landWrite b x).regs.p } }
  (∀ h o s, Runs (.vcmp h o) s → ∃ x, exec (.vcmp h o) s = .next (s.started 4 x 0) ∧
    cmp s.cur h o.vd (etyOf o.ty).width x (fun i => vcmpHolds (etyOf o.ty) (2 * o.rm.toNat + b2n o.sat)
      (vrElem o s.cur o.va.toNat i) (vrElem o s.cur o.vb.toNat i))) ∧
  (∀ h o s, Runs (.vcmpVs h o) s → ∃ x, exec (.vcmpVs h o) s = .next (s.started 4 x 0) ∧
    cmp s.cur h o.vd (etyOf o.ty).width x (fun i => vcmpHolds (etyOf o.ty) (2 * o.rm.toNat + b2n o.sat)
      (vsSrcElem o s.cur i) (vElem (vsReg o s.cur) (etyOf o.ty).width i))) ∧
  (∀ h o s, Runs (.vselVs h o) s → ∃ x, exec (.vselVs h o) s = .next (s.started 4 x 0) ∧
    WritesElems s.cur x o.vd.toNat (etyOf o.ty).width (fun _ => true)
      (fun i => if (s.cur.guard h).getLsbD i then vsSrcElem o s.cur i else vsElem o s.cur))

/-- Tier 2. The widening words: result i goes to element i / 2 of register vd + i mod 2, at twice the width, under guard bit i (R363, R74);
VCVT and VCOMP start their group of writes (R362, R370). -/
def Obligations.VectorGroupForms : Prop :=
  let pair (b : Bank) (h : Hdr) (vd w : Nat) (ws : List RegWrite) (f : Nat → Nat) : Prop :=
    ∀ i, i < elemCount w → vElem ((ws.foldl landWrite b).vreg (vd + i % 2)) (2 * w) (i / 2) =
      if (b.guard h).getLsbD i then f i % 2 ^ (2 * w) else vElem (b.vreg (vd + i % 2)) (2 * w) (i / 2)
  let vr (i : Hdr → VrOps → Instr) (lat : Nat) (f : ETy → Rm → Nat → Nat → Flagged) : Prop := ∀ h o s, Runs (i h o) s →
    ∃ ws af, exec (i h o) s = .next ((s.setCur (laterAll s.cur lat af ws)).verdict .done) ∧
      pair s.cur h o.vd.toNat (etyOf o.ty).width ws
        (fun j => (f (etyOf o.ty) (rmOf o.rm) (vrElem o s.cur o.va.toNat j) (vrElem o s.cur o.vb.toNat j)).val)
  let vs (i : Hdr → VsOps → Instr) (lat : Nat) (f : ETy → Rm → Nat → Nat → Flagged) : Prop := ∀ h o s, Runs (i h o) s →
    ∃ ws af, exec (i h o) s = .next ((s.setCur (laterAll s.cur lat af ws)).verdict .done) ∧
      pair s.cur h o.vd.toNat (etyOf o.ty).width ws
        (fun j => (f (etyOf o.ty) (rmOf o.rm) (vsSrcElem o s.cur j) (vElem (vsReg o s.cur) (etyOf o.ty).width j)).val)
  vr .vwmul 6 widenMul ∧ vr .vwadd 4 widenAdd ∧ vs .vwmulVs 6 widenMul ∧ vs .vwaddVs 4 widenAdd ∧
  (∀ h o s, Runs (.vcvt h o) s →
    let td := etyOf o.ty
    let ts := etyOf (o.vc.extractLsb' 0 4)
    let rs := vcvtResults o s.cur
    exec (.vcvt h o) s = .next ((s.setCur (laterAll s.cur 4 (enabledFlags (s.cur.guard h) rs)
      (groupWrites s.cur h o.vd.toNat (if ts.width < td.width then td.width / ts.width else 1) td.width rs))).verdict .done)) ∧
  (∀ h o s, Runs (.vcomp h o) s →
    let w := (etyOf o.ty).width
    let kept := ((List.range (elemCount w)).filter fun i => (s.cur.guard h).getLsbD i).map fun i => vrElem o s.cur o.va.toNat i
    exec (.vcomp h o) s = .next ((s.setCur (laterAll s.cur 3 0 [.v (s.cur.physV o.vd.toNat) (vPack w kept) allOnesV,
      .v (s.cur.physV (o.vd.toNat + 1)) (firstElem 32 kept.length) allOnesV])).verdict .done)) ∧
  (∀ h o s, o.vd.getLsbD 0 = true ∨ o.vb ≠ 0 ∨ o.vc ≠ 0 → exec (.vcomp h o) s = .next (takeStop (illegalStop (.vcomp h o)) s))

/-- Tier 2. The reductions, the scan, the indexed extremes and the histograms: an interlocked result of the whole register, element 0
holding the tree's value and every other element 0 for a reduction; a scan's result i + 1 combines result i with element i + 1, by addition,
maximum or minimum as its code 0, 1 or 2 says, and its reserved codes raise illegal instruction; VMAXI and VMINI give the enabled element
that no other beats in the order of R96, a NaN made canonical, and the lowest index that holds one, or the identity and 0xFFFFFFFF where none
is enabled; VHIST adds 1 in its lane's own slot and sets SA exactly where a lane clamps; VHMERGE's lane k holds the wrapped or clamped tree
sum of its bin; nothing else changes (R112, R366 to R368, R371, R372). That a scan passes its element 0 as it stands, a NaN's
payload with it, is the model's reading (log 54). -/
def Obligations.VectorReductions : Prop :=
  let red (i : Hdr → VrOps → Instr) (ident : VrOps → Nat) (f : VrOps → Nat → Nat → Flagged) : Prop := ∀ h o s, Runs (i h o) s →
    let r := treeReduce (node2 (f o)) 10 (guardedElems (etyOf o.ty) (s.cur.guard h) (s.cur.vreg o.va.toNat) (ident o))
    exec (i h o) s = .next (s.locked [.v (s.cur.physV o.vd.toNat) (firstElem (etyOf o.ty).width r.val) allOnesV] r.af)
  let ext (i : Hdr → VrOps → Instr) (mx : Bool) : Prop := ∀ h o s, Runs (i h o) s →
    (∀ k, k < elemCount (etyOf o.ty).width → (s.cur.guard h).getLsbD k = false) →
    ∃ v, exec (i h o) s = .next (s.locked [.v (s.cur.physV o.vd.toNat) (firstElem (etyOf o.ty).width v) allOnesV,
      .v (s.cur.physV (o.vd.toNat + 1)) (firstElem 32 0xFFFFFFFF) allOnesV] 0) ∧
      (∀ sg w, etyOf o.ty = .int sg w → v = if mx then idMax (.int sg w) else idMin (.int sg w)) ∧
      (etyOf o.ty = .bf16 → v = 0x7FC0) ∧ (etyOf o.ty = .f32 → v = 0x7FC00000)
  let extAny (i : Hdr → VrOps → Instr) (mx : Bool) : Prop := ∀ h o s, Runs (i h o) s →
    let t := etyOf o.ty
    let on (j : Nat) : Prop := j < elemCount t.width ∧ (s.cur.guard h).getLsbD j = true
    let x (j : Nat) : Nat := vrElem o s.cur o.va.toNat j
    let beats (a b : Nat) : Prop := match t with
      | .int sg w => if mx then intOf sg w b < intOf sg w a else intOf sg w a < intOf sg w b
      | t => (if mx then numBefore true (t.num b) (t.num a) else numBefore false (t.num a) (t.num b)) = true
    (∃ j, on j) → ∃ k, on k ∧ (∀ j, on j → ¬beats (x j) (x k)) ∧ (∀ j, on j → j < k → beats (x k) (x j)) ∧
      exec (i h o) s = .next (s.locked
        [.v (s.cur.physV o.vd.toNat) (firstElem t.width (if t.num (x k) = .nan then (if t = .bf16 then 0x7FC0 else 0x7FC00000) else x k)) allOnesV,
         .v (s.cur.physV (o.vd.toNat + 1)) (firstElem 32 k) allOnesV] 0)
  red .vrsum (fun o => idSum (etyOf o.ty)) (fun o => elAdd (etyOf o.ty) (rmOf o.rm) o.sat) ∧
  red .vrmax (fun o => idMax (etyOf o.ty)) (fun o => elMax (etyOf o.ty) .rne false) ∧
  red .vrmin (fun o => idMin (etyOf o.ty)) (fun o => elMin (etyOf o.ty) .rne false) ∧
  ext .vmaxi true ∧ ext .vmini false ∧ extAny .vmaxi true ∧ extAny .vmini false ∧
  (∀ h o s, Runs (.vscan h o) s →
    let rs := scanAll (scanOp o (etyOf o.ty))
      (guardedElems (etyOf o.ty) (s.cur.guard h) (s.cur.vreg o.va.toNat) (scanIdent o (etyOf o.ty)))
    exec (.vscan h o) s = .next (s.locked [.v (s.cur.physV o.vd.toNat) (vPack (etyOf o.ty).width (rs.map Flagged.val)) allOnesV]
      (rs.foldl (fun a r => a ||| r.af) 0))) ∧
  (∀ (f : Nat → Nat → Flagged) (x : Flagged) (l : List Flagged), (scanAll f (x :: l)).length = l.length + 1 ∧
    ((scanAll f (x :: l))[0]?).map Flagged.val = some x.val ∧
    ∀ (i : Nat) (y z : Flagged), (scanAll f (x :: l))[i]? = some y → l[i]? = some z →
      ((scanAll f (x :: l))[i + 1]?).map Flagged.val = some (f y.val z.val).val) ∧
  (∀ (o : VrOps) (t : ETy),
    (o.vc = 0 → scanOp o t = elAdd t (rmOf o.rm) o.sat ∧ scanIdent o t = idSum t) ∧
    (o.vc = 1 → scanOp o t = elMax t .rne false ∧ scanIdent o t = idMax t) ∧
    (o.vc = 2 → scanOp o t = elMin t .rne false ∧ scanIdent o t = idMin t)) ∧
  (∀ h o s, 3 ≤ o.vc.toNat → exec (.vscan h o) s = .next (takeStop (illegalStop (.vscan h o)) s)) ∧
  (∀ h o s, Runs (.vhist h o) s → ∃ ws af, exec (.vhist h o) s = .next (s.locked ws af) ∧ ws.length = histBins o ∧
    ∀ k, k < histBins o → ∃ w, ws[k]? = some w ∧ WritesElems s.cur w (o.vd.toNat + k) 32
      (fun l => (s.cur.guard h).getLsbD l && vElem (s.cur.vreg o.va.toNat) 32 l == k)
      (fun l => (intResult false o.sat 32 ((vElem (s.cur.vreg (o.vd.toNat + k)) 32 l : Nat) + 1 : Int)).val) ∧
    let full : Prop := ∃ l, l < 128 ∧ (s.cur.guard h).getLsbD l = true ∧ vElem (s.cur.vreg o.va.toNat) 32 l < histBins o ∧
      vElem (s.cur.vreg (o.vd.toNat + vElem (s.cur.vreg o.va.toNat) 32 l)) 32 l = 0xFFFFFFFF
    (o.sat = true ∧ full → af = afSA) ∧ (¬(o.sat = true ∧ full) → af = 0)) ∧
  (∀ h o s, Runs (.vhmerge h o) s →
    let rs := (List.range (histBins o)).map fun k => treeReduce (node2 fun x y => intResult false o.sat 32 ((x : Int) + y)) 7
      (guardedElems (.int false 32) (s.cur.guard h) (s.cur.vreg (o.va.toNat + k)) 0)
    exec (.vhmerge h o) s = .next (s.locked [.v (s.cur.physV o.vd.toNat) (vPack 32 (rs.map Flagged.val)) allOnesV]
      (rs.foldl (fun f r => f ||| r.af) 0)))

/-! ### Control -/

/-- Tier 1. A taken branch makes its target the next bundle: PC-relative from the bundle's address, or the code address that a scalar holds;
CALL also starts the write of the return address to s63, which the bundle at the target sees; BRC branches exactly when its comparison
holds. Reserved forms raise illegal instruction; a fetch outside the code range raises 0x08, and in task mode the target that a scalar holds
is always inside it (R300, R301, R338). -/
def Obligations.BranchTargets : Prop :=
  (∀ h o s, Runs (.br h o) s → exec (.br h o) s = .next ((s.take (s.iss.pc + o.off.signExtend 48 * 8)).verdict .done)) ∧
  (∀ h o s, Runs (.brc h o) s →
    let v := (s.cur.sreg o.sa.toNat).toInt
    let holds : Prop := (o.bf = 0 ∧ v = 0) ∨ (o.bf = 1 ∧ v ≠ 0) ∨ (o.bf = 2 ∧ v < 0) ∨ (o.bf = 3 ∧ 0 ≤ v) ∨ (o.bf = 4 ∧ 0 < v) ∨
      (o.bf = 5 ∧ v ≤ 0)
    (holds → exec (.brc h o) s = .next ((s.take (s.iss.pc + o.off.signExtend 48 * 8)).verdict .done)) ∧
    (¬holds → exec (.brc h o) s = .next (s.verdict .done))) ∧
  (∀ h o s, Runs (.bri h o) s → exec (.bri h o) s = .next ((s.take (s.cur.epcAddr (s.cur.sreg o.sa.toNat))).verdict .done)) ∧
  (∀ h o s, Runs (.ret h o) s → exec (.ret h o) s = .next ((s.take (s.cur.epcAddr (s.cur.sreg o.sa.toNat))).verdict .done)) ∧
  (∀ h o s, Runs (.call h o) s → exec (.call h o) s =
    .next (((s.setCur (s.cur.later 1 (.s 63 (s.iss.fall.extractLsb' 3 32) (BitVec.allOnes 32)) 0)).take
      (s.iss.pc + o.off.signExtend 48 * 8)).verdict .done)) ∧
  (∀ h o s, Runs (.callIndirect h o) s → exec (.callIndirect h o) s =
    .next (((s.setCur (s.cur.later 1 (.s 63 (s.iss.fall.extractLsb' 3 32) (BitVec.allOnes 32)) 0)).take
      (s.cur.epcAddr (s.cur.sreg o.sa.toNat))).verdict .done)) ∧
  (∀ (b : Bank) (v : Word), (afterCycle (b.later 1 (.s 63 v (BitVec.allOnes 32)) 0)).sreg 63 = v ∧
    (b.tr.mode = false → codeRange b (b.epcAddr v) = true)) ∧
  (∀ (s : State) (c : Ctx) (a : Addr) (n : Nat), codeRange (s.bank c) a = false →
    fetchBundle s c a (n + 1) = .error (.trap 0x08 (a.extractLsb' 0 32) (a.extractLsb' 32 16) true false, s)) ∧
  (∀ h o s, (o.bf = 6 ∨ o.bf = 7 → exec (.brc h o) s = .next (takeStop (illegalStop (.brc h o)) s)) ∧
    (o.bf.extractLsb' 1 2 ≠ 0 → exec (.call h o) s = .next (takeStop (illegalStop (.call h o)) s) ∧
      exec (.callIndirect h o) s = .next (takeStop (illegalStop (.callIndirect h o)) s)) ∧
    (o.bf ≠ 0 ∨ o.li ≠ 0 ∨ o.off ≠ 0 → exec (.ret h o) s = .next (takeStop (illegalStop (.ret h o)) s)) ∧
    helperRuns (.ret h o) = false)

/-- Tier 2. LOOP takes its count from the immediate, from a scalar, from a scalar with a depth under .rot, or from two pops of a stream;
with a nonzero count it sets its loop register up from the bundle that follows, leaves the other loops, and under .rot sets p8 and clears p9
to p15; with a count of zero it branches past the body. LOOPX ends an active loop and the active loops nested in it, keeps every count, and
branches; its bundle closes no loop (R322, R324). -/
def Obligations.LoopSetup : Prop :=
  (∀ o s, (o.bf = 0 → loopCount o s = .ok (s, o.sa.toNat, 0)) ∧
    (o.bf = 2 → loopCount o s = .ok (s, (s.cur.sreg o.sa.toNat).toNat, 0)) ∧
    (o.bf = 3 → loopCount o s = .ok (s, (s.cur.sreg o.sa.toNat).toNat % 2 ^ 29, (s.cur.sreg o.sa.toNat).toNat / 2 ^ 29)) ∧
    (∀ x y g1 g2, o.bf = 4 → popNext s o.sa.toNat 1 (s.cur.stream o.sa.toNat) = .ok (.elem x, g1) →
      popNext s o.sa.toNat 2 g1 = .ok (.elem y, g2) → ∃ s1, loopCount o s =
        .ok (s1, if (y - x).toInt ≤ 0 then 0 else (y - x).toNat, 0) ∧ s1.cur = { s.cur with q := tabSet s.cur.q o.sa.toNat g2 } ∧
        s1.iss = s.iss ∧ s1.mem = s.mem ∧ OnlyBank s.iss.ctx s s1)) ∧
  (∀ h o s s1 c d, Runs (.loop h o) s → loopCount o s = .ok (s1, c, d) →
    let t := s.iss.pc + o.off.signExtend 48 * 8
    (c ≠ 0 → ∃ u, exec (.loop h o) s = .next u ∧ u.iss.verdict = .done ∧ u.iss.target = s.iss.target ∧
      u.cur.loops = s.cur.loops.set o.li.toNat { ls := s.iss.fall ||| (if o.bf = 3 then 1 else 0), le := t ||| BitVec.ofNat 48 d,
                                                 lc := BitVec.ofNat 32 (c + d), active := true } ∧
      (o.bf = 3 → (afterCycle u.cur).pphys (s.cur.physP 8) = allOnesP ∧
        ∀ k, 9 ≤ k → k < 16 → (afterCycle u.cur).pphys (s.cur.physP k) = 0) ∧
      u.cur.regs = s.cur.regs ∧ SameDevice s1 u ∧ OnlyBank s.iss.ctx s u) ∧
    (c = 0 → ∀ s2 ws, fetchBundle s1 s.iss.ctx t 4 = .ok (s2, ws) →
      exec (.loop h o) s = .next ((s2.take (t + BitVec.ofNat 48 (8 * ws.length))).verdict .done))) ∧
  (∀ h o s, Runs (.loopx h o) s → ∃ u, exec (.loopx h o) s = .next u ∧ u.iss.verdict = .done ∧
    u.iss.target = some (s.iss.pc + o.off.signExtend 48 * 8) ∧
    (let x := s.cur.loops.get o.li.toNat
     ∀ m, m < 4 →
      let y := s.cur.loops.get m
      u.cur.loops.get m = if x.active = true ∧ (m = o.li.toNat ∨ (y.active = true ∧
          (x.ls.extractLsb' 3 45).toNat ≤ (y.ls.extractLsb' 3 45).toNat ∧ (y.le.extractLsb' 3 45).toNat ≤ (x.le.extractLsb' 3 45).toNat))
        then { y with active := false } else y) ∧
    u.cur.loops.rot = s.cur.loops.rot ∧ u.cur.loops.prot = s.cur.loops.prot ∧
    u.cur.regs = s.cur.regs ∧ SameDevice s u ∧ OnlyBank s.iss.ctx s u) ∧
  (∀ h o s, precheck (.loopx h o) s.cur = none → interlocked (.loopx h o) s.cur s.iss.fresh = false → s.cur.enabled h = false →
    exec (.loopx h o) s = .next (s.verdict .done)) ∧
  (∀ s : State, s.iss.target ≠ none → (endBundle s).cur.loops = (afterCycle s.cur).loops)

/-- Tier 2. A closing of a loop counts it down and repeats it from its first bundle while the count is not zero; at zero the loop is
inactive. Under .rot it rotates ROT and PROT, and, unless the count is zero, sets p8 while the count is at least the depth and clears it
below; any other closing leaves ROT, PROT and the registers (R323, R72). -/
def Obligations.LoopCloses : Prop :=
  ∀ (b : Bank) (i : Nat), i < 4 →
    let x := b.loops.get i
    let r := closeOne b i
    let z := 32 * (b.rf - 1)
    (r.1.loops.get i).lc = x.lc - 1 ∧ ((r.1.loops.get i).active = true ↔ x.lc ≠ 1) ∧
    (x.lc ≠ 1 → r.2 = some (x.ls.extractLsb' 3 45 ++ (0 : BitVec 3))) ∧ (x.lc = 1 → r.2 = none) ∧
    (∀ k, k < 4 → k ≠ i → r.1.loops.get k = b.loops.get k) ∧
    (x.ls.getLsbD 0 = false → r.1.regs = b.regs ∧ r.1.loops.rot = b.loops.rot ∧ r.1.loops.prot = b.loops.prot) ∧
    (x.ls.getLsbD 0 = true →
      r.1.loops.rot = (if z = 0 then 0 else BitVec.ofNat 32 ((b.loops.rot.toNat + z - 1) % z)) ∧
      r.1.loops.prot = BitVec.ofNat 32 ((b.loops.prot.toNat + 7) % 8) ∧ r.1.regs.s = b.regs.s ∧ r.1.regs.v = b.regs.v ∧
      r.1.regs.k = b.regs.k ∧
      (x.lc = 1 → r.1.regs.p = b.regs.p) ∧
      (x.lc ≠ 1 → r.1.preg 8 = if x.le.toNat % 8 + 1 ≤ (x.lc - 1).toNat then allOnesP else 0))

/-! ### System words -/

/-- Tier 1. NOP does nothing; SYSR starts the read of a system register; SYSW starts a write of scalar plus immediate that the next bundle
sees (R313, R348, R81). -/
def Obligations.SystemRegisterWords : Prop :=
  (∀ h o s, Runs (.nop h o) s → exec (.nop h o) s = .next (s.verdict .done)) ∧
  (∀ h o s, Runs (.sysr h o) s → exec (.sysr h o) s =
    .next (s.started 1 (.s o.sd.toNat (sysRead s s.iss.ctx s.cur o.srn.toNat) (BitVec.allOnes 32)) 0)) ∧
  (∀ h o s, Runs (.sysw h o) s → exec (.sysw h o) s =
    .next (s.started 1 (.sys o.srn.toNat (s.cur.sreg o.sa.toNat + o.imm.signExtend 32)) 0))

/-- Tier 2. What a system register reads after a write of it has landed: the writable fields take the value and the rest keep theirs (R226
to R230, R31, R80, R105, R191, R210, R245, R5). -/
def Obligations.SystemRegisterReadBack : Prop :=
  ∀ (s : State) (c : Ctx) (b : Bank) (v : Word),
    sysRead s c (sysWrite b 0x001 v) 0x001 = v ∧ sysRead s c (sysWrite b 0x003 v) 0x003 = v ∧
    sysRead s c (sysWrite b 0x002 v) 0x002 = v &&& 0xFFFF3FFF#32 ∧ sysRead s c (sysWrite b 0x004 v) 0x004 = v &&& 0xFFFFFFF8#32 ∧
    sysRead s c (sysWrite b 0x016 v) 0x016 = v ∧ sysRead s c (sysWrite b 0x017 v) 0x017 = v ∧
    sysRead s c (sysWrite b 0x018 v) 0x018 = v &&& 0xFF#32 ∧ sysRead s c (sysWrite b 0x019 v) 0x019 = v &&& 0x1FF#32 ∧
    sysRead s c (sysWrite b 0x01A v) 0x01A = v &&& 0xFFFF#32 ∧ sysRead s c (sysWrite b 0x020 v) 0x020 = v &&& 0xFFFF#32 ∧
    sysRead s c (sysWrite b 0x021 v) 0x021 = v &&& 0xFFFF#32 ∧ sysRead s c (sysWrite b 0x022 v) 0x022 = v &&& 0xFFFF#32 ∧
    (∀ k, k < 16 → sysRead s c (sysWrite b (0x030 + k) v) (0x030 + k) = v &&& 0x7FEF#32) ∧
    (∀ l f, l < 4 → f < 6 → sysRead s c (sysWrite b (0x040 + 8 * l + f) v) (0x040 + 8 * l + f) =
      (if f = 1 ∨ f = 3 then v &&& 0xFFFF#32 else if f = 5 then v &&& 1#32 else v)) ∧
    sysRead s c (sysWrite b 0x000 v) 0x000 =
      (sysRead s c b 0x000 &&& 0xF8000000#32) ||| (v &&& 0x07FC003F#32)

/-- Tier 2. TRAP in task mode takes software trap 0x10: EPC names the bundle that follows, EVAL is the immediate, the loop state moves to
the saved copies, and the next bundle is at TVEC in monitor mode (R355, R232, R227, R228). -/
def Obligations.TrapEnters : Prop :=
  ∀ h o s, Runs (.trap h o) s → s.cur.tr.mode = false →
    ∃ t, exec (.trap h o) s = .next t ∧ t.iss.verdict = .diverted ∧ t.cur.tr.mode = true ∧
      t.cur.tr.epc = s.iss.fall.extractLsb' 3 32 ∧
      t.cur.tr.ecause = (BitVec.ofNat 2 s.iss.slot).setWidth 32 <<< 12 ||| 0x10#32 ∧ t.cur.tr.eval = o.imm.setWidth 32 ∧
      t.cur.tr.tvec = (drain s.cur).tr.tvec ∧ t.cur.th.pc = (drain s.cur).tr.tvec.setWidth 48 ∧ t.cur.saved = (drain s.cur).loops ∧
      (∀ k, k < 4 → (t.cur.loops.get k).active = false) ∧ t.cur.loops.rot = 0 ∧ t.cur.loops.prot = 0 ∧
      t.cur.regs = (drain s.cur).regs ∧ t.mem = s.mem ∧ t.heap = s.heap ∧ t.sched = s.sched ∧ OnlyBank s.iss.ctx s t

/-- Tier 2. RTE restores the loop state from the saved copies, clears MODE and resumes at the address that EPC names in the thread's 32 GiB
code range; registers and the other banks stay; a discard that waited for monitor code takes effect at once when no member of the node is
left in monitor mode (R340, R227, R38). -/
def Obligations.RteReturns : Prop :=
  (∀ h o s, Runs (.rte h o) s → s.cur.discard = false →
    ∃ t, exec (.rte h o) s = .next t ∧ t.iss.verdict = .diverted ∧ t.cur.tr.mode = false ∧ t.cur.loops = s.cur.saved ∧
      t.cur.th.pc = s.cur.th.entry.extractLsb' 35 13 ++ s.cur.tr.epc ++ (0 : BitVec 3) ∧ t.cur.tr.epc = s.cur.tr.epc ∧
      t.cur.tr.ecause = s.cur.tr.ecause ∧ t.cur.regs = s.cur.regs ∧ t.cur.scr = s.cur.scr ∧ SameDevice s t ∧ OnlyBank s.iss.ctx s t) ∧
  (∀ h o s, Runs (.rte h o) s → s.cur.discard = true → s.cur.phase ≠ .free →
    let s1 := trapReturn s.iss.ctx s
    (inMonitor s1 s.cur.th.node = false → exec (.rte h o) s = .next ((discardNode s1 s.cur.th.node).verdict .diverted)) ∧
    (inMonitor s1 s.cur.th.node = true → exec (.rte h o) s = .next (s1.verdict .diverted)))

/-- Tier 1. A trap and the return from it give back the loops, ROT, PROT and the task's code address (R232, R340). -/
def Obligations.TrapThenReturn : Prop :=
  ∀ (c : Ctx) (t : TrapInfo) (s : State), (s.bank c).tr.mode = false →
    (trapReturn c (trapEntry c t s)).bank c =
      (let b := drain (s.bank c)
       { b with
         eng := b.eng.resume
         tr := { b.tr with mode := false, epc := t.epc.extractLsb' 3 32, ecause := t.ecause, eval := t.eval }
         saved := b.loops
         th := { b.th with pc := b.th.entry.extractLsb' 35 13 ++ t.epc.extractLsb' 3 32 ++ (0 : BitVec 3) }
         pipe := { b.pipe with mon := 0, wait := .none, lost := none, early := [] } })

/-- Tier 1. EVSIG writes the core's signal register and raises event 8; HALT in task mode raises privilege (0x03), and in monitor mode ends
in a device without power, with a record of kind 14 and cause 2 and the ring, oldest first, in flash, so that no bundle issues; IDLE with a
pending engine fault ends at once with code 2, with nothing outstanding with code 0, and with a command outstanding it waits (R307, R310,
R264, R314). -/
def Obligations.SignalHaltIdle : Prop :=
  (∀ h o s, Runs (.evsig h o) s → ∃ t, exec (.evsig h o) s = .next t ∧ t.plat.evtst.getLsbD 8 = true ∧
    ((tabGet t.plat.sigv s.iss.ctx.core.val 0).extractLsb' 0 32 = s.cur.sreg o.sa.toNat + o.imm.signExtend 32) ∧
    (tabGet t.plat.sigv s.iss.ctx.core.val 0).getLsbD 63 = true ∧ t.banks = s.banks ∧ t.mem = s.mem ∧ t.sched = s.sched) ∧
  (∀ h o s, Runs (.halt h o) s → exec (.halt h o) s = .next ((fatalError 2 s).verdict .done) ∧
    (fatalError 2 s).plat.power = .dead ∧ (fatalError 2 s).banks = s.banks ∧ (fatalError 2 s).mem = s.mem) ∧
  (∀ h o s, (Instr.halt h o).wf = true → s.cur.tr.mode = false →
    exec (.halt h o) s = .next (takeStop (stopTrap 0x03 ((wordOf (.halt h o)).extractLsb' 0 32)) s)) ∧
  (∀ s : State,
    let p := (fatalError 2 s).plat
    (∃ x : BitVec 256, p.crock = tabSet s.plat.crock s.plat.crkHead.toNat x ∧ x.extractLsb' 56 8 = 14 ∧ x.extractLsb' 96 32 = 2) ∧
    p.crkHead = s.plat.crkHead + 1 ∧
    p.flash = s.plat.flash ++ (List.range 4096).filterMap (fun i => tabGet? p.crock ((p.crkHead.toNat + i) % 4096)) ∧
    ∀ core, makeMove (.issue core) (fatalError 2 s) = .fault .noPower) ∧
  (∀ h o s, Runs (.idle h o) s → (s.core s.iss.ctx.core).freeze = 0 → s.cur.eng.faults ≠ [] ∨ s.cur.eng.idle = true →
    ∃ t, exec (.idle h o) s = .next t ∧ t.iss.verdict = .done ∧ t.cur.pipe.wait = .none ∧
      t.cur.pipe.locks = s.cur.pipe.locks ++
        [{ id := s.cur.lockId, ws := oneS o.sd.toNat (if s.cur.eng.faults = [] then 0 else 2), af := 0, ready := true }] ∧
      t.cur.regs = s.cur.regs ∧ t.mem = s.mem) ∧
  (∀ h o s, Runs (.idle h o) s → s.cur.eng.faults = [] → s.cur.eng.idle = false →
    ∃ t, exec (.idle h o) s = .next t ∧ t.iss.verdict = .done ∧ t.cur.regs = s.cur.regs ∧ t.mem = s.mem ∧
      t.cur.pipe.wait = .idle o.sd (s.now s.iss.ctx.core) o.imm.toNat)

/-! ### Threads, regions and domains -/

/-- Tier 1. REGION waits while a checkpointed scalar's interlocked write is outstanding; then it lands those of earlier bundles, its own
bundle's being checkpointed and left for later (R270), records the mask, clears AF and XFER, ends the bank's helper and, after its own
cycle, holds the bundle that follows back one cycle for each checkpointed scalar, and at domain level 0 it forms the boundary: the restart
holds those scalars as the next bundle reads them, that bundle's address and its loop state, and no slot of the thread is left uncommitted
(R336, R33, R32, R36, R30). SLICE starts the helper at its entry with copies of the scalars, the loop registers and the low bits of the
predicates, its closings counted from 0, and does nothing where DIST is 0, the other bank's helper runs or the entry lies outside the code
range (R345, R28, R31). -/
def Obligations.RegionAndSlice : Prop :=
  (∀ h o s, Runs (.region h o) s →
    let c := s.iss.ctx
    let regs := maskRegs o.sa.toNat (o.imm.extractLsb' 0 16)
    let early := (landEarlier s regs).cur
    let seen := landDue (landOn early regs) (s.cur.pipe.cyc + 1)
    (((locksOn s.cur regs).any fun k => !k.ready) = true → exec (.region h o) s = .next ((endHelper c s).verdict .stalled)) ∧
    (((locksOn s.cur regs).any fun k => !k.ready) = false →
      ∃ t, exec (.region h o) s = .next t ∧ t.iss.verdict = .done ∧ t.cur.tr.af = 0 ∧ t.cur.tr.xfer = 0 ∧
        t.cur.pipe.wait = (if regs = [] then .none else .hold (regs.length + 1)) ∧
        t.cur.regs = early.regs ∧ t.cur.scr = s.cur.scr ∧
        ((s.member c).slots = [] → t.mem = s.mem) ∧ OnlyBank c s t ∧
        (t.member c).maskSa = o.sa.toNat ∧ (t.member c).mask = o.imm.extractLsb' 0 16 ∧
        ((t.core c.core).helper.owner = c.bank → (t.core c.core).helper.on = false) ∧
        (s.cur.sys.level ≠ 0 → (t.member c).restart = (s.member c).restart) ∧
        (s.cur.sys.level = 0 → (t.member c).slots = [] ∧ ∃ r, (t.member c).restart = some r ∧
          (∀ k, k < regs.length → r.words.getD k 0 = seen.sreg (regs.getD k 0)) ∧
          (∀ n, n < 64 → r.mask.getLsbD n = decide (n ∈ regs)) ∧
          (∀ a, s.iss.target = some a → r.rpc = a ∧ r.loops = seen.loops) ∧
          (s.iss.target = none → r.rpc = (loopClosing seen s.iss.pc).2.getD s.iss.fall ∧
            r.loops = (loopClosing seen s.iss.pc).1.loops)))) ∧
  (∀ h o s, Runs (.slice h o) s →
    let k := (s.core s.iss.ctx.core).helper
    let entry := s.iss.pc + o.imm.signExtend 48 * 8
    (s.cur.sys.helpd.extractLsb' 0 8 = 0 ∨ (k.on = true ∧ k.owner ≠ s.iss.ctx.bank) ∨ codeRange s.cur entry = false →
      exec (.slice h o) s = .next (s.verdict .done)) ∧
    (s.cur.sys.helpd.extractLsb' 0 8 ≠ 0 → k.on = false ∨ k.owner = s.iss.ctx.bank → codeRange s.cur entry = true →
      ∃ t, exec (.slice h o) s = .next t ∧ t.iss.verdict = .done ∧ OnlyBank s.iss.ctx s t ∧ t.mem = s.mem ∧ t.sched = s.sched ∧
        t.cur = { s.cur with pipe := { s.cur.pipe with closings := [] } } ∧
        (let x := (t.core s.iss.ctx.core).helper
         x.on = true ∧ x.owner = s.iss.ctx.bank ∧ x.pc = entry ∧ x.s = s.cur.regs.s ∧ x.loops = s.cur.loops ∧ x.counted = none ∧
         x.closings = 0 ∧ ∀ n, n < 16 → x.p.getLsbD n = (s.cur.preg n).getLsbD 0)))

/-- Tier 1. TNODE reads the 64-byte descriptor, submits it to the queue that IMM names and returns the handle, the code of the rejection, or
0 where the queue is closed and the submission counted in QDROP; a misaligned address traps (R354, R43, R55). TLAUNCH queues a nonempty
array of at most 65,536 records for consumption with its result outstanding, for the thread, its node, its queue and the join scalar,
returns 0 for an empty one, waits while 64 launches are queued, and traps on a count above, a misaligned address or a page that faults
(R352). TKW ends with the code of the node's state, with INV(all) after a node that completed or failed, and waits while none holds (R351).
-/
def Obligations.SubmitLaunchWait : Prop :=
  (∀ h o s, Runs (.tnode h o) s →
    let va := descVa s.cur (s.cur.sreg o.sa.toNat)
    let q := (o.imm.extractLsb' 0 6).toNat
    (va % 64 ≠ 0 → exec (.tnode h o) s = .next (takeStop (stopAddr 0x04 va) s)) ∧
    (∀ s1 d, readDesc s va 64 = .ok (s1, d) →
      let s2 := wbAll s1 s.iss.ctx.core 2
      (∀ s3 x, acceptDesc s2 q (BitVec.ofNat 512 d) = (s3, .handle x) →
        exec (.tnode h o) s = .next (s3.locked (oneS o.sd.toNat x) 0)) ∧
      (∀ s3 code, acceptDesc s2 q (BitVec.ofNat 512 d) = (s3, .rejected code) →
        exec (.tnode h o) s = .next (s3.locked (oneS o.sd.toNat (BitVec.ofNat 32 code)) 0)) ∧
      (s2.queueOpen q = false → exec (.tnode h o) s =
        .next ((s2.setQueue q { s2.queue q with qdrop := (s2.queue q).qdrop + 1 }).locked (oneS o.sd.toNat 0) 0)) ∧
      (s2.queueOpen q = true → ∃ s3 a, acceptDesc s2 q (BitVec.ofNat 512 d) = (s3, a) ∧ a ≠ .dropped))) ∧
  (∀ h o s, Runs (.tlaunch h o) s →
    let n := (s.cur.sreg (o.sa.toNat + 1)).toNat
    let va := descVa s.cur (s.cur.sreg o.sa.toNat)
    (65536 < n → exec (.tlaunch h o) s = .next (takeStop (illegalStop (.tlaunch h o)) s)) ∧
    (n ≤ 65536 → va % 32 ≠ 0 → exec (.tlaunch h o) s = .next (takeStop (stopAddr 0x04 va) s)) ∧
    (n ≤ 65536 → va % 32 = 0 → ∀ st s1, arrayPages s s.iss.ctx (arrayPieces va (32 * n)) = .error (st, s1) →
      exec (.tlaunch h o) s = .next (takeStop st s1)) ∧
    (n ≤ 65536 → va % 32 = 0 → ∀ s1 ps, arrayPages s s.iss.ctx (arrayPieces va (32 * n)) = .ok (s1, ps) →
      let s2 := wbAll s1 s.iss.ctx.core 2
      (n = 0 → exec (.tlaunch h o) s = .next (s2.locked (oneS o.sd.toNat 0) 0)) ∧
      (n ≠ 0 → 64 ≤ s.sched.launch.length → exec (.tlaunch h o) s = .next (s.verdict .stalled)) ∧
      (n ≠ 0 → s.sched.launch.length < 64 → ∃ t l, exec (.tlaunch h o) s = .next t ∧ t.iss.verdict = .done ∧
        t.sched.launch = s2.sched.launch ++ [l] ∧ l.who = some s.iss.ctx ∧ l.node = s.cur.th.node ∧ l.queue = s.cur.th.queue ∧
        l.join = s.cur.sreg (o.imm.extractLsb' 0 6).toNat ∧ l.count = n ∧ l.addr = va ∧ l.pages = ps ∧ l.recs = [] ∧ l.created = 0 ∧
        l.lock = s2.cur.lockId ∧ t.cur.regs = s2.cur.regs ∧ t.mem = s2.mem ∧
        t.cur.pipe.locks = s2.cur.pipe.locks ++ [{ id := l.lock, ws := oneS o.sd.toNat 0, af := 0, ready := false }]))) ∧
  (∀ h o s, Runs (.tkw h o) s →
    let a := s.cur.sreg o.sa.toNat
    let w := tkwSince s.cur (s.now s.iss.ctx.core)
    (∀ v, tkwCode s s.iss.ctx a w.2 = some v →
      let s1 := s.setCur ({ s.cur with pipe := { s.cur.pipe with wait := .none } }.lockS o.sd.toNat v)
      exec (.tkw h o) s = .next ((if v = 0 ∨ v = 1 then invAll s1 s.iss.ctx.core 3 else s1).verdict .done)) ∧
    (tkwCode s s.iss.ctx a w.2 = none → exec (.tkw h o) s =
      .next ((s.setCur { s.cur with pipe := { s.cur.pipe with wait := .tkw a w.1 o.imm.toNat w.2 } }).verdict .stalled)))

/-- Tier 1. TKW's code: 2 for a handle that names no live node, 3 for the thread's own node, 1 for a node that failed, 0 for one that
completed or was freed, 4 when its timeout has expired (R351). -/
def Obligations.WaitCodes : Prop :=
  ∀ (s : State) (c : Ctx) (a : Word) (x : Bool),
    let n := s.node (handleIx a)
    (a = 0 ∨ n.gen ≠ handleGen a → tkwCode s c a x = some 2) ∧
    (a ≠ 0 → n.gen = handleGen a →
      (a = (s.bank c).sys.nodeh → tkwCode s c a x = some 3) ∧
      (a ≠ (s.bank c).sys.nodeh →
        (n.st = .done → n.failed = true → tkwCode s c a x = some 1) ∧
        (n.st = .done → n.failed = false → tkwCode s c a x = some 0) ∧
        (n.st = .free → tkwCode s c a x = some 0) ∧
        (n.st ≠ .done → n.st ≠ .free → tkwCode s c a x = if x then some 4 else none)))

/-- Tier 1. TEXIT ends the bank's helper and retires the thread with nothing outstanding, and with a command or launch outstanding it waits;
in monitor mode it first writes the record of kind 3 and cancels the commands that a fault has stopped; that the record is written when the
word executes, before its wait, is the model's reading (log 41). TYIELD waits for what is outstanding, forms a boundary, discards the thread
when a ready node of at least its priority may run here and goes on otherwise, and does nothing outside domain level 0 (R350, R233, R356).
-/
def Obligations.ExitAndYield : Prop :=
  (∀ h o s, Runs (.texit h o) s → s.cur.tr.mode = false →
    let s1 := endHelper s.iss.ctx (s.setCur { s.cur with pipe := { s.cur.pipe with wait := .texit } })
    (quiet s1 s.iss.ctx = true → exec (.texit h o) s = .next ((retireThread s1 s.iss.ctx).verdict .diverted)) ∧
    (quiet s1 s.iss.ctx = false → exec (.texit h o) s = .next (s1.verdict .diverted))) ∧
  (∀ h o s, Runs (.texit h o) s → s.cur.tr.mode = true →
    let s0 := crock (crockThread s s.iss.ctx 3 (s.cur.tr.ecause.toNat % 256) s.cur.tr.eval.toNat) s
    let s1 := endHelper s.iss.ctx (s0.setCur { s.cur with pipe := { s.cur.pipe with wait := .texit } })
    let s2 := s1.setCur { s1.cur with eng := cancelStopped s.cur.eng }
    (quiet s2 s.iss.ctx = true → exec (.texit h o) s = .next ((retireThread s2 s.iss.ctx).verdict .diverted)) ∧
    (quiet s2 s.iss.ctx = false → exec (.texit h o) s = .next (s2.verdict .diverted))) ∧
  (∀ h o s, Runs (.tyield h o) s → s.cur.sys.level ≠ 0 → exec (.tyield h o) s = .next (s.verdict .done)) ∧
  (∀ h o s, Runs (.tyield h o) s → s.cur.sys.level = 0 →
    let held := (locksOn s.cur (maskedRegs s s.iss.ctx)).any fun k => !k.ready
    (quiet s s.iss.ctx = false ∨ held = true → exec (.tyield h o) s = .next (s.verdict .stalled)) ∧
    (quiet s s.iss.ctx = true → held = false →
      let s1 := boundaryNow s
      let t := discardNode s1 s.cur.th.node
      (yieldTo s1 s.iss.ctx = true → exec (.tyield h o) s =
        .next (t.verdict (if (t.bank s.iss.ctx).phase = .free ∧ s.cur.phase ≠ .free then .diverted else .done))) ∧
      (yieldTo s1 s.iss.ctx = false → exec (.tyield h o) s = .next (s1.verdict .done))))

/-- Tier 1. BARA releases at domain scope and arrives without waiting; BARW arrives and waits until the phase completes; a second arrival,
and a barrier number above 1,023, trap with 0x0F, and an arrival at a barrier that another node has open waits; DSYNC at level 0 fences and
forms its boundary, and in a wider domain the last arrival releases the members; it traps with 0x0F at an open barrier of its own and waits
for its peer copies (R298, R299, R304). -/
def Obligations.BarrierWords : Prop :=
  (∀ h o s, Runs (.bara h o) s → barNo s o < 1024 →
    (∀ s1, barArrive s s.iss.ctx (barNo s o) = .ok s1 →
      exec (.bara h o) s = .next ((barCheck (wbAll s1 s.iss.ctx.core (domScope s.cur)) s.iss.ctx (barNo s o)).verdict .done)) ∧
    (∀ e, barArrive s s.iss.ctx (barNo s o) = .error e → exec (.bara h o) s = .next (takeStop e.1 e.2))) ∧
  (∀ h o s, Runs (.barw h o) s → barNo s o < 1024 →
    (∀ s1, barArrive s s.iss.ctx (barNo s o) = .ok s1 →
      exec (.barw h o) s = .next ((barCheck (s1.setBank s.iss.ctx { s1.bank s.iss.ctx with
        pipe := { (s1.bank s.iss.ctx).pipe with wait := .barw (barNo s o) } }) s.iss.ctx (barNo s o)).verdict .done)) ∧
    (∀ e, barArrive s s.iss.ctx (barNo s o) = .error e → exec (.barw h o) s = .next (takeStop e.1 e.2))) ∧
  (∀ h o s, 1024 ≤ barNo s o →
    (Runs (.bara h o) s → exec (.bara h o) s = .next (takeStop (stopTrap 0x0F (BitVec.ofNat 32 (barNo s o))) s)) ∧
    (Runs (.barw h o) s → exec (.barw h o) s = .next (takeStop (stopTrap 0x0F (BitVec.ofNat 32 (barNo s o))) s))) ∧
  (∀ (s : State) (c : Ctx) (b : Nat),
    (∀ m ∈ s.members c, ∀ x, barOf s m.core b = some x → x.node ≠ (s.bank c).sys.nodeh →
      barArrive s c b = .error (.stall, s)) ∧
    (∀ x, barOf s c.core b = some x → x.node = (s.bank c).sys.nodeh →
      x.mask.getLsbD c.core.val = true → (∀ m ∈ s.members c, ∀ y, barOf s m.core b = some y → y.node = (s.bank c).sys.nodeh) →
      barArrive s c b = .error (stopTrap 0x0F (BitVec.ofNat 32 b), s))) ∧
  (∀ h o s, Runs (.dsync h o) s →
    (atBarrier s s.iss.ctx = true → exec (.dsync h o) s = .next (takeStop (stopTrap 0x0F 0x400) s)) ∧
    (atBarrier s s.iss.ctx = false → peerCopies s.cur.eng = true →
      exec (.dsync h o) s = .next ((endHelper s.iss.ctx s).verdict .stalled)) ∧
    (atBarrier s s.iss.ctx = false → peerCopies s.cur.eng = false →
      let s1 := endHelper s.iss.ctx (fenceOps s s.iss.ctx 3 (domScope s.cur))
      let n := s1.node s.cur.th.node
      let n1 := { n with dsync := n.dsync ||| (1#32 <<< s.cur.th.rank) }
      let s2 := s1.setNode s.cur.th.node n1
      (s.cur.sys.level = 0 → exec (.dsync h o) s = .next ((dsyncOwn s1 n).verdict .done)) ∧
      (s.cur.sys.level ≠ 0 → dsyncFull n1 = true →
        exec (.dsync h o) s = .next ((dsyncRelease (dsyncOwn s2 n1) s.cur.th.node).verdict .done)) ∧
      (s.cur.sys.level ≠ 0 → dsyncFull n1 = false →
        exec (.dsync h o) s = .next ((s2.setCur { s2.cur with pipe := { s2.cur.pipe with wait := .dsync } }).verdict .done))))

/-! ### Memory words -/

/-- Tier 2. A misaligned load, store, register range, atomic, ACQ or REL takes trap 0x04 with the address in EVAL before any other check,
and nothing in memory changes: a scalar or a vector by its size up to 64, a range by 64, an atomic by its size, ACQ and REL by 8 (R231,
R279, R295, R297, R320, R321, R337, R346, R347). -/
def Obligations.MisalignedTraps : Prop :=
  ∀ (i : Instr) (s : State) (va : Nat), Runs i s →
    (∃ h o, (i = .ld h o ∨ i = .ldv h o ∨ i = .st h o ∨ i = .stv h o) ∧ va = mVa s.cur o ∧ va % szAlign o.sz ≠ 0) ∨
    (∃ h o, (i = .ldm h o ∨ i = .stm h o) ∧ va = rangeVa s.cur o 0 ∧ va % 64 ≠ 0) ∨
    (∃ h o, i = .amo h o ∧ va = mAddr s.cur (s.cur.sreg o.bs.toNat) ((o.off.extractLsb' 0 16).signExtend 32) ∧ va % szBytes o.sz ≠ 0) ∨
    (∃ h o, i = .cas h o ∧ va = mVa s.cur o ∧ va % szBytes o.sz ≠ 0) ∨
    (∃ h o, (i = .acq h o ∨ i = .rel h o) ∧ va = mVa s.cur o ∧ va % 8 ≠ 0) →
    let t := takeStop (stopAddr 0x04 va) s
    exec i s = .next t ∧ t.mem = s.mem ∧
    (s.cur.tr.mode = false → t.cur.tr.mode = true ∧ t.cur.tr.ecause.extractLsb' 0 8 = 0x04#8 ∧ t.cur.tr.eval = BitVec.ofNat 32 va ∧
      t.cur.tr.epc = s.iss.pc.extractLsb' 3 32)

/-- Tier 2. A load whose access succeeds starts the interlocked write of the loaded data to DR. A scalar load in monitor mode whose checks
pass, whose line is in no L1 of the core and holds no byte of a table or of a compressed chunk, returns the bytes of main memory at its
address, and changes no memory unless it acquires; no REL that it would read from waits there (R148). LDV, and LDM for its whole range, start
a result that their 64-byte steps fill, the first at once and the others as their charge is granted, and the eight steps of a vector put its
512 bytes together in order; LDM clears XFER. PREF to the window does nothing (R118, R320, R321, R331, R241). -/
def Obligations.Loads : Prop :=
  (∀ h o s, Runs (.ld h o) s → mVa s.cur o % szAlign o.sz = 0 →
    let sc := scopeAt s.cur (mVa s.cur o) o.sc
    ∀ s1 x, loadVa (coreStrong s o (mVa s.cur o)) s.iss.ctx (mVa s.cur o) (szBytes o.sz) (viaL1 (o.ord != 0) o.sc) = .ok (s1, x) →
      exec (.ld h o) s = .next ((afterAcquire (s1.setBank s.iss.ctx ((s1.bank s.iss.ctx).lockWrites
        (dataWrites s.cur o.sz o.dr.toNat x) 0 true)) s.iss.ctx (o.ord == 2) sc).verdict .done)) ∧
  (∀ h o s, Runs (.ld h o) s → s.cur.tr.mode = true → s.cur.pipe.early = [] →
    let a := mVa s.cur o
    let n := szBytes o.sz
    a % n = 0 → checkPa s s.iss.ctx true a n .rd = none → s.l1? s.iss.ctx.core (lineOf a) = none → s.famHas (frameOf a) famCMP = false →
    ((∀ b, b / 128 = a / 128 → ((s.region b).any fun r => r.cls == 3) = false) ∨ ∀ b, b / 128 = a / 128 → tableByte s b = none) →
    (viaL1 (o.ord != 0) o.sc = false → ∀ w ∈ wordsOfRange a n, (s.syncWord w).rels = []) →
    ∃ t, exec (.ld h o) s = .next t ∧ t.iss.verdict = .done ∧
      t.cur.pipe.locks = s.cur.pipe.locks ++
        [{ id := s.cur.lockId, ws := loadedWrites o (leNat ((List.range n).map fun k => s.mainByte (a + k))), af := 0, ready := true }] ∧
      t.cur.regs = s.cur.regs ∧ (o.ord ≠ 2 → t.mem = s.mem) ∧ OnlyBank s.iss.ctx s t) ∧
  (∀ h o s, Runs (.ldv h o) s → mVa s.cur o % szAlign o.sz = 0 →
    ∀ s1 ls, reachAll (coreStrong s o (mVa s.cur o)) s.iss.ctx (mVa s.cur o) .rd (steps (szBytes o.sz)) = .ok (s1, ls) →
      exec (.ldv h o) s = .next ((fillSteps s1 s.iss.ctx o (dataWrites s.cur o.sz o.dr.toNat []) (ls.map Prod.fst)
        (scopeAt s.cur (mVa s.cur o) o.sc)).verdict .done)) ∧
  (∀ (r : Nat) (m : VReg) (x : List Byte), x.length = 512 →
    (List.range 8).foldl (fun ws k => fillWrites ws (64 * k) ((x.drop (64 * k)).take 64)) [.v r 0 m] =
      [.v r (BitVec.ofNat 4096 (leNat x)) m]) ∧
  (∀ h o s, Runs (.ldm h o) s → rangeVa s.cur o 0 % 64 = 0 → rangeLeft s.cur o ≠ 0 →
    ∀ s1 ls, reachRange o s.cur s.iss.ctx .rd (rangeLeft s.cur o) (xferStart s.cur) (coreStrong s o (rangeVa s.cur o 0)) [] = (s1, ls, none) →
      let u := fillSteps s1 s.iss.ctx o (rangeWrites s.cur o (rangeLeft s.cur o) []) (ls.map Prod.fst)
        (scopeAt s.cur (rangeVa s.cur o 0) o.sc)
      exec (.ldm h o) s = .next ((u.setBank s.iss.ctx ((u.bank s.iss.ctx).setXfer 0)).verdict .done)) ∧
  (∀ h o s, Runs (.pref h o) s → s.cur.tr.mode = false → inWindow (mVa s.cur o) = true →
    exec (.pref h o) s = .next (s.verdict .done)) ∧
  (∀ h o s, Runs (.pref h o) s → (s.cur.tr.mode = true ∨ inWindow (mVa s.cur o) = false) →
    (prefetchPa s s.iss.ctx s.cur.tr.mode (mVa s.cur o) = none → exec (.pref h o) s = .next (s.verdict .done)) ∧
    (∀ s1 pa, prefetchPa s s.iss.ctx s.cur.tr.mode (mVa s.cur o) = some (s1, pa) → exec (.pref h o) s =
      .next ((if o.sc = 0 then (fillLine s1 s.iss.ctx.core (lineOf pa)).1 else s1).verdict .done)))

/-- Tier 2. A scalar load of the scratchpad window, aligned and inside the partition, reads the pool's bytes at the offset, zero-extended or
sign-extended by its size code, and changes nothing but the outstanding result; a strong load forgets besides what strong loads of the
thread have read ahead, and an acquire what any have (R117, R146, R279, R320). That loads read ahead in a list of their own is the model's
(log 8). -/
def Obligations.ScratchpadLoad : Prop :=
  ∀ h o s, Runs (.ld h o) s → s.cur.tr.mode = false →
    let va := mVa s.cur o
    let off := va - windowBase
    let n := szBytes o.sz
    inWindow va = true → va % n = 0 → off + n ≤ s.cur.spTotal → badPool s s.iss.ctx off n = none →
    let ws := loadedWrites o (leNat (s.cur.scrBytes off n))
    (s.cur.pipe.early = [] → exec (.ld h o) s = .next (s.locked ws 0)) ∧
    ∃ t, exec (.ld h o) s = .next t ∧ t.iss.verdict = .done ∧ SameDevice s t ∧ OnlyBank s.iss.ctx s t ∧
      t.cur = (let b := s.cur.lockWrites ws 0 true
               let left := if o.ord = 2 then [] else if o.ord = 0 then b.pipe.early else b.pipe.early.filter fun e => !e.strong
               { b with pipe := { b.pipe with early := left } })

/-- Tier 2. A scalar store to the scratchpad window writes its bytes, little-endian, at the offset that its address forms; every other byte
of the pool, main memory, the registers and every other bank stay (R117, R346, R7). -/
def Obligations.ScratchpadStore : Prop :=
  ∀ h o s, Runs (.st h o) s → s.cur.tr.mode = false →
    let va := mVa s.cur o
    let off := va - windowBase
    let n := szBytes o.sz
    inWindow va = true → va % n = 0 → off + n ≤ s.cur.spTotal →
    ∃ t, exec (.st h o) s = .next t ∧ t.iss.verdict = .done ∧
      (∀ k, k < n → t.cur.scrByte (off + k) =
        ((if o.sz = 3 then s.cur.dreg o.dr.toNat else (s.cur.sreg o.dr.toNat).setWidth 64) >>> (8 * k)).setWidth 8) ∧
      (∀ a, a < off ∨ off + n ≤ a → t.cur.scrByte a = s.cur.scrByte a) ∧ t.cur = { s.cur with scr := t.cur.scr } ∧
      t.mem.main = s.mem.main ∧ t.mem.near = s.mem.near ∧ t.mem.far = s.mem.far ∧ t.heap = s.heap ∧ t.sched = s.sched ∧
      OnlyBank s.iss.ctx s t

/-- Tier 2. A scalar store of device scope in monitor mode, to an address whose checks pass and whose line is in no L1 of the core, writes
its bytes to main memory at that address and no other byte; the canonical form is kept, and registers stay (R118, R346). -/
def Obligations.MonitorStore : Prop :=
  ∀ h o s, Runs (.st h o) s → s.cur.tr.mode = true → o.ord = 1 → o.sc ≠ 0 → s.memWf = true →
    let a := mVa s.cur o
    let n := szBytes o.sz
    a % n = 0 → checkPa s s.iss.ctx true a n .wr = none → s.l1? s.iss.ctx.core (lineOf a) = none →
    ∃ t, exec (.st h o) s = .next t ∧ t.iss.verdict = .done ∧ t.memWf = true ∧
      (∀ k, k < n → t.mainByte (a + k) =
        ((if o.sz = 3 then s.cur.dreg o.dr.toNat else (s.cur.sreg o.dr.toNat).setWidth 64) >>> (8 * k)).setWidth 8) ∧
      (∀ b, b < a ∨ a + n ≤ b → t.mainByte b = s.mainByte b) ∧ t.mem.near = s.mem.near ∧ t.mem.far = s.mem.far ∧
      t.cur.regs = s.cur.regs ∧ OnlyBank s.iss.ctx s t ∧ (s.cur.pipe.early = [] → t.banks = s.banks) ∧ t.cores = s.cores ∧
      t.heap = s.heap ∧ t.sched = s.sched

/-- Tier 2. Stores whose access succeeds, a release among them; STV and the register range of STM write their first 64-byte step at once and
keep the others until their charge is granted; STM leaves XFER 0. A step that is granted writes its bytes at its place and nowhere else, and
the order of the steps stays: in the pool; in main memory, through to it where the store is strong and the line is in no L1 of the core; or,
weak or at core scope, in the line of the L1, whose bytes become dirty (R118, R346, R347, R241). -/
def Obligations.Stores : Prop :=
  (∀ h o s, Runs (.st h o) s → mVa s.cur o % szAlign o.sz = 0 →
    ∀ t, storeVa s s.iss.ctx (mVa s.cur o) (dataBytes s.cur o.sz o.dr.toNat) (viaL1 (o.ord != 0) o.sc) (o.ord == 2) o.sc = .ok t →
      exec (.st h o) s = .next (t.verdict .done)) ∧
  (∀ h o s, Runs (.stv h o) s → mVa s.cur o % szAlign o.sz = 0 →
    ∀ s1 ls, reachAll s s.iss.ctx (mVa s.cur o) .wr (steps (szBytes o.sz)) = .ok (s1, ls) →
      exec (.stv h o) s = .next ((startSteps (beforeRelease s1 s.iss.ctx (o.ord == 2) (scopeAt s.cur (mVa s.cur o) o.sc)) s.iss.ctx
        (storeSteps (ls.map Prod.fst) (dataBytes s.cur o.sz o.dr.toNat) (viaL1 (o.ord != 0) o.sc) o.sc)).verdict .done)) ∧
  (∀ h o s, Runs (.stm h o) s → rangeVa s.cur o 0 % 64 = 0 → rangeLeft s.cur o ≠ 0 →
    ∀ s1 l ls, reachRange o s.cur s.iss.ctx .wr (rangeLeft s.cur o) (xferStart s.cur) s [] = (s1, l :: ls, none) →
      let s2 := startSteps (beforeRelease s1 s.iss.ctx (o.ord == 2) (scopeAt s.cur (rangeVa s.cur o 0) o.sc)) s.iss.ctx
        (storeSteps ((l :: ls).map Prod.fst) (rangeBytes s.cur o) (viaL1 (o.ord != 0) o.sc) o.sc)
      exec (.stm h o) s = .next ((s2.setBank s.iss.ctx ((s2.bank s.iss.ctx).setXfer 0)).verdict .done)) ∧
  (∀ (s : State) (c : Ctx) (m : MemStep) (r : List MemStep) (x : List Byte), (s.bank c).pipe.steps = m :: r → m.data = some x →
    ((nextStep s c).bank c).pipe.steps = r ∧
    (∀ o, m.loc = .sp o → (∀ k, k < x.length → ((nextStep s c).bank c).scrByte (o + k) = x.getD k 0) ∧
      (∀ a, a < o ∨ o + x.length ≤ a → ((nextStep s c).bank c).scrByte a = (s.bank c).scrByte a) ∧
      (nextStep s c).mem.main = s.mem.main) ∧
    (∀ a, m.loc = .pa a →
      ((nextStep s c).bank c).regs = (s.bank c).regs ∧ ((nextStep s c).bank c).scr = (s.bank c).scr ∧ OnlyBank c s (nextStep s c) ∧
      (m.l1 = false → s.l1? c.core (lineOf a) = none → s.memWf = true → (nextStep s c).memWf = true ∧
        (∀ k, k < x.length → (nextStep s c).mainByte (a + k) = x.getD k 0) ∧
        (∀ b, b < a ∨ a + x.length ≤ b → (nextStep s c).mainByte b = s.mainByte b) ∧
        (nextStep s c).mem.near = s.mem.near ∧ (nextStep s c).mem.far = s.mem.far ∧ (nextStep s c).cores = s.cores) ∧
      (m.l1 = true → a % 128 + x.length ≤ 128 → (nextStep s c).mem = s.mem ∧
        ∃ l, (nextStep s c).l1? c.core (lineOf a) = some l ∧ ∀ k, k < x.length →
          (bytesOfLine l.data).getD (a % 128 + k) 0 = x.getD k 0 ∧ l.dirty.getLsbD (a % 128 + k) = true)))

/-- Tier 2. An AMO or CAS of the scratchpad window returns the old value and stores the operation's result: AMO always, CAS only where the
old value equals the expected one; every other byte of the pool stays, and so do main memory and the registers (R297). -/
def Obligations.ScratchpadAtomics : Prop :=
  let place (s : State) (o : MOps) (va : Nat) : Prop := s.cur.tr.mode = false ∧ inWindow va = true ∧ va % szBytes o.sz = 0 ∧
    va - windowBase + szBytes o.sz ≤ s.cur.spTotal ∧ badPool s s.iss.ctx (va - windowBase) (szBytes o.sz) = none
  let result (s t : State) (o : MOps) (va : Nat) (new : Nat → Option Nat) : Prop :=
    let off := va - windowBase
    let n := szBytes o.sz
    let old := leNat (s.cur.scrBytes off n)
    t.iss.verdict = .done ∧ leNat (t.cur.scrBytes off n) = (new old).getD old % 2 ^ (8 * n) ∧
    (∀ a, a < off ∨ off + n ≤ a → t.cur.scrByte a = s.cur.scrByte a) ∧
    (let ws := if o.sz = 3 then pairD o.dr.toNat (BitVec.ofNat 64 old) else oneS o.dr.toNat (BitVec.ofNat 32 old)
     t.cur.pipe.locks = s.cur.pipe.locks ++ [{ id := s.cur.lockId, ws := ws, af := 0, ready := true }]) ∧
    t.cur.regs = s.cur.regs ∧ t.mem.main = s.mem.main ∧ OnlyBank s.iss.ctx s t
  (∀ h o s, Runs (.amo h o) s →
    let va := mAddr s.cur (s.cur.sreg o.bs.toNat) ((o.off.extractLsb' 0 16).signExtend 32)
    place s o va → ∃ t, exec (.amo h o) s = .next t ∧ result s t o va (fun old =>
      some (amoNew (o.off.extractLsb' 16 4).toNat (8 * szBytes o.sz) old (atomicArg s.cur o.sz o.dr.toNat)))) ∧
  (∀ h o s, Runs (.cas h o) s →
    let va := mVa s.cur o
    place s o va → ∃ t, exec (.cas h o) s = .next t ∧ result s t o va (fun old =>
      if old = atomicArg s.cur o.sz o.dr.toNat then some (atomicArg s.cur o.sz (o.dr.toNat + (if o.sz = 3 then 2 else 1)))
      else none))

/-- Tier 1. FENCE performs the cache operations of its kind and scope, and none of them at core scope; ACQ and REL at core scope to the
scratchpad window are a read and a write of the object; ACQ, REL, AMO and CAS of any place that can be reached complete, with the cache
operations of their scope: ACQ invalidates the ranges bound to its address, and every line where it reads what a full release wrote; ACQ and
REL wait for a bound range whose tables migrate (R308, R151, R295, R337, R297, R148, R134). That acquires drop what loads have read ahead is
the model's (log 8), and which edges count in full is its reading (log 54). -/
def Obligations.OrderingWords : Prop :=
  (∀ h o s, Runs (.fence h o) s → exec (.fence h o) s = .next ((fenceOps s s.iss.ctx o.ord.toNat o.sc).verdict .done)) ∧
  (∀ h o s, Runs (.fence h o) s → o.sc = 0 →
    exec (.fence h o) s = .next ((if o.ord = 1 ∨ o.ord = 3 then s.noEarly s.iss.ctx else s).verdict .done)) ∧
  (∀ (s : State) (c : Ctx), ((s.bank c).pipe.early = [] → s.noEarly c = s) ∧
    ((s.noEarly c).bank c = { s.bank c with pipe := { (s.bank c).pipe with early := [] } } ∧ SameDevice s (s.noEarly c) ∧
      OnlyBank c s (s.noEarly c))) ∧
  (∀ h o s, Runs (.acq h o) s → s.cur.tr.mode = false → inWindow (mVa s.cur o) = true → mVa s.cur o % 8 = 0 →
    mVa s.cur o - windowBase + 8 ≤ s.cur.spTotal → badPool s s.iss.ctx (mVa s.cur o - windowBase) 8 = none →
    exec (.acq h o) s = .next ((s.locked (pairD o.dr.toNat
      (BitVec.ofNat 64 (leNat (s.cur.scrBytes (mVa s.cur o - windowBase) 8)))) 0).noEarly s.iss.ctx)) ∧
  (∀ h o s, Runs (.rel h o) s → s.cur.tr.mode = false → inWindow (mVa s.cur o) = true → mVa s.cur o % 8 = 0 →
    mVa s.cur o - windowBase + 8 ≤ s.cur.spTotal →
    ∃ t, exec (.rel h o) s = .next t ∧ t.iss.verdict = .done ∧
      leNat (t.cur.scrBytes (mVa s.cur o - windowBase) 8) = (s.cur.dreg o.dr.toNat).toNat ∧
      (∀ a, a < mVa s.cur o - windowBase ∨ mVa s.cur o - windowBase + 8 ≤ a → t.cur.scrByte a = s.cur.scrByte a) ∧
      t.cur = { s.cur with scr := t.cur.scr } ∧ t.mem.main = s.mem.main ∧ OnlyBank s.iss.ctx s t) ∧
  (∀ h o s, Runs (.acq h o) s → mVa s.cur o % 8 = 0 →
    let es := boundTo s s.iss.ctx (mVa s.cur o)
    let sc := scopeAt s.cur (mVa s.cur o) (widestScope o.sc es)
    ∀ s1 x full, acqRead s s.iss.ctx (mVa s.cur o) sc = .ok (s1, x, full) →
      let s2 := (s1.setBank s.iss.ctx ((s1.bank s.iss.ctx).lockWrites (dataWrites s.cur 3 o.dr.toNat x) 0 true)).noEarly s.iss.ctx
      (sc = 0 → exec (.acq h o) s = .next (s2.verdict .done)) ∧
      (sc ≠ 0 → full = true → exec (.acq h o) s = .next ((invAll s2 s.iss.ctx.core sc).verdict .done)) ∧
      (sc ≠ 0 → full = false → boundWaits s1 s.iss.ctx es = false →
        exec (.acq h o) s = .next ((invLines s2 s.iss.ctx.core (boundLine s2 s.iss.ctx es)).verdict .done)) ∧
      (sc ≠ 0 → full = false → boundWaits s1 s.iss.ctx es = true → exec (.acq h o) s = .next (s.verdict .stalled))) ∧
  (∀ h o s, Runs (.rel h o) s → mVa s.cur o % 8 = 0 →
    let es := boundTo s s.iss.ctx (mVa s.cur o)
    let sc := scopeAt s.cur (mVa s.cur o) (widestScope o.sc es)
    ∀ s1 l, reachWord s s.iss.ctx (mVa s.cur o) 8 .wr = .ok (s1, l) →
      let x := natLe 8 (s.cur.dreg o.dr.toNat).toNat
      (sc = 0 → exec (.rel h o) s = .next ((writeLoc s1 s.iss.ctx l x (viaL1 true sc) sc).verdict .done)) ∧
      (sc ≠ 0 → boundWaits s1 s.iss.ctx es = false → ∀ a, l = .pa a → exec (.rel h o) s =
        .next (((writeLoc (wbLines s1 s.iss.ctx.core sc (boundLine s1 s.iss.ctx es)) s.iss.ctx l x (viaL1 true sc) sc).syncRel
          s.iss.ctx.core a).verdict .done)) ∧
      (sc ≠ 0 → boundWaits s1 s.iss.ctx es = true → exec (.rel h o) s = .next (s.verdict .stalled))) ∧
  (let law (i : Hdr → MOps → Instr) (off : MOps → Word) (new : MOps → Bank → Nat → Option Nat) : Prop := ∀ h o s, Runs (i h o) s →
    let va := mAddr s.cur (s.cur.sreg o.bs.toNat) (off o)
    let sc := scopeAt s.cur va o.sc
    va % szBytes o.sz = 0 → ∀ s1 old, atomicVa s s.iss.ctx va (szBytes o.sz) (o.ord == 2 || o.ord == 3) sc (new o s.cur) = .ok (s1, old) →
      exec (i h o) s = .next ((afterAcquire (s1.setBank s.iss.ctx ((s1.bank s.iss.ctx).lockWrites
        (dataWrites s.cur o.sz o.dr.toNat (natLe (szBytes o.sz) old)) 0 true)) s.iss.ctx (o.ord == 1 || o.ord == 3) sc).verdict .done)
   law .amo (fun o => (o.off.extractLsb' 0 16).signExtend 32) (fun o b old =>
     some (amoNew (o.off.extractLsb' 16 4).toNat (8 * szBytes o.sz) old (atomicArg b o.sz o.dr.toNat))) ∧
   law .cas (fun o => o.off.signExtend 32) (fun o b old => if old = atomicArg b o.sz o.dr.toNat then
     some (atomicArg b o.sz (o.dr.toNat + (if o.sz = 3 then 2 else 1))) else none))

/-- Tier 2. Equal reads mean equal memories, and every operation by which the model writes a memory keeps the canonical form: bytes written
at an address, which then read back while every other byte stays (a direct write, a swap, an expansion, a relocation, a record), the zeroing
of a range, a unit's write and the release of those that a migration held, a write-back, an eviction, a store through the cache, the near
tier's frames and the far tier. That an unlisted byte reads 0 is the model's choice (log 5). -/
def Obligations.CanonicalMemory : Prop :=
  (∀ m m' : Mem, Memory.wf m = true → Memory.wf m' = true → (∀ a, memByte m a = memByte m' a) → m = m') ∧
  (∀ (m : Mem) (a : Nat) (l : List Byte), Memory.wf m = true → Memory.wf (memSetBytes m a l) = true ∧
    ∀ i, memByte (memSetBytes m a l) i = if a ≤ i ∧ i < a + l.length then l.getD (i - a) 0 else memByte m i) ∧
  (∀ (m : Mem) (a n : Nat), Memory.wf m = true → Memory.wf (zeroRange m a n) = true ∧
    ∀ i, memByte (zeroRange m a n) i = if a ≤ i ∧ i < a + n then 0 else memByte m i) ∧
  (∀ (s : State) (a : Nat) (l : List Byte), s.memWf = true → (sysPut s a l).memWf = true ∧ (unitPut s a l).memWf = true ∧
    s.releaseHeld.memWf = true) ∧
  (∀ (s : State) (k : Fin 32) (n : Nat) (g : Option (BitVec 2)), s.memWf = true →
    (writeBack s k n g).memWf = true ∧ (evictLine s k n).memWf = true) ∧
  (∀ (s : State) (k : Fin 32) (a : Nat) (l : List Byte) (v : Bool) (sc : BitVec 2), s.memWf = true →
    (cacheWrite s k a l v sc).memWf = true) ∧
  (∀ (s : State) (k : Fin 32) (sc : BitVec 2), s.memWf = true → (wbAll s k sc).memWf = true ∧ (invAll s k sc).memWf = true) ∧
  (∀ (s : State) (f : Nat) (x : List Byte), s.memWf = true → (nearPut s f x).memWf = true) ∧
  (∀ (s : State) (k : Nat) (m : Mem), s.memWf = true → Memory.wf m = true → (s.setFar k m).memWf = true)

/-! ### Rows and the heap -/

/-- Tier 1. HOPEN of a row whose checks pass gives the handle the row's address and its cached translation, holds it exactly when the status
is 0 or 1, and returns the status; outside row-linear and managed ranges it traps with 0x08, in a poisoned frame with 0x11, in a managed
range without a pin with 0x0B, and where the address does not translate as the load would; that an address of the scratchpad window traps
with 0x08 is the model's reading (log 40). HREL of an invalid handle does nothing, and HREL of a valid one resets it and ends its share. HLD
and HST read and write the row at the system cache; an offset that is not a multiple of the access size traps with 0x04, for a vector of its
512 bytes, where R311 governs over the column of R279 (log 40), and one outside the row with 0x08 (R160 to R162, R165, R311, R312). -/
def Obligations.RowWords : Prop :=
  (∀ h o s, Runs (.hopen h o) s →
    let va := ((s.cur.sreg (o.dr.toNat + 1)).toNat % 2 ^ 16) * 2 ^ 32 + (s.cur.sreg o.dr.toNat).toNat
    (∀ s1 x, rowSite s s.iss.ctx va = .ok (s1, x) →
      let st := holdStatus (releaseHandle s1 s.iss.ctx o.kh.toNat).heap.holds s.iss.ctx x.rb x.row
      ∃ t, exec (.hopen h o) s = .next t ∧ t.iss.verdict = .done ∧
        t.cur.hreg o.kh.toNat = { rowv := true, held := decide (st = 0 ∨ st = 1), va := BitVec.ofNat 48 (va / 2048 * 2048),
                                  xl := some x.xl, obj := x.obj } ∧
        t.cur.pipe.locks = s1.cur.pipe.locks ++
          [{ id := s1.cur.lockId, ws := oneS o.dr.toNat (BitVec.ofNat 32 st), af := 0, ready := true }] ∧ t.cur.regs = s1.cur.regs) ∧
    (s.cur.tr.mode = false → inWindow va = true → exec (.hopen h o) s = .next (takeStop (stopAddr 0x08 va) s)) ∧
    (s.cur.tr.mode = true ∨ inWindow va = false →
      (∀ e, rowXlate s s.iss.ctx va = .error e → exec (.hopen h o) s =
        .next (takeStop (wordStop e s.iss.ctx va .rd).1 (wordStop e s.iss.ctx va .rd).2)) ∧
      (∀ s1 pa r w, rowXlate s s.iss.ctx va = .ok (s1, pa, r, w) →
        (s1.rowAt pa = none → exec (.hopen h o) s = .next (takeStop (stopAddr 0x08 va) s1)) ∧
        (s1.rowAt pa ≠ none → s1.famHas (frameOf pa) famPSN = true → exec (.hopen h o) s = .next (takeStop (stopAddr 0x11 va) s1)) ∧
        (s1.rowAt pa ≠ none → s1.famHas (frameOf pa) famPSN = false → (∃ g, s1.region pa = some g ∧ g.cls = 2) →
          pinnedObj s1 s.iss.ctx pa = none → exec (.hopen h o) s = .next (takeStop (stopAddr 0x0B va) s1))))) ∧
  (∀ h o s, Runs (.hrel h o) s → (s.cur.hreg o.kh.toNat).rowv = false → exec (.hrel h o) s = .next (s.verdict .done)) ∧
  (∀ h o s, Runs (.hrel h o) s → (s.cur.hreg o.kh.toNat).rowv = true → ∃ t, exec (.hrel h o) s = .next t ∧ t.iss.verdict = .done ∧
    t.cur.hreg o.kh.toNat = .reset ∧ (∀ k, k ≠ o.kh.toNat → t.cur.hreg k = s.cur.hreg k) ∧ t.cur.regs = s.cur.regs ∧ t.mem = s.mem ∧
    t.heap = { s.heap with holds := dropShare s.heap.holds s.iss.ctx o.kh.toNat }) ∧
  (∀ h o s, Runs (.hld h o) s → ∀ s1 pa, rowAccess s o false = .ok (s1, pa) →
    let r := rowLoad s1 s.iss.ctx pa (szBytes o.sz) o.ord
    exec (.hld h o) s = .next ((afterAcquire (r.1.setBank s.iss.ctx ((r.1.bank s.iss.ctx).lockWrites
      (dataWrites s.cur o.sz o.dr.toNat r.2) 0 true)) s.iss.ctx (o.ord == 2) 2).verdict .done)) ∧
  (∀ (s : State) (c : Ctx) (pa n : Nat) (ord : BitVec 2), (s.bank c).pipe.early = [] →
    rowLoad s c pa n ord = (s.syncRead pa n, sysBytes (s.syncRead pa n) pa n)) ∧
  (∀ h o s, Runs (.hst h o) s → ∀ s1 pa, rowAccess s o true = .ok (s1, pa) → exec (.hst h o) s =
    .next ((sysStore (beforeRelease s1 s.iss.ctx (o.ord == 2) 2) s.iss.ctx pa (dataBytes s.cur o.sz o.dr.toNat)).verdict .done)) ∧
  (∀ h o s, (s.cur.hreg o.kh.toNat).rowv = true →
    let off := signed 22 o.off.toNat
    let va := (((s.cur.hreg o.kh.toNat).va.toNat : Int) + off + 2 ^ 48).toNat % 2 ^ 48
    (off % (szBytes o.sz : Nat) ≠ 0 → (Runs (.hld h o) s → exec (.hld h o) s = .next (takeStop (stopAddr 0x04 va) s)) ∧
      (Runs (.hst h o) s → exec (.hst h o) s = .next (takeStop (stopAddr 0x04 va) s))) ∧
    (off % (szBytes o.sz : Nat) = 0 → off < 0 ∨ 2048 < off + (szBytes o.sz : Nat) →
      (Runs (.hld h o) s → exec (.hld h o) s = .next (takeStop (stopAddr 0x08 va) s)) ∧
      (Runs (.hst h o) s → exec (.hst h o) s = .next (takeStop (stopAddr 0x08 va) s)))) ∧
  (∀ h o s, (s.cur.hreg o.kh.toNat).rowv = false →
    let va := (((s.cur.hreg o.kh.toNat).va.toNat : Int) + signed 22 o.off.toNat + 2 ^ 48).toNat % 2 ^ 48
    (Runs (.hld h o) s → exec (.hld h o) s = .next (takeStop (stopAddr 0x08 va) s)) ∧
    (Runs (.hst h o) s → exec (.hst h o) s = .next (takeStop (stopAddr 0x08 va) s)))

/-- Tier 2. Resolve finds a live object that has not moved, records the time of the access, and raises a reference fault with the heap
address for a null reference and for one that HEAPCTL.EN, its colour, its alignment or the heap's size rules out (R172, R167). The words
that reach into an object take the fault of a null base reference; on a live, unmoved object whose bytes can be reached they load, store and
pin it, and a store of bit 0 at offset 8 marks it dead; KPIN counts the pin, enters it in the pin set and returns the object's virtual
address, and KUNPIN of a pin made since the last boundary takes it back (R315, R316, R318, R169, R178). That KUNPIN writes the object's L1
lines back then, so that the stores made through the pin come before it, is the model's reading (log 51). -/
def Obligations.ObjectWords : Prop :=
  (∀ s r i full, PlainObject s r i → resolve s r full =
    .ok (s.setObj i { s.obj i with last := nowMs s }, { h := refAddr r, oti := i, valid := true, null := false })) ∧
  (∀ s r, refNull r = true → resolve s r true = .error (stopAddr 0x0B (refAddr r), s)) ∧
  (∀ s r full, refNull r = false → (s.heap.en = false ∨ refCol r = 0 ∨ refAddr r % 32 ≠ 0 ∨ s.heapBytes ≤ refAddr r) →
    resolve s r full = .error (stopAddr 0x0B (refAddr r), s)) ∧
  (∀ h o s, refNull (s.cur.kreg o.kb.toNat) = true →
    let t := takeStop (stopAddr 0x0B (refAddr (s.cur.kreg o.kb.toNat))) s
    (Runs (.kget h o) s → exec (.kget h o) s = .next t) ∧ (Runs (.kput h o) s → exec (.kput h o) s = .next t) ∧
    (Runs (.kldObject h o) s → exec (.kldObject h o) s = .next t) ∧ (Runs (.kstObject h o) s → exec (.kstObject h o) s = .next t) ∧
    (Runs (.kpin h o) s → exec (.kpin h o) s = .next t)) ∧
  (∀ h o s i, PlainObject s (s.cur.kreg o.kb.toNat) i →
    let a := refAddr (s.cur.kreg o.kb.toNat)
    let s1 := s.setObj i { s.obj i with last := nowMs s }
    (Runs (.kget h o) s → objRange s1 a (kOff o) (szAlign o.sz) (szBytes o.sz) = .ok () →
      ∀ s2 pa, objReach s1 s.iss.ctx a (kOff o) (szBytes o.sz) = .ok (s2, pa) →
        let r := rowLoad s2 s.iss.ctx pa (szBytes o.sz) o.ord
        exec (.kget h o) s = .next ((afterAcquire (r.1.setBank s.iss.ctx ((r.1.bank s.iss.ctx).lockWrites
          (dataWrites s.cur o.sz o.dr.toNat r.2) 0 true)) s.iss.ctx (o.ord == 2) 2).verdict .done)) ∧
    (Runs (.kput h o) s → objRange s1 a (kOff o) (szAlign o.sz) (szBytes o.sz) = .ok () → 0x18 ≤ kOff o →
      ∀ s2 pa, objReach s1 s.iss.ctx a (kOff o) (szBytes o.sz) = .ok (s2, pa) → exec (.kput h o) s =
        .next ((sysStore (beforeRelease s2 s.iss.ctx (o.ord == 2) 2) s.iss.ctx pa (dataBytes s.cur o.sz o.dr.toNat)).verdict .done)) ∧
    (Runs (.kput h o) s → objRange s1 a 8 1 1 = .ok () → kOff o = 8 → o.sz = 0 →
      ∀ s2 pa, objReach s1 s.iss.ctx a 8 1 = .ok (s2, pa) → ∃ t, exec (.kput h o) s = .next t ∧ t.iss.verdict = .done ∧
        ((s.cur.sreg o.dr.toNat).getLsbD 0 = true → (t.obj i).st = .dead) ∧
        ((s.cur.sreg o.dr.toNat).getLsbD 0 = false → t = (beforeRelease s2 s.iss.ctx (o.ord == 2) 2).verdict .done)) ∧
    (Runs (.kput h o) s → objRange s1 a (kOff o) (szAlign o.sz) (szBytes o.sz) = .ok () → kOff o < 0x18 → (kOff o ≠ 8 ∨ o.sz ≠ 0) →
      exec (.kput h o) s = .next (takeStop (stopAddr 0x0B (a + (kOff o).toNat)) s)) ∧
    (Runs (.kpin h o) s → (s.member s.iss.ctx).pins.length < 16 → (s.obj i).pins < 65535 →
      ∃ t, exec (.kpin h o) s = .next t ∧ t.iss.verdict = .done ∧ (t.obj i).pins = (s.obj i).pins + 1 ∧ t.mem = s.mem ∧
        (t.member s.iss.ctx).pins = (s.member s.iss.ctx).pins ++ [{ oti := i, releasing := false, logged := true }] ∧
        t.cur = s.cur.lockD o.dr.toNat (BitVec.ofNat 64 (s.heap.va.toNat + a))) ∧
    (Runs (.kunpin h o) s → ∀ l, (s.member s.iss.ctx).pins = l ++ [{ oti := i, releasing := false, logged := true }] →
      ∃ t, exec (.kunpin h o) s = .next t ∧ t.iss.verdict = .done ∧ (t.obj i).pins = (s.obj i).pins - 1 ∧
        (t.member s.iss.ctx).pins = l ∧ t.cur.regs = s.cur.regs ∧ t.mem = (writeObjBack s1 s.iss.ctx i).mem))

/-- Tier 1. KEQ compares two references without a check and never faults. KLD loads a reference word at either address form, resolves it
with full = 0, and gives k[KH] the null reference, or the good colour, the word's bits [61:48] and the address that Resolve found, healing
the word where it differs; KST stores k[KH] unchanged, but an interior reference outside the heap raises 0x0B, and into a relocating object
it waits. KNEW with no entry or no heap space returns a null reference, raises event 4 and counts it; with space it returns a reference to a
live, unpinned object whose header holds its size, its entry and its type and whose other bytes are zero, and changes no other byte; a size
out of range or HEAPCTL.EN = 0 raises 0x0B (R315, R317, R319, R173, R174, R169). Which address that last fault gives is open (log 7), which
granules are taken is the model's (log 51), and so are that KNEW sets LAST to the present time (log 40) and that loads read ahead in a list
of their own, which a new object empties (log 8). -/
def Obligations.ReferenceWords : Prop :=
  let loads (i : Instr) (o : KOps) (s s0 : State) (p : RefPlace) : Prop :=
    let c := s0.iss.ctx
    let s1 := (loadRef s0 c p o.ord).1
    let w := (loadRef s0 c p o.ord).2
    let done (u : State) (v : DWord) : State :=
      (afterAcquire (u.setBank c ((u.bank c).lockWrites [.k o.kh.toNat v] 0 true)) c (o.ord == 2) p.scope).verdict .done
    (refNull w = true → exec i s = .next (done s1 nullRef)) ∧
    (∀ k, PlainObject s1 w k → exec i s = .next (done (s1.setObj k { s1.obj k with last := nowMs s1 }) w)) ∧
    (∀ s2 f, resolve s1 w false = .ok (s2, f) → f.null = false →
      let v := s2.heap.goodc ++ w.extractLsb' 48 14 ++ BitVec.ofNat 48 f.h
      exec i s = .next (done (if w = v then s2 else healRef s2 c p w v) v)) ∧
    (∀ st s2, resolve s1 w false = .error (st, s2) → exec i s = .next (takeStop st s2))
  let stores (i : Instr) (o : KOps) (s s1 : State) (p : RefPlace) : Prop :=
    let c := s1.iss.ctx
    let v := s1.cur.kreg o.kh.toNat
    v.getLsbD 61 = false ∨ inHeap s1 p = true → exec i s =
      .next ((writeRef (beforeRelease s1 c (o.ord == 2) p.scope) c p v).verdict .done)
  (∀ h o s, Runs (.keq h o) s →
    let a := s.cur.kreg o.kh.toNat
    let b := s.cur.kreg o.kb.toNat
    exec (.keq h o) s = .next (s.locked (oneS o.dr.toNat
      (if (if refNull a || refNull b then refNull a && refNull b else keqFwd s a == keqFwd s b && refGen a == refGen b)
       then 1 else 0)) 0)) ∧
  (∀ h o s, let va := kVa s.cur o
    (Runs (.kld h o) s →
      (s.heap.en = false → exec (.kld h o) s = .next (takeStop (stopAddr 0x0B va) s)) ∧
      (s.heap.en = true → va % 8 ≠ 0 → exec (.kld h o) s = .next (takeStop (stopAddr 0x04 va) s)) ∧
      (s.heap.en = true → ∀ s1 l, refReach s s.iss.ctx va .rd = .ok (s1, l) → loads (.kld h o) o s s1 (.loc l va))) ∧
    (Runs (.kst h o) s →
      (s.heap.en = false → exec (.kst h o) s = .next (takeStop (stopAddr 0x0B va) s)) ∧
      (s.heap.en = true → va % 8 ≠ 0 → exec (.kst h o) s = .next (takeStop (stopAddr 0x04 va) s)) ∧
      (s.heap.en = true → ∀ s1 l, refReach s s.iss.ctx va .wr = .ok (s1, l) → stores (.kst h o) o s s1 (.loc l va) ∧
        ((s1.cur.kreg o.kh.toNat).getLsbD 61 = true → inHeap s1 (.loc l va) = false →
          exec (.kst h o) s = .next (takeStop (stopAddr 0x0B va) s))))) ∧
  (∀ h o s s1 f pa, objPlace o s = .ok (s1, f, pa) →
    (Runs (.kldObject h o) s → loads (.kldObject h o) o s s1 (.obj pa ((s1.obj f.oti).st != .reloc))) ∧
    (Runs (.kstObject h o) s →
      ((s1.obj f.oti).st ≠ .reloc → stores (.kstObject h o) o s s1 (.obj pa false)) ∧
      ((s1.obj f.oti).st = .reloc → exec (.kstObject h o) s = .next (s.verdict .stalled)))) ∧
  (∀ h o s st s1, objPlace o s = .error (st, s1) →
    (Runs (.kldObject h o) s → exec (.kldObject h o) s = .next (takeStop st s1)) ∧
    (Runs (.kstObject h o) s → exec (.kstObject h o) s = .next (takeStop st s1))) ∧
  (∀ h o s, Runs (.knew h o) s →
    let n := (s.cur.sreg o.dr.toNat).toNat
    let ty := s.cur.sreg (o.dr.toNat + 1)
    let size := (n + 63) / 64 * 64
    (s.heap.en = false ∨ n < 256 ∨ 16777216 < n →
      ∃ e v, exec (.knew h o) s = .next (takeStop (.trap 0x0B e v false false) s.bump.bump)) ∧
    (s.heap.en = true → 256 ≤ n → n ≤ 16777216 →
      (freeObj s 262144 0 = none ∨ heapSpace s s.iss.ctx.core size = none →
        ∃ t, exec (.knew h o) s = .next t ∧ t.iss.verdict = .done ∧ t.heap.knewfail = s.heap.knewfail + 1 ∧
          t.plat.evtst.getLsbD 4 = true ∧ t.mem = s.mem ∧ t.cur = s.cur.lockWrites [.k o.kh.toNat nullRef] 0 true) ∧
      (∀ i s1 a, freeObj s 262144 0 = some i → heapSpace s s.iss.ctx.core size = some (s1, a) →
        ∃ t, exec (.knew h o) s = .next t ∧ t.iss.verdict = .done ∧
          t.obj i = { s.obj i with pins := 0, last := nowMs s, st := .live, addr := a } ∧
          (∀ k, k ≠ i → t.obj k = s.obj k) ∧ t.objSize a = size ∧ t.headerOti a = i ∧ rawLe t (t.heapPa a + 20) 4 = ty.toNat ∧
          (∀ k, k < size → (4 ≤ k ∧ k < 16) ∨ 24 ≤ k → t.mainByte (t.heapPa a + k) = 0) ∧
          (∀ b, b < t.heapPa a ∨ t.heapPa a + size ≤ b → t.mainByte b = s.mainByte b) ∧
          t.cur = (let b := s.cur.lockWrites [.k o.kh.toNat
                     (s.heap.goodc ++ bit1 (o.off.getLsbD 0) ++ (0 : BitVec 1) ++ (s.obj i).gen ++ BitVec.ofNat 48 a)] 0 true
                   { b with pipe := { b.pipe with early := [] } }))))

/-! ### Engines -/

/-- Tier 2. A command word whose checks pass appends one command to its FIFO while that has a place, and waits while it has none; the other
FIFOs, the registers and every other bank stay; a split MMA or MMAS is numbered, and what the members' are compared by is kept; MLEASE asks
for the array, and MFREE gives it up or takes the request back (R206, R216, R211, R302, R309, R325 to R330, R375, R376). -/
def Obligations.EnginePushes : Prop :=
  (∀ (s : State) (c : Ctx) (f : FifoId) (x : Cmd),
    (((pushCmd s c f x).bank c).eng.fifo f).q = ((s.bank c).eng.fifo f).q ++ [x] ∧
    (∀ g, g ≠ f → ((pushCmd s c f x).bank c).eng.fifo g = (s.bank c).eng.fifo g) ∧
    ((pushCmd s c f x).bank c).regs = (s.bank c).regs ∧ OnlyBank c s (pushCmd s c f x)) ∧
  (let push (i : Hdr → EOps → Instr) (k : CmdKind) (f : FifoId) (ok : State → Cmd → Prop) : Prop := ∀ h o s, Runs (i h o) s →
    ok s (cmdOf k o s.cur) →
    ((s.cur.eng.fifo f).full = false → exec (i h o) s = .next ((pushCmd s s.iss.ctx f (cmdOf k o s.cur)).verdict .done)) ∧
    ((s.cur.eng.fifo f).full = true → exec (i h o) s = .next (s.verdict .stalled))
   push .merge .merge .de (fun _ x => x.y ≠ 0 ∧ x.y.toNat ≤ 64) ∧
   push .hacc .hacc .de (fun s x => x.x.toNat % 32 = 0 ∧ x.x.toNat + 32 ≤ s.cur.spTotal ∧
     (s.cur.tr.mode = false ∨ haccStopped s.cur.eng = false)) ∧
   push .mzero .mzero .mx (fun s x => x.y.toNat < 2 ^ 25 ∧ accCheck s.cur x.x (shapeOf x.y) = none) ∧
   push .mrd .mrd .mx (fun s x => x.y.toNat < 2 ^ 25 ∧ (∀ e, mrdCheck s.cur x e = none) ∧ accCheck s.cur x.x (shapeOf x.y) = none) ∧
   push .mma .mma .mx (fun s x => (∀ e, mmaCheck s.cur x e = none) ∧ isSplit s.cur x = false) ∧
   push .mmas .mmas .mx (fun s x => (∀ e, mmaCheck s.cur x e = none) ∧ isSplit s.cur x = false) ∧
   push .mrank .mrank .mx (fun s x => x.y.toNat < 2 ^ 17 ∧ (s.cur.ring x.ra).cnt ≠ 0 ∧ rankNeed s.cur x ≤ (s.cur.ring x.ra).cnt ∧
     (∀ e, operandFmt e (rankOperand s.cur x).bf (rankOperand s.cur x).bank = none) ∧ (rankOperand s.cur x).bf.grp = 0 ∧
     x.selK ≤ (shapeOf x.y).n ∧ accCheck s.cur x.x (shapeOf x.y) = none ∧ (x.selK = 0 ∨ x.z.toNat % 8 = 0))) ∧
  (∀ h o s, Runs (.hacc h o) s → (s.cur.sreg o.sx.toNat).toNat % 32 = 0 → (s.cur.sreg o.sx.toNat).toNat + 32 ≤ s.cur.spTotal →
    s.cur.tr.mode = true → haccStopped s.cur.eng = true →
    exec (.hacc h o) s = .next ((s.setEng s.iss.ctx (haccResume s.cur.eng)).verdict .done)) ∧
  (let split (i : Hdr → EOps → Instr) (k : CmdKind) : Prop := ∀ h o s, Runs (i h o) s →
    let x := cmdOf k o s.cur
    (∀ e, mmaCheck s.cur x e = none) → isSplit s.cur x = true →
    ((s.cur.eng.fifo .mx).full = true → exec (i h o) s = .next (s.verdict .stalled)) ∧
    ((s.cur.eng.fifo .mx).full = false →
      ∃ t, exec (i h o) s = .next t ∧ t.iss.verdict = .done ∧ t.cur.eng.split = s.cur.eng.split + 1 ∧
        t.cur.eng.mx.q = s.cur.eng.mx.q ++ [{ x with split := some s.cur.eng.splitNo }] ∧
        t.cur.eng.sigs = s.cur.eng.sigs ++ [(s.cur.eng.splitNo, splitSig s.cur x)] ∧ t.cur.regs = s.cur.regs ∧ OnlyBank s.iss.ctx s t)
   split .mma .mma ∧ split .mmas .mmas) ∧
  (∀ h o s, Runs (.cpy h o) s → ∀ s1 d, readDesc s (descVa s.cur (s.cur.sreg o.sx.toNat)) 32 = .ok (s1, d) →
    let x := { cmdOf .cpy o s.cur with desc := BitVec.ofNat 512 d }
    (∀ e, copyCheck s1 s1.cur x e = none) → ((s1.bank s.iss.ctx).eng.fifo (copyFifo x.copy.kind)).full = false →
    exec (.cpy h o) s = .next (((pushCmd s1 s.iss.ctx (copyFifo x.copy.kind) x).setBank s.iss.ctx
      (attachStreams ((pushCmd s1 s.iss.ctx (copyFifo x.copy.kind) x).bank s.iss.ctx) x)).verdict .done)) ∧
  (∀ h o s, Runs (.vchain h o) s → ∀ s1 d, readDesc s (descVa s.cur (s.cur.sreg (o.va.extractLsb' 0 6).toNat)) 64 = .ok (s1, d) →
    (∀ e, chainCheck d (etyOf o.ty) o.rm e = none) → ((s1.bank s.iss.ctx).eng.fifo .de).full = false →
    ∃ x, exec (.vchain h o) s = .next ((pushCmd s1 s.iss.ctx .de x).verdict .done) ∧ x.kind = .chain ∧ x.desc = BitVec.ofNat 512 d ∧
      x.ty = o.ty ∧ x.rm = o.rm ∧ x.sat = o.sat) ∧
  (∀ h o s, Runs (.mlease h o) s →
    exec (.mlease h o) s = .next ((if holdsLease s s.iss.ctx then s else s.setEng s.iss.ctx { s.cur.eng with wantMx := true, freeMx := false }).verdict .done)) ∧
  (∀ h o s, Runs (.mfree h o) s → holdsLease s s.iss.ctx = false →
    exec (.mfree h o) s = .next ((s.setEng s.iss.ctx { s.cur.eng with wantMx := false }).verdict .done)) ∧
  (∀ h o s, Runs (.mfree h o) s → holdsLease s s.iss.ctx = true →
    (s.cur.eng.mx.q.any Cmd.needsLease = false → ∃ t, exec (.mfree h o) s = .next t ∧ t.iss.verdict = .done ∧
      (t.cluster (clusterOf s.iss.ctx.core)).lease = none ∧ t.cur.eng.wantMx = false ∧ t.cur.eng.mx = s.cur.eng.mx) ∧
    (s.cur.eng.mx.q.any Cmd.needsLease = true → ∃ t, exec (.mfree h o) s = .next t ∧ t.iss.verdict = .done ∧
      (t.cluster (clusterOf s.iss.ctx.core)).lease = (s.cluster (clusterOf s.iss.ctx.core)).lease ∧ t.cur.eng.freeMx = true))

/-- Tier 2. QBIND binds a stream; RINIT makes an empty ring of its place, slot size, count and span; RADV waits for, or advances over,
filled or free slots; EPOP returns the next completion word and drops what is cached of the command's destination, or returns 0x80000000
with nothing outstanding; it waits while the tables of that destination migrate; ESTAT reads the engine status (R332, R339, R335, R305,
R306, R152, R134). -/
def Obligations.RingAndStreamWords : Prop :=
  (∀ h o s, Runs (.qbind h o) s → ∀ x, (o.eimm.extractLsb' 4 2 = 0 ∧ x = .unbound ∨ o.eimm.extractLsb' 4 2 = 1 ∧ x = .waiting false ∨
    o.eimm.extractLsb' 4 2 = 2 ∧ x = .waiting true) →
    exec (.qbind h o) s = .next ((setStream s s.iss.ctx (o.eimm.extractLsb' 0 4).toNat x).verdict .done)) ∧
  (∀ h o s, Runs (.qbind h o) s → o.eimm.extractLsb' 4 2 = 3 →
    ∀ s1 d g, readDesc s (descVa s.cur (s.cur.sreg o.sx.toNat)) 32 = .ok (s1, d) → genOf s1.cur d = some g →
    exec (.qbind h o) s = .next ((setStream s1 s.iss.ctx (o.eimm.extractLsb' 0 4).toNat (.gen g 0)).verdict .done)) ∧
  (∀ h o s, Runs (.rinit h o) s → (∀ k ∈ s.cur.eng.cmds, o.ra.toNat ∉ k.rings) →
    let x := (s.cur.sreg o.sx.toNat).toNat
    let y := (s.cur.sreg o.sy.toNat).toNat
    ∀ cnt span, (s.cur.sreg o.sz.toNat).toNat = cnt + 2 ^ 16 * span → 1 ≤ cnt → cnt ≤ 256 → span < 8 → x < 2 ^ 22 → y < 2 ^ 20 →
      x % 64 = 0 → y % 64 = 0 → y ≠ 0 → y % (16 * 2 ^ span) = 0 → x + cnt * y ≤ s.cur.spTotal → (wholeBank s.cur x (cnt * y)).isSome →
      ∃ t, exec (.rinit h o) s = .next t ∧ t.iss.verdict = .done ∧ (t.cur.ring o.ra.toNat).occ = 0 ∧
        (t.cur.ring o.ra.toNat).base = x ∧ (t.cur.ring o.ra.toNat).ssz = y ∧ (t.cur.ring o.ra.toNat).cnt = cnt ∧
        (∀ i, i < cnt → (t.cur.ring o.ra.toNat).tag i = BitVec.ofNat 16 span) ∧
        (∀ k, k ≠ o.ra.toNat → t.cur.ring k = s.cur.ring k) ∧ t.cur.regs = s.cur.regs ∧ t.cur.scr = s.cur.scr) ∧
  (∀ h o s, Runs (.radv h o) s →
    let r := s.cur.ring o.ra.toNat
    let n := (o.eimm.extractLsb' 0 8).toNat + 1
    n ≤ r.cnt →
    (o.eimm.extractLsb' 11 2 = 0 → n ≤ r.occ → exec (.radv h o) s = .next (s.verdict .done)) ∧
    (o.eimm.extractLsb' 11 2 = 0 → r.occ < n → exec (.radv h o) s = .next (s.verdict .stalled)) ∧
    (o.eimm.extractLsb' 11 2 = 1 → n ≤ r.occ →
      exec (.radv h o) s = .next ((setRing s s.iss.ctx o.ra.toNat { r with head := (r.head + n) % (2 * r.cnt) }).verdict .done)) ∧
    (o.eimm.extractLsb' 11 2 = 2 → n ≤ r.free → exec (.radv h o) s = .next (s.verdict .done)) ∧
    (o.eimm.extractLsb' 11 2 = 2 → r.free < n → exec (.radv h o) s = .next (s.verdict .stalled)) ∧
    (o.eimm.extractLsb' 11 2 = 3 → n ≤ r.free → exec (.radv h o) s =
      .next ((setRing s s.iss.ctx o.ra.toNat (r.fill n (o.eimm.extractLsb' 8 3).toNat)).verdict .done))) ∧
  (∀ h o s, Runs (.epop h o) s →
    let f := epopFifo (o.eimm.extractLsb' 0 2).toNat
    let q := s.cur.eng.fifo f
    (q.unpopped = 0 → exec (.epop h o) s = .next (s.locked (oneS o.sx.toNat 0x80000000#32) 0)) ∧
    (q.unpopped ≠ 0 → q.comp = [] → exec (.epop h o) s = .next (s.verdict .stalled)) ∧
    (∀ w x r, q.unpopped ≠ 0 → q.comp = (w, x) :: r →
      let s1 := s.setEng s.iss.ctx (s.cur.eng.setFifo f { q with comp := r, unpopped := q.unpopped - 1 })
      let waits := !x.mon && (destRanges s1 s.iss.ctx x).any fun r => rangeWaits s1 s.iss.ctx r.1 r.2
      (waits = true → exec (.epop h o) s = .next (s.verdict .stalled)) ∧
      (waits = false → exec (.epop h o) s = .next (((invDest s1 s.iss.ctx x).noEarly s.iss.ctx).locked (oneS o.sx.toNat w) 0)))) ∧
  (∀ h o s, Runs (.estat h o) s → exec (.estat h o) s = .next (s.locked (oneS o.sx.toNat (estatWord s.cur.eng o.eimm.toNat)) 0))

/-! ### Experts -/

/-- Tier 2. XROUTE releases, unless it has no pair, and leaves its pairs to be routed in ascending order, its result outstanding until the
last one; a pair that is routed puts the two halves of its word into its lane of the two result registers, and an unknown id claims nothing;
XCLOSE closes the named expert's batch after the claims are committed; XPIN and XUNPIN count pins between 0 and 65,535; XFETCH asks for a
copy; XQRY reads the status; XREPL enters a replica; XPRED and XSNAP act on nothing where their rules give nothing (R377 to R389). What a
peer's queue answers is a free value (log 13); that a pair is routed in a move of its own, and that CLU and DEV of an unknown id's word are
0, is the model's (log 1, log 16). -/
def Obligations.ExpertWords : Prop :=
  (∀ h o s, Runs (.xroute h o) s →
    let n := (s.cur.sreg o.sa.toNat).toNat
    n ≤ 128 → n + (s.member s.iss.ctx).slots.length ≤ 2048 →
    let s1 := if n = 0 then s else wbAll s s.iss.ctx.core 2
    ∃ t, exec (.xroute h o) s = .next t ∧ t.iss.verdict = .done ∧
      t.cur = { s1.cur with pipe := { s1.cur.pipe with
        locks := s1.cur.pipe.locks ++ [{ id := s1.cur.lockId, af := 0, ready := n == 0,
                                         ws := [.v (s.cur.physV o.vd.toNat) 0 allOnesV, .v (s.cur.physV (o.vd.toNat + 1)) 0 allOnesV] }]
        routes := s1.cur.pipe.routes ++ routeSteps s.cur o n s1.cur.lockId } } ∧
      (routeSteps s.cur o n s1.cur.lockId).length = n ∧
      (∀ k, k < n → ∃ x, (routeSteps s.cur o n s1.cur.lockId)[k]? = some x ∧ x.row = lane32 (s.cur.vreg o.va.toNat) k ∧
        x.xid = lane32 (s.cur.vreg o.vb.toNat) k ∧ x.lane = k ∧ x.xpol = s.cur.sys.xpol ∧ (x.last = true ↔ k + 1 = n)) ∧
      t.mem = s1.mem ∧ t.res = s.res ∧ t.sched = s.sched ∧ OnlyBank s.iss.ctx s t) ∧
  (∀ c s r l, s.plat.power = .on → (s.core c.core).freeze = 0 → (s.bank c).pipe.routes = r :: l →
    let p := routePair (s.setBank c { s.bank c with pipe := { (s.bank c).pipe with routes := l } }) (some c) r.xpol r.row r.xid
    makeMove (.routePair c) s = .next (p.1.setBank c
      (((p.1.bank c).fillLock r.lock (4 * r.lane) (natLe 4 (p.2.extractLsb' 0 32).toNat) false).fillLock r.lock (512 + 4 * r.lane)
        (natLe 4 (p.2.extractLsb' 32 32).toNat) r.last))) ∧
  (∀ (n1 n2 k : Nat) (v1 v2 m1 m2 : VReg) (w : Word), k < 128 → ∃ u1 u2,
    fillWrites [.v n1 v1 m1, .v n2 v2 m2] (4 * k) (natLe 4 w.toNat) = [.v n1 u1 m1, .v n2 v2 m2] ∧
    fillWrites [.v n1 v1 m1, .v n2 v2 m2] (512 + 4 * k) (natLe 4 w.toNat) = [.v n1 v1 m1, .v n2 u2 m2] ∧
    ∀ j, j < 128 → lane32 u1 j = (if j = k then lane32 v1 k ||| w else lane32 v1 j) ∧
      lane32 u2 j = (if j = k then lane32 v2 k ||| w else lane32 v2 j)) ∧
  (∀ s c xpol row x, s.tagIx? x = none → routePair s c xpol row x = (s, routeWord 0 0 false true 3 7 0 x)) ∧
  (∀ h o s, Runs (.xclose h o) s →
    let s1 := commitSlots (wbAll s s.iss.ctx.core 2) s.iss.ctx
    (s1.tagIx? (s.cur.sreg o.sa.toNat) = none → exec (.xclose h o) s = .next (s1.verdict .done)) ∧
    (∀ i, s1.tagIx? (s.cur.sreg o.sa.toNat) = some i → (s1.tag i).fin = false →
      exec (.xclose h o) s = .next ((closeExpert s1 i false).verdict .done))) ∧
  (∀ h o s, Runs (.xcloseFinal h o) s →
    let s1 := commitSlots (wbAll s s.iss.ctx.core 2) s.iss.ctx
    let x := s.cur.sreg o.sa.toNat
    ((s1.xslot (xidSlot x)).v = true → xidLayer x < (s1.xslot (xidSlot x)).layN →
      exec (.xcloseFinal h o) s = .next ((finalStart s1 (xidSlot x) (xidLayer x)).verdict .done)) ∧
    ((s1.xslot (xidSlot x)).v = false → exec (.xcloseFinal h o) s = .next (s1.verdict .done))) ∧
  (∀ h o s, Runs (.xfetch h o) s →
    (s.tagIx? (s.cur.sreg o.sa.toNat) = none → exec (.xfetch h o) s = .next (s.locked (oneS o.sb.toNat 5) 0)) ∧
    (∀ i, s.tagIx? (s.cur.sreg o.sa.toNat) = some i → (s.tag i).psn = true →
      exec (.xfetch h o) s = .next (s.locked (oneS o.sb.toNat 6) 0)) ∧
    (∀ i, s.tagIx? (s.cur.sreg o.sa.toNat) = some i → (s.tag i).psn = false →
      let st := ((s.tag i).copy (o.xf.getLsbD 0)).st
      (st = .resident → exec (.xfetch h o) s = .next (s.locked (oneS o.sb.toNat 1) 0)) ∧
      (st = .filling → exec (.xfetch h o) s = .next (s.locked (oneS o.sb.toNat 2) 0)) ∧
      (st = .none → exec (.xfetch h o) s = .next (s.locked (oneS o.sb.toNat 4) 0)) ∧
      (st = .absent → exec (.xfetch h o) s = .next ((requestFill s i (o.xf.getLsbD 0) 4).1.locked
        (oneS o.sb.toNat (if (requestFill s i (o.xf.getLsbD 0) 4).2 then 0 else 3)) 0)))) ∧
  (∀ h o s, Runs (.xpin h o) s → o.xf.getLsbD 0 = false → ∀ i, s.tagIx? (s.cur.sreg o.sa.toNat) = some i →
    let p := min 65535 ((s.tag i).pins + 1)
    (s.tag i).pins ≤ 65535 →
    ∃ w, exec (.xpin h o) s = .next ((s.setTag i { s.tag i with pins := p }).locked (oneS o.sb.toNat w) 0) ∧
      (w.extractLsb' 0 16).toNat = p ∧ w.getLsbD 31 = false ∧ (w.getLsbD 16 = true ↔ (s.tag i).pins = 65535)) ∧
  (∀ h o s, Runs (.xunpin h o) s → ∀ i, s.tagIx? (s.cur.sreg o.sa.toNat) = some i → (s.tag i).pins ≤ 65535 →
    ∃ w, exec (.xunpin h o) s = .next ((s.setTag i { s.tag i with pins := (s.tag i).pins - 1 }).locked (oneS o.sb.toNat w) 0) ∧
      (w.extractLsb' 0 16).toNat = (s.tag i).pins - 1 ∧ w.getLsbD 31 = false ∧ (w.getLsbD 16 = true ↔ (s.tag i).pins = 0)) ∧
  (∀ h o s, s.tagIx? (s.cur.sreg o.sa.toNat) = none →
    (Runs (.xpin h o) s → exec (.xpin h o) s = .next (s.locked (oneS o.sb.toNat 0x80000000#32) 0)) ∧
    (Runs (.xunpin h o) s → exec (.xunpin h o) s = .next (s.locked (oneS o.sb.toNat 0x80000000#32) 0)) ∧
    (Runs (.xqry h o) s → exec (.xqry h o) s = .next (s.locked (pairD o.sb.toNat (BitVec.allOnes 64)) 0))) ∧
  (∀ h o s, Runs (.xqry h o) s → ∀ i, s.tagIx? (s.cur.sreg o.sa.toNat) = some i →
    exec (.xqry h o) s = .next (s.locked (pairD o.sb.toNat (statusWord i (s.tag i))) 0)) ∧
  (∀ h o s, Runs (.xrepl h o) s →
    let r := xreplOf s (s.cur.sreg o.sa.toNat) (s.cur.sreg o.sb.toNat)
    exec (.xrepl h o) s = .next (r.1.locked (oneS o.sb.toNat (BitVec.ofNat 32 (r.2.1 + 16 * r.2.2))) 0)) ∧
  (∀ h o s, Runs (.xpred h o) s → (s.xslot (xidSlot (s.cur.sreg o.sb.toNat))).v = false → ∃ v,
    exec (.xpred h o) s = .next (s.locked [.v (s.cur.physV o.vd.toNat) v allOnesV] 0) ∧ v = 0) ∧
  (∀ h o s, Runs (.xpred h o) s →
    let x := s.cur.sreg o.sb.toNat
    let l := xidLayer x
    (s.xslot (xidSlot x)).v = true → l + 1 < (s.xslot (xidSlot x)).layN → s.layerWaits (xidSlot x) l = false →
    s.layerWaits (xidSlot x) (l + 1) = false →
    let s0 := (s.layerUe (xidSlot x) l).layerUe (xidSlot x) (l + 1)
    let y := s0.layer (xidSlot x) l
    let next := s0.layer (xidSlot x) (l + 1)
    let va := descVa s0.cur (s0.cur.sreg o.sa.toNat)
    (y.pm ≠ 0 ∨ y.co ≠ 0) → va % 4 = 0 →
    ∀ s1 ls, reachPieces s0 s.iss.ctx .rd (pagePieces (4 * y.nexp / 4096 + 2) va (4 * y.nexp)) = .ok (s1, ls) →
    let s2 := wbAll s1 s.iss.ctx.core 2
    let v := leNat (engBytes s2 s.iss.ctx ls)
    let rg := predRange y y.nexp next.nexp
    unitWait s2 rg.1 rg.2 .rd = false → ∀ p, predictions s2 y next.nexp ((List.range y.nexp).map fun i => bits v (32 * i) 32) = some p →
    let ids := (topRanks p ((o.xf.extractLsb' 0 4).toNat + 1)).map fun j => xidOf (xidSlot x) (l + 1) j
    let s3 := ids.foldl predictFill s2
    exec (.xpred h o) s = .next ((s3.setBank s.iss.ctx ((s3.bank s.iss.ctx).lockV [(o.vd.toNat, vecOfWords ids)])).verdict .done)) ∧
  (∀ h o s, Runs (.xsnap h o) s → s.cur.sreg (o.sb.toNat + 1) = 0 → exec (.xsnap h o) s = .next (s.verdict .done)) ∧
  (∀ h o s, Runs (.xsnap h o) s →
    let n := (s.cur.sreg (o.sb.toNat + 1)).toNat
    let va := descVa s.cur (s.cur.sreg o.sa.toNat)
    let ps := pagePieces (4 * n / 4096 + 2) va (4 * n)
    1 ≤ n → n ≤ 4096 → va % 4 = 0 → ∀ s1 ls s2, reachPieces s s.iss.ctx .wr ps = .ok (s1, ls) →
      clearPlaces s1 s.iss.ctx ((ps.map Prod.fst).zip ls) = .ok s2 →
      let r := snapCounters s2 (s.cur.sreg o.sb.toNat) (List.range n)
      exec (.xsnap h o) s = .next ((engPut (overPlaces r.1 s.iss.ctx ls) s.iss.ctx ls (r.2.flatMap fun w => natLe 4 w.toNat)).verdict .done))

/-! ### Events of banks and cores -/

/-- Tier 2. What the events of a bank or a core do when they are due: a result that exists lands and makes its flags visible; a pending
engine or domain fault is taken as its trap, once no memory step of an earlier word waits; nothing of a frozen core lands; an answer with
the record's number makes the blocked bank ready, or delivers the recorded cause; 2^22 issue cycles in monitor mode are a double fault; a
spent quantum and a stall of more than 64 cycles switch to a ready other bank at the cost of four cycles, and never out of monitor mode for
the quantum; a correctable error of a pool, an L1 or the near tier freezes its core; a line that is evicted keeps its written bytes; the
clear engine's end makes the bank ready (R84, R85, R229, R27, R133, R234, R17, R138, R119, R82, R83, R314, R351). That these events are
moves of an agenda, and the reading of which waits are stalls, are the model's (log 1, log 45). -/
def Obligations.BankEvents : Prop :=
  (∀ c s sd since imm, (s.bank c).pipe.wait = .idle sd since imm → (s.core c.core).freeze = 0 →
    (s.bank c).eng.faults = [] → (s.bank c).eng.idle = false → imm ≠ 0 → since + 64 * imm ≤ s.now c.core →
    exec (.idleTimeout c) s = .next (s.setBank c ({ s.bank c with pipe := { (s.bank c).pipe with wait := .none } }.lockS sd.toNat 1))) ∧
  (∀ c s a t imm, (s.bank c).pipe.wait = .tkw a t imm false → imm ≠ 0 → t + 64 * imm ≤ s.now c.core → (s.core c.core).freeze = 0 →
    exec (.tkwTimeout c) s = .next (s.setBank c { s.bank c with pipe := { (s.bank c).pipe with wait := .tkw a t imm true } })) ∧
  (∀ c s l r, (s.bank c).pipe.locks = l :: r → l.ready = true → (∀ x ∈ r, x.id ≠ l.id) → (s.core c.core).freeze = 0 →
    ∃ t, exec (.interlockedWriteLand c) s = .next t ∧ (t.bank c).pipe.locks = r ∧
      (∀ n v, l.ws = oneS n v → (t.bank c).tr.af = (s.bank c).tr.af ||| l.af ∧
        (n ≠ 0 → (t.bank c).sreg n = v) ∧ ∀ m, m ≠ n → (t.bank c).sreg m = (s.bank c).sreg m) ∧ OnlyBank c s t) ∧
  (∀ c s, (s.core c.core).freeze ≠ 0 → exec (.interlockedWriteLand c) s = .next s) ∧
  (∀ c s, (∀ l ∈ (s.bank c).pipe.locks, l.ready = false) → exec (.interlockedWriteLand c) s = .next s) ∧
  (∀ c s x, (s.bank c).pipe.inflight = [x] → x.due ≤ (s.bank c).pipe.cyc → ∃ t, exec (.fixedLatencyVisible c) s = .next t ∧
    (t.bank c).pipe.inflight = [] ∧ (∀ n v, x.w = .s n v (BitVec.allOnes 32) → n ≠ 0 → (t.bank c).sreg n = v) ∧ OnlyBank c s t) ∧
  (∀ c s f, (s.bank c).eng.faults = [f] → (s.bank c).pipe.wait = .none → activeBank s c = true → (s.bank c).tr.mode = false →
    (s.bank c).dfault = none → (s.bank c).discard = false → (s.bank c).pipe.steps = [] →
    (f.code ≠ 0x07 → ∃ t, exec (.engineFaultTaken c) s = .next t ∧ (t.bank c).tr.mode = true ∧ (t.bank c).tr.eval = f.eval ∧
      (t.bank c).tr.ecause.extractLsb' 0 8 = f.code ∧ (t.bank c).tr.epc = (s.bank c).th.pc.extractLsb' 3 32 ∧ (t.bank c).eng.faults = []) ∧
    (f.code = 0x07 → ∃ t, exec (.engineFaultTaken c) s = .next t ∧ (t.bank c).phase = .pageFault ∧ (t.bank c).frec.v = true ∧
      (t.bank c).frec.cause = 0x07 ∧ (t.bank c).frec.va = f.vah ++ f.eval ∧ (t.bank c).frec.seq = (s.bank c).frec.seq + 1 ∧
      t.plat.evtst.getLsbD 1 = true)) ∧
  (∀ c s k, (s.bank c).dfault = some k → activeBank s c = true → (s.bank c).tr.mode = false → (s.bank c).pipe.wait = .none →
    (s.bank c).discard = false → (s.bank c).pipe.steps = [] → ∃ t, exec (.domainFaultTaken c) s = .next t ∧ (t.bank c).tr.mode = true ∧ (t.bank c).tr.ecause.extractLsb' 0 8 = 0x12#8 ∧
      (t.bank c).tr.eval = BitVec.ofNat 32 k ∧ (t.bank c).dfault = none) ∧
  (∀ c s, (s.bank c).pipe.wait = .none → (s.bank c).pipe.steps ≠ [] →
    exec (.engineFaultTaken c) s = .next s ∧ exec (.domainFaultTaken c) s = .next s) ∧
  (∀ c s, (s.bank c).frec.v = true → (s.bank c).phase = .pageFault → (s.core c.core).issuing = some c.bank →
    (∃ t, exec (.frespRetry c (s.bank c).frec.seq) s = .next t ∧ (t.bank c).phase = .ready ∧ (t.bank c).frec.v = false ∧
      (t.bank c).th.pc = (s.bank c).th.pc ∧ (t.bank c).regs = (s.bank c).regs) ∧
    ((s.bank c).tr.mode = false → ∃ t, exec (.frespDeliver c (s.bank c).frec.seq) s = .next t ∧ (t.bank c).phase = .ready ∧
      (t.bank c).frec.v = false ∧ (t.bank c).tr.mode = true ∧ (t.bank c).tr.ecause.extractLsb' 0 8 = (s.bank c).frec.cause ∧
      (t.bank c).tr.eval = (s.bank c).frec.va.extractLsb' 0 32)) ∧
  (∀ c s, (s.bank c).tr.mode = true → 2 ^ 22 ≤ (s.bank c).pipe.mon → (s.bank c).pipe.wait = .none → (s.core c.core).freeze = 0 →
    (s.bank c).eng.cmds ≠ [] → (∀ q, q ∈ [(s.bank c).eng.mx, (s.bank c).eng.de, (s.bank c).eng.ci, (s.bank c).eng.co] → q.stopped = false) →
    ∃ t, exec (.monitorLimitExpiry c) s = .next t ∧ (t.bank c).pipe.wait = .texit ∧ t.plat.evtst.getLsbD 7 = true ∧
      t.plat.crkN = s.plat.crkN + 1) ∧
  (∀ c s, (s.core c.core).issuing = some c.bank → (s.core c.core).switch = 0 → (s.core c.core).freeze = 0 →
    s.isReady (otherBank c) = true →
    ((s.bank c).tr.mode = false → (s.bank c).pipe.since + 38000 ≤ s.time → ∃ t, exec (.quantumExpiry c.core) s = .next t ∧
      (t.core c.core).issuing = some (otherBank c).bank ∧ (t.core c.core).switch = 4) ∧
    ((s.bank c).tr.mode = true → exec (.quantumExpiry c.core) s = .next s) ∧
    (64 < (s.bank c).pipe.stall → ∃ t, exec (.stallLimitExpiry c.core) s = .next t ∧
      (t.core c.core).issuing = some (otherBank c).bank ∧ (t.core c.core).switch = 4)) ∧
  (∀ (core : Fin 32) (st : Fin 5) s, (s.core core).freeze = 0 → ∃ t, exec (.eccCorrectableFreeze core st) s = .next t ∧
    tabGet t.mem.eccce st.val 0 = tabGet s.mem.eccce st.val 0 + 1 ∧ (t.core core).freeze = (if st.val < 3 then 25 else 0) ∧
    t.banks = s.banks ∧ t.mem.main = s.mem.main) ∧
  (∀ core s, (s.core core).freeze = 1 →
    exec (.freezeEnd core) s = .next (s.setCore core { s.core core with freeze := 0 })) ∧
  (∀ core line s l, s.l1? core line = some l → (1, core.val * 2 ^ 48 + line) ∉ s.mem.bad →
    s.famHas (frameOf (128 * line)) famMIG = false →
    ∃ t, exec (.l1CapacityEviction core line) s = .next t ∧ t.l1? core line = none ∧
      (∀ i, i < 128 → t.mainByte (128 * line + i) =
        if l.dirty.getLsbD i then l.data.extractLsb' (8 * i) 8 else s.mainByte (128 * line + i)) ∧
      (∀ a, a < 128 * line ∨ 128 * line + 128 ≤ a → t.mainByte a = s.mainByte a)) ∧
  (∀ c s r, (s.bank c).phase = .clearing 0 → (s.core c.core).freeze = 0 → (s.core c.core).issuing = none →
    (s.member c).restart = some r → r.mask = 0 → ∃ t, exec (.clearEngineDone c) s = .next t ∧ (t.bank c).phase = .ready ∧
      (t.core c.core).issuing = some c.bank ∧ (t.bank c).th.pc = r.rpc ∧ (t.bank c).loops = r.loops ∧
      (t.bank c).sreg 1 = (s.node (s.bank c).th.node).desc.args.extractLsb' 0 32 ∧
      (∀ k, k < 6 → (t.bank c).sreg (3 + k) = (s.node (s.bank c).th.node).desc.lv.getD k 0))

/-- Tier 2. The engines and what governs them: a head that may start starts and takes its tokens, a MERGE joining the queue of its cluster's
tree, of which only the first goes on; a running command's micro-step that has its grant, or needs none, is made, without one it asks; a
memory step of an LDV, LDM, STV or STM that is granted is performed; a free array goes to the next requester; a lease of 65,536 periods
ends; a bucket cycle adds CUR up to CAP and grants in turn; once a microsecond CUR rises by RAMP after a refusal and falls by it after a
full microsecond; hops begin at a cluster cycle boundary, body bias and droop run their courses; a sensor reading that is due is taken; the
blocks in which copied elements cross the link lose nothing (R114, R206, R208, R209, R222, R241 to R243, R246 to R249). The size of a micro-step,
and the order in which a sensor reading acts, are the model's (log 22, log 47). -/
def Obligations.EngineAndClusterEvents : Prop :=
  (∀ c s x, mxReady s c = some x → mxTotal ((countLease (startHead s c .mx x) c x).bank c) x ≠ 0 →
    ∃ t, exec (.matrixCommandStart c) s = .next t ∧ (t.bank c).eng.mx.run = true ∧ (t.bank c).eng.mx.q = (s.bank c).eng.mx.q ∧
      (∀ k, (t.bank c).eng.chan k = ((s.bank c).eng.popTokens .mx x.tok).chan k)) ∧
  (∀ c s f x, copyPick s c = some (f, x) →
    let s1 := startHead s c f x
    let s2 := s1.setEng c { (s1.bank c).eng with lastCi := f == .ci }
    copyTotal s2 c x ≠ 0 → exec (.copyCommandStart c) s = .next s2) ∧
  (∀ c s x, deReady s c = some x →
    let s1 := startHead s c .de x
    (s1.bank c).eng.de.run = true ∧
    (x.kind = .hacc → exec (.dataCommandStart c) s = .next s1) ∧
    (x.kind = .merge → ∃ t, exec (.dataCommandStart c) s = .next t ∧ t = setTree s1 c (treeQueue (freeTree s1 c) c) ∧
      (t.cluster (clusterOf c.core)).tree.getLast? = some c) ∧
    (x.kind = .chain → (chainD x.desc.toNat).n ≠ 0 → exec (.dataCommandStart c) s = .next s1) ∧
    (x.kind = .chain → (chainD x.desc.toNat).n = 0 → exec (.dataCommandStart c) s = .next (chainDone s1 c x))) ∧
  (∀ c s x, runningHead s c .mx = some x → (s.bank c).eng.mx.prog.done = false →
    let k := clusterOf c.core
    let q := chargeReq whoMatrix c (mxCharge s c x)
    (mxCharge s c x = 0 → exec (.matrixMicroStep c) s = .next (mxAdvance s c x)) ∧
    (mxCharge s c x ≠ 0 → ∀ s1, takeGrant s k q = some s1 → exec (.matrixMicroStep c) s = .next (mxAdvance s1 c x)) ∧
    (mxCharge s c x ≠ 0 → takeGrant s k q = none → exec (.matrixMicroStep c) s = .next (askCharge s k q))) ∧
  (∀ c s f x, copyRunning s c = some (f, x) → ((s.bank c).eng.fifo f).prog.done = false →
    let k := clusterOf c.core
    let p := ((s.bank c).eng.fifo f).prog
    let l := runLength s c x p.step
    let n := blocksBegun p.count ((List.range l).map fun i => stepBits s c x (p.step + i)).sum
    let q := chargeReq (whoCopy c.core) c (n * s.clsWeight k 11)
    (n = 0 → exec (.copyMicroStep c) s = .next (copyAdvance s c f x l)) ∧
    (n ≠ 0 → ∀ s1, takeGrant s k q = some s1 → exec (.copyMicroStep c) s = .next (copyAdvance s1 c f x l)) ∧
    (n ≠ 0 → takeGrant s k q = none → exec (.copyMicroStep c) s = .next (askCharge s k q))) ∧
  (∀ c s x, runningHead s c .de = some x → x.kind = .hacc → (s.bank c).eng.de.prog.done = false →
    let k := clusterOf c.core
    let q := chargeReq (whoData c.core) c (s.clsWeight k 13)
    ((s.bank c).eng.de.prog.last ≠ some (0, 0) → exec (.dataMicroStep c) s = .next (haccBegin s c x)) ∧
    ((s.bank c).eng.de.prog.last = some (0, 0) → ∀ s1, takeGrant s k q = some s1 → exec (.dataMicroStep c) s = .next (haccStep s1 c x)) ∧
    ((s.bank c).eng.de.prog.last = some (0, 0) → takeGrant s k q = none → exec (.dataMicroStep c) s = .next (askCharge s k q))) ∧
  (∀ c s x, runningHead s c .de = some x → x.kind = .merge → (s.bank c).eng.de.prog.done = false →
    let k := clusterOf c.core
    let q := chargeReq whoTree c (s.clsWeight k 12)
    let s1 := setTree s c (treeQueue s c)
    ((treeQueue s c).head? ≠ some c → exec (.dataMicroStep c) s = .next s1) ∧
    ((treeQueue s c).head? = some c → (s.bank c).eng.de.prog.fibres = [] → exec (.dataMicroStep c) s = .next (mergeLoad s1 c x)) ∧
    ((treeQueue s c).head? = some c → (s.bank c).eng.de.prog.fibres ≠ [] →
      (∀ s2, takeGrant s1 k q = some s2 → exec (.dataMicroStep c) s = .next (mergeStep s2 c x)) ∧
      (takeGrant s1 k q = none → exec (.dataMicroStep c) s = .next (askCharge s1 k q)))) ∧
  (∀ c s x, runningHead s c .de = some x → x.kind = .chain → (s.bank c).eng.de.prog.done = false →
    let k := clusterOf c.core
    let q := chargeReq (whoData c.core) c (s.clsWeight k 14)
    (∀ s1, takeGrant s k q = some s1 → exec (.dataMicroStep c) s = .next (chainStep s1 c x)) ∧
    (takeGrant s k q = none → exec (.dataMicroStep c) s = .next (askCharge s k q))) ∧
  (∀ (cl : Fin 8) s i, (s.cluster cl.val).lease = none →
    ((List.range 8).map fun k => ((s.cluster cl.val).lastH + 1 + k) % 8).find? (fun k => wantsLease s (clusterBank cl.val k)) = some i →
    ∃ t l, exec (.leaseGrant cl) s = .next t ∧ (t.cluster cl.val).lease = some l ∧ l.holder = clusterBank cl.val i ∧ l.since = s.time ∧
      l.left = max 1 ((s.bank l.holder).sys.leaseq.toNat % 2 ^ 16) ∧ (t.bank l.holder).eng.wantMx = false) ∧
  (∀ (cl : Fin 8) s l, (s.cluster cl.val).lease = some l → clusterOf l.holder.core = cl.val → l.since + 65536 ≤ s.time →
    (s.bank l.holder).eng.mx.run = false → ∃ t, exec (.leaseTimeout cl) s = .next t ∧ (t.cluster cl.val).lease = none) ∧
  (∀ (cl : Fin 8) s, (s.cluster cl.val).bucket.reqs = [] → (s.cluster cl.val).bucket.resv = [] →
    (∀ x ∈ (s.cluster cl.val).bucket.granted, stepGrant x = false) →
    let b := (s.cluster cl.val).bucket
    ∃ t, exec (.bucketCycle cl) s = .next t ∧ (t.cluster cl.val).bucket.level = min b.cap (b.level + b.cur) ∧
      (t.cluster cl.val).bucket.reqs = [] ∧ t.banks = s.banks) ∧
  (∀ (cl : Fin 8) s r, (s.cluster cl.val).bucket.reqs = [r] → (s.cluster cl.val).bucket.resv = [] → r.who < 19 →
    frozenReq s cl.val r = false → (∀ x ∈ (s.cluster cl.val).bucket.granted, stepGrant x = false) →
    let b := (s.cluster cl.val).bucket
    let l := min b.cap (b.level + b.cur)
    ∃ t, exec (.bucketCycle cl) s = .next t ∧
      (r.weight ≤ l → (t.cluster cl.val).bucket.level = l - r.weight ∧ (t.cluster cl.val).bucket.reqs = [] ∧
        (stepGrant r = false → r ∈ (t.cluster cl.val).bucket.granted) ∧
        (stepGrant r = true → (t.bank (ctxOf r.bank)).pipe.steps = (s.bank (ctxOf r.bank)).pipe.steps.drop 1 ∧
          ∀ m l o x, (s.bank (ctxOf r.bank)).pipe.steps = m :: l → m.loc = .sp o → m.data = some x →
            ∀ k, k < x.length → (t.bank (ctxOf r.bank)).scrByte (o + k) = x.getD k 0)) ∧
      (l < r.weight → (t.cluster cl.val).bucket.level = l ∧ (t.cluster cl.val).bucket.reqs = [r] ∧
        (t.cluster cl.val).bucket.anyRef = true)) ∧
  (∀ (cl : Fin 8) s,
    let k := s.cluster cl.val
    let b := k.bucket
    (s.time / 1900 ≤ b.tickAt / 1900 → exec (.refillTick cl) s = .next s) ∧
    (b.tickAt / 1900 < s.time / 1900 → ∃ t, exec (.refillTick cl) s = .next t ∧ (t.cluster cl.val).bucket.level = b.level ∧
      (b.anyRef = true → (t.cluster cl.val).bucket.cur = min (teff k) (b.cur + b.ramp)) ∧
      (b.anyRef = false → b.full = true → (t.cluster cl.val).bucket.cur = max b.min (b.cur - b.ramp)) ∧
      (b.anyRef = false → b.full = false → (t.cluster cl.val).bucket.cur = b.cur))) ∧
  (∀ (cl : Fin 8) (bb : BitVec 4) s, s.plat.power = .on → (s.cluster cl.val).clk.busy = false → bb.toNat < 0xD → bb ≠ (s.cluster cl.val).clk.bb →
    ∃ t, exec (.biasWrite cl bb) s = .next t ∧ (t.cluster cl.val).clk.bb = bb ∧ (t.cluster cl.val).clk.busy = true) ∧
  (∀ (cl : Fin 8) s, (s.cluster cl.val).clk.busy = true → (s.cluster cl.val).clk.hop = false → (s.cluster cl.val).clk.curHalf = true →
    (s.cluster cl.val).clk.biasSince + 38000 ≤ s.time → ∃ t, exec (.biasSettleDone cl) s = .next t ∧ (t.cluster cl.val).clk.busy = false) ∧
  (∀ (cl : Fin 8) (src half : Bool) s, s.plat.power = .on → ∃ t, exec (.clockHopRequest cl src half) s = .next t ∧
    (t.cluster cl.val).clk.src = src ∧ (t.cluster cl.val).clk.half = half ∧
    ((s.cluster cl.val).clk.hop = false → (s.cluster cl.val).clk.retry = false → src ≠ (s.cluster cl.val).clk.curSrc →
      (t.cluster cl.val).clk.ask = true ∧ (t.cluster cl.val).clk.hop = false)) ∧
  (∀ (cl : Fin 8) s, (s.cluster cl.val).clk.hop = false → (s.cluster cl.val).clk.phase + 1 < clusterClock s cl →
    ((clusterPeriod cl s).cluster cl.val).clk.hop = false ∧ (clusterPeriod cl s).banks = s.banks) ∧
  (∀ now k, k.ask = true → k.hop = false → k.retry = false → (beginHop now k).hop = true ∧ (beginHop now k).hopSince = now ∧
    (beginHop now k).tgtSrc = k.src ∧ (beginHop now k).tgtHalf = k.wantHalf) ∧
  (∀ (cl : Fin 8) s, (s.cluster cl.val).clk.hop = true → (s.cluster cl.val).clk.hopSince + 8 ≤ s.time →
    ∃ t, exec (.hopComplete cl) s = .next t ∧ (t.cluster cl.val).clk.curSrc = (s.cluster cl.val).clk.tgtSrc ∧
      (t.cluster cl.val).clk.curHalf = (s.cluster cl.val).clk.tgtHalf) ∧
  (∀ (cl : Fin 8) s, (s.cluster cl.val).clk.retry = true → (s.cluster cl.val).clk.stretch = false →
    (s.cluster cl.val).clk.droopAt + 256 ≤ (s.cluster cl.val).clk.cycles →
    ∃ t, exec (.hopRetry cl) s = .next t ∧ (t.cluster cl.val).clk.retry = false) ∧
  (∀ (cl : Fin 8) s, s.plat.power = .on → ∃ t, exec (.droopDetect cl) s = .next t ∧ (t.cluster cl.val).clk.stretch = true ∧
    (t.cluster cl.val).clk.hop = false ∧ (∀ x ∈ t.pwr.cross, x.meets cl = true → x.slow = true) ∧ ((s.cluster cl.val).clk.hop = true → (t.cluster cl.val).clk.retry = true) ∧
    ((s.cluster cl.val).clk.stretch = false → (t.cluster cl.val).clk.droop = (s.cluster cl.val).clk.droop + 1)) ∧
  (∀ (cl : Fin 8) s, (s.cluster cl.val).clk.stretch = true → (s.cluster cl.val).clk.droopAt + 16 ≤ (s.cluster cl.val).clk.cycles →
    exec (.droopRecover cl) s = .next (s.setClk cl.val { (s.cluster cl.val).clk with stretch := false })) ∧
  (∀ (cl : Fin 8) r s, sensorDue s cl.val = false → exec (.sensorReading cl r) s = .next s) ∧
  (∀ (cl : Fin 8) r s, s.plat.power = .on → sensorDue s cl.val = true → ∃ t, exec (.sensorReading cl r) s = .next t ∧
    (t.cluster cl.val).clk.sensv = r ∧
    (∀ i, i < 6 → sensorOutside i (sensorVal r i) = true → (t.cluster cl.val).clk.sensf.getLsbD i = true) ∧
    (∀ i, (s.cluster cl.val).clk.sensf.getLsbD i = true → (t.cluster cl.val).clk.sensf.getLsbD i = true) ∧ t.banks = s.banks ∧
    t.mem = s.mem ∧ t.heap = s.heap ∧ t.sched = s.sched) ∧
  (∀ fp pk l, wireData (wireOf fp pk l) = l) ∧
  (∀ (cl : Fin 8) m s, s.plat.power = .on → ∃ t, exec (.sensfClear cl m) s = .next t ∧
    (t.cluster cl.val).clk.sensf = (s.cluster cl.val).clk.sensf &&& ~~~m ∧ t.banks = s.banks)

/-- Tier 2. The scheduler's events: a store to a window submits its descriptor; pieces gather until the last; a selection two cycles old
binds, and a bound node starts once its side table can be read; none is selected or claimed while the domain enters sleep; a node ages, and
its claim and completion by an application move it; records are read and consumed; the queue registers take their writes, a static range
only while its queue is disabled or stopped and it overlaps no other (R40, R43, R48 to R53, R57, R47, R54, R55, R60 to R62, R260). The
selection between classes is the model's reading (log 17). -/
def Obligations.SchedulerEvents : Prop :=
  (∀ (q slot : Fin 64) x s, s.plat.power = .on →
    exec (.windowSubmit64 q slot x) s = .next (acceptDesc (setStaging s x.hart none) q.val x.desc).1) ∧
  (∀ (q : Fin 64) d s, s.queueOpen q.val = false → ∃ t, acceptDesc s q.val d = (t, .dropped) ∧
    (t.queue q.val).qdrop = (s.queue q.val).qdrop + 1 ∧ t.sched.nodes = s.sched.nodes) ∧
  (∀ p s, s.plat.power = .on → p.size = 8 → p.off.val = 0 → tabGet? s.sched.staging p.hart = none →
    exec (.windowPieceStore p) s = .next (setStaging s p.hart (some { q := p.q.val, slot := 0, pieces := [(0, p.val)] }))) ∧
  (∀ p s, s.plat.power = .on → p.size ≠ 8 → ∃ t, exec (.windowPieceStore p) s = .next t ∧ (t.queue p.q.val).ecode = 0x0A ∧
    tabGet? t.sched.staging p.hart = none ∧ t.plat.evtst.getLsbD 0 = true) ∧
  (∀ s, s.plat.power = .on → (s.plat.slp.busy = false → exec .distributorSelection s = .next (distribute s)) ∧
    (s.plat.slp.busy = true → exec .distributorSelection s = .next s)) ∧
  (∀ s i c, s.plat.power = .on → s.plat.slp.busy = false → s.openPool .gang = [] → s.sched.resv = none → firstSingle s = some (i, c) → ∃ t,
    exec .distributorSelection s = .next t ∧ t.banks = s.banks ∧
    t.sched.sel = s.sched.sel ++ [{ node := i, at_ := s.time, banks := [c], prio := effPrio s i }]) ∧
  (∀ s, s.plat.power = .on → s.plat.slp.busy = false → s.candidates .single = [] → s.openPool .gang = [] → ∃ t, exec .distributorSelection s = .next t ∧
    t.sched.sel = s.sched.sel ∧ t.sched.resv = none ∧ t.banks = s.banks) ∧
  (∀ s x r, s.sched.sel = x :: r → x.at_ + 2 ≤ s.time → sideDue s = none → exec .binding s = .next (bindNode s x)) ∧
  (∀ s i, sideDue s = some i → exec .binding s = .next (startNode s i)) ∧
  (∀ (n : NodeIx) s, (s.node n.val).st = .ready → (s.node n.val).since + ((s.node n.val).aged + 1) * s.sched.age.toNat ≤ s.time →
    exec (.nodeAgeing n) s = .next (s.setNode n.val { s.node n.val with aged := (s.node n.val).aged + 1 })) ∧
  (∀ cls s i t, cls = .single ∨ cls = .gang → tabGet? s.sched.first (classIx cls) = some (i, t) → s.sched.preempt ≠ 0 →
    t + s.sched.preempt.toNat ≤ s.time → (s.node i).st = .ready → (∀ x ∈ s.sched.sel, x.node ≠ i) →
    exec (.preemptTrigger cls) s = .next (preempt s i (preVictims s i)) ∧ (fitsNow s i = true → preempt s i (preVictims s i) = s)) ∧
  (∀ (n : NodeIx) s, s.plat.slp.busy = true → exec (.appNodeClaim n) s = .next s) ∧
  (∀ (n : NodeIx) s, s.plat.power = .on → s.plat.slp.busy = false → (s.candidates .application).head? = some n.val →
    (∀ e ∈ s.sched.queues, n.val ∉ e.2.rlist) → ∃ t, exec (.appNodeClaim n) s = .next t ∧
    (t.node n.val).st = .running ∧ n.val ∉ t.sched.pool) ∧
  (∀ (n : NodeIx) s, s.plat.power = .on → (s.node n.val).st = .running → (s.node n.val).desc.cls = .application →
    exec (.appNodeComplete n) s = .next (completeNode s n.val)) ∧
  (∀ s l r, s.sched.resid = [] → s.sched.launch = l :: r → l.recs = [] → ∃ t, exec .recordConsumption s = .next t ∧
    t.sched.launch = { l with recs := launchRecords s l } :: r ∧ t.banks = s.banks ∧ t.mem.main = s.mem.main ∧
    (s.mem.bad = [] → t.mem = s.mem)) ∧
  (∀ s l, headLaunch s = some l → l.recs ≠ [] → exec .tileNodeCreate s = .next (consumeOne s l)) ∧
  (∀ (q : Fin 64) on s, s.plat.power = .on → exec (.queueEnable q on) s = .next (s.setQueue q.val { s.queue q.val with en := on })) ∧
  (∀ (q : Fin 64) s, s.plat.power = .on → (s.queue q.val).stop = true → exec (.queueStopClear q) s =
    .next (resumeWalks (s.setQueue q.val { s.queue q.val with stop := false }) q.val)) ∧
  (∀ (q : Fin 64) (v : BitVec 32) s, s.plat.power = .on →
    (s.queueOpen q.val = true → exec (.qslotWrite q v) s = .next s) ∧
    (s.queueOpen q.val = false → (v.extractLsb' 0 16).toNat + (v.extractLsb' 16 16).toNat ≤ 65536 → (∀ e ∈ s.sched.queues, e.1 = q.val ∨
      e.2.size = 0 ∨ v.extractLsb' 16 16 = 0 ∨ (v.extractLsb' 0 16).toNat + (v.extractLsb' 16 16).toNat ≤ e.2.base.toNat ∨
      e.2.base.toNat + e.2.size.toNat ≤ (v.extractLsb' 0 16).toNat) →
      exec (.qslotWrite q v) s = .next (s.setQueue q.val { s.queue q.val with size := v.extractLsb' 16 16, base := v.extractLsb' 0 16 })))

/-- Tier 2. The memory block's events: a shootdown drops the TLB entries that match; an access from outside writes an ordinary frame, or is
refused and dropped; a compressed frame's first fault is recorded and the later ones counted; FAMCMD sets and then clears PSN, CMP and MPIN
of the named frame, CMP never on a row-linear, NM or poisoned one, no other bit and no other frame, and waits for MIG; a change of form may
pin the frame besides, when it is its third bounce (R136); an expansion answers with its code, waits while its source migrates, runs, and
ends with DONE or, where its source has met an uncorrectable error, with code 4; the swap does its work; both raise event 3 and clear MIG
with DONE; a migration request is answered and has arrived, one that is answered PINNED too; a hold ends at its limits and its closed row
reopens; unassigned registers take no write (R131, R123, R128, R125, R129, R134 to R136, R163, R164, R252). What GO does while BUSY or DONE
stands is the model's reading (log 28), and an unlisted byte reads 0 (log 5); that a hold's own age against HOLDQ stands for the waiting
request's is the model's (log 50). -/
def Obligations.MemoryEvents : Prop :=
  (∀ i s, ∃ t, exec (.shootdown i) s = .next t ∧ (∀ k, (t.core k).tlb = (s.core k).tlb.filter fun e => !tlbHit i e) ∧
    ((∀ e ∈ s.banks, e.2.pipe.steps = []) → t.mem.main = s.mem.main)) ∧
  (∀ a s b, a.wr = some b → b ≠ [] → a.pa.toNat % 4096 + b.length ≤ 4096 →
    (meetsCtl s a b.length = true → exec (.externalAccess a) s = .next s) ∧
    (meetsCtl s a b.length = false → extCheck s a.pa.toNat true = .served s → exec (.externalAccess a) s =
      .next ((sysPut s a.pa.toNat b).syncStore a.pa.toNat b.length)) ∧
    (∀ t, meetsCtl s a b.length = false → extCheck s a.pa.toNat true = .error t → exec (.externalAccess a) s = .next t) ∧
    (s.region a.pa.toNat = none → exec (.externalAccess a) s = .next s)) ∧
  (∀ (pa : BitVec 48) s, s.famHas (frameOf pa.toNat) famCMP = true →
    (s.mem.cfaddr = none → ∃ t, exec (.compressedFrameFault pa) s = .next t ∧ t.mem.cfaddr = some pa ∧ t.plat.evtst.getLsbD 2 = true) ∧
    (∀ x, s.mem.cfaddr = some x → exec (.compressedFrameFault pa) s = .next { s with mem := { s.mem with cflost := s.mem.cflost + 1 } })) ∧
  (∀ (v : BitVec 64) s,
    let f := (v.extractLsb' 0 36).toNat
    s.plat.power = .on → s.mainFrame f = true →
    (s.famHas f famMIG = true → exec (.famcmd v) s = .next { s with mem := { s.mem with famHeld := s.mem.famHeld ++ [v] } }) ∧
    (s.famHas f famMIG = false → exec (.famcmd v) s = .next (famApply s v))) ∧
  (∀ (v : BitVec 64) s,
    let f := (v.extractLsb' 0 36).toNat
    let set (k : Nat) : Bool := v.getLsbD (40 + k)
    let clr (k : Nat) : Bool := v.getLsbD (48 + k)
    let t := famApply s v
    let psn := (s.famHas f famPSN || set 7) && !clr 7
    let noCmp := s.famHas f famRL || s.famHas f famNM || psn
    let pin := (s.famHas f famMPIN || set 1) && !clr 1
    t.famHas f famPSN = psn ∧ t.famHas f famCMP = ((s.famHas f famCMP || set 2 && !noCmp) && !clr 2) ∧
    (pin = true → t.famHas f famMPIN = true) ∧
    (clr 1 = true ∨ t.famHas f famCMP = s.famHas f famCMP → t.famHas f famMPIN = pin) ∧
    (∀ m ∈ [famMIG, famNM, famMGD, famRL], t.famHas f m = s.famHas f m) ∧ (∀ g, g ≠ f → t.fam g = s.fam g) ∧
    t.mem.main = s.mem.main ∧ t.banks = s.banks ∧ t.cores = s.cores) ∧
  (∀ s v r, s.mem.famHeld = v :: r → s.famHas (v.extractLsb' 0 36).toNat famMIG = false →
    exec .famcmdHeldApply s = .next (famApply { s with mem := { s.mem with famHeld := r } } v)) ∧
  (∀ s, s.plat.power = .on → s.mem.expctl.busy = false → s.mem.expctl.done = false →
    let s0 := { s with mem := { s.mem with expRun := (s.mem.expsrc, s.mem.expdst) } }
    let a := s.mem.expsrc.toNat
    let mig := (List.range 16).any fun i => s0.famHas (frameOf a + i) famMIG
    (a % 65536 ≠ 0 → exec .expandGo s = .next (expandErr s0 1) ∧ (expandErr s0 1).mem.expctl.err = true ∧
      (expandErr s0 1).plat.evtst.getLsbD 3 = true ∧ (expandErr s0 1).mem.main = s.mem.main) ∧
    (expandForm s0 a = true → mig = true → ∃ t, exec .expandGo s = .next t ∧ t.mem.expctl.busy = true ∧ t.mem.expWait = true ∧
      t.mem.main = s.mem.main ∧ t.mem.fam = s.mem.fam) ∧
    (expandForm s0 a = true → mig = false → ∀ s1, expandUe s0 (frameOf a) = some s1 → exec .expandGo s =
      .next (if expandDest s0 s.mem.expdst.toNat then expandErr s1 4 else expandErr s0 2)) ∧
    (expandForm s0 a = true → mig = false → expandUe s0 (frameOf a) = none → (chunkAt s0 a).isSome →
      expandDest s0 s.mem.expdst.toNat = true → ∃ t, exec .expandGo s = .next t ∧ t.mem.expctl.busy = true ∧ t.mem.expWait = false ∧
      t.mem.expRun = (s.mem.expsrc, s.mem.expdst) ∧ ((∀ e ∈ s.banks, e.2.pipe.steps = []) → t.mem.main = s.mem.main))) ∧
  (∀ s, s.mem.expctl.busy = true →
    (s.mem.expWait = true → exec .expandDone s = .next (expandStart s)) ∧
    (s.mem.expWait = false → ∀ s1, expandUe s (frameOf s.mem.expRun.1.toNat) = some s1 → exec .expandDone s =
      .next (expandErr (expandUnlock s1) 4)) ∧
    (s.mem.expWait = false → expandUe s (frameOf s.mem.expRun.1.toNat) = none → ∀ b, chunkAt s s.mem.expRun.1.toNat = some b →
      ∃ t, exec .expandDone s = .next t ∧ t.mem.expctl.busy = false ∧ t.mem.expctl.done = true ∧
      t.mem.main = memSetBytes s.mem.main s.mem.expRun.2.toNat b ∧ t.plat.evtst.getLsbD 3 = true)) ∧
  (∀ s, s.plat.power = .on → s.mem.expctl.done = true → s.sched.stalled = [] → s.res.emits = [] → ∃ t, exec .expandDoneClear s = .next t ∧
    t.mem.expctl.done = false ∧ (∀ i, i < 16 → t.famHas (frameOf s.mem.expRun.1.toNat + i) famMIG = false ∧
      t.famHas (frameOf s.mem.expRun.2.toNat + i) famMIG = false)) ∧
  (∀ (v : BitVec 32) s, s.plat.power = .on → s.mem.swpctl.busy = false → s.mem.swpctl.done = false →
    let s0 := { s with mem := { s.mem with swpsz := v.extractLsb' 4 2, swppte := v.getLsbD 6 } }
    (∀ code, swapRefused s0 = some code → ∃ t, exec (.swapGo v) s = .next t ∧ t.mem.swpctl.err = true ∧ t.mem.swpctl.ecode = code ∧
      t.mem.main = s.mem.main ∧ t.plat.evtst.getLsbD 3 = true) ∧
    (swapRefused s0 = none → ∃ t, exec (.swapGo v) s = .next t ∧ t.mem.swpctl.busy = true ∧
      ((∀ e ∈ s.banks, e.2.pipe.steps = []) → t.mem.main = s.mem.main) ∧ t.mem.swpRun = swapRegs s0)) ∧
  (∀ s, s.mem.swpctl.busy = true → s.mem.swpRun.pte = false → s.mem.bad = [] →
    let n := swapBytes s.mem.swpRun.sz
    let a := s.mem.swpRun.a.toNat
    let b := s.mem.swpRun.b.toNat
    (a + n ≤ b ∨ b + n ≤ a) →
    ∃ t, exec .swapDone s = .next t ∧ t.mem.swpctl.done = true ∧ t.mem.swpctl.busy = false ∧ t.plat.evtst.getLsbD 3 = true ∧
      (∀ i, i < n → t.mainByte (a + i) = s.mainByte (b + i) ∧ t.mainByte (b + i) = s.mainByte (a + i)) ∧
      (∀ x, (x < a ∨ a + n ≤ x) → (x < b ∨ b + n ≤ x) → t.mainByte x = s.mainByte x)) ∧
  (∀ s, s.plat.power = .on → s.mem.swpctl.done = true → s.sched.stalled = [] → s.res.emits = [] → ∃ t, exec .swapDoneClear s = .next t ∧ t.mem.swpctl.done = false ∧
    (∀ i, i < swapFrames s → t.famHas (s.mem.swpRun.a.toNat / 4096 + i) famMIG = false ∧
      t.famHas (s.mem.swpRun.b.toNat / 4096 + i) famMIG = false)) ∧
  (∀ (v : BitVec 64) s, s.plat.power = .on →
    let f := (v.extractLsb' 0 36).toNat
    let k := v.extractLsb' 36 2
    (s.famHas f famMPIN = true → s.mem.mreqs = [] → ∃ t, exec (.migrationRequest v) s = .next t ∧ t.mem.mrsp = 2 ∧
      t.mem.mreqs = [{ frame := f, form := k, dest := k, side := v.getLsbD 38, at_ := s.time, pend := false }]) ∧
    (s.famHas f famMPIN = false → s.mem.mreqs = [] → ∃ t, exec (.migrationRequest v) s = .next t ∧ t.mem.mrsp = 0 ∧
      t.mem.mreqs = [{ frame := f, form := k, dest := k, side := v.getLsbD 38, at_ := s.time, pend := frameForm s f != k }])) ∧
  (∀ r s x, holdOn s.heap.holds r = some x →
    (x.since + s.heap.holdmax.toNat * 1900 ≤ s.time → ∃ t, exec (.holdExpiry r) s = .next t ∧ x ∉ t.heap.holds ∧
      t.heap.hbExp = s.heap.hbExp + 1 ∧ (∀ k, ((t.bank x.ctx).hreg k).rowv = ((s.bank x.ctx).hreg k).rowv)) ∧
    (x.at_ + s.heap.holdq.toNat ≤ s.now x.ctx.core → ∃ t, exec (.holdQueueLimit r) s = .next t ∧ x ∉ t.heap.holds ∧
      t.heap.hbQ = s.heap.hbQ + 1) ∧
    (s.now x.ctx.core < x.at_ + s.heap.holdq.toNat → exec (.holdQueueLimit r) s = .next s) ∧
    (∃ t, exec (.rowAutoClose r) s = .next t ∧ (holdOn t.heap.holds r).map Hold.closed = some true ∧ t.banks = s.banks) ∧
    (∃ t, exec (.rowReopen r) s = .next t ∧ (holdOn t.heap.holds r).map Hold.closed = some false ∧ t.banks = s.banks)) ∧
  (∀ s, ∃ t, exec .mainTierRateChange s = .next t ∧ t.heap.holds = [] ∧
    t.heap.hbPwr = s.heap.hbPwr + BitVec.ofNat 16 s.heap.holds.length ∧ t.mem = s.mem) ∧
  (∀ (off : BitVec 24) v s, s.plat.power = .on →
    (6 ≤ off.toNat / 2 ^ 20 → exec (.registerWrite off v) s = .next s) ∧
    (off = 0x000010 → exec (.registerWrite off v) s = .next { s with sched := { s.sched with age := v.extractLsb' 0 32 } }) ∧
    (off = 0x500000 → exec (.registerWrite off v) s =
      .next { s with plat := { s.plat with evtst := s.plat.evtst &&& ~~~(v.extractLsb' 0 13) } }))

/-- Tier 2. The heap's and the residency unit's events: a compaction cycle starts, takes its objects, commits a relocation with its
forwarding entry, flips the colour and is retired; a poisoned entry is freed with the next generation; a cold object is evicted and
recalled; a slot installs and is uninstalled, or fails with its code; a chunk is served; frequencies decay; peers' claims, commands and
chunks are taken (R175, R176, R171, R179, R180, R184, R197, R201, R195, R192, R220, R259). The layout of the cold area, the state of a
peer's claim, the region that a recall allocates from and the charge of a chunk's writes are the model's (log 12, log 13, log 17, log 43),
and so are the order in which a cycle takes granules, that an object whose copy meets an uncorrectable error stays where it is, and that
RETIRE of 0 acts before the first cycle (log 51). -/
def Obligations.HeapAndResidencyEvents : Prop :=
  (∀ s, s.plat.power = .on → exec .heapCompact s = .next (setSpat s { s.heap.spat with want := true })) ∧
  (∀ s g i, s.plat.power = .on → s.heap.spat.want = false → s.heap.spat.busy = false →
    s.freeGrans < s.heap.freelow.toNat → g ∈ takeGrans s s.fwdFree s.leanGrans → i ∈ s.granObjs g → (s.obj i).movable = true →
    exec .compactionAutostart s = .next (setSpat s { s.heap.spat with want := true })) ∧
  (∀ s, s.plat.power = .on → s.heap.spat.want = true → s.heap.spat.busy = false →
    (waitsForOld s (s.heap.cycle + 1) = true → exec .compactionCycleStart s =
      .next { s with heap := { s.heap with spwait := s.heap.spwait + 1 } }) ∧
    (waitsForOld s (s.heap.cycle + 1) = false → ∃ t, exec .compactionCycleStart s = .next t ∧ t.heap.cycle = s.heap.cycle + 1 ∧
      t.heap.spat.busy = true ∧ t.heap.spat.want = false ∧ t.heap.ot = s.heap.ot ∧ t.mem = s.mem)) ∧
  (∀ s i r, s.plat.power = .on → s.heap.spat.busy = true → s.heap.spat.cur = none → s.heap.spat.todo = i :: r →
    exec .compactionObject s = .next (takeObject (setSpat s { s.heap.spat with todo := r }) i) ∧
    ((s.obj i).pins = 0 → (s.obj i).st = .dead → s.heap.spat.chosen.contains ((s.obj i).addr / 2 ^ 21) = true →
      ∃ t, exec .compactionObject s = .next t ∧ (t.obj i).st = .free ∧
      (t.obj i).gen = nextObjGen (s.obj i).gen ∧ t.heap.spat.todo = r)) ∧
  (∀ s x, s.plat.power = .on → s.heap.spat.cur = some x → unitFault s (s.heapPa x.old) (s.objSize x.old) .rd = true →
    ∃ t, exec .relocationCommit s = .next t ∧ (t.obj x.oti).st = .live ∧ (t.obj x.oti).addr = (s.obj x.oti).addr ∧
    t.heap.spat.cur = none ∧ t.heap.fwd = s.heap.fwd ∧ t.mem.main = s.mem.main) ∧
  (∀ s x, s.plat.power = .on → s.heap.spat.cur = some x → unitFault s (s.heapPa x.old) (s.objSize x.old) .rd = false →
    ∃ t, exec .relocationCommit s = .next t ∧ (t.obj x.oti).st = .live ∧
    (t.obj x.oti).addr = x.new ∧ t.heap.spat.cur = none ∧ t.heap.reloc = s.heap.reloc + 1 ∧
    t.heap.fwd = s.heap.fwd ++ [{ cyc := s.heap.cycle.toNat, new := x.new, old := x.old }] ∧
    t.mem.main = memSetBytes s.mem.main (s.heapPa x.new) (rawBytes s (s.heapPa x.old) (s.objSize x.old))) ∧
  (∀ s, s.plat.power = .on → s.heap.spat.busy = true → s.heap.spat.todo = [] → s.heap.spat.cur = none → ∃ t,
    exec .compactionFlip s = .next t ∧ t.heap.goodc = BitVec.ofNat 2 (s.heap.goodc.toNat % 3 + 1) ∧ t.heap.from_ = [] ∧
    t.heap.spat.busy = false ∧ t.heap.ot = s.heap.ot ∧ t.mem = s.mem) ∧
  (∀ (n : BitVec 8) s, s.plat.power = .on → (s.heap.spat.busy = false ∨ n ≠ s.heap.cycle) →
    ∃ t, exec (.retire n) s = .next t ∧ (∀ e ∈ t.heap.fwd, e.cyc ≠ n.toNat) ∧
      (∀ e, e ∈ s.heap.fwd → e.cyc ≠ n.toNat → e ∈ t.heap.fwd) ∧ t.heap.ot = s.heap.ot) ∧
  (∀ i s, s.plat.power = .on → (s.obj i).st = .poison → ∃ t, exec (.heapcmdFree i) s = .next t ∧ (t.obj i).st = .free ∧
    (t.obj i).gen = nextObjGen (s.obj i).gen) ∧
  (∀ i s, s.plat.power = .on → s.heap.evict = none → evictable s i = true →
    (s.heap.coldlen.toNat < s.heap.coldNext + coldBlocks (s.objSize (s.obj i).addr) →
      exec (.coldEvictionStart i) s = .next { s with heap := { s.heap with evfull := s.heap.evfull + 1 } }) ∧
    (s.heap.coldNext + coldBlocks (s.objSize (s.obj i).addr) ≤ s.heap.coldlen.toNat → ∃ t, exec (.coldEvictionStart i) s = .next t ∧
      (t.obj i).st = .evict ∧ t.heap.evict = some i ∧ ∃ q, t.res.reqs = s.res.reqs ++ [q] ∧ q.what = .evict i ∧ q.cls = 6)) ∧
  (∀ i s, s.heap.evict = some i → (∀ q ∈ s.res.reqs, q.what ≠ .evict i) → ∃ t, exec .coldEvictionDone s = .next t ∧
    (t.obj i).st = .cold ∧ t.heap.evict = none ∧ t.heap.evictN = s.heap.evictN + 1 ∧
    tabGet? t.heap.coldAt i = some (s.heap.coldNext, s.objSize (s.obj i).addr)) ∧
  (∀ q s i, q.what = .recall i →
    (recallPlace s i = none → serveChunk s q = s) ∧
    (∀ s0 a lba n, recallPlace s i = some (s0, a) → tabGet? s.heap.coldAt i = some (lba, n) →
      (openChunk s0 i lba n q.chunk = none → ((serveChunk s q).obj i).st = .poison ∧ i ∉ (serveChunk s q).heap.recalls) ∧
      (∀ x, openChunk s0 i lba n q.chunk = some x →
        (serveChunk s q).mem.main = memSetBytes s.mem.main (s.heapPa (a + 65536 * q.chunk)) x))) ∧
  (∀ q s i, s.res.reqs = [q] → q.what = .recall i → tabGet? s.heap.recallTo i = none → recallPlace s i = none →
    noteWaits s = { s with heap := { s.heap with recallTo := tabSet s.heap.recallTo i none, rcwait := s.heap.rcwait + 1 } }) ∧
  (∀ i s, i ∈ s.heap.recalls → (∀ q ∈ s.res.reqs, q.what ≠ .recall i) →
    (tabGet s.heap.recallTo i none = none → exec (.recallComplete i) s = .next s) ∧
    (∀ a, tabGet s.heap.recallTo i none = some a → ∃ t, exec (.recallComplete i) s = .next t ∧ (t.obj i).st = .live ∧
      (t.obj i).addr = a ∧ i ∉ t.heap.recalls ∧ t.heap.recallN = s.heap.recallN + 1 ∧ t.mem = s.mem ∧
      t.heap.fwd = s.heap.fwd ++ [{ cyc := s.heap.cycle.toNat, new := a, old := (s.obj i).addr }])) ∧
  (∀ (m : Fin 8) s, s.plat.power = .on → ((installReads s m.val).any fun r => unitWait s r.1 r.2 .rd) = false →
    (∀ code, installCode s m.val = some code → ∃ t, exec (.modelInstall m) s = .next t ∧
    (t.xslot m.val).err = true ∧ (t.xslot m.val).ecode = code ∧ t.res.tags = s.res.tags ∧ t.mem.main = s.mem.main ∧
    (code ≠ 5 → t.mem = s.mem))) ∧
  (∀ (m : Fin 8) s, s.plat.power = .on → installCode s m.val = none →
    ((installReads s m.val).any fun r => unitWait s r.1 r.2 .rd) = false →
    (∀ f ∈ (slotTags s m.val).flatMap (mainFrames s), s.famHas f famMIG = false) → ∃ t,
    exec (.modelInstall m) s = .next t ∧ (t.xslot m.val).v = true ∧ (t.xslot m.val).inst = false ∧ t.mem.main = s.mem.main) ∧
  (∀ (m : Fin 8) s, s.plat.power = .on →
    let is := (s.res.tags.filter fun e => xidSlot e.2.xid == m.val).map Prod.fst
    ((∃ i ∈ is, (s.tag i).pins ≠ 0) → ∃ t, exec (.modelUninstall m) s = .next t ∧ (t.xslot m.val).err = true ∧
      (t.xslot m.val).ecode = 6 ∧ t.res.tags = s.res.tags) ∧
    (is = [] → s.res.retry = [] → ∃ t, exec (.modelUninstall m) s = .next t ∧ (t.xslot m.val).v = false ∧ (t.xslot m.val).key = none)) ∧
  (∀ s q, s.plat.power = .on → (∀ x ∈ s.res.reqs, ∀ i, x.what ≠ .recall i) → pickReq s = some q → reqWaits s q = false →
    let r : ChargeReq := { who := whoSteamer, bank := 0, weight := s.clsWeight q.cl 15 }
    (∀ i, q.what = .evict i → exec .steamerChunk s = .next (serveChunk s q)) ∧
    (∀ i b, q.what = .fill i b →
      (chunkWrites s q = 0 → exec .steamerChunk s = .next (serveChunk s { q with paid := q.paid + 1 })) ∧
      (chunkWrites s q ≠ 0 → takeGrant s q.cl r = none → exec .steamerChunk s = .next (askCharge s q.cl r)) ∧
      (∀ s1, chunkWrites s q ≠ 0 → takeGrant s q.cl r = some s1 →
        (q.paid + 1 < chunkWrites s1 q → exec .steamerChunk s = .next (setReq s1 q (some { q with paid := q.paid + 1 }))) ∧
        (chunkWrites s1 q ≤ q.paid + 1 → exec .steamerChunk s = .next (serveChunk s1 { q with paid := q.paid + 1 }))))) ∧
  (∀ s q i b, q.what = .fill i b → q.chunk + 1 < ((s.tag i).srcDesc (s.tag i).srcFar).nch →
    ((s.tag i).srcDesc (s.tag i).srcFar).fmt = ((s.tag i).nearDesc b).fmt →
    ((s.tag i).srcDesc (s.tag i).srcFar).nch ≤ ((s.tag i).nearDesc b).nch → chunkWrites s q = 1024) ∧
  (∀ s, s.res.decayAt + max 1 s.res.xrepDec.toNat * 1000000 ≤ s.aon → ∃ t, exec .frequencyDecay s = .next t ∧ t.res.decayAt = s.aon ∧
    (∀ i x, tabGet? s.res.tags i = some x → tabGet? t.res.tags i =
      some { x with a := { x.a with freq := x.a.freq / 2 }, b := { x.b with freq := x.b.freq / 2 } })) ∧
  (∀ (m : Fin 8) l s, finalReady s m.val l = true → exec (.finalClose m l) s = .next (finalCloseLayer s m.val l)) ∧
  (∀ x row s i q, s.plat.power = .on → s.plat.slp.busy = false → s.tagIx? x = some i → localQueue s (s.tag i) = some q → (s.tag i).psn = false →
    (s.tag i).fin = false → ((s.tag i).xq q).occ < 4096 → ((s.tag i).xq q).bmode ≠ 0 →
    let s1 := (claimFor s none i q row none).1
    ((((s1.tag i).xq q).slots.filter fun e => e.2.committed).length = (s1.tag i).threshold →
      exec (.remoteClaim x row) s = .next (closeQueue s1 i q false)) ∧
    ((((s1.tag i).xq q).slots.filter fun e => e.2.committed).length ≠ (s1.tag i).threshold → exec (.remoteClaim x row) s = .next s1)) ∧
  (∀ cmd s, s.plat.power = .on → cmd.red = 0 → cmd.fmt = 0 →
    let data := wireData cmd.wire
    data ≠ [] → cmd.pa.toNat % 4096 + data.length ≤ 4096 →
    (∃ g, s.region cmd.pa.toNat = some g ∧ g.cls = 0) → extCheck s cmd.pa.toNat true = .served s → ∃ t,
    exec (.remoteCommand cmd) s = .next t ∧ (∀ i, i < data.length → t.mainByte (cmd.pa.toNat + i) = data.getD i 0) ∧
      (∀ a, a < cmd.pa.toNat ∨ cmd.pa.toNat + data.length ≤ a → t.mainByte a = s.mainByte a)) ∧
  (∀ d s, s.plat.power = .on → s.devNo ≠ 0 → s.tagIx? d.xid = none →
    exec (.distributionChunk d) s = .next (forwardChunk s d d.data)) ∧
  (∀ d s i, s.plat.power = .on → s.tagIx? d.xid = some i →
    (s.devNo ≠ 0 → d.idx < ((s.tag i).srcDesc d.far).nch →
      exec (.distributionChunk d) s = .next (distChunk (forwardChunk s d d.data) i d)) ∧
    (s.devNo ≠ 0 → ((s.tag i).srcDesc d.far).nch ≤ d.idx → exec (.distributionChunk d) s = .next (forwardChunk s d d.data)) ∧
    (s.devNo = 0 → d.idx < ((s.tag i).srcDesc d.far).nch →
      let t := s.tag i
      let waits := (chunkReads s t d.far d.idx).any fun r => unitWait s r.1 r.2 .rd
      let read := chunkCipher s (s.xslot (xidSlot t.xid)) (t.srcDesc d.far) d.far d.idx
      (waits = true → exec (.distributionChunk d) s = .next s) ∧
      (waits = false → ∀ k x, read = some (k, x) →
        exec (.distributionChunk d) s = .next (distChunk (forwardChunk s d x) i { d with data := x })) ∧
      (waits = false → read = none → exec (.distributionChunk d) s = .next (poisonExpert (chunkUe s t d.far d.idx) i))))

/-- Tier 2. The platform's events: a link change updates LNKID, raises event 10 and is recorded; sleep is refused with its code or its entry
begins, which ends without power once nothing is in progress; a wake starts the domain again from an intact image and raises event 11; a key
load, an attestation and a re-sync run and raise event 12; the management port answers while the always-on side has power; the watchdog's
period ends in a fatal error; a boot whose three stages verify starts the firmware with its own bit set in LNKID, and one that fails or
lacks a stage does not; loss of power clears what R262 says; the always-on time counts while its domain has power (R253, R254, R258, R260 to
R269, R404). What sleep and reset keep, and the byte places inside a record or report, are the model's (log 32, log 33, log 34); that event
12 is raised for a command that ends in an error, and that BUSY of SLPCTL stands through entry while ENTER is ignored, is its reading (log
48). -/
def Obligations.PlatformEvents : Prop :=
  (∀ l s, s.plat.power ≠ .off → ∃ t, exec (.linkChange l) s = .next t ∧ t.plat.evtst.getLsbD 10 = true ∧ t.plat.crkN = s.plat.crkN + 1 ∧
    t.plat.lnkid.extractLsb' 8 4 = l.reach ||| 1#4 <<< s.devNo.toNat ∧ t.plat.lnkid.getLsbD (4 + l.port.val) = l.up ∧ t.mem = s.mem) ∧
  (∀ s, s.plat.power = .on →
    (s.plat.slp.busy = false → ∀ code, sleepRefused s = some code → ∃ t, exec .sleepEnter s = .next t ∧ t.plat.slp.err = true ∧
      t.plat.slp.ecode = code ∧ t.plat.slp.busy = false ∧ t.plat.power = .on ∧ t.mem = s.mem ∧ t.banks = s.banks) ∧
    (s.plat.slp.busy = false → sleepRefused s = none → ∃ t, exec .sleepEnter s = .next t ∧ t.plat.slp.busy = true ∧ t.plat.wdRun = false ∧
      t.plat.power = .on ∧ t.mem = s.mem ∧ t.heap = s.heap ∧ t.sched.nodes = s.sched.nodes) ∧
    (s.plat.slp.busy = true → exec .sleepEnter s = .next s ∧ (sleepWaits s = true → makeMove .sleepDone s = .next s) ∧
      (sleepWaits s = false → s.plat.wakeHeld = none → ∃ t, makeMove .sleepDone s = .next t ∧ t.plat.power = .asleep ∧
        t.plat.slp.busy = false ∧ t.plat.sleptAt = t.time ∧ t.heap.holds = []) ∧
      (∀ src, s.plat.wakeHeld = none → exec (.wake src) s = .next { s with plat := { s.plat with wakeHeld := some (wakeCode src) } }))) ∧
  (∀ src s,
    (s.plat.power ≠ .asleep → (s.plat.power = .on → s.plat.slp.busy = false) →
      exec (.wake src) s = .next s ∧ exec .mgmtWake s = .next s) ∧
    (s.plat.power = .asleep → firmwareIntact s = true → ∃ t, exec (.wake src) s = .next t ∧ t.plat.power = .waking ∧
      t.plat.wakesrc = wakeCode src ∧ t.mem = s.mem) ∧
    (s.plat.power = .asleep → firmwareIntact s = true → ∃ t, exec .mgmtWake s = .next t ∧ t.plat.power = .waking ∧ t.plat.wakesrc = 2) ∧
    (s.plat.power = .asleep → firmwareIntact s = false → ∃ t, exec (.wake src) s = .next t ∧ t.plat.power = .dead)) ∧
  (∀ s, s.plat.power = .waking → s.res.warmEn = false → ∃ t, exec .wakeComplete s = .next t ∧ t.plat.power = .on ∧ t.plat.wdRun = true ∧
    t.plat.wdLast = s.aon ∧ t.plat.evtst.getLsbD 11 = true ∧ t.mem = s.mem) ∧
  (∀ s, s.plat.power = .on →
    (s.plat.key.busy = false → exec .keyLoad s =
      .next { s with plat := { s.plat with key := { s.plat.key with busy := true }, keyRun := (s.plat.keySlot, s.plat.keyaddr) } }) ∧
    (s.plat.att.busy = false → exec .attestation s =
      .next { s with plat := { s.plat with att := { s.plat.att with busy := true }, attRun := s.plat.attaddr } }) ∧
    exec .heartbeat s = .next { s with plat := { s.plat with wdLast := s.aon } } ∧
    (s.plat.wdRun = true → s.plat.wdLast + 1000000 * s.plat.wdPer < s.aon → exec .watchdogExpiry s = .next (fatalError 4 s) ∧
      (fatalError 4 s).plat.power = .dead)) ∧
  (∀ s, s.plat.power ≠ .off → s.plat.rs.busy = false → exec .resync s =
    .next { s with plat := { s.plat with rs := { s.plat.rs with busy := true }, rsRun := s.plat.rsaddr } }) ∧
  (∀ s, s.plat.key.busy = true → unitWait s s.plat.keyRun.2.toNat 1152 .rd = false → match keyResult s with
    | .ok k => ∃ t, exec .keyLoadDone s = .next t ∧ (t.xslot s.plat.keyRun.1.toNat).key = some k ∧ t.plat.key.busy = false ∧
        t.plat.key.done = true ∧ t.plat.evtst.getLsbD 12 = true
    | .error code => ∃ t, exec .keyLoadDone s = .next t ∧ t.res = s.res ∧ t.plat.key.busy = false ∧ t.plat.key.err = true ∧
        t.plat.key.ecode = code ∧ t.plat.evtst.getLsbD 12 = true ∧
        (unitFault s s.plat.keyRun.2.toNat 1152 .rd = false → t.plat.crkN = s.plat.crkN + 1)) ∧
  (∀ s, s.plat.att.busy = true → (∀ e ∈ s.res.slots, e.2.inst = false) →
    let a := s.plat.attRun.toNat
    unitWait s a 4096 .wr = false → ((reportReads s).any fun r => unitWait s r.1 r.2 .rd) = false → ∃ t, exec .attestationDone s = .next t ∧ t.plat.att.busy = false ∧
    t.plat.evtst.getLsbD 12 = true ∧
    (unitFault s a 4096 .rd = false → unitFault s a 4096 .wr = false →
      ((reportReads s).any fun r => unitMeetsUe s r.1 r.2 .rd) = false → t.plat.att.done = true ∧
      t.mem.main = memSetBytes s.mem.main a (attReport s (sysBytes s a 32)))) ∧
  (∀ s, s.plat.rs.busy = true → unitWait s s.plat.rsRun.toNat 4096 .wr = false → ∃ t, exec .resyncDone s = .next t ∧ t.plat.rs.busy = false ∧ t.plat.rs.done = true ∧
    t.plat.rsSeq = s.plat.rsSeq + 1 ∧ t.plat.evtst.getLsbD 12 = true ∧
    (unitFault s s.plat.rsRun.toNat 4096 .wr = false →
      t.mem.main = memSetBytes s.mem.main s.plat.rsRun.toNat (resyncRecord s))) ∧
  (∀ s, s.plat.power ≠ .off →
    (∃ t, exec .mgmtStatus s = .next t ∧ t.plat.mgmt.length = 16 ∧ t.mem = s.mem ∧ t.plat.power = s.plat.power) ∧
    (∀ a n, ∃ t, exec (.mgmtReadCrock a n) s = .next t ∧ t.plat.mgmt.length ≤ 2048 ∧ t.plat.crock = s.plat.crock ∧ t.mem = s.mem) ∧
    (∃ t, exec .mgmtResync s = .next t ∧ t.plat.mgmt = resyncRecord s ∧ t.plat.rsSeq = s.plat.rsSeq + 1 ∧ t.mem = s.mem)) ∧
  (∀ b s,
    let n := b.stages.length
    let r := bootStages (afterReset s) 0 b.stages
    (r.2 = none → 3 ≤ n → exec (.boot b) s = .next (startFirmware r.1 b) ∧ (startFirmware r.1 b).plat.power = .on ∧
      (startFirmware r.1 b).plat.wdRun = true) ∧
    (r.2 = none → n < 3 → ∃ t, exec (.boot b) s = .next t ∧ t.plat.power = (if n = 0 then .off else .dead) ∧
      t.plat.bootOk = BitVec.ofNat 8 (n + 1) ∧ t.plat.crkN = r.1.plat.crkN + 1) ∧
    (∀ j, r.2 = some j → ∃ t, exec (.boot b) s = .next t ∧ t.plat.power = (if j = 0 then .off else .dead) ∧
      t.plat.bootOk = BitVec.ofNat 8 (j + 1))) ∧
  (∀ b s,
    let x := (startFirmware s b).plat.lnkid
    x &&& 0x0CC#12 = 0 ∧ x.getLsbD (8 + (x.extractLsb' 0 2).toNat) = true) ∧
  (∀ aon s, ∃ t, exec (.powerLoss aon) s = .next t ∧ t.mem.main = [] ∧ t.mem.far = s.mem.far ∧ t.banks = [] ∧ t.plat.flash = s.plat.flash ∧
    (aon = true → t.plat.power = .off ∧ t.aon = 0 ∧ t.plat.aonUp = false) ∧
    (aon = false → t.plat.power = .dead ∧ t.plat.crock = s.plat.crock ∧ t.aon = s.aon)) ∧
  (∀ s, (s.plat.aonUp = true → (tick s).aon = s.aon + (nanos (s.time + 1) - nanos s.time)) ∧ (s.plat.aonUp = false → (tick s).aon = s.aon))

/-! ### The step, the state after reset, and a dead device -/

/-- Tier 1. A step that is the issue of a ready bank runs the instruction that its bundle's one word decodes to: `exec` of it in the state
that the fetch leaves, then the bundle's commit with its charge and its end where the word is done; where it waits or takes a cause of its
own, the state that it leaves stands; where it is a TRAP or takes its thread elsewhere, it has issued too. A word that acts on memory waits
for the memory steps of earlier words, and a cause is taken once they are performed (R132). The helper's turn follows, and a register word
whose write has landed is good again (R236). A bundle's end goes on at the branch target, or, with no loop active, at
the bundle that follows (R10, R270 to R272, R301, R241). That one step is one agent's move, and the order of a bundle's words, are the
model's (log 1, log 42). -/
def Obligations.StepRunsDecoded : Prop :=
  (∀ (s : State) (core : Fin 32) (bank : Fin 2) (r : List Move) (s1 : State) (w : DWord) (i : Instr),
    let c : Ctx := { core := core, bank := bank }
    let s0 := { s with agenda := r, iss := { s.iss with cause := none } }
    let s2 := { s1 with iss := { s1.iss with fall := s1.iss.pc + 8 } }
    let k := (slotOf w).getD 0
    let leaves (u : State) : Prop := step s = .next (healLanded s (helperTurn u c))
    s.agenda = .issue core :: r → s.plat.power = .on → (s.core core).issuing = some bank → canIssue s0 c = true →
    (s.bank c).pipe.wait = .none → (s.bank c).discard = false → (s.bank c).dfault = none → (s.bank c).eng.faults = [] →
    gangStart s0 c = none → stepsWait s2.cur [{ slot := k, i := i }] = false →
    fetchBundle (startBundle s0 c) c (s.bank c).th.pc 4 = .ok (s1, [w]) → registerError s1 c [{ slot := k, i := i }] = none →
    decodeWord w = .ok i → precheck i s2.cur = none →
    interlocked i s2.cur none = false → ∀ t, exec i { s2 with iss := { s2.iss with slot := k } } = .next t →
      ((s.bank c).pipe.steps = [] →
        (t.iss.verdict = .done → leaves (commitBundle s2 c [{ slot := k, i := i }] t endBundle)) ∧
        (t.iss.verdict = .stalled → leaves t) ∧
        (t.iss.verdict = .diverted → leavesThread i = false → isTrap i = false → leaves t) ∧
        (t.iss.verdict = .diverted → isTrap i = true → leaves (commitBundle s2 c [{ slot := k, i := i }] t id)) ∧
        (t.iss.verdict = .diverted → leavesThread i = true → leaves (commitBundle s2 c [{ slot := k, i := i }] t fun t =>
          if (t.bank c).tr.mode = s2.cur.tr.mode then t else t.setBank c (afterCycle (t.bank c))))) ∧
      ((s.bank c).pipe.steps ≠ [] → t.iss.cause.isSome = true → t.iss.verdict = .diverted → leavesThread i = false → isTrap i = false →
        leaves s0)) ∧
  (∀ s t : State, t.mem.bad = [] → healLanded s t = t) ∧
  (∀ (s : State) (a : Addr), s.iss.target = some a → (endBundle s).cur.th.pc = a) ∧
  (∀ s : State, s.iss.target = none → (∀ k, k < 4 → ((afterCycle s.cur).loops.get k).active = false) →
    (endBundle s).cur.th.pc = s.iss.fall)

/-- Tier 1. Reset leaves no bank bound, every scalar, vector and loop register of every bank zero, p0 all ones and the other predicates
zero, every reference null, handle closed, ring empty, stream unbound and format zero, HELPD and LEASEQ at their reset values, nothing
written in a scratchpad or accumulator, the main, near and far tiers and the heap empty, and the NPU domain without power before a boot has
verified; a core that is asked to issue without power stops with the fault that says so. The zeros are the model's own choice (log 3, log
4). -/
def Obligations.ResetState : Prop :=
  State.reset.plat.power = .booting ∧ (∀ c, State.reset.bank c = Bank.reset) ∧ Bank.reset.phase = .free ∧
  State.reset.mem.main = [] ∧ State.reset.mem.far = [] ∧ State.reset.heap.en = false ∧ State.reset.sched.nodes = [] ∧ State.reset.time = 0 ∧
  State.reset.memWf = true ∧ State.reset.mem.near = [] ∧ (∀ n, Bank.reset.sreg n = 0 ∧ Bank.reset.vreg n = 0 ∧ Bank.reset.vphys n = 0) ∧
  (∀ n, Bank.reset.pphys n = if n = 0 then allOnesP else 0) ∧ (∀ n, n < 16 → Bank.reset.preg n = if n = 0 then allOnesP else 0) ∧
  (∀ n, Bank.reset.kreg n = nullRef ∧ Bank.reset.hreg n = .reset ∧ (Bank.reset.ring n).cnt = 0 ∧ (Bank.reset.ring n).occ = 0 ∧
    Bank.reset.stream n = .unbound ∧ Bank.reset.bfmt n = 0) ∧
  (∀ k, Bank.reset.loops.get k = .reset) ∧ Bank.reset.loops.rot = 0 ∧ Bank.reset.loops.prot = 0 ∧
  Bank.reset.sys.helpd = 16 ∧ Bank.reset.sys.leaseq = 64 ∧ Bank.reset.scr = [] ∧ Bank.reset.acc = [] ∧ DarkInv State.reset ∧
  (∀ core s, s.plat.power ≠ .on → makeMove (.issue core) s = .fault .noPower)

/-- Tier 3. Without power nothing runs: while the NPU domain is off, before its boot, or stopped by a fatal error, no step gives it power
but a boot, and its banks, heap and scheduler do not change, nor its memories but for the 4 KiB of a re-sync record that was asked for; and
every fatal error leaves such a device (R264, R266, R267). That events other than those of the always-on side do nothing then is the model's
reading (log 46). -/
def Obligations.NothingRunsWithoutPower : Prop :=
  (∀ s t, DarkInv s → step s = .next t → DarkInv t ∧ t.plat.power = s.plat.power ∧ t.banks = s.banks ∧ t.cores = s.cores ∧
    t.heap = s.heap ∧ t.sched = s.sched ∧ t.res = s.res ∧ (s.plat.rs.busy = false → t.mem = s.mem) ∧
    { t.mem with main := s.mem.main } = s.mem ∧
    (∀ a, a < s.plat.rsRun.toNat ∨ s.plat.rsRun.toNat + 4096 ≤ a → t.mainByte a = s.mainByte a)) ∧
  (∀ (c : Nat) (s : State), (s.agenda.all fun m => !m.revives) = true → DarkInv (fatalError c s))
end

