-- ==== Sys2Proof/Laws/Encoding.lean ====
section
/-! SUPPORT. The laws of the encoding: each payload format loses no bit, and the header, major and function code of an assembled word
read back (R273 to R278). -/

namespace Sys2Proof.Laws

/-- A field of a concatenation that lies in its low part. -/
theorem extract_low {a b : Nat} (x : BitVec a) (y : BitVec b) (i n : Nat) (h : i + n ≤ b) :
    (x ++ y).extractLsb' i n = y.extractLsb' i n := by
  apply BitVec.eq_of_getLsbD_eq
  intro k hk
  simp only [BitVec.getLsbD_extractLsb', BitVec.getLsbD_append, hk, decide_true, Bool.true_and]
  rw [if_pos (by omega)]

/-- A field of a concatenation that lies in its high part. -/
theorem extract_high {a b : Nat} (x : BitVec a) (y : BitVec b) (i n : Nat) (h : b ≤ i) :
    (x ++ y).extractLsb' i n = x.extractLsb' (i - b) n := by
  apply BitVec.eq_of_getLsbD_eq
  intro k hk
  simp only [BitVec.getLsbD_extractLsb', BitVec.getLsbD_append, hk, decide_true, Bool.true_and]
  rw [if_neg (by omega)]
  congr 1
  omega

theorem extract_all {a : Nat} (x : BitVec a) : x.extractLsb' 0 a = x := by
  apply BitVec.eq_of_getLsbD_eq
  intro k hk
  simp [hk]

/-- A bit that is a field of its own. -/
theorem getLsbD_extract {a : Nat} (x : BitVec a) (i : Nat) (b : Bool) (h : x.extractLsb' i 1 = bit1 b) : x.getLsbD i = b := by
  have e : (x.extractLsb' i 1).getLsbD 0 = x.getLsbD i := by simp
  rw [← e, h]
  cases b <;> rfl

theorem sr_round (o : SrOps) : SrOps.ofBits o.bits = o := by
  have h0 : (SrOps.ofBits o.bits).sd = o.sd := (extract_high _ _ _ _ (by decide)).trans ((extract_high _ _ _ _ (by decide)).trans ((extract_high _ _ _ _ (by decide)).trans ((extract_high _ _ _ _ (by decide)).trans ((extract_high _ _ _ _ (by decide)).trans ((extract_high _ _ _ _ (by decide)).trans (extract_all _))))))
  have h1 : (SrOps.ofBits o.bits).sa = o.sa := (extract_high _ _ _ _ (by decide)).trans ((extract_high _ _ _ _ (by decide)).trans ((extract_high _ _ _ _ (by decide)).trans ((extract_high _ _ _ _ (by decide)).trans ((extract_high _ _ _ _ (by decide)).trans ((extract_low _ _ _ _ (by decide)).trans (extract_all _))))))
  have h2 : (SrOps.ofBits o.bits).sb = o.sb := (extract_high _ _ _ _ (by decide)).trans ((extract_high _ _ _ _ (by decide)).trans ((extract_high _ _ _ _ (by decide)).trans ((extract_high _ _ _ _ (by decide)).trans ((extract_low _ _ _ _ (by decide)).trans (extract_all _)))))
  have h3 : (SrOps.ofBits o.bits).ma = o.ma := (extract_high _ _ _ _ (by decide)).trans ((extract_high _ _ _ _ (by decide)).trans ((extract_high _ _ _ _ (by decide)).trans ((extract_low _ _ _ _ (by decide)).trans (extract_all _))))
  have h4 : (SrOps.ofBits o.bits).mb = o.mb := (extract_high _ _ _ _ (by decide)).trans ((extract_high _ _ _ _ (by decide)).trans ((extract_low _ _ _ _ (by decide)).trans (extract_all _)))
  have h5 : (SrOps.ofBits o.bits).md = o.md := (extract_high _ _ _ _ (by decide)).trans ((extract_low _ _ _ _ (by decide)).trans (extract_all _))
  have h6 : (SrOps.ofBits o.bits).rz = o.rz := (extract_low _ _ _ _ (by decide)).trans (extract_all _)
  cases o
  simp only [SrOps.ofBits, SrOps.mk.injEq]
  exact ⟨h0, h1, h2, h3, h4, h5, h6⟩

theorem si_round (o : SiOps) : SiOps.ofBits o.bits = o := by
  have h0 : (SiOps.ofBits o.bits).sd = o.sd := (extract_high _ _ _ _ (by decide)).trans ((extract_high _ _ _ _ (by decide)).trans (extract_all _))
  have h1 : (SiOps.ofBits o.bits).sa = o.sa := (extract_high _ _ _ _ (by decide)).trans ((extract_low _ _ _ _ (by decide)).trans (extract_all _))
  have h2 : (SiOps.ofBits o.bits).imm = o.imm := (extract_low _ _ _ _ (by decide)).trans (extract_all _)
  cases o
  simp only [SiOps.ofBits, SiOps.mk.injEq]
  exact ⟨h0, h1, h2⟩

theorem vr_round (o : VrOps) : VrOps.ofBits o.bits = o := by
  have h0 : (VrOps.ofBits o.bits).vd = o.vd := (extract_high _ _ _ _ (by decide)).trans ((extract_high _ _ _ _ (by decide)).trans ((extract_high _ _ _ _ (by decide)).trans ((extract_high _ _ _ _ (by decide)).trans ((extract_high _ _ _ _ (by decide)).trans ((extract_high _ _ _ _ (by decide)).trans ((extract_high _ _ _ _ (by decide)).trans ((extract_high _ _ _ _ (by decide)).trans ((extract_high _ _ _ _ (by decide)).trans (extract_all _)))))))))
  have h1 : (VrOps.ofBits o.bits).va = o.va := (extract_high _ _ _ _ (by decide)).trans ((extract_high _ _ _ _ (by decide)).trans ((extract_high _ _ _ _ (by decide)).trans ((extract_high _ _ _ _ (by decide)).trans ((extract_high _ _ _ _ (by decide)).trans ((extract_high _ _ _ _ (by decide)).trans ((extract_high _ _ _ _ (by decide)).trans ((extract_high _ _ _ _ (by decide)).trans ((extract_low _ _ _ _ (by decide)).trans (extract_all _)))))))))
  have h2 : (VrOps.ofBits o.bits).vb = o.vb := (extract_high _ _ _ _ (by decide)).trans ((extract_high _ _ _ _ (by decide)).trans ((extract_high _ _ _ _ (by decide)).trans ((extract_high _ _ _ _ (by decide)).trans ((extract_high _ _ _ _ (by decide)).trans ((extract_high _ _ _ _ (by decide)).trans ((extract_high _ _ _ _ (by decide)).trans ((extract_low _ _ _ _ (by decide)).trans (extract_all _))))))))
  have h3 : (VrOps.ofBits o.bits).vc = o.vc := (extract_high _ _ _ _ (by decide)).trans ((extract_high _ _ _ _ (by decide)).trans ((extract_high _ _ _ _ (by decide)).trans ((extract_high _ _ _ _ (by decide)).trans ((extract_high _ _ _ _ (by decide)).trans ((extract_high _ _ _ _ (by decide)).trans ((extract_low _ _ _ _ (by decide)).trans (extract_all _)))))))
  have h4 : (VrOps.ofBits o.bits).ty = o.ty := (extract_high _ _ _ _ (by decide)).trans ((extract_high _ _ _ _ (by decide)).trans ((extract_high _ _ _ _ (by decide)).trans ((extract_high _ _ _ _ (by decide)).trans ((extract_high _ _ _ _ (by decide)).trans ((extract_low _ _ _ _ (by decide)).trans (extract_all _))))))
  have h5 : (VrOps.ofBits o.bits).rm = o.rm := (extract_high _ _ _ _ (by decide)).trans ((extract_high _ _ _ _ (by decide)).trans ((extract_high _ _ _ _ (by decide)).trans ((extract_high _ _ _ _ (by decide)).trans ((extract_low _ _ _ _ (by decide)).trans (extract_all _)))))
  have h6 : (VrOps.ofBits o.bits).sat = o.sat := getLsbD_extract _ _ _ ((extract_high _ _ _ _ (by decide)).trans ((extract_high _ _ _ _ (by decide)).trans ((extract_high _ _ _ _ (by decide)).trans ((extract_low _ _ _ _ (by decide)).trans (extract_all _)))))
  have h7 : (VrOps.ofBits o.bits).ua = o.ua := getLsbD_extract _ _ _ ((extract_high _ _ _ _ (by decide)).trans ((extract_high _ _ _ _ (by decide)).trans ((extract_low _ _ _ _ (by decide)).trans (extract_all _))))
  have h8 : (VrOps.ofBits o.bits).ub = o.ub := getLsbD_extract _ _ _ ((extract_high _ _ _ _ (by decide)).trans ((extract_low _ _ _ _ (by decide)).trans (extract_all _)))
  have h9 : (VrOps.ofBits o.bits).rz = o.rz := (extract_low _ _ _ _ (by decide)).trans (extract_all _)
  cases o
  simp only [VrOps.ofBits, VrOps.mk.injEq]
  exact ⟨h0, h1, h2, h3, h4, h5, h6, h7, h8, h9⟩

theorem vs_round (o : VsOps) : VsOps.ofBits o.bits = o := by
  have h0 : (VsOps.ofBits o.bits).vd = o.vd := (extract_high _ _ _ _ (by decide)).trans ((extract_high _ _ _ _ (by decide)).trans ((extract_high _ _ _ _ (by decide)).trans ((extract_high _ _ _ _ (by decide)).trans ((extract_high _ _ _ _ (by decide)).trans ((extract_high _ _ _ _ (by decide)).trans (extract_all _))))))
  have h1 : (VsOps.ofBits o.bits).va = o.va := (extract_high _ _ _ _ (by decide)).trans ((extract_high _ _ _ _ (by decide)).trans ((extract_high _ _ _ _ (by decide)).trans ((extract_high _ _ _ _ (by decide)).trans ((extract_high _ _ _ _ (by decide)).trans ((extract_low _ _ _ _ (by decide)).trans (extract_all _))))))
  have h2 : (VsOps.ofBits o.bits).ss = o.ss := (extract_high _ _ _ _ (by decide)).trans ((extract_high _ _ _ _ (by decide)).trans ((extract_high _ _ _ _ (by decide)).trans ((extract_high _ _ _ _ (by decide)).trans ((extract_low _ _ _ _ (by decide)).trans (extract_all _)))))
  have h3 : (VsOps.ofBits o.bits).ty = o.ty := (extract_high _ _ _ _ (by decide)).trans ((extract_high _ _ _ _ (by decide)).trans ((extract_high _ _ _ _ (by decide)).trans ((extract_low _ _ _ _ (by decide)).trans (extract_all _))))
  have h4 : (VsOps.ofBits o.bits).rm = o.rm := (extract_high _ _ _ _ (by decide)).trans ((extract_high _ _ _ _ (by decide)).trans ((extract_low _ _ _ _ (by decide)).trans (extract_all _)))
  have h5 : (VsOps.ofBits o.bits).sat = o.sat := getLsbD_extract _ _ _ ((extract_high _ _ _ _ (by decide)).trans ((extract_low _ _ _ _ (by decide)).trans (extract_all _)))
  have h6 : (VsOps.ofBits o.bits).imm = o.imm := (extract_low _ _ _ _ (by decide)).trans (extract_all _)
  cases o
  simp only [VsOps.ofBits, VsOps.mk.injEq]
  exact ⟨h0, h1, h2, h3, h4, h5, h6⟩

theorem m_round (o : MOps) : MOps.ofBits o.bits = o := by
  have h0 : (MOps.ofBits o.bits).dr = o.dr := (extract_high _ _ _ _ (by decide)).trans ((extract_high _ _ _ _ (by decide)).trans ((extract_high _ _ _ _ (by decide)).trans ((extract_high _ _ _ _ (by decide)).trans ((extract_high _ _ _ _ (by decide)).trans ((extract_high _ _ _ _ (by decide)).trans (extract_all _))))))
  have h1 : (MOps.ofBits o.bits).bs = o.bs := (extract_high _ _ _ _ (by decide)).trans ((extract_high _ _ _ _ (by decide)).trans ((extract_high _ _ _ _ (by decide)).trans ((extract_high _ _ _ _ (by decide)).trans ((extract_high _ _ _ _ (by decide)).trans ((extract_low _ _ _ _ (by decide)).trans (extract_all _))))))
  have h2 : (MOps.ofBits o.bits).ord = o.ord := (extract_high _ _ _ _ (by decide)).trans ((extract_high _ _ _ _ (by decide)).trans ((extract_high _ _ _ _ (by decide)).trans ((extract_high _ _ _ _ (by decide)).trans ((extract_low _ _ _ _ (by decide)).trans (extract_all _)))))
  have h3 : (MOps.ofBits o.bits).sc = o.sc := (extract_high _ _ _ _ (by decide)).trans ((extract_high _ _ _ _ (by decide)).trans ((extract_high _ _ _ _ (by decide)).trans ((extract_low _ _ _ _ (by decide)).trans (extract_all _))))
  have h4 : (MOps.ofBits o.bits).sz = o.sz := (extract_high _ _ _ _ (by decide)).trans ((extract_high _ _ _ _ (by decide)).trans ((extract_low _ _ _ _ (by decide)).trans (extract_all _)))
  have h5 : (MOps.ofBits o.bits).ch = o.ch := (extract_high _ _ _ _ (by decide)).trans ((extract_low _ _ _ _ (by decide)).trans (extract_all _))
  have h6 : (MOps.ofBits o.bits).off = o.off := (extract_low _ _ _ _ (by decide)).trans (extract_all _)
  cases o
  simp only [MOps.ofBits, MOps.mk.injEq]
  exact ⟨h0, h1, h2, h3, h4, h5, h6⟩

theorem k_round (o : KOps) : KOps.ofBits o.bits = o := by
  have h0 : (KOps.ofBits o.bits).kh = o.kh := (extract_high _ _ _ _ (by decide)).trans ((extract_high _ _ _ _ (by decide)).trans ((extract_high _ _ _ _ (by decide)).trans ((extract_high _ _ _ _ (by decide)).trans ((extract_high _ _ _ _ (by decide)).trans (extract_all _)))))
  have h1 : (KOps.ofBits o.bits).kb = o.kb := (extract_high _ _ _ _ (by decide)).trans ((extract_high _ _ _ _ (by decide)).trans ((extract_high _ _ _ _ (by decide)).trans ((extract_high _ _ _ _ (by decide)).trans ((extract_low _ _ _ _ (by decide)).trans (extract_all _)))))
  have h2 : (KOps.ofBits o.bits).dr = o.dr := (extract_high _ _ _ _ (by decide)).trans ((extract_high _ _ _ _ (by decide)).trans ((extract_high _ _ _ _ (by decide)).trans ((extract_low _ _ _ _ (by decide)).trans (extract_all _))))
  have h3 : (KOps.ofBits o.bits).ord = o.ord := (extract_high _ _ _ _ (by decide)).trans ((extract_high _ _ _ _ (by decide)).trans ((extract_low _ _ _ _ (by decide)).trans (extract_all _)))
  have h4 : (KOps.ofBits o.bits).sz = o.sz := (extract_high _ _ _ _ (by decide)).trans ((extract_low _ _ _ _ (by decide)).trans (extract_all _))
  have h5 : (KOps.ofBits o.bits).off = o.off := (extract_low _ _ _ _ (by decide)).trans (extract_all _)
  cases o
  simp only [KOps.ofBits, KOps.mk.injEq]
  exact ⟨h0, h1, h2, h3, h4, h5⟩

theorem e_round (o : EOps) : EOps.ofBits o.bits = o := by
  have h0 : (EOps.ofBits o.bits).tok = o.tok := (extract_high _ _ _ _ (by decide)).trans ((extract_high _ _ _ _ (by decide)).trans ((extract_high _ _ _ _ (by decide)).trans ((extract_high _ _ _ _ (by decide)).trans ((extract_high _ _ _ _ (by decide)).trans ((extract_high _ _ _ _ (by decide)).trans (extract_all _))))))
  have h1 : (EOps.ofBits o.bits).ra = o.ra := (extract_high _ _ _ _ (by decide)).trans ((extract_high _ _ _ _ (by decide)).trans ((extract_high _ _ _ _ (by decide)).trans ((extract_high _ _ _ _ (by decide)).trans ((extract_high _ _ _ _ (by decide)).trans ((extract_low _ _ _ _ (by decide)).trans (extract_all _))))))
  have h2 : (EOps.ofBits o.bits).rb = o.rb := (extract_high _ _ _ _ (by decide)).trans ((extract_high _ _ _ _ (by decide)).trans ((extract_high _ _ _ _ (by decide)).trans ((extract_high _ _ _ _ (by decide)).trans ((extract_low _ _ _ _ (by decide)).trans (extract_all _)))))
  have h3 : (EOps.ofBits o.bits).sx = o.sx := (extract_high _ _ _ _ (by decide)).trans ((extract_high _ _ _ _ (by decide)).trans ((extract_high _ _ _ _ (by decide)).trans ((extract_low _ _ _ _ (by decide)).trans (extract_all _))))
  have h4 : (EOps.ofBits o.bits).sy = o.sy := (extract_high _ _ _ _ (by decide)).trans ((extract_high _ _ _ _ (by decide)).trans ((extract_low _ _ _ _ (by decide)).trans (extract_all _)))
  have h5 : (EOps.ofBits o.bits).sz = o.sz := (extract_high _ _ _ _ (by decide)).trans ((extract_low _ _ _ _ (by decide)).trans (extract_all _))
  have h6 : (EOps.ofBits o.bits).eimm = o.eimm := (extract_low _ _ _ _ (by decide)).trans (extract_all _)
  cases o
  simp only [EOps.ofBits, EOps.mk.injEq]
  exact ⟨h0, h1, h2, h3, h4, h5, h6⟩

theorem b_round (o : BOps) : BOps.ofBits o.bits = o := by
  have h0 : (BOps.ofBits o.bits).bf = o.bf := (extract_high _ _ _ _ (by decide)).trans ((extract_high _ _ _ _ (by decide)).trans ((extract_high _ _ _ _ (by decide)).trans (extract_all _)))
  have h1 : (BOps.ofBits o.bits).li = o.li := (extract_high _ _ _ _ (by decide)).trans ((extract_high _ _ _ _ (by decide)).trans ((extract_low _ _ _ _ (by decide)).trans (extract_all _)))
  have h2 : (BOps.ofBits o.bits).sa = o.sa := (extract_high _ _ _ _ (by decide)).trans ((extract_low _ _ _ _ (by decide)).trans (extract_all _))
  have h3 : (BOps.ofBits o.bits).off = o.off := (extract_low _ _ _ _ (by decide)).trans (extract_all _)
  cases o
  simp only [BOps.ofBits, BOps.mk.injEq]
  exact ⟨h0, h1, h2, h3⟩

theorem x_round (o : XOps) : XOps.ofBits o.bits = o := by
  have h0 : (XOps.ofBits o.bits).vd = o.vd := (extract_high _ _ _ _ (by decide)).trans ((extract_high _ _ _ _ (by decide)).trans ((extract_high _ _ _ _ (by decide)).trans ((extract_high _ _ _ _ (by decide)).trans ((extract_high _ _ _ _ (by decide)).trans (extract_all _)))))
  have h1 : (XOps.ofBits o.bits).va = o.va := (extract_high _ _ _ _ (by decide)).trans ((extract_high _ _ _ _ (by decide)).trans ((extract_high _ _ _ _ (by decide)).trans ((extract_high _ _ _ _ (by decide)).trans ((extract_low _ _ _ _ (by decide)).trans (extract_all _)))))
  have h2 : (XOps.ofBits o.bits).vb = o.vb := (extract_high _ _ _ _ (by decide)).trans ((extract_high _ _ _ _ (by decide)).trans ((extract_high _ _ _ _ (by decide)).trans ((extract_low _ _ _ _ (by decide)).trans (extract_all _))))
  have h3 : (XOps.ofBits o.bits).sa = o.sa := (extract_high _ _ _ _ (by decide)).trans ((extract_high _ _ _ _ (by decide)).trans ((extract_low _ _ _ _ (by decide)).trans (extract_all _)))
  have h4 : (XOps.ofBits o.bits).sb = o.sb := (extract_high _ _ _ _ (by decide)).trans ((extract_low _ _ _ _ (by decide)).trans (extract_all _))
  have h5 : (XOps.ofBits o.bits).xf = o.xf := (extract_low _ _ _ _ (by decide)).trans (extract_all _)
  cases o
  simp only [XOps.ofBits, XOps.mk.injEq]
  exact ⟨h0, h1, h2, h3, h4, h5⟩

theorem y_round (o : YOps) : YOps.ofBits o.bits = o := by
  have h0 : (YOps.ofBits o.bits).sd = o.sd := (extract_high _ _ _ _ (by decide)).trans ((extract_high _ _ _ _ (by decide)).trans ((extract_high _ _ _ _ (by decide)).trans (extract_all _)))
  have h1 : (YOps.ofBits o.bits).sa = o.sa := (extract_high _ _ _ _ (by decide)).trans ((extract_high _ _ _ _ (by decide)).trans ((extract_low _ _ _ _ (by decide)).trans (extract_all _)))
  have h2 : (YOps.ofBits o.bits).srn = o.srn := (extract_high _ _ _ _ (by decide)).trans ((extract_low _ _ _ _ (by decide)).trans (extract_all _))
  have h3 : (YOps.ofBits o.bits).imm = o.imm := (extract_low _ _ _ _ (by decide)).trans (extract_all _)
  cases o
  simp only [YOps.ofBits, YOps.mk.injEq]
  exact ⟨h0, h1, h2, h3⟩

/-- The parts of an assembled word read back (R273). -/
theorem assemble_payload (h : Hdr) (maj : BitVec 7) (fn : BitVec 8) (p : BitVec 43) :
    (assemble h maj fn p).extractLsb' 0 43 = p := (extract_low _ _ _ _ (by decide)).trans (extract_all _)

theorem assemble_fn (h : Hdr) (maj : BitVec 7) (fn : BitVec 8) (p : BitVec 43) :
    (assemble h maj fn p).extractLsb' 43 8 = fn := (extract_high _ _ _ _ (by decide)).trans ((extract_low _ _ _ _ (by decide)).trans (extract_all _))

theorem assemble_maj (h : Hdr) (maj : BitVec 7) (fn : BitVec 8) (p : BitVec 43) :
    (assemble h maj fn p).extractLsb' 56 7 = maj :=
  (extract_high _ _ _ _ (by decide)).trans ((extract_high _ _ _ _ (by decide)).trans ((extract_high _ _ _ _ (by decide)).trans ((extract_high _ _ _ _ (by decide)).trans ((extract_low _ _ _ _ (by decide)).trans (extract_all _)))))

theorem assemble_hdr (h : Hdr) (maj : BitVec 7) (fn : BitVec 8) (p : BitVec 43) : Hdr.ofWord (assemble h maj fn p) = h := by
  have h0 : (Hdr.ofWord (assemble h maj fn p)).last = h.last :=
    getLsbD_extract _ _ _ ((extract_high _ _ _ _ (by decide)).trans ((extract_high _ _ _ _ (by decide)).trans ((extract_high _ _ _ _ (by decide)).trans ((extract_high _ _ _ _ (by decide)).trans ((extract_high _ _ _ _ (by decide)).trans (extract_all _))))))
  have h1 : (Hdr.ofWord (assemble h maj fn p)).pg = h.pg :=
    (extract_high _ _ _ _ (by decide)).trans ((extract_high _ _ _ _ (by decide)).trans ((extract_high _ _ _ _ (by decide)).trans ((extract_low _ _ _ _ (by decide)).trans (extract_all _))))
  have h2 : (Hdr.ofWord (assemble h maj fn p)).pn = h.pn :=
    getLsbD_extract _ _ _ ((extract_high _ _ _ _ (by decide)).trans ((extract_high _ _ _ _ (by decide)).trans ((extract_low _ _ _ _ (by decide)).trans (extract_all _))))
  cases h
  simp only [Hdr.ofWord, Hdr.mk.injEq]
  exact ⟨h0, h1, h2⟩

/-- Decoding an assembled word is reading its major's function table (R282). -/
theorem decode_assemble (h : Hdr) (maj : BitVec 7) (fn : BitVec 8) (p : BitVec 43) (i : Instr)
    (e : decodeMajor maj.toNat fn.toNat h p = some (some i)) : decodeWord (assemble h maj fn p) = .ok i := by
  simp only [decodeWord, assemble_maj, assemble_fn, assemble_payload, assemble_hdr, e]

end Sys2Proof.Laws
end

