-- ==== Sys2Proof/Laws/Tab.lean ====
section
/-! SUPPORT. The laws of tables and of byte memory: what a read sees after a write, and that every write keeps the canonical form. -/

namespace Sys2Proof.Machine

variable {α : Type}

/-- A table reads back what was written under the same key. -/
@[simp] theorem tabGet?_tabSet_same (t : Tab α) (k : Nat) (v : α) : tabGet? (tabSet t k v) k = some v := by
  induction t with
  | nil => simp [tabSet, tabGet?]
  | cons x r ih =>
    obtain ⟨j, w⟩ := x
    simp only [tabSet]
    split
    · simp [tabGet?]
    · rename_i h
      split
      · simp [tabGet?]
      · simp [tabGet?, h, ih]

/-- Every other key reads as before. -/
theorem tabGet?_tabSet_other (t : Tab α) (k i : Nat) (v : α) (h : i ≠ k) : tabGet? (tabSet t k v) i = tabGet? t i := by
  induction t with
  | nil => simp [tabSet, tabGet?, Ne.symm h]
  | cons x r ih =>
    obtain ⟨j, w⟩ := x
    simp only [tabSet]
    split
    · rename_i e
      subst e
      simp [tabGet?, Ne.symm h]
    · split
      · simp [tabGet?, Ne.symm h]
      · simp [tabGet?, ih]

@[simp] theorem tabGet_tabSet_same (t : Tab α) (k : Nat) (v d : α) : tabGet (tabSet t k v) k d = v := by simp [tabGet]

theorem tabGet_tabSet_other (t : Tab α) (k i : Nat) (v d : α) (h : i ≠ k) : tabGet (tabSet t k v) i d = tabGet t i d := by
  simp [tabGet, tabGet?_tabSet_other t k i v h]

/-- The keys of a table are all above `m` and rise. -/
def Rising (m : Nat) : Tab α → Prop
  | [] => True
  | (j, _) :: r => m < j ∧ Rising j r

theorem tabSorted_cons (j : Nat) (w : α) (r : Tab α) : tabSorted ((j, w) :: r) = true ↔ Rising j r := by
  induction r generalizing j w with
  | nil => simp [tabSorted, Rising]
  | cons x r ih =>
    obtain ⟨k, v⟩ := x
    simp [tabSorted, Rising, ih]

theorem Rising.mono {m n : Nat} {t : Tab α} (h : n ≤ m) (hr : Rising m t) : Rising n t := by
  cases t with
  | nil => trivial
  | cons x r => exact ⟨Nat.lt_of_le_of_lt h hr.1, hr.2⟩

theorem Rising.set {m k : Nat} {t : Tab α} (v : α) (h : m < k) (hr : Rising m t) : Rising m (tabSet t k v) := by
  induction t generalizing m with
  | nil => exact ⟨h, trivial⟩
  | cons x r ih =>
    obtain ⟨j, w⟩ := x
    simp only [tabSet]
    split
    · rename_i e
      subst e
      exact hr
    · rename_i e
      split
      · rename_i l
        exact ⟨h, l, hr.2⟩
      · exact ⟨hr.1, ih (by omega) hr.2⟩

theorem Rising.del {m k : Nat} {t : Tab α} (hr : Rising m t) : Rising m (tabDel t k) := by
  induction t generalizing m with
  | nil => trivial
  | cons x r ih =>
    obtain ⟨j, w⟩ := x
    simp only [tabDel]
    split
    · exact (ih hr.2).mono (Nat.le_of_lt hr.1)
    · exact ⟨hr.1, ih hr.2⟩

theorem Rising.get {m k : Nat} {t : Tab α} (hr : Rising m t) (h : k ≤ m) : tabGet? t k = none := by
  induction t generalizing m with
  | nil => rfl
  | cons x r ih =>
    obtain ⟨j, w⟩ := x
    have h1 : m < j := hr.1
    have : j ≠ k := by omega
    simp [tabGet?, this, ih hr.2 (by omega)]

/-- A sorted table stays sorted. -/
theorem tabSorted_tabSet (t : Tab α) (k : Nat) (v : α) (h : tabSorted t = true) : tabSorted (tabSet t k v) = true := by
  cases t with
  | nil => rfl
  | cons x r =>
    obtain ⟨j, w⟩ := x
    have hr := (tabSorted_cons j w r).1 h
    simp only [tabSet]
    split
    · rename_i e
      subst e
      exact (tabSorted_cons _ _ _).2 hr
    · split
      · rename_i l
        exact (tabSorted_cons _ _ _).2 ⟨l, hr⟩
      · exact (tabSorted_cons _ _ _).2 (hr.set v (by omega))

theorem Rising.sorted {m : Nat} {t : Tab α} (hr : Rising m t) : tabSorted t = true := by
  cases t with
  | nil => rfl
  | cons x r => exact (tabSorted_cons _ _ _).2 hr.2

theorem tabSorted_tabDel (t : Tab α) (k : Nat) (h : tabSorted t = true) : tabSorted (tabDel t k) = true := by
  cases t with
  | nil => rfl
  | cons x r =>
    obtain ⟨j, w⟩ := x
    have hr := (tabSorted_cons j w r).1 h
    simp only [tabDel]
    split
    · exact hr.del.sorted
    · exact (tabSorted_cons _ _ _).2 hr.del

/-- A removed key is no longer listed; every other key reads as before. -/
@[simp] theorem tabGet?_tabDel_same (t : Tab α) (k : Nat) : tabGet? (tabDel t k) k = none := by
  induction t with
  | nil => rfl
  | cons x r ih =>
    obtain ⟨j, w⟩ := x
    simp only [tabDel]
    split
    · exact ih
    · rename_i e
      simp [tabGet?, e, ih]

theorem tabGet?_tabDel_other (t : Tab α) (k i : Nat) (h : i ≠ k) : tabGet? (tabDel t k) i = tabGet? t i := by
  induction t with
  | nil => rfl
  | cons x r ih =>
    obtain ⟨j, w⟩ := x
    simp only [tabDel]
    split
    · rename_i e
      subst e
      simp [tabGet?, Ne.symm h, ih]
    · simp [tabGet?, ih]

/-- Entries of a changed table were written or were there. -/
theorem mem_tabSet {t : Tab α} {k : Nat} {v : α} {x : Nat × α} (h : x ∈ tabSet t k v) : x = (k, v) ∨ x ∈ t := by
  induction t with
  | nil => simpa [tabSet] using h
  | cons y r ih =>
    obtain ⟨j, w⟩ := y
    simp only [tabSet] at h
    split at h
    · rcases List.mem_cons.1 h with e | e
      · exact .inl e
      · exact .inr (List.mem_cons_of_mem _ e)
    · split at h
      · rcases List.mem_cons.1 h with e | e
        · exact .inl e
        · exact .inr e
      · rcases List.mem_cons.1 h with e | e
        · exact .inr (e ▸ List.mem_cons_self)
        · rcases ih e with f | f
          · exact .inl f
          · exact .inr (List.mem_cons_of_mem _ f)

theorem mem_tabDel {t : Tab α} {k : Nat} {x : Nat × α} (h : x ∈ tabDel t k) : x ∈ t := by
  induction t with
  | nil => exact h
  | cons y r ih =>
    obtain ⟨j, w⟩ := y
    simp only [tabDel] at h
    split at h
    · exact List.mem_cons_of_mem _ (ih h)
    · rcases List.mem_cons.1 h with e | e
      · exact e ▸ List.mem_cons_self
      · exact List.mem_cons_of_mem _ (ih e)

/-! ### Byte memory -/

/-- Every write of a byte keeps the canonical form. -/
theorem memSetByte_wf (m : Mem) (a : Nat) (v : Byte) (h : Memory.wf m = true) : Memory.wf (memSetByte m a v) = true := by
  simp only [Memory.wf, Bool.and_eq_true, List.all_eq_true, decide_eq_true_eq] at h ⊢
  unfold memSetByte
  split
  · exact ⟨tabSorted_tabDel m a h.1, fun x hx => h.2 x (mem_tabDel hx)⟩
  · rename_i hv
    refine ⟨tabSorted_tabSet m a v h.1, fun x hx => ?_⟩
    rcases mem_tabSet hx with rfl | hx
    · exact hv
    · exact h.2 x hx

/-- So does a write of bytes. -/
theorem memSetBytes_wf (m : Mem) (a : Nat) (l : List Byte) (h : Memory.wf m = true) : Memory.wf (memSetBytes m a l) = true := by
  induction l generalizing m a with
  | nil => exact h
  | cons b r ih => exact ih _ _ (memSetByte_wf m a b h)

/-- A byte reads back as written. -/
@[simp] theorem memByte_memSetByte_same (m : Mem) (a : Nat) (v : Byte) : memByte (memSetByte m a v) a = v := by
  unfold memSetByte memByte
  split
  · rename_i e
    simp [tabGet, e]
  · simp

/-- Every other byte reads as before. -/
theorem memByte_memSetByte_other (m : Mem) (a i : Nat) (v : Byte) (h : i ≠ a) : memByte (memSetByte m a v) i = memByte m i := by
  unfold memSetByte memByte
  split
  · simp [tabGet, tabGet?_tabDel_other m a i h]
  · simp [tabGet, tabGet?_tabSet_other m a i v h]

/-- Bytes outside the written ones read as before. -/
theorem memByte_memSetBytes_other (m : Mem) (a i : Nat) (l : List Byte) (h : i < a ∨ a + l.length ≤ i) :
    memByte (memSetBytes m a l) i = memByte m i := by
  induction l generalizing m a with
  | nil => rfl
  | cons b r ih =>
    simp only [List.length_cons] at h
    rw [memSetBytes, ih _ _ (by omega), memByte_memSetByte_other m a i b (by omega)]

/-- Written bytes read back. -/
theorem memByte_memSetBytes_same (m : Mem) (a k : Nat) (l : List Byte) (hk : k < l.length) :
    memByte (memSetBytes m a l) (a + k) = l[k] := by
  induction l generalizing m a k with
  | nil => simp at hk
  | cons b r ih =>
    cases k with
    | zero =>
      rw [memSetBytes, memByte_memSetBytes_other _ _ _ _ (by omega)]
      simp
    | succ k =>
      have := ih (memSetByte m a b) (a + 1) k (by simpa using hk)
      simpa [memSetBytes, Nat.add_assoc, Nat.add_comm 1 k] using this

end Sys2Proof.Machine
end

