-- ==== Sys2Proof/Laws/State.lean ====
section
/-! SUPPORT. One law per field per update of the state, and what a part of the state reads as after a part is written. -/

namespace Sys2Proof.Machine

@[simp] theorem State.setBank_cores (s : State) (c : Ctx) (b : Bank) : (s.setBank c b).cores = s.cores := rfl
@[simp] theorem State.setBank_clusters (s : State) (c : Ctx) (b : Bank) : (s.setBank c b).clusters = s.clusters := rfl
@[simp] theorem State.setBank_sched (s : State) (c : Ctx) (b : Bank) : (s.setBank c b).sched = s.sched := rfl
@[simp] theorem State.setBank_mem (s : State) (c : Ctx) (b : Bank) : (s.setBank c b).mem = s.mem := rfl
@[simp] theorem State.setBank_heap (s : State) (c : Ctx) (b : Bank) : (s.setBank c b).heap = s.heap := rfl
@[simp] theorem State.setBank_res (s : State) (c : Ctx) (b : Bank) : (s.setBank c b).res = s.res := rfl
@[simp] theorem State.setBank_plat (s : State) (c : Ctx) (b : Bank) : (s.setBank c b).plat = s.plat := rfl
@[simp] theorem State.setBank_pwr (s : State) (c : Ctx) (b : Bank) : (s.setBank c b).pwr = s.pwr := rfl
@[simp] theorem State.setBank_time (s : State) (c : Ctx) (b : Bank) : (s.setBank c b).time = s.time := rfl
@[simp] theorem State.setBank_aon (s : State) (c : Ctx) (b : Bank) : (s.setBank c b).aon = s.aon := rfl
@[simp] theorem State.setBank_iss (s : State) (c : Ctx) (b : Bank) : (s.setBank c b).iss = s.iss := rfl
@[simp] theorem State.setBank_agenda (s : State) (c : Ctx) (b : Bank) : (s.setBank c b).agenda = s.agenda := rfl
@[simp] theorem State.setBank_freeCtr (s : State) (c : Ctx) (b : Bank) : (s.setBank c b).freeCtr = s.freeCtr := rfl

@[simp] theorem State.setCur_cores (s : State) (b : Bank) : (s.setCur b).cores = s.cores := rfl
@[simp] theorem State.setCur_clusters (s : State) (b : Bank) : (s.setCur b).clusters = s.clusters := rfl
@[simp] theorem State.setCur_sched (s : State) (b : Bank) : (s.setCur b).sched = s.sched := rfl
@[simp] theorem State.setCur_mem (s : State) (b : Bank) : (s.setCur b).mem = s.mem := rfl
@[simp] theorem State.setCur_heap (s : State) (b : Bank) : (s.setCur b).heap = s.heap := rfl
@[simp] theorem State.setCur_res (s : State) (b : Bank) : (s.setCur b).res = s.res := rfl
@[simp] theorem State.setCur_plat (s : State) (b : Bank) : (s.setCur b).plat = s.plat := rfl
@[simp] theorem State.setCur_pwr (s : State) (b : Bank) : (s.setCur b).pwr = s.pwr := rfl
@[simp] theorem State.setCur_time (s : State) (b : Bank) : (s.setCur b).time = s.time := rfl
@[simp] theorem State.setCur_aon (s : State) (b : Bank) : (s.setCur b).aon = s.aon := rfl
@[simp] theorem State.setCur_iss (s : State) (b : Bank) : (s.setCur b).iss = s.iss := rfl
@[simp] theorem State.setCur_agenda (s : State) (b : Bank) : (s.setCur b).agenda = s.agenda := rfl
@[simp] theorem State.setCur_freeCtr (s : State) (b : Bank) : (s.setCur b).freeCtr = s.freeCtr := rfl

@[simp] theorem State.setCore_banks (s : State) (k : Fin 32) (x : Core) : (s.setCore k x).banks = s.banks := rfl
@[simp] theorem State.setCore_clusters (s : State) (k : Fin 32) (x : Core) : (s.setCore k x).clusters = s.clusters := rfl
@[simp] theorem State.setCore_sched (s : State) (k : Fin 32) (x : Core) : (s.setCore k x).sched = s.sched := rfl
@[simp] theorem State.setCore_mem (s : State) (k : Fin 32) (x : Core) : (s.setCore k x).mem = s.mem := rfl
@[simp] theorem State.setCore_heap (s : State) (k : Fin 32) (x : Core) : (s.setCore k x).heap = s.heap := rfl
@[simp] theorem State.setCore_res (s : State) (k : Fin 32) (x : Core) : (s.setCore k x).res = s.res := rfl
@[simp] theorem State.setCore_plat (s : State) (k : Fin 32) (x : Core) : (s.setCore k x).plat = s.plat := rfl
@[simp] theorem State.setCore_pwr (s : State) (k : Fin 32) (x : Core) : (s.setCore k x).pwr = s.pwr := rfl
@[simp] theorem State.setCore_time (s : State) (k : Fin 32) (x : Core) : (s.setCore k x).time = s.time := rfl
@[simp] theorem State.setCore_aon (s : State) (k : Fin 32) (x : Core) : (s.setCore k x).aon = s.aon := rfl
@[simp] theorem State.setCore_iss (s : State) (k : Fin 32) (x : Core) : (s.setCore k x).iss = s.iss := rfl
@[simp] theorem State.setCore_agenda (s : State) (k : Fin 32) (x : Core) : (s.setCore k x).agenda = s.agenda := rfl
@[simp] theorem State.setCore_freeCtr (s : State) (k : Fin 32) (x : Core) : (s.setCore k x).freeCtr = s.freeCtr := rfl

@[simp] theorem State.setCluster_banks (s : State) (k : Nat) (x : Cluster) : (s.setCluster k x).banks = s.banks := rfl
@[simp] theorem State.setCluster_cores (s : State) (k : Nat) (x : Cluster) : (s.setCluster k x).cores = s.cores := rfl
@[simp] theorem State.setCluster_sched (s : State) (k : Nat) (x : Cluster) : (s.setCluster k x).sched = s.sched := rfl
@[simp] theorem State.setCluster_mem (s : State) (k : Nat) (x : Cluster) : (s.setCluster k x).mem = s.mem := rfl
@[simp] theorem State.setCluster_heap (s : State) (k : Nat) (x : Cluster) : (s.setCluster k x).heap = s.heap := rfl
@[simp] theorem State.setCluster_res (s : State) (k : Nat) (x : Cluster) : (s.setCluster k x).res = s.res := rfl
@[simp] theorem State.setCluster_plat (s : State) (k : Nat) (x : Cluster) : (s.setCluster k x).plat = s.plat := rfl
@[simp] theorem State.setCluster_pwr (s : State) (k : Nat) (x : Cluster) : (s.setCluster k x).pwr = s.pwr := rfl
@[simp] theorem State.setCluster_time (s : State) (k : Nat) (x : Cluster) : (s.setCluster k x).time = s.time := rfl
@[simp] theorem State.setCluster_aon (s : State) (k : Nat) (x : Cluster) : (s.setCluster k x).aon = s.aon := rfl
@[simp] theorem State.setCluster_iss (s : State) (k : Nat) (x : Cluster) : (s.setCluster k x).iss = s.iss := rfl
@[simp] theorem State.setCluster_agenda (s : State) (k : Nat) (x : Cluster) : (s.setCluster k x).agenda = s.agenda := rfl
@[simp] theorem State.setCluster_freeCtr (s : State) (k : Nat) (x : Cluster) : (s.setCluster k x).freeCtr = s.freeCtr := rfl

@[simp] theorem State.setNode_banks (s : State) (k : Nat) (n : Node) : (s.setNode k n).banks = s.banks := rfl
@[simp] theorem State.setNode_cores (s : State) (k : Nat) (n : Node) : (s.setNode k n).cores = s.cores := rfl
@[simp] theorem State.setNode_clusters (s : State) (k : Nat) (n : Node) : (s.setNode k n).clusters = s.clusters := rfl
@[simp] theorem State.setNode_mem (s : State) (k : Nat) (n : Node) : (s.setNode k n).mem = s.mem := rfl
@[simp] theorem State.setNode_heap (s : State) (k : Nat) (n : Node) : (s.setNode k n).heap = s.heap := rfl
@[simp] theorem State.setNode_res (s : State) (k : Nat) (n : Node) : (s.setNode k n).res = s.res := rfl
@[simp] theorem State.setNode_plat (s : State) (k : Nat) (n : Node) : (s.setNode k n).plat = s.plat := rfl
@[simp] theorem State.setNode_pwr (s : State) (k : Nat) (n : Node) : (s.setNode k n).pwr = s.pwr := rfl
@[simp] theorem State.setNode_time (s : State) (k : Nat) (n : Node) : (s.setNode k n).time = s.time := rfl
@[simp] theorem State.setNode_aon (s : State) (k : Nat) (n : Node) : (s.setNode k n).aon = s.aon := rfl
@[simp] theorem State.setNode_iss (s : State) (k : Nat) (n : Node) : (s.setNode k n).iss = s.iss := rfl
@[simp] theorem State.setNode_agenda (s : State) (k : Nat) (n : Node) : (s.setNode k n).agenda = s.agenda := rfl
@[simp] theorem State.setNode_freeCtr (s : State) (k : Nat) (n : Node) : (s.setNode k n).freeCtr = s.freeCtr := rfl

@[simp] theorem State.setQueue_banks (s : State) (k : Nat) (q : Queue) : (s.setQueue k q).banks = s.banks := rfl
@[simp] theorem State.setQueue_cores (s : State) (k : Nat) (q : Queue) : (s.setQueue k q).cores = s.cores := rfl
@[simp] theorem State.setQueue_clusters (s : State) (k : Nat) (q : Queue) : (s.setQueue k q).clusters = s.clusters := rfl
@[simp] theorem State.setQueue_mem (s : State) (k : Nat) (q : Queue) : (s.setQueue k q).mem = s.mem := rfl
@[simp] theorem State.setQueue_heap (s : State) (k : Nat) (q : Queue) : (s.setQueue k q).heap = s.heap := rfl
@[simp] theorem State.setQueue_res (s : State) (k : Nat) (q : Queue) : (s.setQueue k q).res = s.res := rfl
@[simp] theorem State.setQueue_plat (s : State) (k : Nat) (q : Queue) : (s.setQueue k q).plat = s.plat := rfl
@[simp] theorem State.setQueue_pwr (s : State) (k : Nat) (q : Queue) : (s.setQueue k q).pwr = s.pwr := rfl
@[simp] theorem State.setQueue_time (s : State) (k : Nat) (q : Queue) : (s.setQueue k q).time = s.time := rfl
@[simp] theorem State.setQueue_aon (s : State) (k : Nat) (q : Queue) : (s.setQueue k q).aon = s.aon := rfl
@[simp] theorem State.setQueue_iss (s : State) (k : Nat) (q : Queue) : (s.setQueue k q).iss = s.iss := rfl
@[simp] theorem State.setQueue_agenda (s : State) (k : Nat) (q : Queue) : (s.setQueue k q).agenda = s.agenda := rfl
@[simp] theorem State.setQueue_freeCtr (s : State) (k : Nat) (q : Queue) : (s.setQueue k q).freeCtr = s.freeCtr := rfl

@[simp] theorem State.bump_banks (s : State) : (s.bump).banks = s.banks := rfl
@[simp] theorem State.bump_cores (s : State) : (s.bump).cores = s.cores := rfl
@[simp] theorem State.bump_clusters (s : State) : (s.bump).clusters = s.clusters := rfl
@[simp] theorem State.bump_sched (s : State) : (s.bump).sched = s.sched := rfl
@[simp] theorem State.bump_mem (s : State) : (s.bump).mem = s.mem := rfl
@[simp] theorem State.bump_heap (s : State) : (s.bump).heap = s.heap := rfl
@[simp] theorem State.bump_res (s : State) : (s.bump).res = s.res := rfl
@[simp] theorem State.bump_plat (s : State) : (s.bump).plat = s.plat := rfl
@[simp] theorem State.bump_pwr (s : State) : (s.bump).pwr = s.pwr := rfl
@[simp] theorem State.bump_time (s : State) : (s.bump).time = s.time := rfl
@[simp] theorem State.bump_aon (s : State) : (s.bump).aon = s.aon := rfl
@[simp] theorem State.bump_iss (s : State) : (s.bump).iss = s.iss := rfl
@[simp] theorem State.bump_agenda (s : State) : (s.bump).agenda = s.agenda := rfl

@[simp] theorem State.verdict_banks (s : State) (v : Verdict) : (s.verdict v).banks = s.banks := rfl
@[simp] theorem State.verdict_cores (s : State) (v : Verdict) : (s.verdict v).cores = s.cores := rfl
@[simp] theorem State.verdict_clusters (s : State) (v : Verdict) : (s.verdict v).clusters = s.clusters := rfl
@[simp] theorem State.verdict_sched (s : State) (v : Verdict) : (s.verdict v).sched = s.sched := rfl
@[simp] theorem State.verdict_mem (s : State) (v : Verdict) : (s.verdict v).mem = s.mem := rfl
@[simp] theorem State.verdict_heap (s : State) (v : Verdict) : (s.verdict v).heap = s.heap := rfl
@[simp] theorem State.verdict_res (s : State) (v : Verdict) : (s.verdict v).res = s.res := rfl
@[simp] theorem State.verdict_plat (s : State) (v : Verdict) : (s.verdict v).plat = s.plat := rfl
@[simp] theorem State.verdict_pwr (s : State) (v : Verdict) : (s.verdict v).pwr = s.pwr := rfl
@[simp] theorem State.verdict_time (s : State) (v : Verdict) : (s.verdict v).time = s.time := rfl
@[simp] theorem State.verdict_aon (s : State) (v : Verdict) : (s.verdict v).aon = s.aon := rfl
@[simp] theorem State.verdict_agenda (s : State) (v : Verdict) : (s.verdict v).agenda = s.agenda := rfl
@[simp] theorem State.verdict_freeCtr (s : State) (v : Verdict) : (s.verdict v).freeCtr = s.freeCtr := rfl

@[simp] theorem State.setNode_sched_queues (s : State) (k : Nat) (n : Node) : (s.setNode k n).sched.queues = s.sched.queues := rfl
@[simp] theorem State.setNode_sched_tbase (s : State) (k : Nat) (n : Node) : (s.setNode k n).sched.tbase = s.sched.tbase := rfl
@[simp] theorem State.setNode_sched_tcnt (s : State) (k : Nat) (n : Node) : (s.setNode k n).sched.tcnt = s.sched.tcnt := rfl
@[simp] theorem State.setNode_sched_ovfa (s : State) (k : Nat) (n : Node) : (s.setNode k n).sched.ovfa = s.sched.ovfa := rfl
@[simp] theorem State.setNode_sched_ovfn (s : State) (k : Nat) (n : Node) : (s.setNode k n).sched.ovfn = s.sched.ovfn := rfl
@[simp] theorem State.setNode_sched_ovfUsed (s : State) (k : Nat) (n : Node) : (s.setNode k n).sched.ovfUsed = s.sched.ovfUsed := rfl
@[simp] theorem State.setNode_sched_age (s : State) (k : Nat) (n : Node) : (s.setNode k n).sched.age = s.sched.age := rfl
@[simp] theorem State.setNode_sched_preempt (s : State) (k : Nat) (n : Node) : (s.setNode k n).sched.preempt = s.sched.preempt := rfl
@[simp] theorem State.setNode_sched_dynres (s : State) (k : Nat) (n : Node) : (s.setNode k n).sched.dynres = s.sched.dynres := rfl
@[simp] theorem State.setNode_sched_pool (s : State) (k : Nat) (n : Node) : (s.setNode k n).sched.pool = s.sched.pool := rfl
@[simp] theorem State.setNode_sched_sel (s : State) (k : Nat) (n : Node) : (s.setNode k n).sched.sel = s.sched.sel := rfl
@[simp] theorem State.setNode_sched_resv (s : State) (k : Nat) (n : Node) : (s.setNode k n).sched.resv = s.sched.resv := rfl
@[simp] theorem State.setNode_sched_first (s : State) (k : Nat) (n : Node) : (s.setNode k n).sched.first = s.sched.first := rfl
@[simp] theorem State.setNode_sched_staging (s : State) (k : Nat) (n : Node) : (s.setNode k n).sched.staging = s.sched.staging := rfl
@[simp] theorem State.setNode_sched_launch (s : State) (k : Nat) (n : Node) : (s.setNode k n).sched.launch = s.sched.launch := rfl
@[simp] theorem State.setNode_sched_resid (s : State) (k : Nat) (n : Node) : (s.setNode k n).sched.resid = s.sched.resid := rfl
@[simp] theorem State.setNode_sched_bindSeq (s : State) (k : Nat) (n : Node) : (s.setNode k n).sched.bindSeq = s.sched.bindSeq := rfl
@[simp] theorem State.setNode_sched_stalled (s : State) (k : Nat) (n : Node) : (s.setNode k n).sched.stalled = s.sched.stalled := rfl

@[simp] theorem State.setQueue_sched_nodes (s : State) (k : Nat) (q : Queue) : (s.setQueue k q).sched.nodes = s.sched.nodes := rfl
@[simp] theorem State.setQueue_sched_tbase (s : State) (k : Nat) (q : Queue) : (s.setQueue k q).sched.tbase = s.sched.tbase := rfl
@[simp] theorem State.setQueue_sched_tcnt (s : State) (k : Nat) (q : Queue) : (s.setQueue k q).sched.tcnt = s.sched.tcnt := rfl
@[simp] theorem State.setQueue_sched_ovfa (s : State) (k : Nat) (q : Queue) : (s.setQueue k q).sched.ovfa = s.sched.ovfa := rfl
@[simp] theorem State.setQueue_sched_ovfn (s : State) (k : Nat) (q : Queue) : (s.setQueue k q).sched.ovfn = s.sched.ovfn := rfl
@[simp] theorem State.setQueue_sched_ovfUsed (s : State) (k : Nat) (q : Queue) : (s.setQueue k q).sched.ovfUsed = s.sched.ovfUsed := rfl
@[simp] theorem State.setQueue_sched_age (s : State) (k : Nat) (q : Queue) : (s.setQueue k q).sched.age = s.sched.age := rfl
@[simp] theorem State.setQueue_sched_preempt (s : State) (k : Nat) (q : Queue) : (s.setQueue k q).sched.preempt = s.sched.preempt := rfl
@[simp] theorem State.setQueue_sched_dynres (s : State) (k : Nat) (q : Queue) : (s.setQueue k q).sched.dynres = s.sched.dynres := rfl
@[simp] theorem State.setQueue_sched_pool (s : State) (k : Nat) (q : Queue) : (s.setQueue k q).sched.pool = s.sched.pool := rfl
@[simp] theorem State.setQueue_sched_sel (s : State) (k : Nat) (q : Queue) : (s.setQueue k q).sched.sel = s.sched.sel := rfl
@[simp] theorem State.setQueue_sched_resv (s : State) (k : Nat) (q : Queue) : (s.setQueue k q).sched.resv = s.sched.resv := rfl
@[simp] theorem State.setQueue_sched_first (s : State) (k : Nat) (q : Queue) : (s.setQueue k q).sched.first = s.sched.first := rfl
@[simp] theorem State.setQueue_sched_staging (s : State) (k : Nat) (q : Queue) : (s.setQueue k q).sched.staging = s.sched.staging := rfl
@[simp] theorem State.setQueue_sched_launch (s : State) (k : Nat) (q : Queue) : (s.setQueue k q).sched.launch = s.sched.launch := rfl
@[simp] theorem State.setQueue_sched_resid (s : State) (k : Nat) (q : Queue) : (s.setQueue k q).sched.resid = s.sched.resid := rfl
@[simp] theorem State.setQueue_sched_bindSeq (s : State) (k : Nat) (q : Queue) : (s.setQueue k q).sched.bindSeq = s.sched.bindSeq := rfl
@[simp] theorem State.setQueue_sched_stalled (s : State) (k : Nat) (q : Queue) : (s.setQueue k q).sched.stalled = s.sched.stalled := rfl

/-! ### Parts by number -/

theorem ctxIx_inj {c d : Ctx} (h : ctxIx c = ctxIx d) : c = d := by
  obtain ⟨⟨c1, hc1⟩, ⟨c2, hc2⟩⟩ := c
  obtain ⟨⟨d1, hd1⟩, ⟨d2, hd2⟩⟩ := d
  simp only [ctxIx] at h
  have h1 : c1 = d1 := by omega
  have h2 : c2 = d2 := by omega
  subst h1 h2
  rfl

@[simp] theorem State.bank_setBank (s : State) (c : Ctx) (b : Bank) : (s.setBank c b).bank c = b := by
  simp [State.bank, State.setBank]

theorem State.bank_setBank_other (s : State) (c d : Ctx) (b : Bank) (h : d ≠ c) : (s.setBank c b).bank d = s.bank d := by
  simp only [State.bank, State.setBank]
  exact tabGet_tabSet_other _ _ _ _ _ fun e => h (ctxIx_inj e)

@[simp] theorem State.core_setCore (s : State) (k : Fin 32) (x : Core) : (s.setCore k x).core k = x := by
  simp [State.core, State.setCore]

theorem State.core_setCore_other (s : State) (k j : Fin 32) (x : Core) (h : j ≠ k) : (s.setCore k x).core j = s.core j := by
  simp only [State.core, State.setCore]
  exact tabGet_tabSet_other _ _ _ _ _ fun e => h (Fin.ext e)

@[simp] theorem State.cluster_setCluster (s : State) (k : Nat) (x : Cluster) : (s.setCluster k x).cluster k = x := by
  simp [State.cluster, State.setCluster]

theorem State.cluster_setCluster_other (s : State) (k j : Nat) (x : Cluster) (h : j ≠ k) :
    (s.setCluster k x).cluster j = s.cluster j := by
  simp only [State.cluster, State.setCluster]
  exact tabGet_tabSet_other _ _ _ _ _ h

@[simp] theorem State.node_setNode (s : State) (k : Nat) (n : Node) : (s.setNode k n).node k = n := by
  simp [State.node, State.setNode]

theorem State.node_setNode_other (s : State) (k j : Nat) (n : Node) (h : j ≠ k) : (s.setNode k n).node j = s.node j := by
  simp only [State.node, State.setNode]
  exact tabGet_tabSet_other _ _ _ _ _ h

@[simp] theorem State.queue_setQueue (s : State) (k : Nat) (q : Queue) : (s.setQueue k q).queue k = q := by
  simp [State.queue, State.setQueue]

theorem State.queue_setQueue_other (s : State) (k j : Nat) (q : Queue) (h : j ≠ k) : (s.setQueue k q).queue j = s.queue j := by
  simp only [State.queue, State.setQueue]
  exact tabGet_tabSet_other _ _ _ _ _ h

@[simp] theorem State.bank_setCore (s : State) (k : Fin 32) (x : Core) (c : Ctx) : (s.setCore k x).bank c = s.bank c := rfl
@[simp] theorem State.core_setBank (s : State) (c : Ctx) (b : Bank) (k : Fin 32) : (s.setBank c b).core k = s.core k := rfl
@[simp] theorem State.cur_setCur (s : State) (b : Bank) : (s.setCur b).cur = b := State.bank_setBank s s.iss.ctx b
@[simp] theorem State.cur_verdict (s : State) (v : Verdict) : (s.verdict v).cur = s.cur := rfl
@[simp] theorem State.bank_verdict (s : State) (v : Verdict) (c : Ctx) : (s.verdict v).bank c = s.bank c := rfl
@[simp] theorem State.verdict_iss_verdict (s : State) (v : Verdict) : (s.verdict v).iss.verdict = v := rfl
@[simp] theorem State.verdict_iss_pc (s : State) (v : Verdict) : (s.verdict v).iss.pc = s.iss.pc := rfl
@[simp] theorem State.verdict_iss_target (s : State) (v : Verdict) : (s.verdict v).iss.target = s.iss.target := rfl

@[simp] theorem Bank.later_phase (b : Bank) (l : Nat) (w : RegWrite) (af : BitVec 6) : (b.later l w af).phase = b.phase := rfl
@[simp] theorem Bank.later_th (b : Bank) (l : Nat) (w : RegWrite) (af : BitVec 6) : (b.later l w af).th = b.th := rfl
@[simp] theorem Bank.later_regs (b : Bank) (l : Nat) (w : RegWrite) (af : BitVec 6) : (b.later l w af).regs = b.regs := rfl
@[simp] theorem Bank.later_loops (b : Bank) (l : Nat) (w : RegWrite) (af : BitVec 6) : (b.later l w af).loops = b.loops := rfl
@[simp] theorem Bank.later_saved (b : Bank) (l : Nat) (w : RegWrite) (af : BitVec 6) : (b.later l w af).saved = b.saved := rfl
@[simp] theorem Bank.later_sys (b : Bank) (l : Nat) (w : RegWrite) (af : BitVec 6) : (b.later l w af).sys = b.sys := rfl
@[simp] theorem Bank.later_tr (b : Bank) (l : Nat) (w : RegWrite) (af : BitVec 6) : (b.later l w af).tr = b.tr := rfl
@[simp] theorem Bank.later_q (b : Bank) (l : Nat) (w : RegWrite) (af : BitVec 6) : (b.later l w af).q = b.q := rfl
@[simp] theorem Bank.later_n (b : Bank) (l : Nat) (w : RegWrite) (af : BitVec 6) : (b.later l w af).n = b.n := rfl
@[simp] theorem Bank.later_h (b : Bank) (l : Nat) (w : RegWrite) (af : BitVec 6) : (b.later l w af).h = b.h := rfl
@[simp] theorem Bank.later_scr (b : Bank) (l : Nat) (w : RegWrite) (af : BitVec 6) : (b.later l w af).scr = b.scr := rfl
@[simp] theorem Bank.later_acc (b : Bank) (l : Nat) (w : RegWrite) (af : BitVec 6) : (b.later l w af).acc = b.acc := rfl
@[simp] theorem Bank.later_eng (b : Bank) (l : Nat) (w : RegWrite) (af : BitVec 6) : (b.later l w af).eng = b.eng := rfl
@[simp] theorem Bank.later_frec (b : Bank) (l : Nat) (w : RegWrite) (af : BitVec 6) : (b.later l w af).frec = b.frec := rfl
@[simp] theorem Bank.later_peerW (b : Bank) (l : Nat) (w : RegWrite) (af : BitVec 6) : (b.later l w af).peerW = b.peerW := rfl
@[simp] theorem Bank.later_dfault (b : Bank) (l : Nat) (w : RegWrite) (af : BitVec 6) : (b.later l w af).dfault = b.dfault := rfl
@[simp] theorem Bank.later_discard (b : Bank) (l : Nat) (w : RegWrite) (af : BitVec 6) : (b.later l w af).discard = b.discard := rfl

@[simp] theorem Bank.lockWrites_phase (b : Bank) (ws : List RegWrite) (af : BitVec 6) (r : Bool) : (b.lockWrites ws af r).phase = b.phase := rfl
@[simp] theorem Bank.lockWrites_th (b : Bank) (ws : List RegWrite) (af : BitVec 6) (r : Bool) : (b.lockWrites ws af r).th = b.th := rfl
@[simp] theorem Bank.lockWrites_regs (b : Bank) (ws : List RegWrite) (af : BitVec 6) (r : Bool) : (b.lockWrites ws af r).regs = b.regs := rfl
@[simp] theorem Bank.lockWrites_loops (b : Bank) (ws : List RegWrite) (af : BitVec 6) (r : Bool) : (b.lockWrites ws af r).loops = b.loops := rfl
@[simp] theorem Bank.lockWrites_saved (b : Bank) (ws : List RegWrite) (af : BitVec 6) (r : Bool) : (b.lockWrites ws af r).saved = b.saved := rfl
@[simp] theorem Bank.lockWrites_sys (b : Bank) (ws : List RegWrite) (af : BitVec 6) (r : Bool) : (b.lockWrites ws af r).sys = b.sys := rfl
@[simp] theorem Bank.lockWrites_tr (b : Bank) (ws : List RegWrite) (af : BitVec 6) (r : Bool) : (b.lockWrites ws af r).tr = b.tr := rfl
@[simp] theorem Bank.lockWrites_q (b : Bank) (ws : List RegWrite) (af : BitVec 6) (r : Bool) : (b.lockWrites ws af r).q = b.q := rfl
@[simp] theorem Bank.lockWrites_n (b : Bank) (ws : List RegWrite) (af : BitVec 6) (r : Bool) : (b.lockWrites ws af r).n = b.n := rfl
@[simp] theorem Bank.lockWrites_h (b : Bank) (ws : List RegWrite) (af : BitVec 6) (r : Bool) : (b.lockWrites ws af r).h = b.h := rfl
@[simp] theorem Bank.lockWrites_scr (b : Bank) (ws : List RegWrite) (af : BitVec 6) (r : Bool) : (b.lockWrites ws af r).scr = b.scr := rfl
@[simp] theorem Bank.lockWrites_acc (b : Bank) (ws : List RegWrite) (af : BitVec 6) (r : Bool) : (b.lockWrites ws af r).acc = b.acc := rfl
@[simp] theorem Bank.lockWrites_eng (b : Bank) (ws : List RegWrite) (af : BitVec 6) (r : Bool) : (b.lockWrites ws af r).eng = b.eng := rfl
@[simp] theorem Bank.lockWrites_frec (b : Bank) (ws : List RegWrite) (af : BitVec 6) (r : Bool) : (b.lockWrites ws af r).frec = b.frec := rfl
@[simp] theorem Bank.lockWrites_peerW (b : Bank) (ws : List RegWrite) (af : BitVec 6) (r : Bool) : (b.lockWrites ws af r).peerW = b.peerW := rfl
@[simp] theorem Bank.lockWrites_dfault (b : Bank) (ws : List RegWrite) (af : BitVec 6) (r : Bool) : (b.lockWrites ws af r).dfault = b.dfault := rfl
@[simp] theorem Bank.lockWrites_discard (b : Bank) (ws : List RegWrite) (af : BitVec 6) (r : Bool) : (b.lockWrites ws af r).discard = b.discard := rfl

@[simp] theorem Bank.orAf_phase (b : Bank) (f : BitVec 6) : (b.orAf f).phase = b.phase := rfl
@[simp] theorem Bank.orAf_th (b : Bank) (f : BitVec 6) : (b.orAf f).th = b.th := rfl
@[simp] theorem Bank.orAf_regs (b : Bank) (f : BitVec 6) : (b.orAf f).regs = b.regs := rfl
@[simp] theorem Bank.orAf_loops (b : Bank) (f : BitVec 6) : (b.orAf f).loops = b.loops := rfl
@[simp] theorem Bank.orAf_saved (b : Bank) (f : BitVec 6) : (b.orAf f).saved = b.saved := rfl
@[simp] theorem Bank.orAf_sys (b : Bank) (f : BitVec 6) : (b.orAf f).sys = b.sys := rfl
@[simp] theorem Bank.orAf_q (b : Bank) (f : BitVec 6) : (b.orAf f).q = b.q := rfl
@[simp] theorem Bank.orAf_n (b : Bank) (f : BitVec 6) : (b.orAf f).n = b.n := rfl
@[simp] theorem Bank.orAf_h (b : Bank) (f : BitVec 6) : (b.orAf f).h = b.h := rfl
@[simp] theorem Bank.orAf_scr (b : Bank) (f : BitVec 6) : (b.orAf f).scr = b.scr := rfl
@[simp] theorem Bank.orAf_acc (b : Bank) (f : BitVec 6) : (b.orAf f).acc = b.acc := rfl
@[simp] theorem Bank.orAf_eng (b : Bank) (f : BitVec 6) : (b.orAf f).eng = b.eng := rfl
@[simp] theorem Bank.orAf_frec (b : Bank) (f : BitVec 6) : (b.orAf f).frec = b.frec := rfl
@[simp] theorem Bank.orAf_pipe (b : Bank) (f : BitVec 6) : (b.orAf f).pipe = b.pipe := rfl
@[simp] theorem Bank.orAf_peerW (b : Bank) (f : BitVec 6) : (b.orAf f).peerW = b.peerW := rfl
@[simp] theorem Bank.orAf_dfault (b : Bank) (f : BitVec 6) : (b.orAf f).dfault = b.dfault := rfl
@[simp] theorem Bank.orAf_discard (b : Bank) (f : BitVec 6) : (b.orAf f).discard = b.discard := rfl

@[simp] theorem Bank.later_pipe_cyc (b : Bank) (l : Nat) (w : RegWrite) (af : BitVec 6) : (b.later l w af).pipe.cyc = b.pipe.cyc := rfl
@[simp] theorem Bank.later_pipe_stall (b : Bank) (l : Nat) (w : RegWrite) (af : BitVec 6) : (b.later l w af).pipe.stall = b.pipe.stall := rfl
@[simp] theorem Bank.later_pipe_since (b : Bank) (l : Nat) (w : RegWrite) (af : BitVec 6) : (b.later l w af).pipe.since = b.pipe.since := rfl
@[simp] theorem Bank.later_pipe_mon (b : Bank) (l : Nat) (w : RegWrite) (af : BitVec 6) : (b.later l w af).pipe.mon = b.pipe.mon := rfl
@[simp] theorem Bank.later_pipe_wait (b : Bank) (l : Nat) (w : RegWrite) (af : BitVec 6) : (b.later l w af).pipe.wait = b.pipe.wait := rfl
@[simp] theorem Bank.later_pipe_closings (b : Bank) (l : Nat) (w : RegWrite) (af : BitVec 6) : (b.later l w af).pipe.closings = b.pipe.closings := rfl
@[simp] theorem Bank.later_pipe_lost (b : Bank) (l : Nat) (w : RegWrite) (af : BitVec 6) : (b.later l w af).pipe.lost = b.pipe.lost := rfl
@[simp] theorem Bank.later_pipe_steps (b : Bank) (l : Nat) (w : RegWrite) (af : BitVec 6) : (b.later l w af).pipe.steps = b.pipe.steps := rfl
@[simp] theorem Bank.later_pipe_locks (b : Bank) (l : Nat) (w : RegWrite) (af : BitVec 6) : (b.later l w af).pipe.locks = b.pipe.locks := rfl

@[simp] theorem Bank.lockWrites_pipe_cyc (b : Bank) (ws : List RegWrite) (af : BitVec 6) (r : Bool) : (b.lockWrites ws af r).pipe.cyc = b.pipe.cyc := rfl
@[simp] theorem Bank.lockWrites_pipe_stall (b : Bank) (ws : List RegWrite) (af : BitVec 6) (r : Bool) : (b.lockWrites ws af r).pipe.stall = b.pipe.stall := rfl
@[simp] theorem Bank.lockWrites_pipe_since (b : Bank) (ws : List RegWrite) (af : BitVec 6) (r : Bool) : (b.lockWrites ws af r).pipe.since = b.pipe.since := rfl
@[simp] theorem Bank.lockWrites_pipe_mon (b : Bank) (ws : List RegWrite) (af : BitVec 6) (r : Bool) : (b.lockWrites ws af r).pipe.mon = b.pipe.mon := rfl
@[simp] theorem Bank.lockWrites_pipe_wait (b : Bank) (ws : List RegWrite) (af : BitVec 6) (r : Bool) : (b.lockWrites ws af r).pipe.wait = b.pipe.wait := rfl
@[simp] theorem Bank.lockWrites_pipe_closings (b : Bank) (ws : List RegWrite) (af : BitVec 6) (r : Bool) : (b.lockWrites ws af r).pipe.closings = b.pipe.closings := rfl
@[simp] theorem Bank.lockWrites_pipe_lost (b : Bank) (ws : List RegWrite) (af : BitVec 6) (r : Bool) : (b.lockWrites ws af r).pipe.lost = b.pipe.lost := rfl
@[simp] theorem Bank.lockWrites_pipe_steps (b : Bank) (ws : List RegWrite) (af : BitVec 6) (r : Bool) : (b.lockWrites ws af r).pipe.steps = b.pipe.steps := rfl
@[simp] theorem Bank.lockWrites_pipe_inflight (b : Bank) (ws : List RegWrite) (af : BitVec 6) (r : Bool) : (b.lockWrites ws af r).pipe.inflight = b.pipe.inflight := rfl

end Sys2Proof.Machine
end

