-- ==== Sys2Proof/Laws/Memory.lean ====
section
/-! SUPPORT. What the operations over memory leave alone, and that the writes that a migration has held back keep the canonical form. -/

namespace Sys2Proof.Machine

@[simp] theorem sysPut_banks (s : State) (a : Nat) (b : List Byte) : (sysPut s a b).banks = s.banks := rfl
@[simp] theorem sysPut_cores (s : State) (a : Nat) (b : List Byte) : (sysPut s a b).cores = s.cores := rfl
@[simp] theorem sysPut_clusters (s : State) (a : Nat) (b : List Byte) : (sysPut s a b).clusters = s.clusters := rfl
@[simp] theorem sysPut_sched (s : State) (a : Nat) (b : List Byte) : (sysPut s a b).sched = s.sched := rfl
@[simp] theorem sysPut_heap (s : State) (a : Nat) (b : List Byte) : (sysPut s a b).heap = s.heap := rfl
@[simp] theorem sysPut_res (s : State) (a : Nat) (b : List Byte) : (sysPut s a b).res = s.res := rfl
@[simp] theorem sysPut_plat (s : State) (a : Nat) (b : List Byte) : (sysPut s a b).plat = s.plat := rfl
@[simp] theorem sysPut_pwr (s : State) (a : Nat) (b : List Byte) : (sysPut s a b).pwr = s.pwr := rfl
@[simp] theorem sysPut_time (s : State) (a : Nat) (b : List Byte) : (sysPut s a b).time = s.time := rfl
@[simp] theorem sysPut_aon (s : State) (a : Nat) (b : List Byte) : (sysPut s a b).aon = s.aon := rfl
@[simp] theorem sysPut_iss (s : State) (a : Nat) (b : List Byte) : (sysPut s a b).iss = s.iss := rfl
@[simp] theorem sysPut_agenda (s : State) (a : Nat) (b : List Byte) : (sysPut s a b).agenda = s.agenda := rfl
@[simp] theorem sysPut_freeCtr (s : State) (a : Nat) (b : List Byte) : (sysPut s a b).freeCtr = s.freeCtr := rfl

@[simp] theorem State.setSync_banks (s : State) (w : Nat) (x : SyncWord) : (s.setSync w x).banks = s.banks := rfl
@[simp] theorem State.setSync_cores (s : State) (w : Nat) (x : SyncWord) : (s.setSync w x).cores = s.cores := rfl
@[simp] theorem State.setSync_clusters (s : State) (w : Nat) (x : SyncWord) : (s.setSync w x).clusters = s.clusters := rfl
@[simp] theorem State.setSync_sched (s : State) (w : Nat) (x : SyncWord) : (s.setSync w x).sched = s.sched := rfl
@[simp] theorem State.setSync_heap (s : State) (w : Nat) (x : SyncWord) : (s.setSync w x).heap = s.heap := rfl
@[simp] theorem State.setSync_res (s : State) (w : Nat) (x : SyncWord) : (s.setSync w x).res = s.res := rfl
@[simp] theorem State.setSync_plat (s : State) (w : Nat) (x : SyncWord) : (s.setSync w x).plat = s.plat := rfl
@[simp] theorem State.setSync_pwr (s : State) (w : Nat) (x : SyncWord) : (s.setSync w x).pwr = s.pwr := rfl
@[simp] theorem State.setSync_time (s : State) (w : Nat) (x : SyncWord) : (s.setSync w x).time = s.time := rfl
@[simp] theorem State.setSync_aon (s : State) (w : Nat) (x : SyncWord) : (s.setSync w x).aon = s.aon := rfl
@[simp] theorem State.setSync_iss (s : State) (w : Nat) (x : SyncWord) : (s.setSync w x).iss = s.iss := rfl
@[simp] theorem State.setSync_agenda (s : State) (w : Nat) (x : SyncWord) : (s.setSync w x).agenda = s.agenda := rfl
@[simp] theorem State.setSync_freeCtr (s : State) (w : Nat) (x : SyncWord) : (s.setSync w x).freeCtr = s.freeCtr := rfl

@[simp] theorem sysPut_main (s : State) (a : Nat) (b : List Byte) : (sysPut s a b).mem.main = memSetBytes s.mem.main a b := rfl
@[simp] theorem sysPut_near (s : State) (a : Nat) (b : List Byte) : (sysPut s a b).mem.near = s.mem.near := rfl
@[simp] theorem sysPut_far (s : State) (a : Nat) (b : List Byte) : (sysPut s a b).mem.far = s.mem.far := rfl
@[simp] theorem State.setSync_main (s : State) (w : Nat) (x : SyncWord) : (s.setSync w x).mem.main = s.mem.main := rfl
@[simp] theorem State.setSync_near (s : State) (w : Nat) (x : SyncWord) : (s.setSync w x).mem.near = s.mem.near := rfl
@[simp] theorem State.setSync_far (s : State) (w : Nat) (x : SyncWord) : (s.setSync w x).mem.far = s.mem.far := rfl

/-- A mark of what a strong store leaves to its readers changes no byte and no bank. -/
theorem State.syncStore_frame (s : State) (pa n : Nat) :
    (s.syncStore pa n).mem.main = s.mem.main ∧ (s.syncStore pa n).mem.near = s.mem.near ∧ (s.syncStore pa n).mem.far = s.mem.far ∧
    (s.syncStore pa n).banks = s.banks ∧ (s.syncStore pa n).cores = s.cores := by
  unfold State.syncStore
  generalize wordsOfRange pa n = l
  induction l generalizing s with
  | nil => exact ⟨rfl, rfl, rfl, rfl, rfl⟩
  | cons w r ih => exact ih (s.setSync w { s.syncWord w with rels := [], full := true })

/-- A thread that has read nothing ahead has nothing to forget. -/
@[simp] theorem State.noEarly_nil (s : State) (c : Ctx) (h : (s.bank c).pipe.early = []) : s.noEarly c = s := by
  simp [State.noEarly, h]

@[simp] theorem State.noEarly_mem (s : State) (c : Ctx) : (s.noEarly c).mem = s.mem := by
  unfold State.noEarly; split <;> rfl

@[simp] theorem State.noStrong_nil (s : State) (c : Ctx) (h : (s.bank c).pipe.early = []) : s.noStrong c = s := by
  simp [State.noStrong, h]

@[simp] theorem State.noStrong_mem (s : State) (c : Ctx) : (s.noStrong c).mem = s.mem := by
  unfold State.noStrong; split <;> rfl

/-- A load finds nothing where nothing has been read ahead. -/
@[simp] theorem earlyTurn_nil (pa n : Nat) (strong row : Bool) : earlyTurn [] pa n strong row = (none, []) := by
  cases strong <;> rfl

/-- To forget what every thread has read ahead changes nothing else. -/
theorem dropEarly_frame (s : State) : (dropEarly s).mem = s.mem ∧ (dropEarly s).heap = s.heap ∧ (dropEarly s).sched = s.sched ∧
    (dropEarly s).cores = s.cores ∧ (dropEarly s).res = s.res ∧ (dropEarly s).plat = s.plat := by
  have h (t : State) (c : Ctx) : (t.noEarly c).mem = t.mem ∧ (t.noEarly c).heap = t.heap ∧ (t.noEarly c).sched = t.sched ∧
      (t.noEarly c).cores = t.cores ∧ (t.noEarly c).res = t.res ∧ (t.noEarly c).plat = t.plat := by
    unfold State.noEarly; split <;> exact ⟨rfl, rfl, rfl, rfl, rfl, rfl⟩
  unfold dropEarly
  generalize s.banks = l
  induction l generalizing s with
  | nil => exact ⟨rfl, rfl, rfl, rfl, rfl, rfl⟩
  | cons e r ih =>
    obtain ⟨a, b, c, d, f, g⟩ := ih (s.noEarly (ctxOf e.1))
    obtain ⟨a', b', c', d', f', g'⟩ := h s (ctxOf e.1)
    exact ⟨a.trans a', b.trans b', c.trans c', d.trans d', f.trans f', g.trans g'⟩

/-- The bank of a far namespace reads back as written. -/
@[simp] theorem State.farMem_setFar (s : State) (k : Nat) (m : Mem) : (s.setFar k m).farMem k = m := by
  simp [State.farMem, State.setFar]

/-- Bytes written one by one, in any order, keep the canonical form. -/
theorem memSetEach_wf (l : List (Nat × Byte)) (m : Mem) (h : Memory.wf m = true) :
    Memory.wf (l.foldl (fun m x => memSetByte m x.1 x.2) m) = true := by
  induction l generalizing m with
  | nil => exact h
  | cons x r ih => exact ih _ (memSetByte_wf m x.1 x.2 h)

/-- The writes that a migration held back, and a unit's, keep the canonical form of the main tier. -/
theorem State.releaseHeld_wf (s : State) (h : Memory.wf s.mem.main = true) : Memory.wf s.releaseHeld.mem.main = true :=
  memSetEach_wf _ _ h
theorem unitPut_wf (s : State) (a : Nat) (b : List Byte) (h : Memory.wf s.mem.main = true) :
    Memory.wf (unitPut s a b).mem.main = true := by
  unfold unitPut
  split
  · exact State.releaseHeld_wf _ h
  · exact memSetBytes_wf _ _ _ h

/-- So do the zeroing of a range and a near frame's write. -/
theorem Rising.filter {m : Nat} {t : Mem} (p : Host.Cell → Bool) (hr : Rising m t) : Rising m (t.filter p) := by
  induction t generalizing m with
  | nil => trivial
  | cons x r ih =>
    obtain ⟨j, v⟩ := x
    rw [List.filter_cons]
    split
    · exact ⟨hr.1, ih hr.2⟩
    · exact (ih hr.2).mono (Nat.le_of_lt hr.1)
theorem zeroRange_wf (m : Mem) (a n : Nat) (h : Memory.wf m = true) : Memory.wf (zeroRange m a n) = true := by
  simp only [Memory.wf, Bool.and_eq_true, List.all_eq_true] at h ⊢
  refine ⟨?_, fun x hx => h.2 x (List.mem_of_mem_filter hx)⟩
  unfold zeroRange
  cases m with
  | nil => rfl
  | cons x r =>
    obtain ⟨j, v⟩ := x
    have hr := (tabSorted_cons j v r).1 h.1
    rw [List.filter_cons]
    split
    · exact (tabSorted_cons _ _ _).2 (hr.filter _)
    · exact (hr.filter _).sorted
theorem nearPut_wf (s : State) (f : Nat) (x : List Byte) (h : Memory.wf s.mem.near = true) : Memory.wf (nearPut s f x).mem.near = true :=
  memSetBytes_wf _ _ _ h

end Sys2Proof.Machine
end

