-- ==== Sys2Proof/Laws/Ops.lean ====
section
/-! SUPPORT. What each shared operation can do, said once: the end of a word (R272), results in flight (R84, R85), events and records
(R253, R237), taking a trap and returning from one (R232, R340), and the switch of banks (R17). -/

namespace Sys2Proof.Machine

/-! ### The end of a word -/

/-- A word that runs has its effect, and the next state is that of the effect. -/
theorem word_runs {i : Instr} {s t : State} {eff : State → Res} (h : Runs i s) (e : eff s = .ok t) :
    word i s eff = .next (t.verdict .done) := by
  obtain ⟨h1, h2, h3⟩ := h
  have g : (!isVector i && !s.cur.enabled i.hdr) = false := by
    rcases h3 with h | h <;> simp [h]
  simp [word, runWord, h1, h2, g, e, finish]

/-- A word that runs and stops takes the stop. -/
theorem word_stops {i : Instr} {s t : State} {st : Stop} {eff : State → Res} (h : Runs i s) (e : eff s = .error (st, t)) :
    word i s eff = .next (takeStop st t) := by
  obtain ⟨h1, h2, h3⟩ := h
  have g : (!isVector i && !s.cur.enabled i.hdr) = false := by
    rcases h3 with h | h <;> simp [h]
  simp [word, runWord, h1, h2, g, e, finish]

/-- A word whose checks fail traps, whatever its effect is. -/
theorem word_checked {i : Instr} {s : State} {st : Stop} {eff : State → Res} (h : precheck i s.cur = some st) :
    word i s eff = .next (takeStop st s) := by
  simp [word, runWord, h, finish]

/-- A word that an outstanding result holds up waits. -/
theorem word_waits {i : Instr} {s : State} {eff : State → Res} (h : precheck i s.cur = none)
    (l : interlocked i s.cur s.iss.fresh = true) : word i s eff = .next (s.verdict .stalled) := by
  simp [word, runWord, h, l, finish, takeStop]

/-- A word whose guard is false does nothing (R272). -/
theorem word_skipped {i : Instr} {s : State} {eff : State → Res} (h : precheck i s.cur = none)
    (l : interlocked i s.cur s.iss.fresh = false) (v : isVector i = false) (g : s.cur.enabled i.hdr = false) :
    word i s eff = .next (s.verdict .done) := by
  simp [word, runWord, h, l, v, g, finish]

/-- Every word answers a next state. -/
theorem word_next (i : Instr) (s : State) (eff : State → Res) : ∃ t, word i s eff = .next t := by
  unfold word finish
  cases runWord i s eff with
  | ok t => exact ⟨_, rfl⟩
  | error x => exact ⟨_, rfl⟩

/-! ### Registers -/

/-- A whole write of a scalar: it reads back, but for s0, which reads zero (R65). -/
theorem landWrite_sreg (b : Bank) (n : Nat) (v : Word) : (landWrite b (.s n v (BitVec.allOnes 32))).sreg n = if n = 0 then 0 else v := by
  have all : v &&& 4294967295#32 = v := BitVec.and_allOnes
  by_cases h : n = 0
  · simp [h, Bank.sreg]
  · simp [landWrite, h, Bank.sreg, mergeBits, all]

/-- Every other scalar reads as before. -/
theorem landWrite_sreg_other (b : Bank) (n m : Nat) (v k : Word) (h : m ≠ n) : (landWrite b (.s n v k)).sreg m = b.sreg m := by
  by_cases e : n = 0
  · simp [landWrite, e]
  · simp only [landWrite, e, if_false, Bank.sreg]
    split
    · rfl
    · exact tabGet_tabSet_other _ _ _ _ _ h

/-- p0 always reads all ones (R75). -/
@[simp] theorem pphys_zero (b : Bank) : b.pphys 0 = allOnesP := rfl
@[simp] theorem sreg_zero (b : Bank) : b.sreg 0 = 0 := rfl

/-- A fixed-latency write lands with the writes that are due at its issue cycle, after those before it. -/
theorem later_inflight (b : Bank) (lat : Nat) (w : RegWrite) (af : BitVec 6) :
    (b.later lat w af).pipe.inflight = b.pipe.inflight ++ [{ w := w, af := af, due := b.pipe.cyc + lat }] := rfl

/-- An interlocked result stands behind the ones that are outstanding. -/
theorem lockWrites_locks (b : Bank) (ws : List RegWrite) (af : BitVec 6) (r : Bool) :
    (b.lockWrites ws af r).pipe.locks = b.pipe.locks ++ [{ id := b.lockId, ws := ws, af := af, ready := r }] := rfl

/-- What landing a write leaves alone in a bank: everything but registers, and, for a system register, what R80 names. -/
theorem landWrite_frame (b : Bank) (w : RegWrite) (h : ∀ n v, w ≠ .sys n v) :
    landWrite b w = { b with regs := (landWrite b w).regs } := by
  cases w with
  | s n v m => simp only [landWrite]; split <;> rfl
  | v n v m => rfl
  | p n v m => simp only [landWrite]; split <;> rfl
  | k n v => rfl
  | sys n v => exact absurd rfl (h n v)

/-! ### Events and records -/

/-- An event changes the platform block alone, and there EVTST and the messages. -/
theorem raiseEvent_frame (e : Nat) (s : State) :
    raiseEvent e s = { s with plat := { s.plat with evtst := s.plat.evtst ||| (1#13 <<< e), msi := (raiseEvent e s).plat.msi } } := rfl

/-- A record changes the ring and its counts alone. -/
theorem crock_frame (r : CrockRec) (s : State) :
    crock r s = { s with plat := { s.plat with crock := (crock r s).plat.crock, crkHead := s.plat.crkHead + 1,
                                               crkN := s.plat.crkN + 1, crkSeq := s.plat.crkSeq + 1 } } := rfl

/-- A fatal error ends in a device without power. -/
theorem fatalError_dead (c : Nat) (s : State) : (fatalError c s).plat.power = .dead := rfl

/-! ### Bank switches -/

@[simp] theorem endHelper_banks (c : Ctx) (s : State) : (endHelper c s).banks = s.banks := by unfold endHelper; simp only []; split <;> rfl
@[simp] theorem endHelper_mem (c : Ctx) (s : State) : (endHelper c s).mem = s.mem := by unfold endHelper; simp only []; split <;> rfl
@[simp] theorem endHelper_plat (c : Ctx) (s : State) : (endHelper c s).plat = s.plat := by unfold endHelper; simp only []; split <;> rfl
@[simp] theorem endHelper_iss (c : Ctx) (s : State) : (endHelper c s).iss = s.iss := by unfold endHelper; simp only []; split <;> rfl

theorem startIssue_issuing (c : Ctx) (s : State) : ((startIssue c s).core c.core).issuing = some c.bank := by
  simp [startIssue]

theorem switchTo_issuing (c : Ctx) (s : State) : ((switchTo c s).core c.core).issuing = some c.bank := by
  simp [switchTo]

/-- A switch costs four cycles (R17). -/
theorem switchTo_cost (c : Ctx) (s : State) : ((switchTo c s).core c.core).switch = 4 := by
  simp [switchTo]

/-! ### Traps -/

/-- What a trap in task mode leaves in its bank (R232). -/
def trapBank (t : TrapInfo) (b0 : Bank) : Bank :=
  let b := drain b0
  { b with
    tr := { b.tr with mode := true, epc := epcOf t.epc, ecause := t.ecause, eval := t.eval }
    saved := b.loops
    loops := b.loops.inactive
    th := { b.th with pc := b.tr.tvec.setWidth 48 }
    pipe := { b.pipe with mon := 0, wait := .none, lost := none, early := [] } }

theorem trapEntry_task (c : Ctx) (t : TrapInfo) (s : State) (h : (s.bank c).tr.mode = false) :
    trapEntry c t s = endHelper c (s.setBank c (trapBank t (s.bank c))) := by
  simp [trapEntry, h, trapBank]

theorem trapEntry_bank (c : Ctx) (t : TrapInfo) (s : State) (h : (s.bank c).tr.mode = false) :
    (trapEntry c t s).bank c = trapBank t (s.bank c) := by
  rw [trapEntry_task c t s h]
  simp [State.bank, State.setBank]

/-- A trap in monitor mode is a double fault (R234). -/
theorem trapEntry_monitor (c : Ctx) (t : TrapInfo) (s : State) (h : (s.bank c).tr.mode = true) :
    trapEntry c t s = doubleFault c t.code.toNat false false s := by
  simp [trapEntry, h]

/-- What a return leaves in its bank (R340). -/
theorem trapReturn_bank (c : Ctx) (s : State) :
    (trapReturn c s).bank c =
      { s.bank c with
        eng := (s.bank c).eng.resume
        tr := { (s.bank c).tr with mode := false }
        loops := (s.bank c).saved
        th := { (s.bank c).th with pc := (s.bank c).epcAddr (s.bank c).tr.epc }
        pipe := { (s.bank c).pipe with mon := 0 } } := by
  simp [trapReturn]

end Sys2Proof.Machine
end

