-- ==== Sys2Proof/Laws/PerInstr.lean ====
section
/-! SUPPORT. One law per constructor (R273 to R282): the word of a well-formed instruction decodes to it, every operand at every
value. Event rows have no word. -/

set_option Elab.async false

namespace Sys2Proof.Laws.RoundTrip

/-- The word that the encoder writes for a well-formed instruction decodes to that instruction. -/
def Statement (i : Instr) : Prop := i.wf = true → ∀ w, encode i = some w → decodeWord w = .ok i

theorem nop (h : Hdr) (o : YOps) : Statement (.nop h o) := by
  rintro - w ⟨⟩
  exact decode_assemble _ _ _ _ _ (by simp [decodeMajor, decodeMaj00, y_round])

theorem sysr (h : Hdr) (o : YOps) : Statement (.sysr h o) := by
  rintro - w ⟨⟩
  exact decode_assemble _ _ _ _ _ (by simp [decodeMajor, decodeMaj00, y_round])

theorem sysw (h : Hdr) (o : YOps) : Statement (.sysw h o) := by
  rintro - w ⟨⟩
  exact decode_assemble _ _ _ _ _ (by simp [decodeMajor, decodeMaj00, y_round])

theorem trap (h : Hdr) (o : YOps) : Statement (.trap h o) := by
  rintro - w ⟨⟩
  exact decode_assemble _ _ _ _ _ (by simp [decodeMajor, decodeMaj00, y_round])

theorem rte (h : Hdr) (o : YOps) : Statement (.rte h o) := by
  rintro - w ⟨⟩
  exact decode_assemble _ _ _ _ _ (by simp [decodeMajor, decodeMaj00, y_round])

theorem idle (h : Hdr) (o : YOps) : Statement (.idle h o) := by
  rintro - w ⟨⟩
  exact decode_assemble _ _ _ _ _ (by simp [decodeMajor, decodeMaj00, y_round])

theorem evsig (h : Hdr) (o : YOps) : Statement (.evsig h o) := by
  rintro - w ⟨⟩
  exact decode_assemble _ _ _ _ _ (by simp [decodeMajor, decodeMaj00, y_round])

theorem halt (h : Hdr) (o : YOps) : Statement (.halt h o) := by
  rintro - w ⟨⟩
  exact decode_assemble _ _ _ _ _ (by simp [decodeMajor, decodeMaj00, y_round])

theorem sadd (h : Hdr) (o : SrOps) : Statement (.sadd h o) := by
  rintro - w ⟨⟩
  exact decode_assemble _ _ _ _ _ (by simp [decodeMajor, decodeMaj01, sr_round])

theorem saddSi (h : Hdr) (o : SiOps) : Statement (.saddSi h o) := by
  rintro - w ⟨⟩
  exact decode_assemble _ _ _ _ _ (by simp [decodeMajor, decodeMaj02, si_round])

theorem ssub (h : Hdr) (o : SrOps) : Statement (.ssub h o) := by
  rintro - w ⟨⟩
  exact decode_assemble _ _ _ _ _ (by simp [decodeMajor, decodeMaj01, sr_round])

theorem ssubSi (h : Hdr) (o : SiOps) : Statement (.ssubSi h o) := by
  rintro - w ⟨⟩
  exact decode_assemble _ _ _ _ _ (by simp [decodeMajor, decodeMaj02, si_round])

theorem smul (h : Hdr) (o : SrOps) : Statement (.smul h o) := by
  rintro - w ⟨⟩
  exact decode_assemble _ _ _ _ _ (by simp [decodeMajor, decodeMaj01, sr_round])

theorem smulSi (h : Hdr) (o : SiOps) : Statement (.smulSi h o) := by
  rintro - w ⟨⟩
  exact decode_assemble _ _ _ _ _ (by simp [decodeMajor, decodeMaj02, si_round])

theorem smulh (h : Hdr) (o : SrOps) : Statement (.smulh h o) := by
  rintro - w ⟨⟩
  exact decode_assemble _ _ _ _ _ (by simp [decodeMajor, decodeMaj01, sr_round])

theorem smulhSi (h : Hdr) (o : SiOps) : Statement (.smulhSi h o) := by
  rintro - w ⟨⟩
  exact decode_assemble _ _ _ _ _ (by simp [decodeMajor, decodeMaj02, si_round])

theorem sdiv (h : Hdr) (o : SrOps) : Statement (.sdiv h o) := by
  rintro - w ⟨⟩
  exact decode_assemble _ _ _ _ _ (by simp [decodeMajor, decodeMaj01, sr_round])

theorem sdivSi (h : Hdr) (o : SiOps) : Statement (.sdivSi h o) := by
  rintro - w ⟨⟩
  exact decode_assemble _ _ _ _ _ (by simp [decodeMajor, decodeMaj02, si_round])

theorem srem (h : Hdr) (o : SrOps) : Statement (.srem h o) := by
  rintro - w ⟨⟩
  exact decode_assemble _ _ _ _ _ (by simp [decodeMajor, decodeMaj01, sr_round])

theorem sremSi (h : Hdr) (o : SiOps) : Statement (.sremSi h o) := by
  rintro - w ⟨⟩
  exact decode_assemble _ _ _ _ _ (by simp [decodeMajor, decodeMaj02, si_round])

theorem sand (h : Hdr) (o : SrOps) : Statement (.sand h o) := by
  rintro - w ⟨⟩
  exact decode_assemble _ _ _ _ _ (by simp [decodeMajor, decodeMaj01, sr_round])

theorem sandSi (h : Hdr) (o : SiOps) : Statement (.sandSi h o) := by
  rintro - w ⟨⟩
  exact decode_assemble _ _ _ _ _ (by simp [decodeMajor, decodeMaj02, si_round])

theorem sor (h : Hdr) (o : SrOps) : Statement (.sor h o) := by
  rintro - w ⟨⟩
  exact decode_assemble _ _ _ _ _ (by simp [decodeMajor, decodeMaj01, sr_round])

theorem sorSi (h : Hdr) (o : SiOps) : Statement (.sorSi h o) := by
  rintro - w ⟨⟩
  exact decode_assemble _ _ _ _ _ (by simp [decodeMajor, decodeMaj02, si_round])

theorem sxor (h : Hdr) (o : SrOps) : Statement (.sxor h o) := by
  rintro - w ⟨⟩
  exact decode_assemble _ _ _ _ _ (by simp [decodeMajor, decodeMaj01, sr_round])

theorem sxorSi (h : Hdr) (o : SiOps) : Statement (.sxorSi h o) := by
  rintro - w ⟨⟩
  exact decode_assemble _ _ _ _ _ (by simp [decodeMajor, decodeMaj02, si_round])

theorem sshl (h : Hdr) (o : SrOps) : Statement (.sshl h o) := by
  rintro - w ⟨⟩
  exact decode_assemble _ _ _ _ _ (by simp [decodeMajor, decodeMaj01, sr_round])

theorem sshlSi (h : Hdr) (o : SiOps) : Statement (.sshlSi h o) := by
  rintro - w ⟨⟩
  exact decode_assemble _ _ _ _ _ (by simp [decodeMajor, decodeMaj02, si_round])

theorem sshr (h : Hdr) (o : SrOps) : Statement (.sshr h o) := by
  rintro - w ⟨⟩
  exact decode_assemble _ _ _ _ _ (by simp [decodeMajor, decodeMaj01, sr_round])

theorem sshrSi (h : Hdr) (o : SiOps) : Statement (.sshrSi h o) := by
  rintro - w ⟨⟩
  exact decode_assemble _ _ _ _ _ (by simp [decodeMajor, decodeMaj02, si_round])

theorem ssra (h : Hdr) (o : SrOps) : Statement (.ssra h o) := by
  rintro - w ⟨⟩
  exact decode_assemble _ _ _ _ _ (by simp [decodeMajor, decodeMaj01, sr_round])

theorem ssraSi (h : Hdr) (o : SiOps) : Statement (.ssraSi h o) := by
  rintro - w ⟨⟩
  exact decode_assemble _ _ _ _ _ (by simp [decodeMajor, decodeMaj02, si_round])

theorem smin (h : Hdr) (o : SrOps) : Statement (.smin h o) := by
  rintro - w ⟨⟩
  exact decode_assemble _ _ _ _ _ (by simp [decodeMajor, decodeMaj01, sr_round])

theorem sminSi (h : Hdr) (o : SiOps) : Statement (.sminSi h o) := by
  rintro - w ⟨⟩
  exact decode_assemble _ _ _ _ _ (by simp [decodeMajor, decodeMaj02, si_round])

theorem smax (h : Hdr) (o : SrOps) : Statement (.smax h o) := by
  rintro - w ⟨⟩
  exact decode_assemble _ _ _ _ _ (by simp [decodeMajor, decodeMaj01, sr_round])

theorem smaxSi (h : Hdr) (o : SiOps) : Statement (.smaxSi h o) := by
  rintro - w ⟨⟩
  exact decode_assemble _ _ _ _ _ (by simp [decodeMajor, decodeMaj02, si_round])

theorem ssel (h : Hdr) (o : SrOps) : Statement (.ssel h o) := by
  rintro - w ⟨⟩
  exact decode_assemble _ _ _ _ _ (by simp [decodeMajor, decodeMaj01, sr_round])

theorem sselSi (h : Hdr) (o : SiOps) : Statement (.sselSi h o) := by
  rintro - w ⟨⟩
  exact decode_assemble _ _ _ _ _ (by simp [decodeMajor, decodeMaj02, si_round])

theorem smov (h : Hdr) (o : SrOps) : Statement (.smov h o) := by
  rintro - w ⟨⟩
  exact decode_assemble _ _ _ _ _ (by simp [decodeMajor, decodeMaj01, sr_round])

theorem smovSi (h : Hdr) (o : SiOps) : Statement (.smovSi h o) := by
  rintro - w ⟨⟩
  exact decode_assemble _ _ _ _ _ (by simp [decodeMajor, decodeMaj02, si_round])

theorem slui (h : Hdr) (o : SiOps) : Statement (.slui h o) := by
  rintro - w ⟨⟩
  exact decode_assemble _ _ _ _ _ (by simp [decodeMajor, decodeMaj02, si_round])

theorem sclz (h : Hdr) (o : SrOps) : Statement (.sclz h o) := by
  rintro - w ⟨⟩
  exact decode_assemble _ _ _ _ _ (by simp [decodeMajor, decodeMaj01, sr_round])

theorem spop (h : Hdr) (o : SrOps) : Statement (.spop h o) := by
  rintro - w ⟨⟩
  exact decode_assemble _ _ _ _ _ (by simp [decodeMajor, decodeMaj01, sr_round])

theorem sext (h : Hdr) (o : SrOps) : Statement (.sext h o) := by
  rintro - w ⟨⟩
  exact decode_assemble _ _ _ _ _ (by simp [decodeMajor, decodeMaj01, sr_round])

theorem sextSi (h : Hdr) (o : SiOps) : Statement (.sextSi h o) := by
  rintro - w ⟨⟩
  exact decode_assemble _ _ _ _ _ (by simp [decodeMajor, decodeMaj02, si_round])

theorem sins (h : Hdr) (o : SrOps) : Statement (.sins h o) := by
  rintro - w ⟨⟩
  exact decode_assemble _ _ _ _ _ (by simp [decodeMajor, decodeMaj01, sr_round])

theorem sinsSi (h : Hdr) (o : SiOps) : Statement (.sinsSi h o) := by
  rintro - w ⟨⟩
  exact decode_assemble _ _ _ _ _ (by simp [decodeMajor, decodeMaj02, si_round])

theorem slea (h : Hdr) (o : SrOps) : Statement (.slea h o) := by
  rintro - w ⟨⟩
  exact decode_assemble _ _ _ _ _ (by simp [decodeMajor, decodeMaj01, sr_round])

theorem sleaSi (h : Hdr) (o : SiOps) : Statement (.sleaSi h o) := by
  rintro - w ⟨⟩
  exact decode_assemble _ _ _ _ _ (by simp [decodeMajor, decodeMaj02, si_round])

theorem scmp (h : Hdr) (o : SrOps) : Statement (.scmp h o) := by
  rintro - w ⟨⟩
  exact decode_assemble _ _ _ _ _ (by simp [decodeMajor, decodeMaj03, sr_round])

theorem plog (h : Hdr) (o : SrOps) : Statement (.plog h o) := by
  rintro - w ⟨⟩
  exact decode_assemble _ _ _ _ _ (by simp [decodeMajor, decodeMaj03, sr_round])

theorem br (h : Hdr) (o : BOps) : Statement (.br h o) := by
  rintro - w ⟨⟩
  exact decode_assemble _ _ _ _ _ (by simp [decodeMajor, decodeMaj04, b_round])

theorem brc (h : Hdr) (o : BOps) : Statement (.brc h o) := by
  rintro - w ⟨⟩
  exact decode_assemble _ _ _ _ _ (by simp [decodeMajor, decodeMaj04, b_round])

theorem bri (h : Hdr) (o : BOps) : Statement (.bri h o) := by
  rintro - w ⟨⟩
  exact decode_assemble _ _ _ _ _ (by simp [decodeMajor, decodeMaj04, b_round])

theorem ret (h : Hdr) (o : BOps) : Statement (.ret h o) := by
  rintro - w ⟨⟩
  exact decode_assemble _ _ _ _ _ (by simp [decodeMajor, decodeMaj04, b_round])

theorem loop (h : Hdr) (o : BOps) : Statement (.loop h o) := by
  rintro - w ⟨⟩
  exact decode_assemble _ _ _ _ _ (by simp [decodeMajor, decodeMaj04, b_round])

theorem loopx (h : Hdr) (o : BOps) : Statement (.loopx h o) := by
  rintro - w ⟨⟩
  exact decode_assemble _ _ _ _ _ (by simp [decodeMajor, decodeMaj04, b_round])

theorem region (h : Hdr) (o : YOps) : Statement (.region h o) := by
  rintro - w ⟨⟩
  exact decode_assemble _ _ _ _ _ (by simp [decodeMajor, decodeMaj05, y_round])

theorem slice (h : Hdr) (o : YOps) : Statement (.slice h o) := by
  rintro - w ⟨⟩
  exact decode_assemble _ _ _ _ _ (by simp [decodeMajor, decodeMaj05, y_round])

theorem tnode (h : Hdr) (o : YOps) : Statement (.tnode h o) := by
  rintro - w ⟨⟩
  exact decode_assemble _ _ _ _ _ (by simp [decodeMajor, decodeMaj05, y_round])

theorem tlaunch (h : Hdr) (o : YOps) : Statement (.tlaunch h o) := by
  rintro - w ⟨⟩
  exact decode_assemble _ _ _ _ _ (by simp [decodeMajor, decodeMaj05, y_round])

theorem tyield (h : Hdr) (o : YOps) : Statement (.tyield h o) := by
  rintro - w ⟨⟩
  exact decode_assemble _ _ _ _ _ (by simp [decodeMajor, decodeMaj05, y_round])

theorem texit (h : Hdr) (o : YOps) : Statement (.texit h o) := by
  rintro - w ⟨⟩
  exact decode_assemble _ _ _ _ _ (by simp [decodeMajor, decodeMaj05, y_round])

theorem tkw (h : Hdr) (o : YOps) : Statement (.tkw h o) := by
  rintro - w ⟨⟩
  exact decode_assemble _ _ _ _ _ (by simp [decodeMajor, decodeMaj05, y_round])

theorem ld (h : Hdr) (o : MOps) : Statement (.ld h o) := by
  rintro - w ⟨⟩
  exact decode_assemble _ _ _ _ _ (by simp [decodeMajor, decodeMaj08, m_round])

theorem ldv (h : Hdr) (o : MOps) : Statement (.ldv h o) := by
  rintro - w ⟨⟩
  exact decode_assemble _ _ _ _ _ (by simp [decodeMajor, decodeMaj08, m_round])

theorem ldm (h : Hdr) (o : MOps) : Statement (.ldm h o) := by
  rintro - w ⟨⟩
  exact decode_assemble _ _ _ _ _ (by simp [decodeMajor, decodeMaj08, m_round])

theorem pref (h : Hdr) (o : MOps) : Statement (.pref h o) := by
  rintro - w ⟨⟩
  exact decode_assemble _ _ _ _ _ (by simp [decodeMajor, decodeMaj08, m_round])

theorem st (h : Hdr) (o : MOps) : Statement (.st h o) := by
  rintro - w ⟨⟩
  exact decode_assemble _ _ _ _ _ (by simp [decodeMajor, decodeMaj09, m_round])

theorem stv (h : Hdr) (o : MOps) : Statement (.stv h o) := by
  rintro - w ⟨⟩
  exact decode_assemble _ _ _ _ _ (by simp [decodeMajor, decodeMaj09, m_round])

theorem stm (h : Hdr) (o : MOps) : Statement (.stm h o) := by
  rintro - w ⟨⟩
  exact decode_assemble _ _ _ _ _ (by simp [decodeMajor, decodeMaj09, m_round])

theorem amo (h : Hdr) (o : MOps) : Statement (.amo h o) := by
  rintro - w ⟨⟩
  exact decode_assemble _ _ _ _ _ (by simp [decodeMajor, decodeMaj0A, m_round])

theorem cas (h : Hdr) (o : MOps) : Statement (.cas h o) := by
  rintro - w ⟨⟩
  exact decode_assemble _ _ _ _ _ (by simp [decodeMajor, decodeMaj0A, m_round])

theorem fence (h : Hdr) (o : MOps) : Statement (.fence h o) := by
  rintro - w ⟨⟩
  exact decode_assemble _ _ _ _ _ (by simp [decodeMajor, decodeMaj0B, m_round])

theorem acq (h : Hdr) (o : MOps) : Statement (.acq h o) := by
  rintro - w ⟨⟩
  exact decode_assemble _ _ _ _ _ (by simp [decodeMajor, decodeMaj0B, m_round])

theorem rel (h : Hdr) (o : MOps) : Statement (.rel h o) := by
  rintro - w ⟨⟩
  exact decode_assemble _ _ _ _ _ (by simp [decodeMajor, decodeMaj0B, m_round])

theorem bara (h : Hdr) (o : MOps) : Statement (.bara h o) := by
  rintro - w ⟨⟩
  exact decode_assemble _ _ _ _ _ (by simp [decodeMajor, decodeMaj0B, m_round])

theorem barw (h : Hdr) (o : MOps) : Statement (.barw h o) := by
  rintro - w ⟨⟩
  exact decode_assemble _ _ _ _ _ (by simp [decodeMajor, decodeMaj0B, m_round])

theorem dsync (h : Hdr) (o : MOps) : Statement (.dsync h o) := by
  rintro - w ⟨⟩
  exact decode_assemble _ _ _ _ _ (by simp [decodeMajor, decodeMaj0B, m_round])

theorem kget (h : Hdr) (o : KOps) : Statement (.kget h o) := by
  rintro - w ⟨⟩
  exact decode_assemble _ _ _ _ _ (by simp [decodeMajor, decodeMaj0C, k_round])

theorem kput (h : Hdr) (o : KOps) : Statement (.kput h o) := by
  rintro - w ⟨⟩
  exact decode_assemble _ _ _ _ _ (by simp [decodeMajor, decodeMaj0C, k_round])

theorem knew (h : Hdr) (o : KOps) : Statement (.knew h o) := by
  rintro - w ⟨⟩
  exact decode_assemble _ _ _ _ _ (by simp [decodeMajor, decodeMaj0C, k_round])

theorem kpin (h : Hdr) (o : KOps) : Statement (.kpin h o) := by
  rintro - w ⟨⟩
  exact decode_assemble _ _ _ _ _ (by simp [decodeMajor, decodeMaj0C, k_round])

theorem kunpin (h : Hdr) (o : KOps) : Statement (.kunpin h o) := by
  rintro - w ⟨⟩
  exact decode_assemble _ _ _ _ _ (by simp [decodeMajor, decodeMaj0C, k_round])

theorem keq (h : Hdr) (o : KOps) : Statement (.keq h o) := by
  rintro - w ⟨⟩
  exact decode_assemble _ _ _ _ _ (by simp [decodeMajor, decodeMaj0C, k_round])

theorem hopen (h : Hdr) (o : KOps) : Statement (.hopen h o) := by
  rintro - w ⟨⟩
  exact decode_assemble _ _ _ _ _ (by simp [decodeMajor, decodeMaj0D, k_round])

theorem hrel (h : Hdr) (o : KOps) : Statement (.hrel h o) := by
  rintro - w ⟨⟩
  exact decode_assemble _ _ _ _ _ (by simp [decodeMajor, decodeMaj0D, k_round])

theorem hld (h : Hdr) (o : KOps) : Statement (.hld h o) := by
  rintro - w ⟨⟩
  exact decode_assemble _ _ _ _ _ (by simp [decodeMajor, decodeMaj0D, k_round])

theorem hst (h : Hdr) (o : KOps) : Statement (.hst h o) := by
  rintro - w ⟨⟩
  exact decode_assemble _ _ _ _ _ (by simp [decodeMajor, decodeMaj0D, k_round])

theorem vadd (h : Hdr) (o : VrOps) : Statement (.vadd h o) := by
  rintro - w ⟨⟩
  exact decode_assemble _ _ _ _ _ (by simp [decodeMajor, decodeMaj10, vr_round])

theorem vaddVs (h : Hdr) (o : VsOps) : Statement (.vaddVs h o) := by
  rintro - w ⟨⟩
  exact decode_assemble _ _ _ _ _ (by simp [decodeMajor, decodeMaj11, vs_round])

theorem vsub (h : Hdr) (o : VrOps) : Statement (.vsub h o) := by
  rintro - w ⟨⟩
  exact decode_assemble _ _ _ _ _ (by simp [decodeMajor, decodeMaj10, vr_round])

theorem vsubVs (h : Hdr) (o : VsOps) : Statement (.vsubVs h o) := by
  rintro - w ⟨⟩
  exact decode_assemble _ _ _ _ _ (by simp [decodeMajor, decodeMaj11, vs_round])

theorem vmul (h : Hdr) (o : VrOps) : Statement (.vmul h o) := by
  rintro - w ⟨⟩
  exact decode_assemble _ _ _ _ _ (by simp [decodeMajor, decodeMaj10, vr_round])

theorem vmulVs (h : Hdr) (o : VsOps) : Statement (.vmulVs h o) := by
  rintro - w ⟨⟩
  exact decode_assemble _ _ _ _ _ (by simp [decodeMajor, decodeMaj11, vs_round])

theorem vfma (h : Hdr) (o : VrOps) : Statement (.vfma h o) := by
  rintro - w ⟨⟩
  exact decode_assemble _ _ _ _ _ (by simp [decodeMajor, decodeMaj10, vr_round])

theorem vfmaVs (h : Hdr) (o : VsOps) : Statement (.vfmaVs h o) := by
  rintro - w ⟨⟩
  exact decode_assemble _ _ _ _ _ (by simp [decodeMajor, decodeMaj11, vs_round])

theorem vmin (h : Hdr) (o : VrOps) : Statement (.vmin h o) := by
  rintro - w ⟨⟩
  exact decode_assemble _ _ _ _ _ (by simp [decodeMajor, decodeMaj10, vr_round])

theorem vminVs (h : Hdr) (o : VsOps) : Statement (.vminVs h o) := by
  rintro - w ⟨⟩
  exact decode_assemble _ _ _ _ _ (by simp [decodeMajor, decodeMaj11, vs_round])

theorem vmax (h : Hdr) (o : VrOps) : Statement (.vmax h o) := by
  rintro - w ⟨⟩
  exact decode_assemble _ _ _ _ _ (by simp [decodeMajor, decodeMaj10, vr_round])

theorem vmaxVs (h : Hdr) (o : VsOps) : Statement (.vmaxVs h o) := by
  rintro - w ⟨⟩
  exact decode_assemble _ _ _ _ _ (by simp [decodeMajor, decodeMaj11, vs_round])

theorem vabs (h : Hdr) (o : VrOps) : Statement (.vabs h o) := by
  rintro - w ⟨⟩
  exact decode_assemble _ _ _ _ _ (by simp [decodeMajor, decodeMaj10, vr_round])

theorem vand (h : Hdr) (o : VrOps) : Statement (.vand h o) := by
  rintro - w ⟨⟩
  exact decode_assemble _ _ _ _ _ (by simp [decodeMajor, decodeMaj10, vr_round])

theorem vandVs (h : Hdr) (o : VsOps) : Statement (.vandVs h o) := by
  rintro - w ⟨⟩
  exact decode_assemble _ _ _ _ _ (by simp [decodeMajor, decodeMaj11, vs_round])

theorem vor (h : Hdr) (o : VrOps) : Statement (.vor h o) := by
  rintro - w ⟨⟩
  exact decode_assemble _ _ _ _ _ (by simp [decodeMajor, decodeMaj10, vr_round])

theorem vorVs (h : Hdr) (o : VsOps) : Statement (.vorVs h o) := by
  rintro - w ⟨⟩
  exact decode_assemble _ _ _ _ _ (by simp [decodeMajor, decodeMaj11, vs_round])

theorem vxor (h : Hdr) (o : VrOps) : Statement (.vxor h o) := by
  rintro - w ⟨⟩
  exact decode_assemble _ _ _ _ _ (by simp [decodeMajor, decodeMaj10, vr_round])

theorem vxorVs (h : Hdr) (o : VsOps) : Statement (.vxorVs h o) := by
  rintro - w ⟨⟩
  exact decode_assemble _ _ _ _ _ (by simp [decodeMajor, decodeMaj11, vs_round])

theorem vshl (h : Hdr) (o : VrOps) : Statement (.vshl h o) := by
  rintro - w ⟨⟩
  exact decode_assemble _ _ _ _ _ (by simp [decodeMajor, decodeMaj10, vr_round])

theorem vshlVs (h : Hdr) (o : VsOps) : Statement (.vshlVs h o) := by
  rintro - w ⟨⟩
  exact decode_assemble _ _ _ _ _ (by simp [decodeMajor, decodeMaj11, vs_round])

theorem vshr (h : Hdr) (o : VrOps) : Statement (.vshr h o) := by
  rintro - w ⟨⟩
  exact decode_assemble _ _ _ _ _ (by simp [decodeMajor, decodeMaj10, vr_round])

theorem vshrVs (h : Hdr) (o : VsOps) : Statement (.vshrVs h o) := by
  rintro - w ⟨⟩
  exact decode_assemble _ _ _ _ _ (by simp [decodeMajor, decodeMaj11, vs_round])

theorem vcmp (h : Hdr) (o : VrOps) : Statement (.vcmp h o) := by
  rintro - w ⟨⟩
  exact decode_assemble _ _ _ _ _ (by simp [decodeMajor, decodeMaj10, vr_round])

theorem vcmpVs (h : Hdr) (o : VsOps) : Statement (.vcmpVs h o) := by
  rintro - w ⟨⟩
  exact decode_assemble _ _ _ _ _ (by simp [decodeMajor, decodeMaj11, vs_round])

theorem vsel (h : Hdr) (o : VrOps) : Statement (.vsel h o) := by
  rintro - w ⟨⟩
  exact decode_assemble _ _ _ _ _ (by simp [decodeMajor, decodeMaj10, vr_round])

theorem vselVs (h : Hdr) (o : VsOps) : Statement (.vselVs h o) := by
  rintro - w ⟨⟩
  exact decode_assemble _ _ _ _ _ (by simp [decodeMajor, decodeMaj11, vs_round])

theorem vmov (h : Hdr) (o : VrOps) : Statement (.vmov h o) := by
  rintro - w ⟨⟩
  exact decode_assemble _ _ _ _ _ (by simp [decodeMajor, decodeMaj10, vr_round])

theorem vmovVs (h : Hdr) (o : VsOps) : Statement (.vmovVs h o) := by
  rintro - w ⟨⟩
  exact decode_assemble _ _ _ _ _ (by simp [decodeMajor, decodeMaj11, vs_round])

theorem vcvt (h : Hdr) (o : VrOps) : Statement (.vcvt h o) := by
  rintro - w ⟨⟩
  exact decode_assemble _ _ _ _ _ (by simp [decodeMajor, decodeMaj10, vr_round])

theorem vwmul (h : Hdr) (o : VrOps) : Statement (.vwmul h o) := by
  rintro - w ⟨⟩
  exact decode_assemble _ _ _ _ _ (by simp [decodeMajor, decodeMaj10, vr_round])

theorem vwmulVs (h : Hdr) (o : VsOps) : Statement (.vwmulVs h o) := by
  rintro - w ⟨⟩
  exact decode_assemble _ _ _ _ _ (by simp [decodeMajor, decodeMaj11, vs_round])

theorem vwadd (h : Hdr) (o : VrOps) : Statement (.vwadd h o) := by
  rintro - w ⟨⟩
  exact decode_assemble _ _ _ _ _ (by simp [decodeMajor, decodeMaj10, vr_round])

theorem vwaddVs (h : Hdr) (o : VsOps) : Statement (.vwaddVs h o) := by
  rintro - w ⟨⟩
  exact decode_assemble _ _ _ _ _ (by simp [decodeMajor, decodeMaj11, vs_round])

theorem vdot4 (h : Hdr) (o : VrOps) : Statement (.vdot4 h o) := by
  rintro - w ⟨⟩
  exact decode_assemble _ _ _ _ _ (by simp [decodeMajor, decodeMaj10, vr_round])

theorem vdot4Vs (h : Hdr) (o : VsOps) : Statement (.vdot4Vs h o) := by
  rintro - w ⟨⟩
  exact decode_assemble _ _ _ _ _ (by simp [decodeMajor, decodeMaj11, vs_round])

theorem vexp2 (h : Hdr) (o : VrOps) : Statement (.vexp2 h o) := by
  rintro - w ⟨⟩
  exact decode_assemble _ _ _ _ _ (by simp [decodeMajor, decodeMaj12, vr_round])

theorem vlog2 (h : Hdr) (o : VrOps) : Statement (.vlog2 h o) := by
  rintro - w ⟨⟩
  exact decode_assemble _ _ _ _ _ (by simp [decodeMajor, decodeMaj12, vr_round])

theorem vrcp (h : Hdr) (o : VrOps) : Statement (.vrcp h o) := by
  rintro - w ⟨⟩
  exact decode_assemble _ _ _ _ _ (by simp [decodeMajor, decodeMaj12, vr_round])

theorem vrsq (h : Hdr) (o : VrOps) : Statement (.vrsq h o) := by
  rintro - w ⟨⟩
  exact decode_assemble _ _ _ _ _ (by simp [decodeMajor, decodeMaj12, vr_round])

theorem vtanh (h : Hdr) (o : VrOps) : Statement (.vtanh h o) := by
  rintro - w ⟨⟩
  exact decode_assemble _ _ _ _ _ (by simp [decodeMajor, decodeMaj12, vr_round])

theorem vrsum (h : Hdr) (o : VrOps) : Statement (.vrsum h o) := by
  rintro - w ⟨⟩
  exact decode_assemble _ _ _ _ _ (by simp [decodeMajor, decodeMaj12, vr_round])

theorem vrmax (h : Hdr) (o : VrOps) : Statement (.vrmax h o) := by
  rintro - w ⟨⟩
  exact decode_assemble _ _ _ _ _ (by simp [decodeMajor, decodeMaj12, vr_round])

theorem vrmin (h : Hdr) (o : VrOps) : Statement (.vrmin h o) := by
  rintro - w ⟨⟩
  exact decode_assemble _ _ _ _ _ (by simp [decodeMajor, decodeMaj12, vr_round])

theorem vmaxi (h : Hdr) (o : VrOps) : Statement (.vmaxi h o) := by
  rintro - w ⟨⟩
  exact decode_assemble _ _ _ _ _ (by simp [decodeMajor, decodeMaj12, vr_round])

theorem vmini (h : Hdr) (o : VrOps) : Statement (.vmini h o) := by
  rintro - w ⟨⟩
  exact decode_assemble _ _ _ _ _ (by simp [decodeMajor, decodeMaj12, vr_round])

theorem vscan (h : Hdr) (o : VrOps) : Statement (.vscan h o) := by
  rintro - w ⟨⟩
  exact decode_assemble _ _ _ _ _ (by simp [decodeMajor, decodeMaj12, vr_round])

theorem vperm (h : Hdr) (o : VrOps) : Statement (.vperm h o) := by
  rintro - w ⟨⟩
  exact decode_assemble _ _ _ _ _ (by simp [decodeMajor, decodeMaj13, vr_round])

theorem vcomp (h : Hdr) (o : VrOps) : Statement (.vcomp h o) := by
  rintro - w ⟨⟩
  exact decode_assemble _ _ _ _ _ (by simp [decodeMajor, decodeMaj13, vr_round])

theorem vhist (h : Hdr) (o : VrOps) : Statement (.vhist h o) := by
  rintro - w ⟨⟩
  exact decode_assemble _ _ _ _ _ (by simp [decodeMajor, decodeMaj13, vr_round])

theorem vhmerge (h : Hdr) (o : VrOps) : Statement (.vhmerge h o) := by
  rintro - w ⟨⟩
  exact decode_assemble _ _ _ _ _ (by simp [decodeMajor, decodeMaj13, vr_round])

theorem vrng (h : Hdr) (o : VrOps) : Statement (.vrng h o) := by
  rintro - w ⟨⟩
  exact decode_assemble _ _ _ _ _ (by simp [decodeMajor, decodeMaj13, vr_round])

theorem vchain (h : Hdr) (o : VrOps) : Statement (.vchain h o) := by
  rintro - w ⟨⟩
  exact decode_assemble _ _ _ _ _ (by simp [decodeMajor, decodeMaj13, vr_round])

theorem mlease (h : Hdr) (o : EOps) : Statement (.mlease h o) := by
  rintro - w ⟨⟩
  exact decode_assemble _ _ _ _ _ (by simp [decodeMajor, decodeMaj18, e_round])

theorem mfree (h : Hdr) (o : EOps) : Statement (.mfree h o) := by
  rintro - w ⟨⟩
  exact decode_assemble _ _ _ _ _ (by simp [decodeMajor, decodeMaj18, e_round])

theorem mma (h : Hdr) (o : EOps) : Statement (.mma h o) := by
  rintro - w ⟨⟩
  exact decode_assemble _ _ _ _ _ (by simp [decodeMajor, decodeMaj18, e_round])

theorem mmas (h : Hdr) (o : EOps) : Statement (.mmas h o) := by
  rintro - w ⟨⟩
  exact decode_assemble _ _ _ _ _ (by simp [decodeMajor, decodeMaj18, e_round])

theorem mrank (h : Hdr) (o : EOps) : Statement (.mrank h o) := by
  rintro - w ⟨⟩
  exact decode_assemble _ _ _ _ _ (by simp [decodeMajor, decodeMaj18, e_round])

theorem mrd (h : Hdr) (o : EOps) : Statement (.mrd h o) := by
  rintro - w ⟨⟩
  exact decode_assemble _ _ _ _ _ (by simp [decodeMajor, decodeMaj18, e_round])

theorem mzero (h : Hdr) (o : EOps) : Statement (.mzero h o) := by
  rintro - w ⟨⟩
  exact decode_assemble _ _ _ _ _ (by simp [decodeMajor, decodeMaj18, e_round])

theorem cpy (h : Hdr) (o : EOps) : Statement (.cpy h o) := by
  rintro - w ⟨⟩
  exact decode_assemble _ _ _ _ _ (by simp [decodeMajor, decodeMaj19, e_round])

theorem qbind (h : Hdr) (o : EOps) : Statement (.qbind h o) := by
  rintro - w ⟨⟩
  exact decode_assemble _ _ _ _ _ (by simp [decodeMajor, decodeMaj19, e_round])

theorem rinit (h : Hdr) (o : EOps) : Statement (.rinit h o) := by
  rintro - w ⟨⟩
  exact decode_assemble _ _ _ _ _ (by simp [decodeMajor, decodeMaj19, e_round])

theorem radv (h : Hdr) (o : EOps) : Statement (.radv h o) := by
  rintro - w ⟨⟩
  exact decode_assemble _ _ _ _ _ (by simp [decodeMajor, decodeMaj19, e_round])

theorem epop (h : Hdr) (o : EOps) : Statement (.epop h o) := by
  rintro - w ⟨⟩
  exact decode_assemble _ _ _ _ _ (by simp [decodeMajor, decodeMaj19, e_round])

theorem estat (h : Hdr) (o : EOps) : Statement (.estat h o) := by
  rintro - w ⟨⟩
  exact decode_assemble _ _ _ _ _ (by simp [decodeMajor, decodeMaj19, e_round])

theorem merge (h : Hdr) (o : EOps) : Statement (.merge h o) := by
  rintro - w ⟨⟩
  exact decode_assemble _ _ _ _ _ (by simp [decodeMajor, decodeMaj1A, e_round])

theorem hacc (h : Hdr) (o : EOps) : Statement (.hacc h o) := by
  rintro - w ⟨⟩
  exact decode_assemble _ _ _ _ _ (by simp [decodeMajor, decodeMaj1A, e_round])

theorem xroute (h : Hdr) (o : XOps) : Statement (.xroute h o) := by
  rintro - w ⟨⟩
  exact decode_assemble _ _ _ _ _ (by simp [decodeMajor, decodeMaj1C, x_round])

theorem xfetch (h : Hdr) (o : XOps) : Statement (.xfetch h o) := by
  rintro - w ⟨⟩
  exact decode_assemble _ _ _ _ _ (by simp [decodeMajor, decodeMaj1C, x_round])

theorem xpin (h : Hdr) (o : XOps) : Statement (.xpin h o) := by
  rintro - w ⟨⟩
  exact decode_assemble _ _ _ _ _ (by simp [decodeMajor, decodeMaj1C, x_round])

theorem xunpin (h : Hdr) (o : XOps) : Statement (.xunpin h o) := by
  rintro - w ⟨⟩
  exact decode_assemble _ _ _ _ _ (by simp [decodeMajor, decodeMaj1C, x_round])

theorem xpred (h : Hdr) (o : XOps) : Statement (.xpred h o) := by
  rintro - w ⟨⟩
  exact decode_assemble _ _ _ _ _ (by simp [decodeMajor, decodeMaj1C, x_round])

theorem xqry (h : Hdr) (o : XOps) : Statement (.xqry h o) := by
  rintro - w ⟨⟩
  exact decode_assemble _ _ _ _ _ (by simp [decodeMajor, decodeMaj1C, x_round])

theorem xsnap (h : Hdr) (o : XOps) : Statement (.xsnap h o) := by
  rintro - w ⟨⟩
  exact decode_assemble _ _ _ _ _ (by simp [decodeMajor, decodeMaj1C, x_round])

theorem xrepl (h : Hdr) (o : XOps) : Statement (.xrepl h o) := by
  rintro - w ⟨⟩
  exact decode_assemble _ _ _ _ _ (by simp [decodeMajor, decodeMaj1C, x_round])

theorem idleTimeout (c : Ctx) : Statement (.idleTimeout c) := by
  rintro - w ⟨⟩

theorem tkwTimeout (c : Ctx) : Statement (.tkwTimeout c) := by
  rintro - w ⟨⟩

theorem finalClose (slot : Fin 8) (layer : Nat) : Statement (.finalClose slot layer) := by
  rintro - w ⟨⟩

theorem interlockedWriteLand (c : Ctx) : Statement (.interlockedWriteLand c) := by
  rintro - w ⟨⟩

theorem fixedLatencyVisible (c : Ctx) : Statement (.fixedLatencyVisible c) := by
  rintro - w ⟨⟩

theorem matrixCommandStart (c : Ctx) : Statement (.matrixCommandStart c) := by
  rintro - w ⟨⟩

theorem matrixMicroStep (c : Ctx) : Statement (.matrixMicroStep c) := by
  rintro - w ⟨⟩

theorem copyCommandStart (c : Ctx) : Statement (.copyCommandStart c) := by
  rintro - w ⟨⟩

theorem copyMicroStep (c : Ctx) : Statement (.copyMicroStep c) := by
  rintro - w ⟨⟩

theorem dataCommandStart (c : Ctx) : Statement (.dataCommandStart c) := by
  rintro - w ⟨⟩

theorem dataMicroStep (c : Ctx) : Statement (.dataMicroStep c) := by
  rintro - w ⟨⟩

theorem engineFaultTaken (c : Ctx) : Statement (.engineFaultTaken c) := by
  rintro - w ⟨⟩

theorem frespRetry (c : Ctx) (seq : BitVec 16) : Statement (.frespRetry c seq) := by
  rintro - w ⟨⟩

theorem frespDeliver (c : Ctx) (seq : BitVec 16) : Statement (.frespDeliver c seq) := by
  rintro - w ⟨⟩

theorem monitorLimitExpiry (c : Ctx) : Statement (.monitorLimitExpiry c) := by
  rintro - w ⟨⟩

theorem quantumExpiry (core : Fin 32) : Statement (.quantumExpiry core) := by
  rintro - w ⟨⟩

theorem stallLimitExpiry (core : Fin 32) : Statement (.stallLimitExpiry core) := by
  rintro - w ⟨⟩

theorem eccCorrectableFreeze (core : Fin 32) (st : Fin 5) : Statement (.eccCorrectableFreeze core st) := by
  rintro - w ⟨⟩

theorem freezeEnd (core : Fin 32) : Statement (.freezeEnd core) := by
  rintro - w ⟨⟩

theorem windowSubmit64 (q : Fin 64) (slot : Fin 64) (desc : LineStore) : Statement (.windowSubmit64 q slot desc) := by
  rintro - w ⟨⟩

theorem windowPieceStore (p : PieceStore) : Statement (.windowPieceStore p) := by
  rintro - w ⟨⟩

theorem clearEngineDone (c : Ctx) : Statement (.clearEngineDone c) := by
  rintro - w ⟨⟩

theorem nodeAgeing (n : NodeIx) : Statement (.nodeAgeing n) := by
  rintro - w ⟨⟩

theorem preemptTrigger (cls : NodeClass) : Statement (.preemptTrigger cls) := by
  rintro - w ⟨⟩

theorem appNodeClaim (n : NodeIx) : Statement (.appNodeClaim n) := by
  rintro - w ⟨⟩

theorem appNodeComplete (n : NodeIx) : Statement (.appNodeComplete n) := by
  rintro - w ⟨⟩

theorem queueEnable (q : Fin 64) (on : Bool) : Statement (.queueEnable q on) := by
  rintro - w ⟨⟩

theorem queueStopClear (q : Fin 64) : Statement (.queueStopClear q) := by
  rintro - w ⟨⟩

theorem qslotWrite (q : Fin 64) (val : BitVec 32) : Statement (.qslotWrite q val) := by
  rintro - w ⟨⟩

theorem registerWrite (off : BitVec 24) (val : BitVec 64) : Statement (.registerWrite off val) := by
  rintro - w ⟨⟩

theorem l1CapacityEviction (core : Fin 32) (line : Nat) : Statement (.l1CapacityEviction core line) := by
  rintro - w ⟨⟩

theorem shootdown (inv : Invalidate) : Statement (.shootdown inv) := by
  rintro - w ⟨⟩

theorem externalAccess (a : ExtAccess) : Statement (.externalAccess a) := by
  rintro - w ⟨⟩

theorem compressedFrameFault (pa : BitVec 48) : Statement (.compressedFrameFault pa) := by
  rintro - w ⟨⟩

theorem famcmd (val : BitVec 64) : Statement (.famcmd val) := by
  rintro - w ⟨⟩

theorem swapGo (val : BitVec 32) : Statement (.swapGo val) := by
  rintro - w ⟨⟩

theorem migrationRequest (val : BitVec 64) : Statement (.migrationRequest val) := by
  rintro - w ⟨⟩

theorem holdExpiry (r : RowBank) : Statement (.holdExpiry r) := by
  rintro - w ⟨⟩

theorem holdQueueLimit (r : RowBank) : Statement (.holdQueueLimit r) := by
  rintro - w ⟨⟩

theorem rowAutoClose (r : RowBank) : Statement (.rowAutoClose r) := by
  rintro - w ⟨⟩

theorem rowReopen (r : RowBank) : Statement (.rowReopen r) := by
  rintro - w ⟨⟩

theorem retire (n : BitVec 8) : Statement (.retire n) := by
  rintro - w ⟨⟩

theorem heapcmdFree (oti : Nat) : Statement (.heapcmdFree oti) := by
  rintro - w ⟨⟩

theorem coldEvictionStart (oti : Nat) : Statement (.coldEvictionStart oti) := by
  rintro - w ⟨⟩

theorem recallComplete (oti : Nat) : Statement (.recallComplete oti) := by
  rintro - w ⟨⟩

theorem modelInstall (m : Fin 8) : Statement (.modelInstall m) := by
  rintro - w ⟨⟩

theorem modelUninstall (m : Fin 8) : Statement (.modelUninstall m) := by
  rintro - w ⟨⟩

theorem remoteClaim (xid : BitVec 32) (row : BitVec 32) : Statement (.remoteClaim xid row) := by
  rintro - w ⟨⟩

theorem remoteCommand (cmd : RemoteCopy) : Statement (.remoteCommand cmd) := by
  rintro - w ⟨⟩

theorem distributionChunk (d : DistChunk) : Statement (.distributionChunk d) := by
  rintro - w ⟨⟩

theorem linkChange (l : LinkChange) : Statement (.linkChange l) := by
  rintro - w ⟨⟩

theorem leaseGrant (cl : Fin 8) : Statement (.leaseGrant cl) := by
  rintro - w ⟨⟩

theorem leaseTimeout (cl : Fin 8) : Statement (.leaseTimeout cl) := by
  rintro - w ⟨⟩

theorem bucketCycle (cl : Fin 8) : Statement (.bucketCycle cl) := by
  rintro - w ⟨⟩

theorem refillTick (cl : Fin 8) : Statement (.refillTick cl) := by
  rintro - w ⟨⟩

theorem biasWrite (cl : Fin 8) (bb : BitVec 4) : Statement (.biasWrite cl bb) := by
  rintro - w ⟨⟩

theorem biasSettleDone (cl : Fin 8) : Statement (.biasSettleDone cl) := by
  rintro - w ⟨⟩

theorem clockHopRequest (cl : Fin 8) (src : Bool) (half : Bool) : Statement (.clockHopRequest cl src half) := by
  rintro - w ⟨⟩

theorem hopComplete (cl : Fin 8) : Statement (.hopComplete cl) := by
  rintro - w ⟨⟩

theorem hopRetry (cl : Fin 8) : Statement (.hopRetry cl) := by
  rintro - w ⟨⟩

theorem droopDetect (cl : Fin 8) : Statement (.droopDetect cl) := by
  rintro - w ⟨⟩

theorem droopRecover (cl : Fin 8) : Statement (.droopRecover cl) := by
  rintro - w ⟨⟩

theorem sensorReading (cl : Fin 8) (r : SensorSet) : Statement (.sensorReading cl r) := by
  rintro - w ⟨⟩

theorem sensfClear (cl : Fin 8) (mask : BitVec 6) : Statement (.sensfClear cl mask) := by
  rintro - w ⟨⟩

theorem wake (src : WakeSource) : Statement (.wake src) := by
  rintro - w ⟨⟩

theorem mgmtReadCrock (start : BitVec 16) (count : BitVec 16) : Statement (.mgmtReadCrock start count) := by
  rintro - w ⟨⟩

theorem boot (b : BootImage) : Statement (.boot b) := by
  rintro - w ⟨⟩

theorem domainFaultTaken (c : Ctx) : Statement (.domainFaultTaken c) := by
  rintro - w ⟨⟩

theorem powerLoss (aon : Bool) : Statement (.powerLoss aon) := by
  rintro - w ⟨⟩

theorem distributorSelection : Statement .distributorSelection := by
  rintro - w ⟨⟩

theorem binding : Statement .binding := by
  rintro - w ⟨⟩

theorem recordConsumption : Statement .recordConsumption := by
  rintro - w ⟨⟩

theorem tileNodeCreate : Statement .tileNodeCreate := by
  rintro - w ⟨⟩

theorem famcmdHeldApply : Statement .famcmdHeldApply := by
  rintro - w ⟨⟩

theorem expandGo : Statement .expandGo := by
  rintro - w ⟨⟩

theorem expandDone : Statement .expandDone := by
  rintro - w ⟨⟩

theorem expandDoneClear : Statement .expandDoneClear := by
  rintro - w ⟨⟩

theorem swapDone : Statement .swapDone := by
  rintro - w ⟨⟩

theorem swapDoneClear : Statement .swapDoneClear := by
  rintro - w ⟨⟩

theorem heapCompact : Statement .heapCompact := by
  rintro - w ⟨⟩

theorem compactionAutostart : Statement .compactionAutostart := by
  rintro - w ⟨⟩

theorem compactionCycleStart : Statement .compactionCycleStart := by
  rintro - w ⟨⟩

theorem compactionObject : Statement .compactionObject := by
  rintro - w ⟨⟩

theorem relocationCommit : Statement .relocationCommit := by
  rintro - w ⟨⟩

theorem compactionFlip : Statement .compactionFlip := by
  rintro - w ⟨⟩

theorem coldEvictionDone : Statement .coldEvictionDone := by
  rintro - w ⟨⟩

theorem steamerChunk : Statement .steamerChunk := by
  rintro - w ⟨⟩

theorem frequencyDecay : Statement .frequencyDecay := by
  rintro - w ⟨⟩

theorem sleepEnter : Statement .sleepEnter := by
  rintro - w ⟨⟩

theorem wakeComplete : Statement .wakeComplete := by
  rintro - w ⟨⟩

theorem keyLoad : Statement .keyLoad := by
  rintro - w ⟨⟩

theorem keyLoadDone : Statement .keyLoadDone := by
  rintro - w ⟨⟩

theorem attestation : Statement .attestation := by
  rintro - w ⟨⟩

theorem attestationDone : Statement .attestationDone := by
  rintro - w ⟨⟩

theorem resync : Statement .resync := by
  rintro - w ⟨⟩

theorem resyncDone : Statement .resyncDone := by
  rintro - w ⟨⟩

theorem mgmtStatus : Statement .mgmtStatus := by
  rintro - w ⟨⟩

theorem mgmtResync : Statement .mgmtResync := by
  rintro - w ⟨⟩

theorem mgmtWake : Statement .mgmtWake := by
  rintro - w ⟨⟩

theorem heartbeat : Statement .heartbeat := by
  rintro - w ⟨⟩

theorem watchdogExpiry : Statement .watchdogExpiry := by
  rintro - w ⟨⟩

theorem mainTierRateChange : Statement .mainTierRateChange := by
  rintro - w ⟨⟩

theorem call (h : Hdr) (o : BOps) : Statement (.call h o) := by
  rintro hw w ⟨⟩
  have e : o.bits.getLsbD 40 = false := by
    have := congrArg (fun x => x.bf.getLsbD 0) (b_round o)
    simp_all [Instr.wf, BOps.ofBits]
  exact decode_assemble _ _ _ _ _ (by simp [decodeMajor, decodeMaj04, b_round]; simpa using e)

theorem callIndirect (h : Hdr) (o : BOps) : Statement (.callIndirect h o) := by
  rintro hw w ⟨⟩
  have e : o.bits.getLsbD 40 = true := by
    have := congrArg (fun x => x.bf.getLsbD 0) (b_round o)
    simp_all [Instr.wf, BOps.ofBits]
  exact decode_assemble _ _ _ _ _ (by simp [decodeMajor, decodeMaj04, b_round, e])

/-- SZ chooses between the two forms of KLD and KST (R315). -/
theorem k_sz (o : KOps) : o.bits.extractLsb' 22 3 = o.sz := congrArg KOps.sz (k_round o)

theorem kld (h : Hdr) (o : KOps) : Statement (.kld h o) := by
  rintro hw w ⟨⟩
  have e : o.sz = 3 := by simp_all [Instr.wf]
  exact decode_assemble _ _ _ _ _ (by simp [decodeMajor, decodeMaj0C, k_round, k_sz, e])

theorem kldObject (h : Hdr) (o : KOps) : Statement (.kldObject h o) := by
  rintro hw w ⟨⟩
  have e : o.sz = 7 := by simp_all [Instr.wf]
  exact decode_assemble _ _ _ _ _ (by simp [decodeMajor, decodeMaj0C, k_round, k_sz, e])

theorem kst (h : Hdr) (o : KOps) : Statement (.kst h o) := by
  rintro hw w ⟨⟩
  have e : o.sz = 3 := by simp_all [Instr.wf]
  exact decode_assemble _ _ _ _ _ (by simp [decodeMajor, decodeMaj0C, k_round, k_sz, e])

theorem kstObject (h : Hdr) (o : KOps) : Statement (.kstObject h o) := by
  rintro hw w ⟨⟩
  have e : o.sz = 7 := by simp_all [Instr.wf]
  exact decode_assemble _ _ _ _ _ (by simp [decodeMajor, decodeMaj0C, k_round, k_sz, e])

theorem xclose (h : Hdr) (o : XOps) : Statement (.xclose h o) := by
  rintro hw w ⟨⟩
  have e : o.bits.getLsbD 0 = false := by
    have := congrArg (fun x => x.xf.getLsbD 0) (x_round o)
    simp_all [Instr.wf, XOps.ofBits]
  exact decode_assemble _ _ _ _ _ (by simp [decodeMajor, decodeMaj1C, x_round]; simpa using e)

theorem xcloseFinal (h : Hdr) (o : XOps) : Statement (.xcloseFinal h o) := by
  rintro hw w ⟨⟩
  have e : o.bits.getLsbD 0 = true := by
    have := congrArg (fun x => x.xf.getLsbD 0) (x_round o)
    simp_all [Instr.wf, XOps.ofBits]
  exact decode_assemble _ _ _ _ _ (by simp [decodeMajor, decodeMaj1C, x_round, e])

end Sys2Proof.Laws.RoundTrip
end

