-- ==== Sys2Proof/Tests/Slice0.lean ====
section
/-! SUPPORT. Tests: ill-formed words that the checks refuse, words written out from the manual's encodings, the manual's worked examples,
and, for each statement with hypotheses, a state and operands that meet them. Expected values come from the manual's examples or from its
rules by hand; the witnesses of a statement carry its name. -/

namespace Sys2Proof.Tests
open Sys2Proof Sys2Proof.Machine
set_option Elab.async false

/-! ### A small device: core 0, bank A, ready, with the partition of RF 8 and one bank of 16 KiB -/

def hd : Hdr := { last := true, pg := 0, pn := false }
/-- A guard that is false: p0 inverted. -/
def hdOff : Hdr := { last := true, pg := 0, pn := true }
def cA : Ctx := { core := 0, bank := 0 }
def cB : Ctx := { core := 0, bank := 1 }
def bank0 : Bank := { Bank.reset with phase := .ready, sys := { SysRegs.reset with partw := 0x8000000011000008#64 } }
def core0 : Core := { Core.reset with issuing := some 0 }
def withBank (b : Bank) : State :=
  { State.reset with banks := [(0, b)], cores := [(0, core0)], plat := { Platform.reset with power := .on } }
def st0 : State := withBank bank0
/-- The same bank in monitor mode. -/
def bankM : Bank := { bank0 with tr := { bank0.tr with mode := true } }
def stM : State := withBank bankM
/-- With scalars. -/
def withS (l : List (Nat × Word)) : State := withBank { bank0 with regs := { Regs.reset with s := l } }

def sr (d a b : BitVec 6) : SrOps := { sd := d, sa := a, sb := b, ma := 0, mb := 0, md := 0, rz := 0 }
/-- All four 8-bit lanes. -/
def sr8 (d a b : BitVec 6) : SrOps := { sd := d, sa := a, sb := b, ma := 0x28, mb := 0x28, md := 0x28, rz := 0 }
def si (d a : BitVec 6) (k : BitVec 31) : SiOps := { sd := d, sa := a, imm := k }
def vr (d a b : BitVec 8) (ty : BitVec 4) : VrOps :=
  { vd := d, va := a, vb := b, vc := 0, ty := ty, rm := 0, sat := false, ua := false, ub := false, rz := 0 }
def vs (d a : BitVec 8) (s : BitVec 6) (ty : BitVec 4) : VsOps := { vd := d, va := a, ss := s, ty := ty, rm := 0, sat := false, imm := 0 }
def mo (dr : BitVec 8) (bs : BitVec 6) (sz : BitVec 3) (off : BitVec 20) : MOps :=
  { dr := dr, bs := bs, ord := 0, sc := 0, sz := sz, ch := 0, off := off }
def ko (kh kb : BitVec 4) (dr : BitVec 8) (sz : BitVec 3) : KOps := { kh := kh, kb := kb, dr := dr, ord := 0, sz := sz, off := 0 }
def eo (ra rb : BitVec 4) (sx sy sz : BitVec 6) (k : BitVec 13) : EOps := { tok := 0, ra := ra, rb := rb, sx := sx, sy := sy, sz := sz, eimm := k }
def bo (bf : BitVec 3) (li : BitVec 2) (sa : BitVec 6) (off : BitVec 32) : BOps := { bf := bf, li := li, sa := sa, off := off }
def yo (sd sa : BitVec 6) (srn : BitVec 12) (k : BitVec 19) : YOps := { sd := sd, sa := sa, srn := srn, imm := k }
def xo (vd va vb : BitVec 8) (sa sb : BitVec 6) (xf : BitVec 7) : XOps := { vd := vd, va := va, vb := vb, sa := sa, sb := sb, xf := xf }

/-- The state after a row of the table. -/
def oneStep (i : Instr) (s : State) : State := nextOr s (exec i s)

/-! ### Ill-formed words, each refused by the check it breaks -/

theorem test_wf_refuses : [
    Instr.nop hd (yo 0 0 0 1),                                       -- a payload bit (R313)
    .sysr hd (yo 1 0 0x005 0), .sysw hd (yo 0 1 0x023 0),            -- no such system register (R80)
    .rte hdOff (yo 0 0 0 0), .texit hdOff (yo 0 0 0 0),              -- a guard (R272)
    .sadd hd { sr 1 2 3 with rz := 1 },                              -- a field that must be zero (R274)
    .sadd hd { sr 1 2 3 with ma := 0x18 },                           -- a source width that differs (R67)
    .sadd hd { sr8 1 2 3 with md := 0x29 },                          -- a destination swizzle (R67)
    .smov hd (sr 1 2 3),                                             -- a second source (R341)
    .scmp hd { sr8 1 2 3 with md := 0x20, ma := 0x20, mb := 0x20 },  -- a selected lane (R344)
    .brc hd (bo 6 0 1 0),                                            -- no such condition (R300)
    .loop hd (bo 6 0 1 0), .loop hd (bo 1 0 1 0),                    -- no such source; a rotating immediate (R322)
    .region hd (yo 0 63 0 2),                                        -- a mask past s63 (R336)
    .ld hd (mo 1 2 6 0), .ld hd (mo 3 2 3 0),                        -- a vector size; an odd pair (R279)
    .st hd (mo 1 2 4 0),                                             -- a sign-extending store (R346)
    .ldm hd (mo 255 2 6 0x01000),                                    -- past v255 (R321)
    .amo hd (mo 1 2 2 0x90000), .cas hd (mo 1 2 2 0),                -- no such operation; an odd pair (R297)
    .fence hd (mo 0 0 0 0),                                          -- no kind (R308)
    .kld hd (ko 1 1 2 3), .kput hd (ko 0 1 2 5),                     -- a base; a sign-extending store (R315, R316)
    .hopen hd (ko 8 0 2 0),                                          -- no such handle (R312)
    .vadd hd (vr 1 2 3 10), .vshl hd (vr 1 2 3 9),                   -- no such type; a float shift (R279, R360)
    .vadd hd { vr 1 2 3 7 with rm := 1 },                            -- a rounding mode of an integer (R358)
    .vaddVs hd { vs 1 2 3 7 with imm := 1 },                         -- a scalar and an immediate (R283)
    .vcvt hd { vr 1 2 0 9 with vc := 0 },                            -- widths that differ by eight times (R362)
    .vwmul hd (vr 1 2 3 7), .vhist hd (vr 1 2 3 6),                  -- an odd pair; a type (R363, R371)
    .mma hd (eo 1 2 3 4 0 0x400), .mzero hd (eo 0 0 1 2 0 1),        -- reserved bits (R326, R329)
    .estat hd (eo 0 0 1 0 0 8), .radv hd (eo 1 0 0 0 0 0x100),       -- no such record; a tag without a push (R306, R335)
    .xroute hd (xo 1 2 3 4 0 0), .xqry hd (xo 0 0 0 1 3 0)].all (fun i => !i.wf) = true := by decide

/-! ### Words of the manual's encodings -/

/-- The words that the manual writes out for its own examples. -/
theorem test_decode_manual :
    decodeWord 0x010000E28D453400#64 = .ok (.sadd { hd with last := false } { sr 7 5 6 with ma := 0x28, mb := 0x29, md := 0x28 }) ∧
    decodeWord 0x810021228CC30C00#64 = .ok (.sdiv hd { sr 9 5 6 with ma := 0x18, mb := 0x18, md := 0x18 }) ∧
    decodeWord 0x8500000500000007#64 = .ok (.region hd (yo 0 10 0 7)) ∧
    decodeWord 0x84002C4000000005#64 = .ok (.loop hd (bo 4 1 0 5)) ∧
    decodeWord 0x80001000019802C9#64 = .ok (.sysw hd (yo 0 0 0x033 0x2C9)) ∧
    decodeWord 0x8C00018060C00000#64 = .ok (.kld hd (ko 3 0 12 3)) ∧
    decodeWord 0x8B00104184000000#64 = .ok (.rel hd { mo 8 12 0 0 with sc := 2 }) ∧
    decodeWord 0x8B00086184000000#64 = .ok (.acq hd { mo 12 12 0 0 with sc := 2 }) ∧
    decodeWord 0x9000184008101CA0#64 = .ok (.vfma hd { vr 8 1 2 9 with vc := 3, rm := 1 }) ∧
    decodeWord 0x9100014140EC0000#64 = .ok (.vaddVs hd (vs 40 40 7 6)) ∧
    decodeWord 0x9C00005010212000#64 = .ok (.xroute hd (xo 10 2 4 9 0 0)) := by decide

/-- A word of one instruction of every other family, its fields at their places (R273 to R278, R282). -/
theorem test_decode_families :
    decodeWord (BitVec.ofNat 64 (2 ^ 63 + 0x00 * 2 ^ 56 + 3 * 2 ^ 43 + 0x7FFFF)) = .ok (.trap hd (yo 0 0 0 0x7FFFF)) ∧
    decodeWord (BitVec.ofNat 64 (2 ^ 63 + 0x02 * 2 ^ 56 + 0x10 * 2 ^ 43 + 1 * 2 ^ 37 + 2 * 2 ^ 31 + 0x8000)) =
      .ok (.slui hd (si 1 2 0x8000)) ∧
    decodeWord (BitVec.ofNat 64 (0x03 * 2 ^ 56 + 5 * 2 ^ 52 + 2 ^ 51 + 1 * 2 ^ 43 + 1 * 2 ^ 37 + 2 * 2 ^ 31 + 3 * 2 ^ 25)) =
      .ok (.plog { last := false, pg := 5, pn := true } (sr 1 2 3)) ∧
    decodeWord (BitVec.ofNat 64 (2 ^ 63 + 0x05 * 2 ^ 56 + 6 * 2 ^ 43 + 1 * 2 ^ 37 + 2 * 2 ^ 31 + 7)) = .ok (.tkw hd (yo 1 2 0 7)) ∧
    decodeWord (BitVec.ofNat 64 (2 ^ 63 + 0x08 * 2 ^ 56 + 2 * 2 ^ 43 + 9 * 2 ^ 35 + 4 * 2 ^ 29 + 6 * 2 ^ 22 + 1 * 2 ^ 20 + 0x02FFF)) =
      .ok (.ldm hd { mo 9 4 6 0x02FFF with ch := 1 }) ∧
    decodeWord (BitVec.ofNat 64 (2 ^ 63 + 0x09 * 2 ^ 56 + 0 * 2 ^ 43 + 9 * 2 ^ 35 + 4 * 2 ^ 29 + 1 * 2 ^ 27 + 3 * 2 ^ 25 + 2 * 2 ^ 22 + 0xFFFFF)) =
      .ok (.st hd { mo 9 4 2 0xFFFFF with ord := 1, sc := 3 }) ∧
    decodeWord (BitVec.ofNat 64 (2 ^ 63 + 0x0A * 2 ^ 56 + 0 * 2 ^ 43 + 9 * 2 ^ 35 + 4 * 2 ^ 29 + 2 * 2 ^ 22 + 8 * 2 ^ 16)) =
      .ok (.amo hd (mo 9 4 2 0x80000)) ∧
    decodeWord (BitVec.ofNat 64 (2 ^ 63 + 0x0D * 2 ^ 56 + 2 * 2 ^ 43 + 7 * 2 ^ 39 + 9 * 2 ^ 27 + 2 * 2 ^ 25 + 2 * 2 ^ 22 + 0x3FFFFC)) =
      .ok (.hld hd { ko 7 0 9 2 with ord := 2, off := 0x3FFFFC }) ∧
    decodeWord (BitVec.ofNat 64 (2 ^ 63 + 0x12 * 2 ^ 56 + 2 * 2 ^ 43 + 8 * 2 ^ 35 + 1 * 2 ^ 27 + 8 * 2 ^ 7)) = .ok (.vrcp hd (vr 8 1 0 8)) ∧
    decodeWord (BitVec.ofNat 64 (2 ^ 63 + 0x13 * 2 ^ 56 + 4 * 2 ^ 43 + 8 * 2 ^ 35 + 1 * 2 ^ 27 + 2 * 2 ^ 19 + 7 * 2 ^ 7)) =
      .ok (.vrng hd (vr 8 1 2 7)) ∧
    decodeWord (BitVec.ofNat 64 (2 ^ 63 + 0x18 * 2 ^ 56 + 2 * 2 ^ 43 + 6 * 2 ^ 39 + 5 * 2 ^ 35 + 6 * 2 ^ 31 + 1 * 2 ^ 25 + 2 * 2 ^ 19 + 3 * 2 ^ 13 +
      0x100)) = .ok (.mma hd { eo 5 6 1 2 3 0x100 with tok := 6 }) ∧
    decodeWord (BitVec.ofNat 64 (2 ^ 63 + 0x19 * 2 ^ 56 + 4 * 2 ^ 43 + 1 * 2 ^ 25 + 3)) = .ok (.epop hd (eo 0 0 1 0 0 3)) ∧
    decodeWord (BitVec.ofNat 64 (2 ^ 63 + 0x1A * 2 ^ 56 + 1 * 2 ^ 43 + 8 * 2 ^ 39 + 1 * 2 ^ 25 + 1)) =
      .ok (.hacc hd { eo 0 0 1 0 0 1 with tok := 8 }) := by decide

/-- The host's reading of a row's bits is the decoder's. -/
theorem test_decode_table_word : decodeTableWord 64 0x8500000500000007 = some (.region hd (yo 0 10 0 7)) ∧
    decodeTableWord 64 0x9B00000000000000 = none := by decide

/-! ### Encoding, and what holds of every word -/

theorem wit_DecodeEncode : [Instr.nop hd (yo 0 0 0 0), .sadd hdOff (sr 63 63 63), .saddSi hd (si 1 2 0x7FFFFFFF), .ld hd (mo 63 63 2 0xFFFFF),
    .kget hd { ko 0 15 63 2 with off := 0x3FFFFF }, .vadd hd (vr 255 255 255 9), .vaddVs hd { vs 255 255 0 7 with imm := 0x3FFF },
    .br hd (bo 0 0 0 0xFFFFFFFF), .epop hd (eo 0 0 63 0 0 3), .xroute hd (xo 254 255 255 63 0 0)].all
      (fun i => i.wf && (encode i).isSome) = true := by decide

theorem wit_EncodeDecode : (decodeWord 0x8500000500000007#64).isOk = true := by decide

theorem wit_ReservedMajors : slotOf 0x1D00000000000000#64 = none ∧ slotOf 0x7F00000000000000#64 = none ∧
    (0x9B00000000000000#64).extractLsb' 56 7 = 0x1B#7 := by decide

theorem wit_ChecksPrecedeTheGuard : let i := Instr.nop hdOff (yo 0 0 0 1)
    i.isEvent = false ∧ precheck i st0.cur = some (stopTrap 0x01 1) := by decide +kernel

theorem wit_FalseGuardDoesNothing : let i := Instr.sadd hdOff (sr 1 2 3)
    i.isEvent = false ∧ isVector i = false ∧ precheck i st0.cur = none ∧ interlocked i st0.cur st0.iss.fresh = false ∧
    st0.cur.enabled i.hdr = false := by decide +kernel

/-- An interlocked result to s2 is outstanding. -/
def stLock : State := withBank { bank0 with pipe := { Pipe.reset with locks := [{ id := 0, ws := oneS 2 7, af := 0, ready := true }] } }

theorem wit_InterlockHoldsUp : let i := Instr.sadd hd (sr 1 2 3)
    i.isEvent = false ∧ precheck i stLock.cur = none ∧ interlocked i stLock.cur stLock.iss.fresh = true := by decide +kernel

theorem wit_IllegalInstructionTraps : let i := Instr.nop hd (yo 0 0 0 1)
    i.isEvent = false ∧ i.wf = false ∧ st0.cur.tr.mode = false ∧ lateChecked i = none := by decide +kernel

/-- A reserved format in operand bank 0, which an MMAS with a group of A meets before that field (R325). -/
def stReserved : State := withBank { bank0 with
  regs := { Regs.reset with s := [(4, 1), (5, 1), (6, 0x60000)] }, sys := { bank0.sys with bfmt := [(0, 7)] }
  n := [(1, { Ring.reset with ssz := 64, cnt := 2 }), (2, { Ring.reset with base := 0x1000, ssz := 64, cnt := 1 })] }
theorem test_reserved_format :
    (Instr.mmas hd (eo 1 2 0 6 4 0x40)).wf = false ∧ (bfOf (stReserved.cur.bfmt 0)).reserved = true ∧
    (oneStep (.mmas hd (eo 1 2 0 6 4 0x40)) stReserved).cur.tr.eval = 0 ∧
    (oneStep (.mmas hd (eo 1 2 0 6 4 0x40)) st0).cur.tr.eval = (wordOf (.mmas hd (eo 1 2 0 6 4 0x40))).extractLsb' 0 32 := by decide +kernel

theorem wit_PrivilegeChecks : (∀ i ∈ [Instr.rte hd (yo 0 0 0 0), .halt hd (yo 0 0 0 0)],
      i.wf = true ∧ regsExist i st0.cur = true ∧ st0.cur.tr.mode = false) ∧
    (∀ i ∈ [Instr.bara hd (mo 0 1 0 0), .barw hd (mo 0 1 0 0), .dsync hd (mo 0 0 0 0), .region hd (yo 0 1 0 1), .slice hd (yo 0 0 0 1),
      .tyield hd (yo 0 0 0 0), .xroute hd (xo 4 1 2 1 0 0), .xclose hd (xo 0 0 0 1 0 0), .xcloseFinal hd (xo 0 0 0 1 0 1),
      .xfetch hd (xo 0 0 0 1 4 0), .xpin hd (xo 0 0 0 1 4 0), .xunpin hd (xo 0 0 0 1 4 0), .xpred hd (xo 4 0 0 1 2 15),
      .xqry hd (xo 0 0 0 1 4 0), .xsnap hd (xo 0 0 0 1 2 0), .xrepl hd (xo 0 0 0 1 4 0)],
      i.wf = true ∧ regsExist i stM.cur = true ∧ stM.cur.tr.mode = true) := by decide +kernel

/-- System registers at the ends of each range of R80's modes, in both modes. -/
theorem wit_PrivilegeChecks_system : (∀ n ∈ [0, 1, 4, 0x010, 0x05D], ∀ b ∈ [st0.cur, stM.cur], let i := Instr.sysr hd (yo 1 0 (BitVec.ofNat 12 n) 0)
      i.wf = true ∧ regsExist i b = true) ∧
    (∀ n ∈ [0, 4, 0x010, 0x015, 0x016, 0x01A, 0x01B, 0x01C, 0x020, 0x022, 0x024, 0x026, 0x030], ∀ b ∈ [st0.cur, stM.cur],
      let i := Instr.sysw hd (yo 0 1 (BitVec.ofNat 12 n) 0)
      i.wf = true ∧ regsExist i b = true) := by decide +kernel

theorem wit_DoubleFault : let i := Instr.nop hd (yo 0 0 0 1)
    i.isEvent = false ∧ i.wf = false ∧ stM.cur.tr.mode = true ∧ Runs (.trap hd (yo 0 0 0 5)) stM ∧ illegalStop i ≠ .stall := by
  unfold Runs; decide +kernel

/-! ### Scalar words -/

theorem wit_ScalarRegisterForms : ∀ i ∈ [Instr.sadd, .ssub, .smul, .smulh, .sand, .sor, .sxor, .sshl, .sshr, .ssra, .smin, .smax, .ssel],
    Runs (i hd (sr 1 2 3)) st0 ∧ Runs (i hd (sr8 63 62 61)) st0 ∧ Runs (i hd (sr 0 0 0)) st0 := by unfold Runs; decide +kernel

theorem wit_ScalarRegisterForms_SMOV : Runs (.smov hd (sr 1 2 0)) st0 ∧ Runs (.smov hd (sr 0 63 0)) st0 := by unfold Runs; decide +kernel

theorem wit_ScalarFieldForms : ∀ i ∈ [Instr.slea hd (sr 1 2 3), .sext hd (sr 1 2 3), .sins hd (sr 63 62 61), .sclz hd (sr 1 2 0),
    .spop hd { sr 1 2 0 with ma := 0x28, md := 0x28 }], Runs i st0 := by unfold Runs; decide +kernel

theorem wit_ScalarImmediateForms : (∀ i ∈ [Instr.saddSi, .ssubSi, .smulSi, .smulhSi, .sandSi, .sorSi, .sxorSi, .sshlSi, .sshrSi, .ssraSi,
      .sminSi, .smaxSi, .sselSi, .sleaSi, .sextSi, .sinsSi], Runs (i hd (si 1 2 0x7FFFFFFF)) st0 ∧ Runs (i hd (si 0 0 0)) st0) ∧
    Runs (.smovSi hd (si 1 0 0x40000000)) st0 ∧ Runs (.slui hd (si 1 2 0xFFFF)) st0 := by unfold Runs; decide +kernel

theorem wit_ScalarDivision : (∀ i ∈ [Instr.sdiv, .srem], Runs (i hd (sr 1 2 3)) st0 ∧ Runs (i hd (sr8 1 2 3)) st0) ∧
    (∀ i ∈ [Instr.sdivSi, .sremSi], Runs (i hd (si 1 2 0)) st0 ∧ Runs (i hd (si 1 2 0x7FFFFFFF)) st0) := by unfold Runs; decide +kernel

theorem wit_PredicateWords : Runs (.scmp hd (sr 1 2 3)) st0 ∧ Runs (.scmp hd { sr8 0x31 2 3 with md := 0x28 }) st0 ∧
    Runs (.plog hd (sr 0x3F 0x3F 15)) st0 := by unfold Runs; decide +kernel

theorem wit_PredicateWords_rest : (lanesOfSize (modSize 0x20) ≠ 1 ∧ modSw 0x20 = false) ∧ (lanesOfSize (modSize 0x29) ≠ 1 ∧ modIx 0x29 ≠ 0) ∧
    (0x10 : BitVec 6).extractLsb' 4 2 ≠ 0 ∧
    (∀ i ∈ [Instr.scmp hdOff (sr 1 2 3), .plog hdOff (sr 1 2 3)], precheck i st0.cur = none ∧ interlocked i st0.cur st0.iss.fresh = false) ∧
    st0.cur.enabled hdOff = false := by decide +kernel

/-- The packed sum of the manual's R66 note: 0x04030201 + 0x10203040 with the lanes of b reversed is 0x44332211. -/
theorem test_sadd_packed : ((match exec (.sadd hd { sr 7 5 6 with ma := 0x28, mb := 0x29, md := 0x28 })
      (withS [(5, 0x04030201), (6, 0x10203040)]) with
    | .next t => t.cur.pipe.inflight.map (fun x => (x.w, x.due))
    | _ => [])) = [(.s 7 0x44332211 0xFFFFFFFF, 1)] := by decide +kernel

/-! ### Vector words -/

theorem wit_VectorRegisterForms : (∀ i ∈ [Instr.vadd, .vsub, .vmul, .vmin, .vmax, .vand, .vor, .vxor], Runs (i hd (vr 255 1 2 9)) st0 ∧
      Runs (i hd (vr 0 1 2 0)) st0) ∧
    (∀ i ∈ [Instr.vshl, .vshr], Runs (i hd (vr 255 1 2 7)) st0) ∧ Runs (.vfma hd { vr 1 1 2 8 with vc := 255 }) st0 ∧
    Runs (.vdot4 hd { vr 1 1 2 2 with vc := 3, sat := true }) st0 := by unfold Runs; decide +kernel

theorem wit_VectorBroadcastForms : (∀ i ∈ [Instr.vaddVs, .vsubVs, .vmulVs, .vfmaVs, .vminVs, .vmaxVs, .vandVs, .vorVs, .vxorVs],
      Runs (i hd (vs 255 1 63 9)) st0) ∧
    (∀ i ∈ [Instr.vshlVs, .vshrVs], Runs (i hd { vs 255 1 0 7 with imm := 0x3FFF }) st0) ∧ Runs (.vmovVs hd (vs 1 0 2 6)) st0 ∧
    Runs (.vdot4Vs hd (vs 1 1 2 3)) st0 := by unfold Runs; decide +kernel

theorem wit_VectorSingleForms : (∀ i ∈ [Instr.vexp2, .vlog2, .vrcp, .vrsq, .vtanh], Runs (i hd (vr 255 1 0 8)) st0 ∧ Runs (i hd (vr 255 1 0 9)) st0) ∧
    Runs (.vabs hd { vr 255 1 0 6 with sat := true }) st0 ∧ Runs (.vmov hd (vr 255 1 0 0)) st0 ∧ Runs (.vsel hd { vr 1 2 3 4 with vc := 15 }) st0 ∧
    Runs (.vperm hd { vr 1 2 4 2 with vc := 7 }) st0 ∧ Runs (.vrng hd (vr 1 2 3 7)) st0 := by unfold Runs; decide +kernel

theorem wit_IntegerElements : 0 < 1 ∧ 0 < 32 := by decide

theorem wit_VectorCompareAndSelect : Runs (.vcmp hd (vr 1 2 3 9)) st0 ∧ Runs (.vcmpVs hd (vs 15 2 3 9)) st0 ∧ Runs (.vselVs hd (vs 255 2 3 9)) st0 ∧
    Runs (.vcmp hd (vr 0 2 3 9)) st0 ∧ Runs (.vcmpVs hd (vs 0 2 3 9)) st0 ∧
    ((0 : BitVec 8).extractLsb' 0 4).toNat = 0 ∧ ((1 : BitVec 8).extractLsb' 0 4).toNat ≠ 0 := by unfold Runs; decide +kernel

theorem wit_VectorGroupForms : (∀ i ∈ [Instr.vwmul, .vwadd], Runs (i hd (vr 254 1 2 8)) st0) ∧ (∀ i ∈ [Instr.vwmulVs, .vwaddVs],
      Runs (i hd (vs 254 1 2 0)) st0) ∧ Runs (.vcvt hd { vr 252 1 0 9 with vc := 2 }) st0 ∧ Runs (.vcvt hd { vr 1 252 0 2 with vc := 9, sat := false }) st0 ∧
    Runs (.vcomp hd (vr 254 1 0 7)) st0 := by unfold Runs; decide +kernel

/-- Lane 0 of v1 names bin 0, whose count in v1 is full; the other lanes name bin 5. -/
def stHist : State := withBank { bank0 with regs := { Regs.reset with v := [(1, vPack 32 (0 :: List.replicate 127 5)), (2, vPack 32 [0xFFFFFFFF])] } }

/-- The extremes of a guard that is 0 everywhere and of one that is not; a histogram with a full lane and one without. -/
theorem wit_VectorReductions : (∀ i ∈ [Instr.vrsum, .vrmax, .vrmin], Runs (i hd (vr 255 1 0 9)) st0) ∧
    (∀ i ∈ [Instr.vmaxi, .vmini], Runs (i hd (vr 254 1 0 7)) st0 ∧ Runs (i hdOff (vr 254 1 0 7)) st0) ∧
    (∀ k, k < elemCount (etyOf 7).width → (st0.cur.guard hdOff).getLsbD k = false) ∧ Runs (.vscan hd { vr 1 2 0 7 with vc := 2 }) st0 ∧
    (0 < elemCount (etyOf 7).width ∧ (st0.cur.guard hd).getLsbD 0 = true) ∧
    Runs (.vhist hd (vr 1 2 3 7)) st0 ∧ Runs (.vhmerge hd (vr 1 2 3 7)) st0 ∧ 3 ≤ (3 : BitVec 8).toNat := by unfold Runs; decide +kernel

theorem wit_VectorReductions_full : let o := { vr 2 1 3 7 with sat := true }
    Runs (.vhist hd o) stHist ∧ o.sat = true ∧ (stHist.cur.guard hd).getLsbD 0 = true ∧ vElem (stHist.cur.vreg 1) 32 0 = 0 ∧ 0 < histBins o ∧
    vElem (stHist.cur.vreg 2) 32 0 = 0xFFFFFFFF := by unfold Runs; decide +kernel

/-- The greatest element's value and its lowest index: u32 elements 3, 9, 9 and zeros (R368). -/
theorem test_vmaxi : let s := withBank { bank0 with regs := { Regs.reset with v := [(1, vPack 32 [3, 9, 9])] } }
    (match exec (.vmaxi hd (vr 254 1 0 7)) s with
      | .next t => t.cur.pipe.locks.map fun l => l.ws.map fun w => match w with
        | .v r v _ => (r, vElem v 32 0)
        | _ => (0, 0)
      | _ => []) = [[(s.cur.physV 254, 9), (s.cur.physV 255, 1)]] := by decide +kernel

/-! ### Control -/

theorem wit_BranchTargets : (∀ i ∈ [Instr.br hd (bo 0 0 0 0xFFFFFFFF), .call hd (bo 0 0 0 5), .callIndirect hd (bo 1 0 2 0), .bri hd (bo 0 0 2 0),
      .ret hd (bo 0 0 63 0)], Runs i st0) ∧
    (∀ bf ∈ [0, 1, 2, 3, 4, 5], ∀ v ∈ [0, 1, 0xFFFFFFFF], Runs (.brc hd (bo (BitVec.ofNat 3 bf) 0 1 0)) (withS [(1, BitVec.ofNat 32 v)])) ∧
    codeRange (st0.bank cA) 0x800000000 = false ∧ (st0.bank cA).tr.mode = false ∧ (6 : BitVec 3).extractLsb' 1 2 ≠ 0 := by
  unfold Runs; decide +kernel

/-- The device about to fetch a NOP, at the bundle of that address. -/
def stCode : State := let s := st0.withFetchWord 64 0; { s with iss := { s.iss with pc := 0x10000, fall := 0x10008 } }

/-- The count, D - 1 and nothing else of what LOOP reads. -/
def countOf (o : BOps) (s : State) : Option (Nat × Nat) := match loopCount o s with
  | .ok x => some x.2
  | .error _ => none
/-- Stream q2 holds two elements. -/
def stStream (l : List Word) : State := withBank { bank0 with q := [(2, .copy false 0 l [] 0)] }

theorem wit_LoopSetup : (∀ n ∈ [0, 1, 63], Runs (.loop hd (bo 0 3 (BitVec.ofNat 6 n) 0)) stCode ∧ countOf (bo 0 3 (BitVec.ofNat 6 n) 0) stCode = some (n, 0)) ∧
    (fetchBundle stCode stCode.iss.ctx (stCode.iss.pc + (0 : BitVec 32).signExtend 48 * 8) 4).isOk = true ∧
    (Runs (.loop hd (bo 2 3 1 0)) (withS [(1, 0xFFFFFFFF)]) ∧ countOf (bo 2 3 1 0) (withS [(1, 0xFFFFFFFF)]) = some (0xFFFFFFFF, 0)) ∧
    (Runs (.loop hd (bo 3 3 1 0)) (withS [(1, 0x40000002)]) ∧ countOf (bo 3 3 1 0) (withS [(1, 0x40000002)]) = some (2, 2)) ∧
    (∀ l ∈ [([5, 7], 2), ([7, 7], 0), ([7, 5], 0)], Runs (.loop hd (bo 4 3 2 0)) (stStream l.1) ∧
      countOf (bo 4 3 2 0) (stStream l.1) = some (l.2, 0)) := by
  unfold Runs; decide +kernel

/-- Loop 1 is active from 0x100 to 0x200, and loop 2 within it. -/
def stNest (on : Bool) : State :=
  withBank { bank0 with loops := { Loops.reset with
    l1 := { ls := 0x100, le := 0x200, lc := 5, active := on }, l2 := { ls := 0x101, le := 0x1F8, lc := 6, active := true } } }

theorem wit_LoopSetup_exit : (∀ on, Runs (.loopx hd (bo 0 1 0 0xFFFFFFFF)) (stNest on)) ∧
    precheck (.loopx hdOff (bo 0 0 0 0)) st0.cur = none ∧ interlocked (.loopx hdOff (bo 0 0 0 0)) st0.cur st0.iss.fresh = false ∧
    st0.cur.enabled hdOff = false ∧ (st0.take 8).iss.target ≠ none := by
  unfold Runs; decide +kernel

/-- The nested loop ends with the outer one, its count kept; alone, an inactive loop ends nothing (R324). -/
theorem test_loopx : let l (on : Bool) := (oneStep (.loopx hd (bo 0 1 0 0)) (stNest on)).cur.loops
    ((l true).l1.active, (l true).l2.active, (l true).l2.lc, (l false).l2.active) = (false, false, 6, true) := by decide +kernel

theorem wit_LoopCloses : ∀ lc ∈ [1, 2], ∀ r ∈ [0, 1], let x : LoopReg := { ls := 0x100 + r, le := 0x202, lc := lc, active := true }
    let b := { bank0 with loops := { bank0.loops with l3 := x } }
    3 < 4 ∧ (b.loops.get 3).ls.getLsbD 0 = (r == 1) ∧ (b.loops.get 3).lc = lc ∧ b.rf = 8 := by
  intro lc h r h2; simp only [List.mem_cons, List.not_mem_nil, or_false] at h h2
  rcases h with rfl | rfl <;> rcases h2 with rfl | rfl <;> decide +kernel

/-- The manual's example of a .rot loop (R323): c = 2 and D = 3 run four iterations, p8 being 1, 1, 0, 0. -/
theorem test_rot_example :
    let b0 := { bank0 with loops := { bank0.loops with l0 := { ls := 0x101, le := 0x202, lc := 4, active := true } }
                           regs := { Regs.reset with p := [(8, allOnesP)] } }
    let p8 (b : Bank) : Bool := (b.preg 8).getLsbD 0
    let b1 := (closeOne b0 0).1
    let b2 := (closeOne b1 0).1
    let b3 := (closeOne b2 0).1
    let b4 := (closeOne b3 0).1
    [p8 b0, p8 b1, p8 b2, p8 b3] = [true, true, false, false] ∧ [(b1.preg 9).getLsbD 0, (b2.preg 10).getLsbD 0] = [true, true] ∧
      b4.loops.l0.lc = 0 ∧ b4.loops.l0.active = false := by decide +kernel

/-! ### System words -/

theorem wit_SystemRegisterWords : (∀ i ∈ [Instr.nop hd (yo 0 0 0 0), .sysr hd (yo 1 0 0x03F 0), .sysw hd (yo 0 1 0x03F 0x7FFFF)], Runs i st0) ∧
    Runs (.sysw hd (yo 0 1 0 1)) stM := by unfold Runs; decide +kernel

theorem wit_SystemRegisterReadBack : 15 < 16 ∧ 3 < 4 ∧ 5 < 6 := by decide

theorem wit_TrapEnters : Runs (.trap hd (yo 0 0 0 0x7FFFF)) st0 ∧ st0.cur.tr.mode = false := by unfold Runs; decide +kernel

/-- Monitor code whose node is to be discarded; the node's other member is in task mode, or in monitor mode too. -/
def stDiscard (other : Bool) : State :=
  { stM with
    banks := [(0, { bankM with discard := true }), (2, if other then bankM else bank0)]
    sched := { Sched.reset with nodes := [(0, { Node.reset with st := .running, members := [cA, { core := 1, bank := 0 }] })] } }

theorem wit_RteReturns : (Runs (.rte hd (yo 0 0 0 0)) stM ∧ stM.cur.discard = false) ∧
    (∀ x, Runs (.rte hd (yo 0 0 0 0)) (stDiscard x) ∧ (stDiscard x).cur.discard = true ∧ (stDiscard x).cur.phase ≠ .free ∧
      inMonitor (trapReturn cA (stDiscard x)) (stDiscard x).cur.th.node = x) := by unfold Runs; decide +kernel

theorem wit_TrapThenReturn : (st0.bank cA).tr.mode = false := by decide +kernel

/-- A command waits in the data FIFO. -/
def aCmd (k : CmdKind) : Cmd :=
  { id := 0, kind := k, tok := 0, ra := 0, rb := 0, x := 0, y := 0, z := 0, z1 := 0, imm := 0, ty := 0, rm := 0, sat := false, fmts := [],
    desc := 0, split := none, mon := false }
def engDe (k : CmdKind) : Engines := { Engines.reset with de := { Fifo.reset with q := [aCmd k], unpopped := 1 } }
def stCmd : State := withBank { bank0 with eng := engDe .hacc }

theorem wit_SignalHaltIdle : Runs (.evsig hd (yo 0 1 0 0x7FFFF)) st0 ∧ Runs (.halt hd (yo 0 0 0 0)) stM ∧
    ((Instr.halt hd (yo 0 0 0 0)).wf = true ∧ st0.cur.tr.mode = false) ∧
    (Runs (.idle hd (yo 1 0 0 0)) st0 ∧ st0.cur.eng.faults = [] ∧ st0.cur.eng.idle = true ∧
      (st0.core st0.iss.ctx.core).freeze = 0) ∧
    (let s := withBank { bank0 with eng := { engDe .hacc with faults := [{ fifo := .de, code := 0x0A, eval := 0, vah := 0, cf := false }] } }
     Runs (.idle hd (yo 1 0 0 0)) s ∧ s.cur.eng.faults ≠ [] ∧ (s.core s.iss.ctx.core).freeze = 0) ∧
    (Runs (.idle hd (yo 1 0 0 5)) stCmd ∧ stCmd.cur.eng.faults = [] ∧ stCmd.cur.eng.idle = false) := by unfold Runs; decide +kernel

/-- TVEC is 0x4000, and the following bundle is at 0x108. -/
def stTvec : State := { withBank { bank0 with tr := { bank0.tr with tvec := 0x4000 } } with iss := { Iss.reset with fall := 0x108 } }

/-- A trap in task mode: its code, its EVAL, its saved address and the handler's (R232, R355). -/
theorem test_trap : (match exec (.trap hd (yo 0 0 0 5)) stTvec with
    | .next t => (t.cur.tr.mode, t.cur.tr.epc, t.cur.tr.ecause, t.cur.tr.eval, t.cur.th.pc)
    | _ => (false, 0, 0, 0, 0)) = (true, 0x21, 0x10, 5, 0x4000) := by decide +kernel

/-! ### Threads, regions and domains -/

/-- HELPD 0 turns the helper off. -/
def stNoHelp : State := withBank { bank0 with sys := { bank0.sys with helpd := 0 } }

/-- A result to s63 that does not exist yet. -/
def stPending : State := withBank { bank0 with pipe := { Pipe.reset with locks := [{ id := 0, ws := oneS 63 7, af := 0, ready := false }] } }
/-- A thread of a wider domain. -/
def stWide : State := withBank { bank0 with sys := { bank0.sys with level := 1 } }
/-- The helper of bank A or of bank B runs. -/
def stHelper (k : Fin 2) : State := { st0 with cores := [(0, { core0 with helper := { Helper.reset with on := true, owner := k } })] }

theorem wit_RegionAndSlice : (Runs (.region hd (yo 0 63 0 1)) stPending ∧
      ((locksOn stPending.cur (maskRegs 63 1)).any fun k => !k.ready) = true) ∧
    (∀ s ∈ [st0, st0.take 8, stWide, stHelper 0], Runs (.region hd (yo 0 63 0 1)) s ∧ Runs (.region hd (yo 0 0 0 0)) s ∧
      s.cur.pipe.locks = [] ∧ (s.member cA).slots = []) ∧
    (st0.cur.sys.level = 0 ∧ stWide.cur.sys.level ≠ 0 ∧ st0.iss.target = none ∧ (st0.take 8).iss.target = some 8) ∧
    (∀ s ∈ [st0, stHelper 0], Runs (.slice hd (yo 0 0 0 1)) s ∧ s.cur.sys.helpd.extractLsb' 0 8 ≠ 0 ∧
      ((s.core 0).helper.on = false ∨ (s.core 0).helper.owner = cA.bank) ∧
      codeRange s.cur (s.iss.pc + (1 : BitVec 19).signExtend 48 * 8) = true) ∧
    (Runs (.slice hd (yo 0 0 0 1)) stNoHelp ∧ stNoHelp.cur.sys.helpd.extractLsb' 0 8 = 0) ∧
    (Runs (.slice hd (yo 0 0 0 1)) (stHelper 1) ∧ ((stHelper 1).core 0).helper.on = true ∧ ((stHelper 1).core 0).helper.owner ≠ cA.bank) ∧
    (Runs (.slice hd (yo 0 0 0 0x7FFFF)) st0 ∧ codeRange st0.cur (st0.iss.pc + (0x7FFFF : BitVec 19).signExtend 48 * 8) = false) := by
  unfold Runs; decide +kernel

/-- The window's first address in s1 (its high bits are the sign's). -/
def stWin : State := withS [(1, 0xFFE00000), (3, 0xFFE03FFC)]
/-- Monitor mode with one ordinary region of 2 MiB at 0 and an address in s2 (and a count in s3). -/
def stMem (n : Nat) : State :=
  { withBank { bankM with regs := { Regs.reset with s := [(2, 0x1000), (3, BitVec.ofNat 32 n)] } } with mem := { MemBlk.reset with rmap := [(0, fetchRegion)] } }

/-- A descriptor at the window's first address, for queue 0, open or not: slot 0 of no range, or the slot 0xFFFF that the device gives. -/
def stSubmit (d : Nat) (en : Bool) : State :=
  { withBank { bank0 with regs := { Regs.reset with s := [(1, 0xFFE00000)] }, scr := memSetBytes [] 0 (natLe 64 d) } with
    sched := { Sched.reset with queues := [(0, { Queue.reset with en := en })] } }
def dynDesc : Nat := 0xFFFF * 2 ^ 112
def ackOf (d : Nat) (en : Bool) : Nat := match readDesc (stSubmit d en) windowBase 64 with
  | .ok (s1, d) => (match (acceptDesc (wbAll s1 0 2) 0 (BitVec.ofNat 512 d)).2 with
    | .handle _ => 1
    | .rejected _ => 2
    | .dropped => 3)
  | .error _ => 0

theorem wit_SubmitLaunchWait_submit :
    (∀ d ∈ [0, dynDesc], ∀ en, Runs (.tnode hd (yo 1 1 0 0)) (stSubmit d en) ∧
      descVa (stSubmit d en).cur ((stSubmit d en).cur.sreg 1) = windowBase ∧ (wbAll (stSubmit d en) 0 2).queueOpen 0 = en) ∧
    (ackOf dynDesc true = 1 ∧ ackOf 0 true = 2 ∧ ackOf 0 false = 3) ∧
    (Runs (.tnode hd (yo 1 1 0 63)) (withS [(1, 0xFFE00020)]) ∧ descVa bank0 0xFFE00020 % 64 ≠ 0) := by unfold Runs; decide +kernel

/-- 64 launches wait. -/
def stLaunches : State := { stMem 1 with sched := { Sched.reset with launch := List.replicate 64 {
  who := none, node := 5, queue := 0, join := 0, lock := 0, pages := [], addr := 0, count := 0, recs := [], batch := none, i := 0, j := 0,
  prev := 0, created := 0 } } }

theorem wit_SubmitLaunchWait :
    (∀ n ∈ [0, 1, 65536], Runs (.tlaunch hd (yo 1 2 0 0)) (stMem n) ∧ ((stMem n).cur.sreg 3).toNat ≤ 65536 ∧
      descVa (stMem n).cur ((stMem n).cur.sreg 2) % 32 = 0 ∧ (stMem n).sched.launch.length < 64) ∧
    (arrayPages (stMem 0) cA (arrayPieces 0x1000 0)).isOk = true ∧ (arrayPages (stMem 1) cA (arrayPieces 0x1000 32)).isOk = true ∧
    (Runs (.tlaunch hd (yo 1 2 0 0)) stLaunches ∧ (arrayPages stLaunches cA (arrayPieces 0x1000 32)).isOk = true ∧
      64 ≤ stLaunches.sched.launch.length) ∧
    (Runs (.tlaunch hd (yo 1 2 0 0)) (stMem 65537) ∧ 65536 < ((stMem 65537).cur.sreg 3).toNat) ∧
    (Runs (.tlaunch hd (yo 1 2 0 0)) (withS [(2, 0x1010), (3, 1)]) ∧ descVa bank0 0x1010 % 32 ≠ 0) ∧
    (Runs (.tlaunch hd (yo 1 2 0 0)) (withS [(2, 0x1000), (3, 1)]) ∧
      (arrayPages (withS [(2, 0x1000), (3, 1)]) cA (arrayPieces (descVa bank0 0x1000) 32)).isOk = false) ∧
    (∀ v ∈ [0, 0x10000], let s := withS [(1, BitVec.ofNat 32 v)]
      Runs (.tkw hd (yo 2 1 0 0)) s ∧ (tkwCode s cA (s.cur.sreg 1) (tkwSince s.cur (s.now 0)).2).isSome = true) := by unfold Runs; decide +kernel

/-- Node 5 in a state, failed or not; the thread's own handle is of node 6. -/
def stNode (x : NodeState) (f : Bool) : State :=
  { withBank { bank0 with sys := { bank0.sys with nodeh := 0x10006 } } with
    sched := { Sched.reset with nodes := [(5, { Node.reset with st := x, failed := f }), (6, { Node.reset with st := .running })] } }

theorem wit_WaitCodes : ((0 : Word) = 0 ∨ ((stNode .ready false).node 0).gen ≠ handleGen 0) ∧
    ((stNode .ready false).node (handleIx 0x20005)).gen ≠ handleGen 0x20005 ∧
    ((0x10006 : Word) ≠ 0 ∧ ((stNode .ready false).node (handleIx 0x10006)).gen = handleGen 0x10006 ∧
      0x10006 = ((stNode .ready false).bank cA).sys.nodeh) ∧
    (∀ x ∈ [(NodeState.done, true), (.done, false), (.free, false), (.ready, false)],
      let s := stNode x.1 x.2
      (0x10005 : Word) ≠ 0 ∧ (s.node (handleIx 0x10005)).gen = handleGen 0x10005 ∧ 0x10005 ≠ (s.bank cA).sys.nodeh ∧
      (s.node (handleIx 0x10005)).st = x.1 ∧ (s.node (handleIx 0x10005)).failed = x.2) := by decide +kernel

theorem wit_SubmitLaunchWait_waits : let b := (stNode .ready false).cur
    let s := { stNode .ready false with banks := [(0, { b with regs := { b.regs with s := [(1, 0x10005)] } })] }
    Runs (.tkw hd (yo 2 1 0 9)) s ∧ tkwCode s cA (s.cur.sreg 1) (tkwSince s.cur (s.now 0)).2 = none := by unfold Runs; decide +kernel

/-- A node of level 0 runs on bank A; another, of its priority, is ready. -/
def stYield : State :=
  { st0 with sched := { Sched.reset with
      nodes := [(0, { Node.reset with st := .running, members := [cA] }), (1, { Node.reset with st := .ready })], pool := [1],
      queues := [(0, { Queue.reset with en := true })] } }
/-- What TEXIT leaves in the bank before it looks for outstanding work, in task mode and in monitor mode. -/
def exitTask (s : State) : State := endHelper s.iss.ctx (s.setCur { s.cur with pipe := { s.cur.pipe with wait := .texit } })
def exitMon (s : State) : State :=
  let s0 := crock (crockThread s s.iss.ctx 3 (s.cur.tr.ecause.toNat % 256) s.cur.tr.eval.toNat) s
  let s1 := exitTask s0
  s1.setCur { s1.cur with eng := cancelStopped s.cur.eng }

theorem wit_ExitAndYield : (∀ s ∈ [st0, stCmd], Runs (.texit hd (yo 0 0 0 0)) s ∧ s.cur.tr.mode = false) ∧
    (quiet (exitTask st0) cA = true ∧ quiet (exitTask stCmd) cA = false) ∧
    (∀ s ∈ [stM, withBank { bankM with eng := engDe .hacc }], Runs (.texit hd (yo 0 0 0 0)) s ∧ s.cur.tr.mode = true) ∧
    (quiet (exitMon stM) cA = true ∧ quiet (exitMon (withBank { bankM with eng := engDe .hacc })) cA = false) ∧
    (Runs (.tyield hd (yo 0 0 0 0)) stWide ∧ stWide.cur.phase = .ready ∧ stWide.cur.sys.level ≠ 0) ∧
    (∀ s ∈ [st0, stYield], Runs (.tyield hd (yo 0 0 0 0)) s ∧ s.cur.sys.level = 0 ∧ quiet s cA = true ∧ s.cur.pipe.locks = []) ∧
    (Runs (.tyield hd (yo 0 0 0 0)) stCmd ∧ stCmd.cur.sys.level = 0 ∧ quiet stCmd cA = false) ∧
    (let m : MemberRec := { MemberRec.reset with maskSa := 63, mask := 1 }
     let s := { stPending with sched := { Sched.reset with nodes := [(0, { Node.reset with st := .running, members := [cA], mrec := [(0, m)] })] } }
     Runs (.tyield hd (yo 0 0 0 0)) s ∧ s.cur.sys.level = 0 ∧ ((locksOn s.cur (maskRegs 63 1)).any fun k => !k.ready) = true ∧
     (s.member cA).maskSa = 63 ∧ (s.member cA).mask = 1) ∧
    yieldTo (boundaryNow (stYield.setCur (landOn stYield.cur []))) cA = true ∧ yieldTo (boundaryNow (st0.setCur (landOn st0.cur []))) cA = false := by
  unfold Runs; decide +kernel

/-- A gang of two on banks A of cores 0 and 1, with barrier 1023 open at core 0, where this thread has arrived. -/
def stGang (bars : Tab Barrier) (m : Word) : State :=
  let b : Bank := { bank0 with sys := { bank0.sys with level := 1, nodeh := 0x10000 } }
  { st0 with
    banks := [(0, b), (2, { b with th := { b.th with rank := 1 } })], cores := [(0, { core0 with bars := bars }), (1, core0)]
    sched := { Sched.reset with nodes := [(0, { Node.reset with st := .running, members := [cA, { core := 1, bank := 0 }], dsync := m })] } }

theorem wit_BarrierWords :
    (∀ i ∈ [Instr.bara, .barw], Runs (i hd (mo 0 0 0 1023)) st0) ∧ barNo st0 (mo 0 0 0 1023) < 1024 ∧
    (barArrive st0 cA (barNo st0 (mo 0 0 0 1023))).isOk = true ∧
    (let s := stGang [(1023, { node := 0x10000, mask := 1 })] 0
     barOf s 0 1023 = some { node := 0x10000, mask := 1 } ∧ (0x10000 : Word) = (s.bank cA).sys.nodeh ∧ (1 : Word).getLsbD 0 = true ∧
     (∀ m ∈ s.members cA, (barOf s m.core 1023).all fun y => y.node == (s.bank cA).sys.nodeh)) ∧
    (∀ i ∈ [Instr.bara, .barw], Runs (i hd { mo 0 1 0 1 with ord := 0 }) (withS [(1, 1023)])) ∧ barNo (withS [(1, 1023)]) (mo 0 1 0 1) = 1024 ∧
    (let s := stGang [(5, { node := 0x10001, mask := 2 })] 0
     barOf s 0 5 = some { node := 0x10001, mask := 2 } ∧ (0x10001 : Word) ≠ (s.bank cA).sys.nodeh ∧ cA ∈ s.members cA) ∧
    (let s := stGang [(5, { node := 0x10000, mask := 1 })] 0
     Runs (.dsync hd (mo 0 0 0 0)) s ∧ atBarrier s cA = true) ∧
    (let s := withBank { bank0 with eng := { Engines.reset with co := { Fifo.reset with q := [{ aCmd .cpy with desc := 3 <<< 216 }] } } }
     Runs (.dsync hd (mo 0 0 0 0)) s ∧ atBarrier s cA = false ∧ peerCopies s.cur.eng = true) ∧
    (Runs (.dsync hd (mo 0 0 0 0)) st0 ∧ atBarrier st0 cA = false ∧ peerCopies st0.cur.eng = false ∧ st0.cur.sys.level = 0) ∧
    (∀ m ∈ [0, 2], let s := stGang [] (BitVec.ofNat 32 m)
     Runs (.dsync hd (mo 0 0 0 0)) s ∧ atBarrier s cA = false ∧ peerCopies s.cur.eng = false ∧ s.cur.sys.level ≠ 0 ∧
     dsyncFull { s.node 0 with dsync := BitVec.ofNat 32 m ||| 1 } = (m == 2)) := by unfold Runs; decide +kernel

/-! ### Memory words -/

theorem wit_MisalignedTraps : (∀ i ∈ [Instr.ld, .st], Runs (i hd (mo 1 0 2 1)) st0 ∧ mVa st0.cur (mo 1 0 2 1) % szAlign 2 ≠ 0) ∧
    (∀ i ∈ [Instr.ldv, .stv], Runs (i hd (mo 1 0 6 1)) st0 ∧ mVa st0.cur (mo 1 0 6 1) % szAlign 6 ≠ 0) ∧
    (∀ i ∈ [Instr.ldm, .stm], let s := withS [(1, 32)]
      Runs (i hd (mo 2 1 6 0x01000)) s ∧ rangeVa s.cur (mo 2 1 6 0x01000) 0 % 64 ≠ 0 ∧ s.cur.tr.mode = false) ∧
    (Runs (.amo hd (mo 1 0 2 2)) st0 ∧ mAddr st0.cur (st0.cur.sreg 0) (((2 : BitVec 20).extractLsb' 0 16).signExtend 32) % szBytes 2 ≠ 0) ∧
    (Runs (.cas hd (mo 4 0 3 4)) st0 ∧ mVa st0.cur (mo 4 0 3 4) % szBytes 3 ≠ 0) ∧
    (∀ i ∈ [Instr.acq, .rel], Runs (i hd (mo 2 0 0 4)) st0 ∧ mVa st0.cur (mo 2 0 0 4) % 8 ≠ 0) ∧ st0.cur.tr.mode = false := by
  unfold Runs; decide +kernel

/-- s1 holds the window's first address; 0x3FFC more is the last word of the partition. -/
theorem wit_Loads : (let o := mo 2 1 2 0x3FFC
     Runs (.ld hd o) stWin ∧ mVa stWin.cur o % szAlign o.sz = 0 ∧
     (loadVa (coreStrong stWin o (mVa stWin.cur o)) cA (mVa stWin.cur o) (szBytes o.sz) (viaL1 (o.ord != 0) o.sc)).isOk = true) ∧
    (∀ o ∈ [mo 2 2 2 0, { mo 2 2 3 0 with ord := 1, sc := 2 }], let s := stMem 7
     let a := mVa s.cur o
     Runs (.ld hd o) s ∧ s.cur.tr.mode = true ∧ s.cur.pipe.early = [] ∧ a % szBytes o.sz = 0 ∧ checkPa s cA true a (szBytes o.sz) .rd = none ∧
     s.l1? 0 (lineOf a) = none ∧ s.famHas (frameOf a) famCMP = false ∧
     ((List.range 128).all fun i => !((s.region (a / 128 * 128 + i)).any fun r => r.cls == 3)) = true ∧
     ((wordsOfRange a (szBytes o.sz)).all fun w => (s.syncWord w).rels.isEmpty) = true) ∧
    (let o := mo 2 1 6 0x3E00
     Runs (.ldv hd o) stWin ∧ mVa stWin.cur o % szAlign o.sz = 0 ∧
     (reachAll (coreStrong stWin o (mVa stWin.cur o)) cA (mVa stWin.cur o) .rd (steps (szBytes o.sz))).isOk = true) ∧
    (List.replicate 512 (7 : Byte)).length = 512 ∧
    (let o := mo 2 1 6 0x01000
     Runs (.ldm hd o) stWin ∧ rangeVa stWin.cur o 0 % 64 = 0 ∧ rangeLeft stWin.cur o ≠ 0 ∧
     (reachRange o stWin.cur cA .rd (rangeLeft stWin.cur o) (xferStart stWin.cur) (coreStrong stWin o (rangeVa stWin.cur o 0)) []).2.2 = none) ∧
    (Runs (.pref hd (mo 0 1 0 0)) stWin ∧ stWin.cur.tr.mode = false ∧ inWindow (mVa stWin.cur (mo 0 1 0 0)) = true) ∧
    (Runs (.pref hd (mo 0 0 0 0)) st0 ∧ inWindow (mVa st0.cur (mo 0 0 0 0)) = false ∧
      prefetchPa st0 cA st0.cur.tr.mode (mVa st0.cur (mo 0 0 0 0)) = none) ∧
    (Runs (.pref hd (mo 0 2 0 0)) (stMem 0) ∧ (stMem 0).cur.tr.mode = true ∧
      (prefetchPa (stMem 0) cA true (mVa (stMem 0).cur (mo 0 2 0 0))).isSome = true) := by unfold Runs; decide +kernel

theorem wit_ScratchpadLoad : ∀ x ∈ [mo 2 1 2 0, mo 2 1 3 0x3FF8, mo 2 1 4 0x3FFF, mo 2 1 5 0x3FFE], Runs (.ld hd x) stWin ∧
    stWin.cur.tr.mode = false ∧ inWindow (mVa stWin.cur x) = true ∧ mVa stWin.cur x % szBytes x.sz = 0 ∧
    mVa stWin.cur x - windowBase + szBytes x.sz ≤ stWin.cur.spTotal ∧ stWin.cur.pipe.early = [] ∧
    badPool stWin cA (mVa stWin.cur x - windowBase) (szBytes x.sz) = none := by unfold Runs; decide +kernel

theorem wit_ScratchpadStore : ∀ x ∈ [mo 2 1 2 0, mo 2 1 3 0x3FF8, mo 2 1 0 0x3FFF], Runs (.st hd x) stWin ∧ stWin.cur.tr.mode = false ∧
    inWindow (mVa stWin.cur x) = true ∧ mVa stWin.cur x % szBytes x.sz = 0 ∧
    mVa stWin.cur x - windowBase + szBytes x.sz ≤ stWin.cur.spTotal := by unfold Runs; decide +kernel

theorem wit_MonitorStore : ∀ x ∈ [{ mo 3 2 2 0 with ord := 1, sc := 2 }, { mo 4 2 3 0x78 with ord := 1, sc := 3 }], let s := stMem 7
    Runs (.st hd x) s ∧ s.cur.tr.mode = true ∧ x.ord = 1 ∧ x.sc ≠ 0 ∧ s.memWf = true ∧ mVa s.cur x % szBytes x.sz = 0 ∧ s.cur.pipe.early = [] ∧
    checkPa s cA true (mVa s.cur x) (szBytes x.sz) .wr = none ∧ s.l1? 0 (lineOf (mVa s.cur x)) = none := by unfold Runs; decide +kernel

/-- A step of a store to the pool. -/
def aStep (x : List Byte) : MemStep := { cls := 6, loc := .sp 64, l1 := true, sc := 0, data := some x, lock := 0, off := 0, last := true, acq := none }
def stSteps (l : List MemStep) : State := withBank { bank0 with pipe := { Pipe.reset with steps := l } }

theorem wit_Stores : (∀ o ∈ [mo 2 1 2 0x3FFC, { mo 2 1 2 0 with ord := 2, sc := 2 }],
      Runs (.st hd o) stWin ∧ mVa stWin.cur o % szAlign o.sz = 0 ∧
      (storeVa stWin cA (mVa stWin.cur o) (dataBytes stWin.cur o.sz o.dr.toNat) (viaL1 (o.ord != 0) o.sc) (o.ord == 2) o.sc).isOk = true) ∧
    (let o := mo 2 1 6 0x3E00
     Runs (.stv hd o) stWin ∧ mVa stWin.cur o % szAlign o.sz = 0 ∧
     (reachAll stWin cA (mVa stWin.cur o) .wr (steps (szBytes o.sz))).isOk = true) ∧
    (let o := mo 2 1 6 0x01000
     let r := reachRange o stWin.cur cA .wr (rangeLeft stWin.cur o) (xferStart stWin.cur) stWin []
     Runs (.stm hd o) stWin ∧ rangeVa stWin.cur o 0 % 64 = 0 ∧ rangeLeft stWin.cur o ≠ 0 ∧ r.2.1 ≠ [] ∧ r.2.2 = none) ∧
    (let s := stSteps [aStep [1, 2]]
     (s.bank cA).pipe.steps = aStep [1, 2] :: [] ∧ (aStep [1, 2]).data = some [1, 2] ∧ (aStep [1, 2]).loc = .sp 64) ∧
    (∀ l1, let m := { aStep [1, 2] with loc := .pa 0x107E, l1 := l1, sc := if l1 then 0 else 2 }
     let s := stSteps [m]
     (s.bank cA).pipe.steps = m :: [] ∧ m.data = some [1, 2] ∧ s.l1? 0 (lineOf 0x107E) = none ∧ s.memWf = true ∧ 0x107E % 128 + 2 ≤ 128) := by
  unfold Runs; decide +kernel

/-- The first step of a vector store is performed at issue, seven wait for their charge; the one that is granted writes its bytes (R241). -/
theorem test_store_steps :
    (match exec (.stv hd (mo 2 1 6 0)) stWin with
      | .next t => t.cur.pipe.steps.map fun m => (m.cls, m.loc)
      | _ => []) = (List.range 7).map (fun k => (6, Loc.sp (64 * (k + 1)))) ∧
    ((nextStep (stSteps [aStep [1, 2]]) cA).bank cA).scrBytes 63 4 = [0, 1, 2, 0] := by decide +kernel

theorem wit_ScratchpadAtomics : (∀ x ∈ [mo 2 1 2 0, mo 2 1 3 0x83FF8], let va := mAddr stWin.cur (stWin.cur.sreg x.bs.toNat) ((x.off.extractLsb' 0 16).signExtend 32)
      Runs (.amo hd x) stWin ∧ stWin.cur.tr.mode = false ∧ inWindow va = true ∧ va % szBytes x.sz = 0 ∧
      va - windowBase + szBytes x.sz ≤ stWin.cur.spTotal ∧ badPool stWin cA (va - windowBase) (szBytes x.sz) = none) ∧
    (∀ x ∈ [mo 2 1 2 0, mo 60 1 3 0x3FF8], let va := mVa stWin.cur x
      Runs (.cas hd x) stWin ∧ stWin.cur.tr.mode = false ∧ inWindow va = true ∧ va % szBytes x.sz = 0 ∧
      va - windowBase + szBytes x.sz ≤ stWin.cur.spTotal ∧ badPool stWin cA (va - windowBase) (szBytes x.sz) = none) := by
  unfold Runs; decide +kernel

theorem wit_OrderingWords : (∀ x ∈ [{ mo 0 0 0 0 with ord := 1 }, { mo 0 0 0 0 with ord := 3, sc := 3 }], Runs (.fence hd x) st0) ∧
    (∀ x ∈ [mo 2 1 0 0, mo 2 1 0 0x3FF8], Runs (.acq hd x) stWin ∧ Runs (.rel hd x) stWin ∧ stWin.cur.tr.mode = false ∧
      inWindow (mVa stWin.cur x) = true ∧ mVa stWin.cur x % 8 = 0 ∧ mVa stWin.cur x - windowBase + 8 ≤ stWin.cur.spTotal ∧
      badPool stWin cA (mVa stWin.cur x - windowBase) 8 = none) ∧
    (let s := stMem 7
     let x := { mo 4 2 0 0 with sc := 2 }
     let va := mVa s.cur x
     let es := boundTo s cA va
     let sc := scopeAt s.cur va (widestScope x.sc es)
     Runs (.acq hd x) s ∧ Runs (.rel hd x) s ∧ va % 8 = 0 ∧ sc ≠ 0 ∧ boundWaits s cA es = false ∧
     (match acqRead s cA va sc with
       | .ok (s1, _, f) => !f && !boundWaits s1 cA es
       | .error _ => false) = true ∧
     (match reachWord s cA va 8 .wr with
       | .ok (s1, .pa _) => !boundWaits s1 cA es
       | _ => false) = true) ∧
    (let s := { stMem 7 with mem := { (stMem 7).mem with sync := [(0x200, { rels := [], past := [], full := true })] } }
     let x := { mo 4 2 0 0 with sc := 2 }
     Runs (.acq hd x) s ∧ mVa s.cur x % 8 = 0 ∧ scopeAt s.cur (mVa s.cur x) (widestScope x.sc (boundTo s cA (mVa s.cur x))) ≠ 0 ∧
     (match acqRead s cA (mVa s.cur x) 2 with
       | .ok (_, _, f) => f
       | .error _ => false) = true) ∧
    (let x := mo 4 2 0 0
     Runs (.acq hd x) (stMem 7) ∧ Runs (.rel hd x) (stMem 7) ∧ scopeAt (stMem 7).cur (mVa (stMem 7).cur x) (widestScope x.sc []) = 0) ∧
    (stMem 7).cur.pipe.early = [] ∧
    (let s := stMem 7
     let x := { mo 4 2 2 0 with ord := 3, sc := 2 }
     let va := mVa s.cur x
     let sc := scopeAt s.cur va x.sc
     Runs (.amo hd x) s ∧ Runs (.cas hd x) s ∧ va % szBytes x.sz = 0 ∧
     (atomicVa s cA va (szBytes x.sz) true sc (fun old => some (old + 1))).isOk = true ∧
     (atomicVa s cA va (szBytes x.sz) true sc (fun _ => none)).isOk = true) := by unfold Runs; decide +kernel

theorem wit_CanonicalMemory : Memory.wf [(0, 1), (5, 2)] = true ∧ st0.memWf = true ∧
    (∀ a ∈ [0, 1, 5], memByte [(0, 1), (5, 2)] a = memByte [(0, 1), (5, 2)] a) ∧
    ({ st0 with mem := { MemBlk.reset with held := [(0x1000, 1), (0x1001, 2)] } } : State).memWf = true := by decide +kernel

/-- Little-endian, and a store of zero removes what an unlisted address reads anyway. -/
theorem test_memory : memSetBytes [] 0x100 (natLe 4 0x01020304) = [(0x100, 4), (0x101, 3), (0x102, 2), (0x103, 1)] ∧
    memSetBytes [(0x100, 9)] 0x100 [0] = [] := by decide +kernel

/-! ### Rows and the heap -/

/-- Bank A of core 0 with these scalars and k registers, in task mode or in monitor mode. -/
def bankK (mon : Bool) (s : List (Nat × Word)) (k : List (Nat × DWord)) : Bank :=
  { (if mon then bankM else bank0) with regs := { Regs.reset with s := s, k := k } }
/-- 2 MiB at 0x200000 of a class: 1 row-linear, 2 managed; the first 2 MiB are ordinary. -/
def regions (cls : Nat) : List (Nat × BitVec 128) := [(0, fetchRegion), (1, BitVec.ofNat 128 (2 ^ 127 + cls * 2 ^ 125 + 2 ^ 85 + 2 ^ 21))]
def stRow (rowv : Bool) : State :=
  let h : Handle := { rowv := rowv, held := false, va := 0x200800, xl := some { pa := 0x200800, r := true, w := true }, obj := none }
  { withBank { bankK true [(2, 0x200800)] [] with h := [(7, h)] } with mem := { MemBlk.reset with rmap := regions 1 } }
/-- The window's first address in the pair d4. -/
def stRowWin : State := withBank (bankK false [(4, 0xFFE00000), (5, 0x7FFF)] [])

theorem wit_RowWords : (Runs (.hopen hd (ko 7 0 2 0)) (stRow false) ∧ (rowSite (stRow false) cA 0x200800).isOk = true) ∧
    (Runs (.hopen hd (ko 0 0 4 0)) stRowWin ∧ stRowWin.cur.tr.mode = false ∧
      inWindow (((stRowWin.cur.sreg 5).toNat % 2 ^ 16) * 2 ^ 32 + (stRowWin.cur.sreg 4).toNat) = true) ∧
    (Runs (.hrel hd (ko 7 0 0 0)) (stRow false) ∧ ((stRow false).cur.hreg 7).rowv = false) ∧
    (Runs (.hrel hd (ko 7 0 0 0)) (stRow true) ∧ ((stRow true).cur.hreg 7).rowv = true) ∧
    (Runs (.hld hd (ko 7 0 9 2)) (stRow true) ∧ (rowAccess (stRow true) (ko 7 0 9 2) false).isOk = true) ∧
    (Runs (.hst hd { ko 7 0 8 3 with off := 0x7F8 }) (stRow true) ∧ (rowAccess (stRow true) { ko 7 0 8 3 with off := 0x7F8 } true).isOk = true) ∧
    (Runs (.hld hd (ko 7 0 9 2)) (stRow false) ∧ Runs (.hst hd (ko 7 0 9 2)) (stRow false)) := by unfold Runs; decide +kernel

/-- The place that HOPEN of an address finds in monitor mode, in an ordinary frame, a poisoned row-linear one, and a managed one. -/
def stSite (cls : Nat) (fam : Tab Byte) : State :=
  { withBank (bankK true [(2, 0x200800)] []) with mem := { MemBlk.reset with rmap := regions cls, fam := fam } }
theorem wit_RowWords_traps :
    (Runs (.hopen hd (ko 7 0 2 0)) (stSite 1 []) ∧ (stSite 1 []).cur.tr.mode = true) ∧
    (Runs (.hopen hd (ko 7 0 2 0)) (withS [(2, 0x1000)]) ∧ (rowXlate (withS [(2, 0x1000)]) cA 0x1000).isOk = false ∧
      inWindow 0x1000 = false) ∧
    ((stSite 0 []).rowAt 0x200800 = none ∧ (stSite 0 []).cur.tr.mode = true) ∧
    ((stSite 1 [(0x200, famPSN)]).rowAt 0x200800 ≠ none ∧ (stSite 1 [(0x200, famPSN)]).famHas (frameOf 0x200800) famPSN = true) ∧
    ((stSite 2 []).rowAt 0x200800 ≠ none ∧ (stSite 2 []).famHas (frameOf 0x200800) famPSN = false ∧
      ((stSite 2 []).region 0x200800).map Region.cls = some 2 ∧ pinnedObj (stSite 2 []) cA 0x200800 = none) ∧
    (∀ o ∈ [{ ko 7 0 8 2 with off := 2 }, { ko 7 0 8 6 with off := 64 }, { ko 7 0 8 2 with off := 2048 }, { ko 7 0 8 2 with off := 0x3FFFFC }],
      Runs (.hld hd o) (stRow true) ∧ Runs (.hst hd o) (stRow true) ∧ ((stRow true).cur.hreg o.kh.toNat).rowv = true) ∧
    signed 22 0x3FFFFC < 0 ∧ (2048 : Int) < signed 22 2048 + (szBytes 2 : Nat) ∧ (64 : Int) % (szBytes 6 : Nat) ≠ 0 := by
  unfold Runs; decide +kernel

/-- The reference k1 names object 5, live at heap address 0x1000, 256 bytes; the heap is 2 MiB at 0x200000; k2 is null. -/
def aRef : DWord := 0x4001000000001000
def stHeap (b : Bank) (p : List PinEntry) : State :=
  { withBank { b with scr := memSetBytes [] 0 (natLe 8 aRef.toNat ++ natLe 8 nullRef.toNat) } with
    heap := { Heap.reset with base := 0x200000, size := 1, en := true, ot := [(5, { Obj.reset with st := .live, addr := 0x1000 })] }
    mem := { MemBlk.reset with rmap := regions 2, main := memSetBytes (memSetBytes [] 0x201000 (natLe 4 256)) 0x201010 (natLe 4 5) }
    cores := [(0, { core0 with alloc := some (0, 0) })]
    sched := { Sched.reset with nodes := [(0, { Node.reset with st := .running, members := [cA], mrec := [(0, { MemberRec.reset with pins := p })] })] } }
/-- s1: the window's first address; s2: the size for KNEW; k1: the reference. -/
def bankH : Bank := bankK false [(1, 0xFFE00000), (2, 256)] [(1, aRef), (2, nullRef), (3, aRef ||| (1 <<< 61))]
def stH : State := stHeap bankH []
def aPin : PinEntry := { oti := 5, releasing := false, logged := true }

theorem wit_ObjectWords : PlainObject stH (stH.cur.kreg 1) 5 ∧ refNull (stH.cur.kreg 2) = true ∧
    (refNull 0 = false ∧ (st0.heap.en = false ∨ refCol 0 = 0)) ∧ (refNull 0x4001000000001001 = false ∧ refAddr 0x4001000000001001 % 32 ≠ 0) ∧
    (refNull 0x4001000000200000 = false ∧ stH.heapBytes ≤ refAddr 0x4001000000200000) ∧
    (∀ i ∈ [Instr.kget hd (ko 0 2 4 2), .kput hd (ko 0 2 4 2), .kldObject hd (ko 3 2 0 7), .kstObject hd (ko 3 2 0 7), .kpin hd (ko 0 2 4 0)],
      Runs i stH) := by unfold Runs PlainObject; decide +kernel

/-- The object after Resolve. -/
def stHs : State := stH.setObj 5 { stH.obj 5 with last := nowMs stH }
/-- With one pin, made since the last boundary. -/
def stPin : State := stHeap bankH [aPin]

theorem wit_ObjectWords_live : (Runs (.kget hd { ko 0 1 4 3 with off := 0xF8 }) stH ∧ (objRange stHs 0x1000 0xF8 8 8).isOk = true ∧
      (objReach stHs cA 0x1000 0xF8 8).isOk = true) ∧
    (Runs (.kput hd { ko 0 1 4 3 with off := 0x18 }) stH ∧ (objRange stHs 0x1000 0x18 8 8).isOk = true ∧
      kOff { ko 0 1 4 3 with off := 0x18 } = 0x18 ∧ (objReach stHs cA 0x1000 0x18 8).isOk = true) ∧
    (Runs (.kput hd { ko 0 1 4 3 with off := 0x10 }) stH ∧ (objRange stHs 0x1000 0x10 8 8).isOk = true ∧
      kOff { ko 0 1 4 3 with off := 0x10 } = 0x10) ∧
    (∀ r ∈ [1, 2], let o := { ko 0 1 r 0 with off := 8 }
      Runs (.kput hd o) stH ∧ (objRange stHs 0x1000 8 1 1).isOk = true ∧ kOff o = 8 ∧ (objReach stHs cA 0x1000 8 1).isOk = true) ∧
    ((withS [(1, 1)]).cur.sreg 1).getLsbD 0 = true ∧ (stH.cur.sreg 2).getLsbD 0 = false := by unfold Runs; decide +kernel

theorem wit_ObjectWords_pins : (Runs (.kpin hd (ko 0 1 4 0)) stH ∧ (stH.member cA).pins.length < 16 ∧ (stH.obj 5).pins < 65535) ∧
    Runs (.kunpin hd (ko 0 1 0 0)) stPin ∧ PlainObject stPin (stPin.cur.kreg 1) 5 ∧ (stPin.member cA).pins = [] ++ [aPin] := by
  unfold Runs PlainObject; decide +kernel

theorem wit_ReferenceWords : Runs (.keq hd (ko 1 2 4 0)) stH ∧ stH.heap.en = true ∧
    (∀ off ∈ [0, 8], Runs (.kld hd { ko 4 0 1 3 with off := BitVec.ofNat 22 off }) stH ∧
      (refReach stH cA (kVa stH.cur { ko 4 0 1 3 with off := BitVec.ofNat 22 off }) .rd).isOk = true ∧
      (kldFrom { ko 4 0 1 3 with off := BitVec.ofNat 22 off } stH (.loc (.sp off) (windowBase + off))).isOk = true) ∧
    refNull (readRef stH cA (.loc (.sp 8) (windowBase + 8))) = true ∧
    (let o := { ko 4 1 0 7 with off := 0x20 }
     Runs (.kldObject hd o) stH ∧ Runs (.kstObject hd o) stH ∧ (match objPlace o stH with
       | .ok (s1, f, _) => (s1.obj f.oti).st != .reloc
       | .error _ => false) = true) ∧
    (∀ k ∈ [1, 3], let o := ko (BitVec.ofNat 4 k) 0 1 3
      Runs (.kst hd o) stH ∧ (refReach stH cA (kVa stH.cur o) .wr).isOk = true ∧ (stH.cur.kreg k).getLsbD 61 = (k == 3) ∧
      inHeap stH (.loc (.sp 0) windowBase) = false) ∧
    (Runs (.knew hd (ko 4 0 2 0)) stH ∧ 256 ≤ (stH.cur.sreg 2).toNat ∧ (stH.cur.sreg 2).toNat ≤ 16777216 ∧ (freeObj stH 262144 0).isSome = true ∧
      (heapSpace stH 0 256).isSome = true) ∧
    (let s := { withBank bankH with heap := { Heap.reset with en := true } }
     Runs (.knew hd (ko 4 0 2 0)) s ∧ s.heap.en = true ∧ heapSpace s 0 256 = none) := by unfold Runs; decide +kernel

/-- A word of the colour before the last flip, one of no colour, and the reference itself, at the window's first address. -/
def stOld (w : DWord) : State := let s := stH; s.setCur { s.cur with scr := memSetBytes [] 0 (natLe 8 w.toNat) }
/-- Object 5 in a state. -/
def stObj (x : ObjState) : State := stH.setObj 5 { stH.obj 5 with st := x }

theorem wit_ReferenceWords_places :
    (let w := aRef ^^^ 0xC000000000000000#64
     readRef (stOld w) cA (.loc (.sp 0) windowBase) = w ∧ (match resolve (stOld w) w false with
       | .ok (s2, f) => !f.null && (s2.heap.goodc ++ w.extractLsb' 48 14 ++ BitVec.ofNat 48 f.h) != w
       | .error _ => false) = true) ∧
    (let w := aRef &&& 0x3FFFFFFFFFFFFFFF#64
     readRef (stOld w) cA (.loc (.sp 0) windowBase) = w ∧ (resolve (stOld w) w false).isOk = false) ∧
    (PlainObject stH (readRef stH cA (.loc (.sp 0) windowBase)) 5) ∧
    (∀ i ∈ [Instr.kld hd (ko 4 0 1 3), .kst hd (ko 1 0 1 3)], Runs i stWin ∧ stWin.heap.en = false) ∧
    (∀ i ∈ [Instr.kld hd { ko 4 0 1 3 with off := 4 }, .kst hd { ko 1 0 1 3 with off := 4 }], Runs i stH ∧ stH.heap.en = true) ∧
    kVa stH.cur { ko 4 0 1 3 with off := 4 } % 8 = 4 ∧
    (let o := { ko 4 1 0 7 with off := 0x20 }
     Runs (.kstObject hd o) (stObj .reloc) ∧ (match objPlace o (stObj .reloc) with
       | .ok (s1, f, _) => (s1.obj f.oti).st == .reloc
       | .error _ => false) = true) ∧
    (let o := { ko 4 2 0 7 with off := 0x20 }
     Runs (.kldObject hd o) stH ∧ Runs (.kstObject hd o) stH ∧ (objPlace o stH).isOk = false) ∧
    (∀ n ∈ [0, 255, 16777217], let s := { stH with banks := [(0, bankK false [(2, BitVec.ofNat 32 n)] [])] }
      Runs (.knew hd (ko 4 0 2 0)) s ∧ ((s.cur.sreg 2).toNat < 256 ∨ 16777216 < (s.cur.sreg 2).toNat)) ∧
    (Runs (.knew hd (ko 4 0 2 0)) st0 ∧ st0.heap.en = false) := by unfold Runs PlainObject; decide +kernel

/-! ### Engines -/

/-- A chain of no operation from bf16 to bf16. -/
def aChain : Nat := 5 * 2 ^ 224 + 5 * 2 ^ 240
/-- One granule of accumulators, bf16 operands in bank 0, rings n1 and n2 of slots of 64 bytes, s1 = 1, s5 = 1. -/
def bankX : Bank :=
  { bankK false [(1, 1), (5, 1), (6, 0xFFE00000), (7, 0x3FE0), (8, 0xFFE01000)] [] with
    scr := memSetBytes [] 0x1000 (natLe 64 aChain)
    sys := { bank0.sys with partw := 0x8000000011000108, bfmt := [(0, 5)] }
    n := [(1, { Ring.reset with ssz := 64, cnt := 2 }), (2, { Ring.reset with base := 0x1000, ssz := 64, cnt := 1 })] }
def stX : State := withBank bankX
/-- The same with 16 commands in every FIFO. -/
def stFull : State :=
  let q (k : CmdKind) : Fifo := { Fifo.reset with q := List.replicate 16 (aCmd k) }
  withBank { bankX with eng := { Engines.reset with mx := q .mzero, de := q .merge, ci := q .cpy, co := q .cpy } }
/-- Monitor mode, the HACC of the data FIFO stopped by its fault. -/
def stHacc : State :=
  withBank { bankX with
    tr := bankM.tr
    eng := { engDe .hacc with de := { (engDe .hacc).de with run := true, stopped := true, prog := { Prog.reset with last := some (1, 0) } } } }
/-- A domain of two, and the lease in this thread's hand. -/
def stLease (q : List Cmd) : State :=
  { withBank { bankX with
      sys := { bankX.sys with level := 1, mask := 3 }
      eng := { Engines.reset with mx := { Fifo.reset with q := q } } } with
    clusters := [(0, { Cluster.reset with lease := some { holder := cA, left := 1, since := 0 } })] }

theorem wit_EnginePushes : ∀ s ∈ [stX, stFull],
    (Runs (.merge hd (eo 0 0 1 1 0 0)) s ∧ (cmdOf .merge (eo 0 0 1 1 0 0) s.cur).y = 1) ∧
    (Runs (.hacc hd (eo 0 0 7 0 0 0)) s ∧ (cmdOf .hacc (eo 0 0 7 0 0 0) s.cur).x.toNat + 32 = s.cur.spTotal ∧ s.cur.tr.mode = false) ∧
    (Runs (.mzero hd (eo 0 0 0 0 0 0)) s ∧ accCheck s.cur 0 (shapeOf 0) = none) ∧
    (Runs (.mrd hd (eo 0 0 0 0 0 0)) s ∧ mrdCheck s.cur (cmdOf .mrd (eo 0 0 0 0 0 0) s.cur) .stall = none) ∧
    (Runs (.mma hd (eo 1 2 0 0 0 0)) s ∧ mmaCheck s.cur (cmdOf .mma (eo 1 2 0 0 0 0) s.cur) .stall = none ∧
      isSplit s.cur (cmdOf .mma (eo 1 2 0 0 0 0) s.cur) = false) ∧
    (Runs (.mmas hd (eo 1 2 0 0 4 0)) s ∧ mmaCheck s.cur (cmdOf .mmas (eo 1 2 0 0 4 0) s.cur) .stall = none ∧
      isSplit s.cur (cmdOf .mmas (eo 1 2 0 0 4 0) s.cur) = false) ∧
    (let x := cmdOf .mrank (eo 1 0 0 0 0 0) s.cur
     Runs (.mrank hd (eo 1 0 0 0 0 0)) s ∧ x.y.toNat < 2 ^ 17 ∧ (s.cur.ring x.ra).cnt ≠ 0 ∧ rankNeed s.cur x ≤ (s.cur.ring x.ra).cnt ∧
     operandFmt .stall (rankOperand s.cur x).bf (rankOperand s.cur x).bank = none ∧ (rankOperand s.cur x).bf.grp = 0 ∧ x.selK = 0 ∧
     accCheck s.cur x.x (shapeOf x.y) = none) := by unfold Runs; decide +kernel

/-- A check answers none whatever stop it would name. -/
theorem wit_EnginePushes_checks : ∀ e, mmaCheck stX.cur (cmdOf .mma (eo 1 2 0 0 0 0) stX.cur) e = none ∧
    mmaCheck stX.cur (cmdOf .mmas (eo 1 2 0 0 4 0) stX.cur) e = none ∧ mrdCheck stX.cur (cmdOf .mrd (eo 0 0 0 0 0 0) stX.cur) e = none := by
  intro e; exact ⟨rfl, rfl, rfl⟩

theorem wit_EnginePushes_places : (∀ f ∈ [FifoId.mx, .de, .ci, .co], (stX.cur.eng.fifo f).full = false ∧ (stFull.cur.eng.fifo f).full = true) ∧
    (Runs (.hacc hd (eo 0 0 7 0 0 0)) stHacc ∧ stHacc.cur.tr.mode = true ∧ haccStopped stHacc.cur.eng = true) ∧
    (let s := stLease []
     let x := cmdOf .mma (eo 1 2 0 0 0 0x80) s.cur
     let y := cmdOf .mmas (eo 1 2 0 0 4 0x80) s.cur
     Runs (.mma hd (eo 1 2 0 0 0 0x80)) s ∧ mmaCheck s.cur x .stall = none ∧ isSplit s.cur x = true ∧
     Runs (.mmas hd (eo 1 2 0 0 4 0x80)) s ∧ mmaCheck s.cur y .stall = none ∧ isSplit s.cur y = true ∧ (s.cur.eng.fifo .mx).full = false ∧
     ((stLease (List.replicate 16 (aCmd .mzero))).cur.eng.fifo .mx).full = true) ∧
    (Runs (.cpy hd (eo 0 0 6 0 0 0)) stX ∧ (readDesc stX (descVa stX.cur (stX.cur.sreg 6)) 32).isOk = true ∧
      copyCheck stX stX.cur { cmdOf .cpy (eo 0 0 6 0 0 0) stX.cur with desc := 0 } .stall = none) ∧
    (Runs (.vchain hd (vr 0 8 0 9)) stX ∧ (match readDesc stX (descVa stX.cur (stX.cur.sreg 8)) 64 with
      | .ok (_, d) => chainCheck d (etyOf 9) 0 .stall == none
      | .error _ => false) = true) ∧
    Runs (.mlease hd (eo 0 0 0 0 0 0)) stX ∧
    (Runs (.mfree hd (eo 0 0 0 0 0 0)) (stLease []) ∧ holdsLease (stLease []) cA = true ∧ (stLease []).cur.eng.mx.q.any Cmd.needsLease = false) ∧
    (Runs (.mfree hd (eo 0 0 0 0 0 0)) stX ∧ holdsLease stX cA = false) ∧
    ((stLease [aCmd .mma]).cur.eng.mx.q.any Cmd.needsLease = true) := by unfold Runs; decide +kernel

/-- Ring n1 of two slots, one of them filled. -/
def stRing : State := withBank { bankX with n := [(1, { Ring.reset with ssz := 64, cnt := 2, tail := 1 })] }
/-- Two pushes not popped, and one completion. -/
def stComp (comp : List (Word × Cmd)) : State :=
  withBank { bank0 with eng := { Engines.reset with de := { Fifo.reset with unpopped := 2, comp := comp } } }

theorem wit_RingAndStreamWords : (∀ k ∈ [0x00, 0x1F, 0x2F], Runs (.qbind hd (eo 0 0 0 0 0 (BitVec.ofNat 13 k))) stWin) ∧
    (Runs (.qbind hd (eo 0 0 1 0 0 0x30)) stWin ∧ (match readDesc stWin (descVa stWin.cur (stWin.cur.sreg 1)) 32 with
      | .ok (s1, d) => (genOf s1.cur d).isSome
      | .error _ => false) = true) ∧
    (let s := withS [(1, 0x3FC0), (2, 64), (3, 1), (4, 0), (5, 256 + 2 * 65536)]
     (Runs (.rinit hd (eo 15 0 1 2 3 0)) s ∧ (∀ k ∈ s.cur.eng.cmds, 15 ∉ k.rings) ∧ (s.cur.sreg 3).toNat = 1 + 2 ^ 16 * 0 ∧
       0x3FC0 + 1 * 64 ≤ s.cur.spTotal ∧ (wholeBank s.cur 0x3FC0 64).isSome = true) ∧
     (Runs (.rinit hd (eo 0 0 4 2 5 0)) s ∧ (s.cur.sreg 5).toNat = 256 + 2 ^ 16 * 2 ∧ 64 % (16 * 2 ^ 2) = 0 ∧ 256 * 64 = s.cur.spTotal ∧
       (wholeBank s.cur 0 (256 * 64)).isSome = true)) ∧
    (∀ k ∈ [0x0000, 0x0001, 0x0800, 0x1000, 0x1001, 0x1F00], Runs (.radv hd (eo 1 0 0 0 0 (BitVec.ofNat 13 k))) stRing) ∧
    ((stRing.cur.ring 1).cnt = 2 ∧ (stRing.cur.ring 1).occ = 1 ∧ (stRing.cur.ring 1).free = 1) ∧
    (Runs (.epop hd (eo 0 0 1 0 0 1)) st0 ∧ (st0.cur.eng.fifo (epopFifo 1)).unpopped = 0) ∧
    (∀ l ∈ [[], [(0, aCmd .hacc)]], Runs (.epop hd (eo 0 0 1 0 0 1)) (stComp l) ∧ ((stComp l).cur.eng.fifo (epopFifo 1)).unpopped ≠ 0 ∧
      ((stComp l).cur.eng.fifo (epopFifo 1)).comp = l) ∧
    (!(aCmd .hacc).mon && (destRanges st0 cA (aCmd .hacc)).any fun r => rangeWaits st0 cA r.1 r.2) = false ∧
    Runs (.estat hd (eo 0 0 1 0 0 7)) st0 := by unfold Runs; decide +kernel

/-! ### Experts -/

/-- Slot 0 has two layers; the expert of each id: 0x200 resident, 0x400 filling, 0x600 provided nowhere, 0x800 absent, 0xA00 poisoned. -/
def aTag (x : Word) (c : CopySt) (psn : Bool) : Tag := { Tag.zero with xid := x, psn := psn, a := { NearCopy.absent with st := c } }
def stX0 (s : List (Nat × Word)) (pins : Nat) : State :=
  { withBank (bankK false s []) with
    mem := { MemBlk.reset with
      rmap := [(0, fetchRegion)], main := memSetBytes [] 0x8000 (natLe 32 (2 ^ 32 + 0x9000 * 2 ^ 64) ++ natLe 32 (2 ^ 32)) }
    res := { Resid.reset with
      slots := [(0, { Slot.reset with v := true, layN := 2, lay := 0x8000 })]
      tags := [(1, { aTag 0x200 .resident false with pins := pins }), (2, aTag 0x400 .filling false), (3, aTag 0x600 .none false),
               (4, aTag 0x800 .absent false), (5, aTag 0xA00 .absent true)] } }

/-- The last pair of an XROUTE, of an id that names no expert. -/
def aRoute : RouteStep := { row := 5, xid := 0xC00, xpol := 0, lock := 3, lane := 2, last := true }
def stRoute : State := withBank { bank0 with pipe := { Pipe.reset with
  routes := [aRoute], locks := [{ id := 3, ws := [.v 4 0 allOnesV, .v 5 0 allOnesV], af := 0, ready := false }] } }

theorem wit_ExpertWords : (∀ n ∈ [0, 128], let s := stX0 [(1, BitVec.ofNat 32 n)] 0
      Runs (.xroute hd (xo 4 1 2 1 0 0)) s ∧ (s.cur.sreg 1).toNat ≤ 128 ∧ (s.cur.sreg 1).toNat + (s.member cA).slots.length ≤ 2048) ∧
    (stRoute.plat.power = .on ∧ (stRoute.bank cA).pipe.routes = aRoute :: [] ∧ stRoute.tagIx? aRoute.xid = none) ∧
    (∀ x ∈ [0x200, 0xC00], let s := stX0 [(1, BitVec.ofNat 32 x)] 0
      Runs (.xclose hd (xo 0 0 0 1 0 0)) s ∧ Runs (.xqry hd (xo 0 0 0 1 4 0)) s ∧ Runs (.xunpin hd (xo 0 0 0 1 4 0)) s ∧
      Runs (.xpin hd (xo 0 0 0 1 4 0)) s ∧
      (commitSlots (wbAll s 0 2) cA).tagIx? (s.cur.sreg 1) = (if x = 0x200 then some 1 else none) ∧
      s.tagIx? (s.cur.sreg 1) = (if x = 0x200 then some 1 else none)) ∧
    ((commitSlots (wbAll (stX0 [] 0) 0 2) cA).tag 1).fin = false ∧
    (∀ x ∈ [0, 0x20000000], let s := stX0 [(1, BitVec.ofNat 32 x)] 0
      let m := (commitSlots (wbAll s 0 2) cA).xslot (xidSlot (s.cur.sreg 1))
      Runs (.xcloseFinal hd (xo 0 0 0 1 0 1)) s ∧ m.v = (x == 0) ∧ (x = 0 → xidLayer (s.cur.sreg 1) < m.layN)) ∧
    (∀ x ∈ [0x200, 0x400, 0x600, 0x800, 0xA00, 0xC00], let s := stX0 [(1, BitVec.ofNat 32 x)] 0
      Runs (.xfetch hd (xo 0 0 0 1 4 0)) s ∧ s.tagIx? (s.cur.sreg 1) = (if x = 0xC00 then none else some (x / 0x200))) ∧
    (∀ p ∈ [0, 65535], ((stX0 [] p).tag 1).pins = p ∧ ((stX0 [] p).tag 1).psn = false) ∧
    Runs (.xrepl hd (xo 0 0 0 1 4 0)) (stX0 [] 0) ∧
    (Runs (.xpred hd (xo 4 0 0 1 2 15)) (stX0 [(2, 0x20000000)] 0) ∧ ((stX0 [] 0).xslot (xidSlot 0x20000000)).v = false) := by
  unfold Runs; decide +kernel

/-- The scores lie in the window; the layer after layer 0 has one expert. -/
def stPred : State := stX0 [(1, 0xFFE00000), (3, 0), (5, 1)] 0

theorem wit_ExpertWords_reads :
    (let ps := pagePieces (4 * 1 / 4096 + 2) windowBase 4
     Runs (.xpred hd (xo 4 0 0 1 0 15)) stPred ∧ (stPred.xslot (xidSlot 0)).v = true ∧ xidLayer 0 + 1 < (stPred.xslot (xidSlot 0)).layN ∧
     stPred.layerWaits 0 0 = false ∧ stPred.layerWaits 0 1 = false ∧
     (stPred.layer 0 0).pm ≠ 0 ∧ (stPred.layer 0 0).nexp = 1 ∧ descVa stPred.cur (stPred.cur.sreg 1) = windowBase ∧
     (match reachPieces stPred cA .rd ps with
       | .ok (s1, _) =>
         let rg := predRange (stPred.layer 0 0) 1 (stPred.layer 0 1).nexp
         (predictions (wbAll s1 0 2) (stPred.layer 0 0) 1 [0]).isSome && !unitWait (wbAll s1 0 2) rg.1 rg.2 .rd
       | .error _ => false) = true) ∧
    (Runs (.xsnap hd (xo 0 0 0 1 2 0)) stPred ∧ stPred.cur.sreg 3 = 0) ∧
    (let ps := pagePieces (4 * 1 / 4096 + 2) windowBase 4
     Runs (.xsnap hd (xo 0 0 0 1 4 0)) stPred ∧ (stPred.cur.sreg 5).toNat = 1 ∧
     (match reachPieces stPred cA .wr ps with
       | .ok (s1, ls) => (clearPlaces s1 cA ((ps.map Prod.fst).zip ls)).isOk
       | .error _ => false) = true) := by unfold Runs; decide +kernel

/-! ### Events of banks and cores -/

/-- Core 0 in a state of a bank. -/
def stPipe (p : Pipe) : State := withBank { bank0 with pipe := p }
/-- At a time. -/
def atTime (t : Nat) (s : State) : State := { s with time := t }

theorem wit_BankEvents_waits :
    (let s := atTime 64 (withBank { bank0 with eng := engDe .hacc, pipe := { Pipe.reset with wait := .idle 1 0 1 } })
     (s.bank cA).pipe.wait = .idle 1 0 1 ∧ (s.core 0).freeze = 0 ∧ (s.bank cA).eng.faults = [] ∧ (s.bank cA).eng.idle = false ∧
     0 + 64 * 1 ≤ ({ s with clusters := [(0, { Cluster.reset with clk := { Clocking.reset with cycles := 64 } })] } : State).now 0) ∧
    (let s : State := { stPipe { Pipe.reset with wait := .tkw 7 0 1 false } with
       clusters := [(0, { Cluster.reset with clk := { Clocking.reset with cycles := 64 } })] }
     (s.bank cA).pipe.wait = .tkw 7 0 1 false ∧ 0 + 64 * 1 ≤ s.now 0 ∧ (s.core 0).freeze = 0) := by decide +kernel

def aLock : Lock := { id := 3, ws := oneS 7 5, af := 1, ready := true }
def anInflight : Inflight := { w := .s 7 5 (BitVec.allOnes 32), af := 0, due := 2 }

theorem wit_BankEvents_results :
    (let s := stPipe { Pipe.reset with locks := [aLock] }
     (s.bank cA).pipe.locks = aLock :: [] ∧ aLock.ready = true ∧ (s.core 0).freeze = 0 ∧ (7 : Nat) ≠ 0 ∧
       ((oneStep (.interlockedWriteLand cA) s).bank cA).sreg 7 = 5) ∧
    (let s := stPipe { Pipe.reset with inflight := [anInflight], cyc := 2 }
     (s.bank cA).pipe.inflight = [anInflight] ∧ anInflight.due ≤ (s.bank cA).pipe.cyc ∧
       ((oneStep (.fixedLatencyVisible cA) s).bank cA).sreg 7 = 5) ∧
    (stPipe { Pipe.reset with locks := [{ aLock with ready := false }] }).cur.pipe.locks.all (fun l => !l.ready) = true := by decide +kernel

def aFault (k : BitVec 8) : EngFault := { fifo := .de, code := k, eval := 9, vah := 0, cf := false }
def stFault (k : BitVec 8) : State := withBank { bank0 with eng := { Engines.reset with faults := [aFault k] } }
def stBlocked : State := withBank { bank0 with phase := .pageFault, frec := { Frec.reset with v := true, cause := 0x06, va := 0x1234, seq := 5 } }

theorem wit_BankEvents_faults :
    (∀ k ∈ [0x07, 0x11], let s := stFault (BitVec.ofNat 8 k)
     (s.bank cA).eng.faults = [aFault (BitVec.ofNat 8 k)] ∧ (s.bank cA).pipe.wait = .none ∧ activeBank s cA = true ∧
       (s.bank cA).tr.mode = false ∧ (s.bank cA).dfault = none ∧ (s.bank cA).discard = false ∧ (s.bank cA).pipe.steps = []) ∧
    (let s := withBank { bank0 with dfault := some 3 }
     (s.bank cA).dfault = some 3 ∧ activeBank s cA = true ∧ (s.bank cA).tr.mode = false ∧ (s.bank cA).pipe.wait = .none ∧
       (s.bank cA).discard = false ∧ (s.bank cA).pipe.steps = []) ∧
    (let s := stSteps [aStep [1]]
     (s.bank cA).pipe.wait = .none ∧ (s.bank cA).pipe.steps ≠ []) ∧
    ((stBlocked.bank cA).frec.v = true ∧ (stBlocked.bank cA).phase = .pageFault ∧ (stBlocked.core 0).issuing = some cA.bank ∧
      (stBlocked.bank cA).tr.mode = false) := by decide +kernel

/-- An engine fault's trap: its EVAL, and no fault pending. -/
theorem test_engine_fault : let t := oneStep (.engineFaultTaken cA) (stFault 0x11)
    (t.bank cA).tr.eval = 9 ∧ (t.bank cA).tr.mode = true ∧ (t.bank cA).eng.faults = [] := by decide +kernel

/-- 2^22 cycles in monitor mode, and a command in the data FIFO. -/
def stLimit : State := withBank { bankM with eng := engDe .hacc, pipe := { Pipe.reset with mon := 2 ^ 22 } }
/-- Both banks ready, 20 µs after bank A became the issuing bank, with more than 64 stall cycles. -/
def stTwo (mode : Bool) : State :=
  atTime 38000 { withBank bank0 with
    banks := [(0, { bank0 with tr := { bank0.tr with mode := mode }, pipe := { Pipe.reset with stall := 65 } }), (1, bank0)] }

theorem wit_BankEvents_limits :
    ((stLimit.bank cA).tr.mode = true ∧ 2 ^ 22 ≤ (stLimit.bank cA).pipe.mon ∧ (stLimit.bank cA).pipe.wait = .none ∧
      (stLimit.core 0).freeze = 0 ∧
      (stLimit.bank cA).eng.cmds ≠ [] ∧ (∀ q ∈ [(stLimit.bank cA).eng.mx, (stLimit.bank cA).eng.de, (stLimit.bank cA).eng.ci,
        (stLimit.bank cA).eng.co], q.stopped = false)) ∧
    (∀ m, let s := stTwo m
      (s.core 0).issuing = some cA.bank ∧ (s.core 0).switch = 0 ∧ (s.core 0).freeze = 0 ∧ s.isReady (otherBank cA) = true ∧
      (s.bank cA).tr.mode = m ∧ (s.bank cA).pipe.since + 38000 ≤ s.time ∧ 64 < (s.bank cA).pipe.stall) := by decide +kernel

/-- The cycles of a switch and the other bank. -/
theorem test_quantum : let t := oneStep (.quantumExpiry 0) (stTwo false)
    (t.core 0).switch = 4 ∧ (t.core 0).issuing = some 1 := by decide +kernel

def stLine : State := { st0 with cores := [(0, { core0 with l1 := [(5, { data := 0, dirty := 0, tag := 0 })] })] }
/-- A bank whose clear engine has ended, and its node's restart. -/
def stClear : State :=
  { withBank { bank0 with phase := .clearing 0 } with
    cores := [(0, Core.reset)]
    sched := { Sched.reset with nodes := [(0, { Node.reset with
      members := [cA], mrec := [(0, { MemberRec.reset with restart := some { words := [], rpc := 0x100, mask := 0, loops := .reset } })] })] } }

theorem wit_BankEvents_rest : (st0.core 0).freeze = 0 ∧
    ({ st0 with cores := [(0, { core0 with freeze := 1 })] } : State).core 0 = { core0 with freeze := 1 } ∧
    ((stLine.l1? 0 5).isSome ∧ (1, 0 * 2 ^ 48 + 5) ∉ stLine.mem.bad ∧ stLine.famHas (frameOf (128 * 5)) famMIG = false) ∧
    ((stClear.bank cA).phase = .clearing 0 ∧ (stClear.core 0).freeze = 0 ∧ (stClear.core 0).issuing = none ∧
      (stClear.member cA).restart.map Restart.mask = some 0) := by decide +kernel

/-! ### Events of engines and clusters -/

/-- One place, one row, one column from memory to the scratchpad, raw bytes: the copy's descriptor. -/
def aCopyDesc : Nat := 2 ^ 96 + 2 ^ 112
def aCpy : Cmd := { aCmd .cpy with desc := BitVec.ofNat 512 aCopyDesc }
/-- The heads of the FIFOs: MZERO, HACC, a copy; running or not. -/
def stHeads (run : Bool) : State :=
  let q (x : Cmd) : Fifo := { Fifo.reset with q := [x], run := run, unpopped := 1 }
  withBank { bankX with eng := { Engines.reset with mx := q (aCmd .mzero), de := q (aCmd .hacc), ci := q aCpy } }
def withCluster (k : Cluster) (s : State) : State := { s with clusters := [(0, k)] }
def withBucket (b : Bucket) (s : State) : State := withCluster { Cluster.reset with bucket := b } s
theorem wit_EngineEvents_start : let s := stHeads false
    (mxReady s cA = some (aCmd .mzero) ∧ mxTotal ((countLease (startHead s cA .mx (aCmd .mzero)) cA (aCmd .mzero)).bank cA) (aCmd .mzero) ≠ 0) ∧
    (copyPick s cA = some (.ci, aCpy) ∧ (let s1 := startHead s cA .ci aCpy
      copyTotal (s1.setEng cA { (s1.bank cA).eng with lastCi := true }) cA aCpy ≠ 0)) ∧
    (deReady s cA = some (aCmd .hacc) ∧ (aCmd .hacc).kind = .hacc) := by decide +kernel

/-- The requests of the running heads. -/
def headReqs (s : State) : List ChargeReq :=
  [chargeReq whoMatrix cA (mxCharge s cA (aCmd .mzero)),
   chargeReq 2 cA (blocksBegun 0 (stepBits s cA aCpy 0) * s.clsWeight 0 11), chargeReq 3 cA (s.clsWeight 0 13)]
/-- With the grants of those requests, or without; the copy has written some bits, and the HACC is at a state of its own. -/
def stRun (on : Bool) (count : Nat) (last : Option (Word × Word)) : State :=
  let s0 := stHeads true
  let b := s0.bank cA
  let e := { b.eng with
    ci := { b.eng.ci with prog := { b.eng.ci.prog with count := count } }
    de := { b.eng.de with prog := { b.eng.de.prog with last := last } } }
  withBucket { Bucket.reset with granted := if on then headReqs (stHeads true) else [] } (withBank { b with eng := e })

theorem wit_EngineEvents_steps : ∀ on, let s := stRun on 0 (some (0, 0))
    (runningHead s cA .mx = some (aCmd .mzero) ∧ (s.bank cA).eng.mx.prog.done = false ∧
      (takeGrant s 0 (chargeReq whoMatrix cA (mxCharge s cA (aCmd .mzero)))).isSome = on) ∧
    (copyRunning s cA = some (.ci, aCpy) ∧ ((s.bank cA).eng.fifo .ci).prog.done = false ∧ blocksBegun 0 (stepBits s cA aCpy 0) = 1 ∧
      (takeGrant s 0 (chargeReq (whoCopy 0) cA (1 * s.clsWeight 0 11))).isSome = on) ∧
    (runningHead s cA .de = some (aCmd .hacc) ∧ (s.bank cA).eng.de.prog.done = false ∧ (s.bank cA).eng.de.prog.last = some (0, 0) ∧
      (takeGrant s 0 (chargeReq (whoData 0) cA (s.clsWeight 0 13))).isSome = on) := by decide +kernel

/-- A MERGE, a chain of two steps and a chain of none at the head of the data FIFO. -/
def aDe (k : CmdKind) (n : Nat) : Cmd := { aCmd k with desc := BitVec.ofNat 512 (n * 2 ^ 192) }
def stDe (run : Bool) (x : Cmd) (tree : List Ctx) (fibres : List (Nat × Nat)) (granted : List ChargeReq) : State :=
  withCluster { Cluster.reset with tree := tree, bucket := { Bucket.reset with granted := granted } }
    (withBank { bankX with eng := { Engines.reset with
      de := { Fifo.reset with q := [x], run := run, unpopped := 1, prog := { Prog.reset with fibres := fibres } } } })

theorem wit_EngineEvents_data : (∀ x ∈ [aDe .merge 0, aDe .chain 0, aDe .chain 2], deReady (stDe false x [] [] []) cA = some x) ∧
    ((chainD (aDe .chain 0).desc.toNat).n = 0 ∧ (chainD (aDe .chain 2).desc.toNat).n ≠ 0) ∧
    (let x := aDe .merge 0
     (∀ l ∈ [[], [(0, 0)]], ∀ g ∈ [[], [chargeReq whoTree cA (st0.clsWeight 0 12)]], let s := stDe true x [cA] l g
       runningHead s cA .de = some x ∧ (s.bank cA).eng.de.prog.done = false ∧ (treeQueue s cA).head? = some cA ∧
       (s.bank cA).eng.de.prog.fibres = l ∧
       (takeGrant (setTree s cA (treeQueue s cA)) 0 (chargeReq whoTree cA (s.clsWeight 0 12))).isSome = !g.isEmpty) ∧
     (let s0 := stDe true x [{ core := 1, bank := 0 }, cA] [] []
      let s : State := { s0 with banks := s0.banks ++ [(2, s0.bank cA)], cores := s0.cores ++ [(1, core0)] }
      runningHead s cA .de = some x ∧ (s.bank cA).eng.de.prog.done = false ∧ (treeQueue s cA).head? ≠ some cA)) ∧
    (∀ g ∈ [[], [chargeReq (whoData 0) cA (st0.clsWeight 0 14)]], let x := aDe .chain 2
     let s := stDe true x [] [] g
     runningHead s cA .de = some x ∧ (s.bank cA).eng.de.prog.done = false ∧
     (takeGrant s 0 (chargeReq (whoData 0) cA (s.clsWeight 0 14))).isSome = !g.isEmpty) := by decide +kernel

theorem wit_EngineEvents_free : let s := stRun false 8 none
    copyRunning s cA = some (.ci, aCpy) ∧ blocksBegun ((s.bank cA).eng.fifo .ci).prog.count (stepBits s cA aCpy 0) = 0 ∧
    (s.bank cA).eng.de.prog.last ≠ some (0, 0) := by decide +kernel

def aLease : Lease := { holder := cA, left := 1, since := 0 }

theorem wit_EngineEvents_lease :
    (let s := withBank { bankX with eng := { Engines.reset with wantMx := true } }
     (s.cluster 0).lease = none ∧
     ((List.range 8).map fun k => ((s.cluster 0).lastH + 1 + k) % 8).find? (fun k => wantsLease s (clusterBank 0 k)) = some 0) ∧
    (let s := atTime 65536 (withCluster { Cluster.reset with lease := some aLease } st0)
     (s.cluster 0).lease = some aLease ∧ clusterOf aLease.holder.core = 0 ∧ aLease.since + 65536 ≤ s.time ∧
     (s.bank aLease.holder).eng.mx.run = false) := by decide +kernel

/-- Bank A of core 0, or its memory steps, ask for a weight. -/
def aReqC (who w : Nat) : ChargeReq := { who := who, bank := 0, weight := w }
def stAsk (who w : Nat) : State := withBucket { Bucket.reset with reqs := [aReqC who w], level := 0 } st0

theorem wit_EngineEvents_bucket :
    ((st0.cluster 0).bucket.reqs = [] ∧ (st0.cluster 0).bucket.resv = [] ∧ (st0.cluster 0).bucket.granted = []) ∧
    (∀ who ∈ [0, 1], ∀ w ∈ [512, 513], let s := stAsk who w
      (s.cluster 0).bucket.reqs = [aReqC who w] ∧ (s.cluster 0).bucket.resv = [] ∧ who < 19 ∧ frozenReq s 0 (aReqC who w) = false ∧
      (s.cluster 0).bucket.granted = [] ∧ (stepGrant (aReqC who w) = true ↔ who = 1) ∧
      (w ≤ min (s.cluster 0).bucket.cap ((s.cluster 0).bucket.level + (s.cluster 0).bucket.cur) ↔ w = 512)) := by decide +kernel

/-- CUR after a refusal, and after a full microsecond (R243): 512 + 256 and 768 - 256; and none of both before the microsecond is over. -/
def curAfter (t : Nat) (b : Bucket) : Nat := ((oneStep (.refillTick 0) (atTime t (withBucket b st0))).cluster 0).bucket.cur
theorem test_refill : curAfter 1900 { Bucket.reset with anyRef := true } = 768 ∧ curAfter 1900 { Bucket.reset with cur := 768 } = 512 ∧
    curAfter 1899 { Bucket.reset with cur := 768 } = 768 ∧ curAfter 3799 { Bucket.reset with cur := 768, tickAt := 1900 } = 768 := by
  decide +kernel

def withClk (k : Clocking) : State := atTime 38000 (withCluster { Cluster.reset with clk := k } st0)

theorem wit_EngineEvents_clocks :
    ((st0.cluster 0).clk.busy = false ∧ (0xC : BitVec 4).toNat < 0xD ∧ (0xC : BitVec 4) ≠ (st0.cluster 0).clk.bb) ∧
    (let k := ((withClk { Clocking.reset with busy := true, curHalf := true }).cluster 0).clk
     k.busy = true ∧ k.hop = false ∧ k.curHalf = true ∧ k.biasSince + 38000 ≤ 38000) ∧
    ((st0.cluster 0).clk.hop = false ∧ (st0.cluster 0).clk.retry = false ∧ true ≠ (st0.cluster 0).clk.curSrc) ∧
    (let s := atTime 8 (withClk { Clocking.reset with hop := true })
     (s.cluster 0).clk.hop = true ∧ (s.cluster 0).clk.hopSince + 8 ≤ s.time) ∧
    (let k := ((withClk { Clocking.reset with retry := true, cycles := 256 }).cluster 0).clk
     k.retry = true ∧ k.stretch = false ∧ k.droopAt + 256 ≤ k.cycles) ∧
    (let k := ((withClk { Clocking.reset with stretch := true, cycles := 16 }).cluster 0).clk
     k.stretch = true ∧ k.droopAt + 16 ≤ k.cycles) ∧
    (let k := ((withClk { Clocking.reset with ask := true }).cluster 0).clk
     k.ask = true ∧ k.hop = false ∧ k.retry = false) ∧
    (let s := withClk { Clocking.reset with phase := 0, curHalf := true }
     (s.cluster 0).clk.hop = false ∧ (s.cluster 0).clk.phase + 1 < clusterClock s 0) ∧
    (sensorDue st0 0 = true ∧ sensorDue (withClk { Clocking.reset with sensAt := some 1 }) 0 = false) ∧
    st0.plat.power = .on := by decide +kernel

/-- A block of the Birith link carries each value whole: its exponents' least, the width of the deltas, the flag bytes (R114). -/
theorem test_link_block :
    let b := linkBlock ((([0x3F800000, 0xC1200000, 0] : List Nat)).map (linkNum 8 23))
    b.head = 0x2000#16 ∧ ofBlocks 4 8 23 [b] = natLe 4 0x3F800000 ++ natLe 4 0xC1200000 ++ natLe 4 0 ∧
    (linkBlock [linkNum 10 45 (2 ^ 56 + 5 * 2 ^ 45)]).head = 0x4005#16 := by decide +kernel

/-! ### The scheduler's events -/

def stSched (x : Sched) : State := { st0 with sched := x }
def aPiece (size : Nat) : PieceStore := { hart := 1, q := 63, off := 0, size := size, val := 1 }
/-- Node 5 of a class in a state, in the pool and with queue 0 open. -/
def stPool (cls : NodeClass) (x : NodeState) : State :=
  stSched { Sched.reset with
    nodes := [(5, { Node.reset with st := x, desc := { NodeDesc.reset with cls := cls } })], pool := [5]
    queues := [(0, { Queue.reset with en := true })] }

theorem wit_SchedulerEvents_submit : st0.plat.power = .on ∧ st0.queueOpen 0 = false ∧
    ((aPiece 8).size = 8 ∧ (aPiece 8).off.val = 0 ∧ tabGet? st0.sched.staging (aPiece 8).hart = none ∧ (aPiece 4).size ≠ 8) ∧
    (st0.candidates .single = [] ∧ st0.openPool .gang = [] ∧ st0.plat.slp.busy = false ∧ st0.sched.resv = none) ∧
    (let s := { stPool .single .ready with banks := [] }
     s.openPool .gang = [] ∧ s.sched.resv = none ∧ firstSingle s = some (5, cA)) := by decide +kernel

/-- Node 5 is bound and its banks wait for its side table, which can be read. -/
def stSide : State :=
  { stSched { Sched.reset with nodes := [(5, { Node.reset with st := .bound, members := [cA] })] } with banks := [(0, { bank0 with phase := .bound })] }

theorem wit_SchedulerEvents_nodes :
    (let s := atTime 2 (stSched { Sched.reset with sel := [{ node := 5, at_ := 0, banks := [], prio := 0 }] })
     s.sched.sel = { node := 5, at_ := 0, banks := [], prio := 0 } :: [] ∧ 0 + 2 ≤ s.time ∧ sideDue s = none) ∧
    sideDue stSide = some 5 ∧
    (let s := atTime 0x400000 (stPool .single .ready)
     (s.node 5).st = .ready ∧ (s.node 5).since + ((s.node 5).aged + 1) * s.sched.age.toNat ≤ s.time) ∧
    (∀ cls ∈ [NodeClass.single, .gang],
      let s0 := atTime 0x10000 (stPool cls .ready)
      let s := { s0 with sched := { s0.sched with first := [(classIx cls, (5, 0))] } }
      tabGet? s.sched.first (classIx cls) = some (5, 0) ∧ s.sched.preempt ≠ 0 ∧ 0 + s.sched.preempt.toNat ≤ s.time ∧
      (s.node 5).st = .ready ∧ s.sched.sel = [] ∧ fitsNow s 5 = true) ∧
    ((stPool .application .ready).plat.power = .on ∧ (stPool .application .ready).plat.slp.busy = false ∧ ((stPool .application .ready).candidates .application).head? = some 5 ∧
      (∀ e ∈ (stPool .application .ready).sched.queues, 5 ∉ e.2.rlist)) ∧
    (((stPool .application .running).node 5).st = .running ∧ ((stPool .application .running).node 5).desc.cls = .application) := by
  decide +kernel

def aLaunch (l : List (BitVec 256)) : Launch :=
  { who := none, node := 5, queue := 0, join := 0, lock := 0, pages := [], addr := 0, count := 0, recs := l, batch := none, i := 0, j := 0,
    prev := 0, created := 0 }

theorem wit_SchedulerEvents_records :
    (let s := stSched { Sched.reset with launch := [aLaunch []] }
     s.sched.resid = [] ∧ s.sched.launch = aLaunch [] :: [] ∧ (aLaunch []).recs = []) ∧
    (headLaunch (stSched { Sched.reset with launch := [aLaunch [0]] }) = some (aLaunch [0]) ∧ (aLaunch [0]).recs ≠ []) := by decide +kernel

/-- Queue 1 holds slots 0x100 to 0x1FF. -/
def stQueues (en : Bool) : State :=
  stSched { Sched.reset with queues := [(0, { Queue.reset with en := en, stop := true }), (1, { Queue.reset with base := 0x100, size := 0x100 })] }

/-- A write that QSLOT takes: size and base. -/
def qslotOk (s : State) (x : BitVec 32) : Prop := (x.extractLsb' 0 16).toNat + (x.extractLsb' 16 16).toNat ≤ 65536 ∧
  (∀ e ∈ s.sched.queues, e.1 = 0 ∨ e.2.size = 0 ∨ x.extractLsb' 16 16 = 0 ∨
    (x.extractLsb' 0 16).toNat + (x.extractLsb' 16 16).toNat ≤ e.2.base.toNat ∨ e.2.base.toNat + e.2.size.toNat ≤ (x.extractLsb' 0 16).toNat)

theorem wit_SchedulerEvents_queues : ((stQueues true).queue 0).stop = true ∧ (stPool .single .ready).queueOpen 0 = true ∧
    (∀ en, (stQueues en).queueOpen 0 = false ∧ ∀ v ∈ [0x01000000, 0xFE000200, 0x00000180], qslotOk (stQueues en) (BitVec.ofNat 32 v)) := by
  unfold qslotOk; decide +kernel

/-! ### Events of the memory block -/

def withMem (m : MemBlk) : State := { st0 with mem := m }
def mem2 : MemBlk := { MemBlk.reset with rmap := [(0, fetchRegion)], famCount := 512 }
def aWrite (pa : Nat) (l : List Byte) : ExtAccess := { agent := .pcie, pa := BitVec.ofNat 48 pa, size := 0, wr := some l }

theorem wit_MemoryEvents_access :
    (∀ pa ∈ [0x1000, 0x1FFE], let s := { withMem mem2 with plat := { st0.plat with ctlBase := 0x40000000 } }
      meetsCtl s (aWrite pa [1, 2]) 2 = false ∧ (aWrite pa [1, 2]).wr = some [1, 2] ∧ (aWrite pa [1, 2]).pa.toNat % 4096 + 2 ≤ 4096 ∧
      (match extCheck s (aWrite pa [1, 2]).pa.toNat true with | .served t => t == s | _ => false) = true) ∧
    (match extCheck (withMem { mem2 with fam := [(1, famNM)] }) 0x1000 true with | .error _ => true | _ => false) = true ∧
    (withMem MemBlk.reset).region 0x1000 = none ∧
    meetsCtl { st0 with plat := { st0.plat with ctlBase := 0x1000 } } (aWrite 0xFFF [1, 2]) 2 = true := by decide +kernel

/-- Frame 1 with a byte of the FAM table. -/
def stFam (x : Byte) (held : List (BitVec 64)) (cf : Option Addr) : State :=
  withMem { mem2 with fam := [(1, x)], famHeld := held, cfaddr := cf }

theorem wit_MemoryEvents_frames :
    ((stFam famCMP [] none).famHas (frameOf 0x1000) famCMP = true ∧ (stFam famCMP [] none).mem.cfaddr = none ∧
      (stFam famCMP [] (some 0x1000)).mem.cfaddr = some 0x1000) ∧
    ((stFam famMIG [] none).mainFrame 1 = true ∧ (stFam famMIG [] none).famHas 1 famMIG = true ∧ (stFam 0 [] none).mainFrame 1 = true ∧
      (stFam 0 [] none).famHas 1 famMIG = false) ∧
    ((stFam 0 [1] none).mem.famHeld = 1 :: [] ∧ (stFam 0 [1] none).famHas ((1 : BitVec 64).extractLsb' 0 36).toNat famMIG = false) ∧
    (st0.plat.power = .on ∧ (stFam famMPIN [] none).famHas 1 famMPIN = true ∧ (stFam 0 [] none).famHas 1 famMPIN = false ∧
      (stFam 0 [] none).mem.mreqs = []) := by decide +kernel

/-- A chunk of sixteen constant blocks at 0x10000, all of its frames compressed, and 64 KiB for it at 0x20000. -/
def stExpand (src : Nat) (c : Ctl) : State :=
  withMem { mem2 with
    main := memSetBytes [] 0x10000 (natLe 4 32 ++ List.replicate 60 0 ++ (List.range 16).flatMap fun i => [2, BitVec.ofNat 8 (i + 1)])
    fam := (List.range 16).map fun i => (16 + i, famCMP)
    expsrc := BitVec.ofNat 48 src, expdst := 0x20000, expctl := c, expRun := (0x10000, 0x20000) }

/-- The source's first frame has another mark besides, and the destination is elsewhere. -/
def stSource (x : Byte) (dst : Nat) : State :=
  let s := stExpand 0x10000 .reset
  { s with mem := { s.mem with fam := tabSet s.mem.fam 16 (famCMP ||| x), expdst := BitVec.ofNat 48 dst } }
/-- An expansion waits, or runs while a frame of its source has a mark. -/
def stRunning (w : Bool) (x : Byte) : State :=
  let s := stSource (famMIG ||| x) 0
  { s with mem := { s.mem with expctl := { Ctl.reset with busy := true }, expWait := w } }

theorem wit_MemoryEvents_expand :
    (let s := stExpand 0x10001 .reset
     s.mem.expctl.busy = false ∧ s.mem.expctl.done = false ∧ s.mem.expsrc.toNat % 65536 ≠ 0) ∧
    (let s := stExpand 0x10000 .reset
     expandForm s 0x10000 = true ∧ expandDest s 0x20000 = true ∧ expandUe s 16 = none ∧
     ((List.range 16).any fun i => s.famHas (16 + i) famMIG) = false) ∧
    (expandForm (stSource famMIG 0) 0x10000 = true ∧ ((List.range 16).any fun i => (stSource famMIG 0).famHas (16 + i) famMIG) = true ∧
      (stSource famMIG 0).mem.expctl.busy = false) ∧
    (∀ d ∈ [0x20000, 0x20001], expandForm (stSource famPSN d) 0x10000 = true ∧ (expandUe (stSource famPSN d) 16).isSome = true ∧
      ((List.range 16).any fun i => (stSource famPSN d).famHas (16 + i) famMIG) = false ∧ expandDest (stSource famPSN d) d = (d == 0x20000)) ∧
    (∀ x ∈ [(true, 0), (false, 0), (false, famPSN)], let s := stRunning x.1 x.2
      s.mem.expctl.busy = true ∧ s.mem.expWait = x.1 ∧ (expandUe s (frameOf s.mem.expRun.1.toNat)).isSome = (x.2 == famPSN)) ∧
    (stExpand 0x10000 { Ctl.reset with busy := true }).mem.expctl.busy = true ∧
    (stExpand 0x10000 { Ctl.reset with busy := true }).mem.expRun.1.toNat = 0x10000 ∧
    (stExpand 0x10000 { Ctl.reset with done := true }).mem.expctl.done = true := by decide +kernel

theorem wit_MemoryEvents_expand_source : (chunkAt (stExpand 0x10000 .reset) 0x10000).isSome = true ∧
    (stExpand 0x10000 .reset).sched.stalled = [] ∧ (stExpand 0x10000 .reset).res.emits = [] ∧
    (∀ e ∈ (stExpand 0x10000 .reset).banks, e.2.pipe.steps = []) ∧
    (chunkAt (stExpand 0x10000 { Ctl.reset with busy := true }) 0x10000).isSome = true := by decide +kernel

/-- A swap of two frames or larger units. -/
def stSwap (a b : Nat) (c : Ctl) : State :=
  withMem { mem2 with swpa := BitVec.ofNat 48 a, swpb := BitVec.ofNat 48 b, swpctl := c
                      swpRun := { a := BitVec.ofNat 48 a, b := BitVec.ofNat 48 b, pa := 0, pb := 0, sz := 0, pte := false } }

theorem wit_MemoryEvents_swap :
    (let s := stSwap 0x1000 0x2000 .reset
     s.mem.swpctl.busy = false ∧ s.mem.swpctl.done = false ∧ swapRefused { s with mem := { s.mem with swpsz := 0, swppte := false } } = none) ∧
    (let s := stSwap 0x1000 0x1000 .reset
     swapRefused { s with mem := { s.mem with swpsz := 0, swppte := false } } = some 2) ∧
    (let s := stSwap 0x1000 0x2000 { Ctl.reset with busy := true }
     s.mem.swpctl.busy = true ∧ s.mem.swpRun.pte = false ∧ s.mem.bad = [] ∧
     s.mem.swpRun.a.toNat + swapBytes s.mem.swpRun.sz ≤ s.mem.swpRun.b.toNat) ∧
    (stSwap 0x1000 0x2000 { Ctl.reset with done := true }).mem.swpctl.done = true := by decide +kernel

def aBank : RowBank := { channel := 31, sub := 1, bank := 15 }
def aHold : Hold := { rb := aBank, row := 5, ctx := cA, hs := [], since := 0, at_ := 0, closed := false }
def stHold : State := atTime 30400 { st0 with heap := { Heap.reset with holds := [aHold] } }

theorem wit_MemoryEvents_holds : holdOn stHold.heap.holds aBank = some aHold ∧
    aHold.since + stHold.heap.holdmax.toNat * 1900 ≤ stHold.time ∧ stHold.now 0 < aHold.at_ + stHold.heap.holdq.toNat ∧
    (let s := withCluster { Cluster.reset with clk := { Clocking.reset with cycles := 65535 } } stHold
     aHold.at_ + s.heap.holdq.toNat ≤ s.now 0) := by decide +kernel

theorem wit_MemoryEvents_registers : 6 ≤ (0x600000 : BitVec 24).toNat / 2 ^ 20 ∧ 6 ≤ (0xFFFFFF : BitVec 24).toNat / 2 ^ 20 ∧
    st0.plat.power = .on := by decide +kernel

/-! ### Events of the heap -/

def withHeap (h : Heap) : State := { st0 with heap := h }
/-- Granule 0 in use, with object 5 of a state. -/
def heap5 (x : ObjState) : Heap :=
  { Heap.reset with en := true, size := 1, gran := [(0, .used)], ot := [(5, { Obj.reset with st := x, addr := 0x1000 })] }
def heapSp (h : Heap) (sp : Spatula) : Heap := { h with spat := sp }

theorem wit_HeapEvents_compaction :
    (let s := withHeap (heap5 .live)
     s.heap.spat.want = false ∧ s.heap.spat.busy = false ∧ s.freeGrans < s.heap.freelow.toNat ∧ 0 ∈ takeGrans s s.fwdFree s.leanGrans ∧
     5 ∈ s.granObjs 0 ∧ (s.obj 5).movable = true) ∧
    (∀ f ∈ [[], [({ cyc := 255, new := 0, old := 0 } : Fwd)]], let s := withHeap { heapSp (heap5 .live) { Spatula.reset with want := true } with fwd := f }
     s.heap.spat.want = true ∧ s.heap.spat.busy = false ∧ waitsForOld s (s.heap.cycle + 1) = (f != [])) ∧
    (let s := withHeap (heapSp (heap5 .dead) { Spatula.reset with busy := true, todo := [5], chosen := [0] })
     s.heap.spat.busy = true ∧ s.heap.spat.cur = none ∧ s.heap.spat.todo = 5 :: [] ∧ (s.obj 5).pins = 0 ∧ (s.obj 5).st = .dead ∧
     s.heap.spat.chosen.contains ((s.obj 5).addr / 2 ^ 21) = true) ∧
    (let s := withHeap (heapSp (heap5 .reloc) { Spatula.reset with busy := true, cur := some { oti := 5, old := 0x1000, new := 0x201000 } })
     s.heap.spat.cur = some { oti := 5, old := 0x1000, new := 0x201000 } ∧
     ∀ x, (let s1 : State := { s with mem := { mem2 with main := memSetBytes [] 0x1000 (natLe 4 256), fam := if x then [(1, famPSN)] else [] } }
      unitFault s1 (s1.heapPa 0x1000) (s1.objSize 0x1000) .rd = x)) ∧
    (let s := withHeap (heapSp (heap5 .live) { Spatula.reset with busy := true })
     s.heap.spat.busy = true ∧ s.heap.spat.todo = [] ∧ s.heap.spat.cur = none) ∧
    st0.heap.spat.busy = false ∧
    ((withHeap (heap5 .poison)).obj 5).st = .poison ∧ st0.plat.power = .on := by decide +kernel

/-- A cold-eligible object of 64 KiB, with a cold area of some blocks. -/
def stCold (len : Nat) : State :=
  { withHeap { heap5 .live with ce := true, base := 0x200000, coldage := 0, coldlen := BitVec.ofNat 64 len } with
    mem := { MemBlk.reset with main := memSetBytes [] 0x201000 (natLe 4 65536) } }

theorem wit_HeapEvents_eviction : (∀ n ∈ [16, 17], let s := stCold n
      s.heap.evict = none ∧ evictable s 5 = true ∧ (s.heap.coldNext + coldBlocks (s.objSize (s.obj 5).addr) ≤ s.heap.coldlen.toNat ↔ n = 17)) ∧
    (let s := withHeap { heap5 .evict with evict := some 5 }
     s.heap.evict = some 5 ∧ s.res.reqs = []) := by decide +kernel

/-- A recall of object 5, whose place in the cold area has no byte; its space is found or not, and its chunk is still to be read or not. -/
def stRecall (l : Tab (Option Nat)) (f : List Fwd) (reqs : List FillReq) : State :=
  { withHeap { heap5 .recall with recalls := [5], coldAt := [(5, (0, 0))], fwd := f, recallTo := l } with
    cores := [(0, { core0 with alloc := some (0, 0) })], res := { Resid.reset with reqs := reqs } }
def aRecall : FillReq := { cls := 1, what := .recall 5, chunk := 0, seq := 0, cl := 0, paid := 0, img := [], askers := [] }
def fullFwd : List Fwd := List.replicate 16384 { cyc := 0, new := 0, old := 0 }

theorem wit_HeapEvents_recall :
    ((stRecall [] fullFwd [aRecall]).res.reqs = [aRecall] ∧ aRecall.what = .recall 5 ∧
      tabGet? (stRecall [] fullFwd [aRecall]).heap.recallTo 5 = none ∧ recallPlace (stRecall [] fullFwd [aRecall]) 5 = none) ∧
    (∀ l ∈ [[], [(5, some 0x1000)]], (recallPlace (stRecall l [] []) 5).isSome = true ∧ tabGet? (stRecall l [] []).heap.coldAt 5 = some (0, 0)) ∧
    (∀ f ∈ [[], fullFwd], let s := stRecall [(5, some 0x1000)] f []
      5 ∈ s.heap.recalls ∧ s.res.reqs = [] ∧ (s.fwdFree = 0 ↔ f ≠ []) ∧ tabGet s.heap.recallTo 5 none = some 0x1000) ∧
    (5 ∈ (stRecall [] [] []).heap.recalls ∧ (stRecall [] [] []).res.reqs = [] ∧ tabGet (stRecall [] [] []).heap.recallTo 5 none = none) := by decide +kernel

/-- The tag of the empty chunk 0, and the cold area that holds it or another word in its place. -/
def emptyTag : List Byte := gcmTag (aesSchedule (natLe 32 Config.coldKey.toNat)) (coldIv (stRecall [] [] []) 5 0) [] []
def stTag (x : Byte) : State :=
  (stRecall [] [] []).setFar (coldFar (stRecall [] [] [])) (memSetBytes [] 65536 (emptyTag.map fun b => b ^^^ x))

/-- The chunk of the one opens, that of the other does not. -/
theorem wit_HeapEvents_recall_chunk : openChunk (stTag 0) 5 0 0 0 = some [] ∧ openChunk (stTag 1) 5 0 0 0 = none := by
  have hl : emptyTag.length = 16 := rfl
  have hr (x : Byte) : memBytes (memSetBytes [] 65536 (emptyTag.map fun b => b ^^^ x)) 65536 16 = emptyTag.map fun b => b ^^^ x := by
    apply List.ext_getElem
    · simp [memBytes, hl]
    · intro i h1 h2
      simp only [memBytes, List.getElem_map, List.getElem_range]
      rw [memByte_memSetBytes_same _ _ _ _ h2, List.getElem_map]
  have hp (x : Byte) : openChunk (stTag x) 5 0 0 0 =
      if emptyTag = emptyTag.map (fun b => b ^^^ x) then some [] else none := by
    have hm : (stTag x).farMem (coldFar (stTag x)) = memSetBytes [] 65536 (emptyTag.map fun b => b ^^^ x) := by
      simp [stTag, State.farMem, State.setFar, coldFar]
    have hb : coldByte (stTag x) 0 0 = 0 := rfl
    have hi : coldIv (stTag x) 5 0 = coldIv (stRecall [] [] []) 5 0 := rfl
    have h0 (m : Mem) : memBytes m 0 0 = [] := rfl
    have hc (ks : List (List Byte)) (iv : List Byte) : gcmCrypt ks iv [] = [] := rfl
    simp only [openChunk, gcmOpen, hm, hb, hi, hr, h0, hc, Nat.mul_zero, Nat.sub_zero, Nat.zero_add, Nat.min_zero]
    exact ite_congr rfl (fun _ => rfl) (fun _ => rfl)
  have hz : ∀ t : List Byte, t = t.map fun b => b ^^^ (0 : Byte) := by simp
  have ho : ∀ x : Byte, x ≠ x ^^^ (1 : Byte) := by decide
  refine ⟨by rw [hp, if_pos (hz _)], ?_⟩
  rw [hp, if_neg]
  intro h
  have h0 := congrArg (fun l => l.getD 0 0) h
  have : 0 < emptyTag.length := by omega
  simp only [List.getD, List.getElem?_map, List.getElem?_eq_getElem this, Option.map_some, Option.getD_some] at h0
  exact ho _ h0

/-! ### Events of the residency unit -/

def stSlot (x : Slot) (pins : Nat) : State :=
  { st0 with res := { Resid.reset with slots := [(7, x)], tags := [(1, { aTag 0xE0000200 .absent false with pins := pins })] } }

theorem wit_ResidEvents_slots :
    (installCode (stSlot { Slot.reset with v := true } 0) 7 = some 4 ∧ installCode (stSlot .reset 0) 7 = some 3) ∧
    (∀ x ∈ [{ Slot.reset with v := true }, Slot.reset, { Slot.reset with key := some 1 }],
      ((installReads (stSlot x 0) 7).any fun r => unitWait (stSlot x 0) r.1 r.2 .rd) = false) ∧
    (let s := stSlot { Slot.reset with key := some 1 } 0
     installCode s 7 = none ∧ (slotTags s 7).flatMap (mainFrames s) = []) ∧
    (let s := stSlot .reset 1
     (s.res.tags.filter fun e => xidSlot e.2.xid == 7).map Prod.fst = [1] ∧ (s.tag 1).pins ≠ 0) ∧
    ((st0.res.tags.filter fun e => xidSlot e.2.xid == 7).map Prod.fst = [] ∧ st0.res.retry = []) := by decide +kernel

def aReq (x : FillWhat) (paid : Nat) : FillReq := { cls := 1, what := x, chunk := 0, seq := 0, cl := 0, paid := paid, img := [], askers := [] }
def withRes (r : Resid) (s : State) : State := { s with res := r }

theorem wit_ResidEvents_chunks :
    (let s := withRes { Resid.reset with reqs := [aReq (.evict 5) 0] } st0
     pickReq s = some (aReq (.evict 5) 0) ∧ reqWaits s (aReq (.evict 5) 0) = false ∧ (aReq (.evict 5) 0).what = .evict 5) ∧
    (∀ p ∈ [0, 1022, 1023], ∀ on, let r : ChargeReq := { who := whoSteamer, bank := 0, weight := st0.clsWeight 0 15 }
      let s := withRes { Resid.reset with reqs := [aReq (.fill 1 false) p] } (withBucket { Bucket.reset with granted := if on then [r] else [] } st0)
      (s.res.reqs.all fun x => match x.what with | .recall _ => false | _ => true) = true ∧ pickReq s = some (aReq (.fill 1 false) p) ∧ reqWaits s (aReq (.fill 1 false) p) = false ∧ s.clsWeight 0 15 = st0.clsWeight 0 15 ∧
      (takeGrant s 0 r).isSome = on) := by decide +kernel

theorem wit_ResidEvents_rest :
    (let s : State := withRes { Resid.reset with tags := [(1, aTag 0x200 .absent false)] } { st0 with aon := 1000000 }
     s.res.decayAt + max 1 s.res.xrepDec.toNat * 1000000 ≤ s.aon ∧ tabGet? s.res.tags 1 = some (aTag 0x200 .absent false)) ∧
    finalReady (withRes { Resid.reset with finals := [(0, 3)] } st0) 0 3 = true := by decide +kernel

/-- An expert whose home queue is this device's, open in mode A, with a threshold. -/
def stClaim (n : Nat) : State :=
  withRes { Resid.reset with tags := [(1, { aTag 0x200 .resident false with bthr := n, home := { XQueue.fresh 0 0 with bmode := 1 } })] } st0

theorem wit_ResidEvents_claims : ∀ n ∈ [1, 2], let s := stClaim n
    s.plat.slp.busy = false ∧ s.tagIx? 0x200 = some 1 ∧ localQueue s (s.tag 1) = some 0 ∧ (s.tag 1).psn = false ∧ (s.tag 1).fin = false ∧ ((s.tag 1).xq 0).occ < 4096 ∧
    ((s.tag 1).xq 0).bmode ≠ 0 ∧
    (let s1 := (claimFor s none 1 0 9 none).1
     ((((s1.tag 1).xq 0).slots.filter fun e => e.2.committed).length = (s1.tag 1).threshold ↔ n = 1)) := by decide +kernel

def aRemote (pa : Nat) : RemoteCopy := { dev := 1, pa := BitVec.ofNat 48 pa, red := 0, fmt := 0, wire := .bytes [1, 2] }
def aChunk : DistChunk := { xid := 0x200, far := false, idx := 0, data := [] }
/-- Device 1. -/
def stDev (tags : Tab Tag) : State :=
  { withRes { Resid.reset with tags := tags } st0 with plat := { st0.plat with lnkid := 0x301 } }

theorem wit_ResidEvents_peers :
    (∀ pa ∈ [0, 0x1FFFFE], let s := withMem mem2
      (aRemote pa).red = 0 ∧ (aRemote pa).fmt = 0 ∧ wireData (aRemote pa).wire = [1, 2] ∧ (aRemote pa).pa.toNat % 4096 + 2 ≤ 4096 ∧
      (s.region (aRemote pa).pa.toNat).map Region.cls = some 0 ∧
      (match extCheck s (aRemote pa).pa.toNat true with | .served t => t == s | _ => false) = true) ∧
    (stDev []).devNo ≠ 0 ∧ (stDev []).tagIx? aChunk.xid = none ∧
    (let s := stDev [(1, { aTag 0x200 .absent false with cm := { CopyDesc.zero with nch := 1 } })]
     s.devNo ≠ 0 ∧ s.tagIx? aChunk.xid = some 1 ∧ aChunk.idx < ((s.tag 1).srcDesc aChunk.far).nch ∧
     ((s.tag 1).srcDesc aChunk.far).nch ≤ { aChunk with idx := 1 }.idx) ∧
    (let s := { stDev [(1, { aTag 0x200 .absent false with cm := { CopyDesc.zero with nch := 1 } })] with plat := st0.plat }
     s.devNo = 0 ∧ s.tagIx? aChunk.xid = some 1 ∧ aChunk.idx < ((s.tag 1).srcDesc aChunk.far).nch ∧
     ((chunkReads s (s.tag 1) aChunk.far aChunk.idx).any fun r => unitWait s r.1 r.2 .rd) = false) := by decide +kernel

/-! ### Events of the platform -/

def withPlat (p : Platform) : State := { st0 with plat := p }
def platOn : Platform := st0.plat

/-- Sleep entry has begun, with a key load in progress or none. -/
def stEntry (k : Bool) : State := withPlat { platOn with slp := { platOn.slp with busy := true }, key := { Ctl.reset with busy := k } }

theorem wit_PlatformEvents_sleep : (st0.plat.power ≠ .off ∧ st0.plat.slp.busy = false ∧ sleepRefused st0 = none) ∧
    sleepRefused (stPool .single .running) = some 1 ∧
    (∀ k, (stEntry k).plat.power = .on ∧ (stEntry k).plat.slp.busy = true ∧ sleepWaits (stEntry k) = k ∧ (stEntry k).plat.wakeHeld = none) ∧
    ((withPlat { platOn with power := .waking }).plat.power = .waking ∧ (withPlat { platOn with power := .waking }).res.warmEn = false) := by
  decide +kernel

/-- Asleep, with an image of no byte that has the digest of one, or another. -/
theorem wit_PlatformEvents_wake :
    (let s := withPlat { platOn with power := .asleep, fwDig := sha3 [] }
     s.plat.power = .asleep ∧ firmwareIntact s = true) ∧
    (let s := withPlat { platOn with power := .asleep, fwDig := [] }
     s.plat.power = .asleep ∧ firmwareIntact s = false) := by decide +kernel

theorem wit_PlatformEvents_commands :
    (platOn.key.busy = false ∧ platOn.att.busy = false ∧ platOn.rs.busy = false) ∧
    (let s : State := { withPlat { platOn with wdRun := true, wdPer := 2 } with aon := 2000001 }
     s.plat.power = .on ∧ s.plat.wdRun = true ∧ s.plat.wdLast + 1000000 * s.plat.wdPer < s.aon) ∧
    (∀ k ∈ [Ctl.reset, { Ctl.reset with busy := true }], let s : State := { withPlat { platOn with key := k, att := k, rs := k, attRun := 0x1000, rsRun := 0x1000, keyRun := (7, 0x1000) } with mem := mem2 }
     s.plat.key.busy = k.busy ∧ s.plat.att.busy = k.busy ∧ s.plat.rs.busy = k.busy ∧ s.res.slots = [] ∧
     unitWait s s.plat.keyRun.2.toNat 1152 .rd = false ∧ unitFault s s.plat.keyRun.2.toNat 1152 .rd = false ∧
     ((reportReads s).any fun r => unitWait s r.1 r.2 .rd) = false ∧ ((reportReads s).any fun r => unitMeetsUe s r.1 r.2 .rd) = false ∧ unitWait s s.plat.attRun.toNat 4096 .wr = false ∧
     unitFault s s.plat.attRun.toNat 4096 .rd = false ∧ unitFault s s.plat.attRun.toNat 4096 .wr = false ∧
     unitWait s s.plat.rsRun.toNat 4096 .wr = false ∧ unitFault s s.plat.rsRun.toNat 4096 .wr = false) ∧
    (∀ x, ({ platOn with aonUp := x }).aonUp = x) ∧ (bootStages (afterReset st0) 0 []).2 = none := by decide +kernel

/-- A boot's stages all verify, or one of them does not: which one is the signature's to say (log 9). -/
theorem wit_PlatformEvents_boot (b : BootImage) : (bootStages (afterReset st0) 0 b.stages).2 = none ∨
    ∃ j, (bootStages (afterReset st0) 0 b.stages).2 = some j := by
  cases (bootStages (afterReset st0) 0 b.stages).2 <;> simp

/-! ### The step and the state after reset -/

/-- SADD s5, s0, 7 as the first instruction after reset. -/
def aWord : Nat := 0x820000A000000007
def stFirst : State := { State.reset.withFetchWord 64 aWord with agenda := [.issue 0] }
/-- The same with a memory step of an earlier word, and a LOOP of no turn, whose end lies outside the code range. -/
def stStepsFirst : State :=
  let s := State.reset.withFetchWord 64 (wordOf (.loop hd (bo 0 0 0 0x80000000))).toNat
  let b := s.bank cA
  { s.setBank cA { b with pipe := { b.pipe with steps := [aStep [1]] } } with agenda := [.issue 0] }

theorem wit_StepRunsDecoded :
    let s0 := { stFirst with agenda := [], iss := { stFirst.iss with cause := none } }
    let s1 := (match fetchBundle (startBundle s0 cA) cA (stFirst.bank cA).th.pc 4 with
      | .ok x => x.1
      | .error _ => st0)
    let s2 := { s1 with iss := { s1.iss with fall := s1.iss.pc + 8 } }
    stFirst.agenda = .issue 0 :: [] ∧ stFirst.plat.power = .on ∧ (stFirst.core 0).issuing = some 0 ∧ canIssue s0 cA = true ∧
    (stFirst.bank cA).pipe.wait = .none ∧ (stFirst.bank cA).pipe.steps = [] ∧ (stFirst.bank cA).discard = false ∧ (stFirst.bank cA).dfault = none ∧
    (stFirst.bank cA).eng.faults = [] ∧ gangStart s0 cA = none ∧
    (match decodeWord (BitVec.ofNat 64 aWord) with
      | .ok i => (registerError s1 cA [{ slot := (slotOf (BitVec.ofNat 64 aWord)).getD 0, i := i }]).isNone
      | .error _ => false) = true ∧
    (match fetchBundle (startBundle s0 cA) cA (stFirst.bank cA).th.pc 4 with
      | .ok x => x.2 == [BitVec.ofNat 64 aWord]
      | .error _ => false) = true ∧
    (match decodeWord (BitVec.ofNat 64 aWord) with
      | .ok i => !stepsWait s2.cur [{ slot := (slotOf (BitVec.ofNat 64 aWord)).getD 0, i := i }] && precheck i s2.cur == none && !interlocked i s2.cur none && (match exec i { s2 with iss := { s2.iss with slot := 0 } } with
        | .next t => t.iss.verdict == .done
        | _ => false)
      | .error _ => false) = true := by decide +kernel

/-- The first instruction after reset where that is another word, and the bank's engines are these. -/
def stFirstOf (i : Instr) (e : Engines) : State :=
  let s := State.reset.withFetchWord 64 (wordOf i).toNat
  { s.setEng cA e with agenda := [.issue 0] }
def verdictOf (i : Instr) (e : Engines) : Option Verdict :=
  let s0 := { stFirstOf i e with agenda := [] }
  match fetchBundle (startBundle s0 cA) cA (s0.bank cA).th.pc 4 with
  | .ok (s1, _) => (match exec i { s1 with iss := { s1.iss with fall := s1.iss.pc + 8, slot := 0 } } with
    | .next t => some t.iss.verdict
    | _ => none)
  | .error _ => none

theorem wit_StepRunsDecoded_ends :
    verdictOf (.epop hd (eo 0 0 1 0 0 1)) (engDe .hacc) = some .stalled ∧
    verdictOf (.ld hd (mo 1 0 2 1)) .reset = some .diverted ∧ leavesThread (.ld hd (mo 1 0 2 1)) = false ∧ isTrap (.ld hd (mo 1 0 2 1)) = false ∧
    verdictOf (.trap hd (yo 0 0 0 5)) .reset = some .diverted ∧ isTrap (.trap hd (yo 0 0 0 5)) = true ∧
    verdictOf (.texit hd (yo 0 0 0 0)) .reset = some .diverted ∧ leavesThread (.texit hd (yo 0 0 0 0)) = true := by decide +kernel

/-- A word that takes a cause of its own while a step of an earlier word waits. -/
theorem wit_StepRunsDecoded_steps : let i := Instr.loop hd (bo 0 0 0 0x80000000)
    let s0 := { stStepsFirst with agenda := [] }
    canIssue s0 cA = true ∧ (s0.bank cA).pipe.steps ≠ [] ∧ stepsWait (s0.bank cA) [{ slot := 0, i := i }] = false ∧ precheck i (s0.bank cA) = none ∧
    leavesThread i = false ∧ isTrap i = false ∧
    (match fetchBundle (startBundle s0 cA) cA (s0.bank cA).th.pc 4 with
      | .ok (s1, _) => (match exec i { s1 with iss := { s1.iss with fall := s1.iss.pc + 8, slot := 0 } } with
        | .next t => t.iss.cause.isSome && t.iss.verdict == .diverted
        | _ => false)
      | .error _ => false) = true := by decide +kernel

theorem wit_ResetState : State.reset.plat.power ≠ .on ∧ State.reset.memWf = true := by decide +kernel

theorem wit_NothingRunsWithoutPower_resync : let s := { State.reset with plat := { Platform.reset with power := .dead, rs := { Ctl.reset with busy := true } } }
    s.plat.power = .dead ∧ s.agenda.all (fun m => !m.revives) = true ∧ s.plat.rs.busy = true := by decide +kernel

theorem wit_NothingRunsWithoutPower : State.reset.plat.power = .booting ∧ State.reset.agenda.all (fun m => !m.revives) = true ∧
    (match step State.reset with
      | .next _ => true
      | _ => false) = true := by decide +kernel

/-- The step runs the placed word as the first instruction after reset. -/
theorem test_first_step : (match step stFirst with
    | .next t => ((t.bank cA).sreg 5, (t.bank cA).th.pc)
    | _ => (0, 0)) = (7, (stFirst.bank cA).th.pc + 8) := by decide +kernel

end Sys2Proof.Tests
end

section
/-! SUPPORT. The rules of a bundle and of its issue: what the checks answer for a bundle of one word (R271), how such a bundle ends by
its word's verdict (R272), what an attempt does with a bundle that passes its checks (R132, R241), and how an attempt becomes a step. -/

namespace Sys2Proof.Machine

/-! ### The checks of a bundle of one word -/

/-- A word whose major belongs to no slot does not decode (R282). -/
theorem decodeWord_ne_ok_of_no_slot {w : DWord} (h : slotOf w = none) (i : Instr) : decodeWord w ≠ .ok i := by
  unfold slotOf at h
  split at h <;> simp at h
  simp_all only [decodeWord, decodeMajor, reduceCtorEq, ne_eq, not_false_eq_true]

theorem slotOf_isSome_of_decode {w : DWord} {i : Instr} (h : decodeWord w = .ok i) : (slotOf w).isSome = true :=
  Option.isSome_iff_ne_none.mpr fun hn => decodeWord_ne_ok_of_no_slot hn i h

/-- One word is in order and names no destination twice, so that only a major without a slot is a bundle error (R271). -/
theorem bundleError_single {x : Item} (h : x.slot.isSome = true) : bundleError [x] = none := by
  obtain ⟨k, hk⟩ := Option.isSome_iff_exists.mp h
  simp [bundleError, bundleError.rest, orderError, destError, hk]

theorem wordError_single {x : Item} {i : Instr} {b : Bank} (hd : x.dec = .ok i) (hp : precheck i b = none) :
    wordError b [x] = none := by
  simp [wordError, hd, hp]

theorem wordsOf_single {x : Item} {i : Instr} (hd : x.dec = .ok i) : wordsOf [x] = [{ slot := x.slotNo, i := i }] := by
  simp [wordsOf, Item.instr?, hd, Except.toOption]

/-! ### How a bundle of one word ends -/

theorem isPush_eq_false_of_isLate {i : Instr} (h : isLate i = true) : isPush i = false := by
  unfold isLate at h
  split at h <;> simp [isPush] at h ⊢

theorem isLate_of_isTrap {i : Instr} (h : isTrap i = true) : isLate i = true := by
  unfold isTrap at h
  split at h <;> simp [isLate] at h ⊢

theorem isTrap_eq_false_of_leavesThread {i : Instr} (h : leavesThread i = true) : isTrap i = false := by
  unfold leavesThread at h
  split at h <;> simp [isTrap] at h ⊢

/-- One word has one order: it stands in exactly one of the four groups of `effectOrder`. -/
theorem effectOrder_single (x : Word2) : effectOrder [x] = [x] := by
  cases hl : isLate x.i with
  | false =>
    have ht : isTrap x.i = false := Bool.eq_false_iff.mpr fun h => by simp [isLate_of_isTrap h] at hl
    simp [effectOrder, hl, ht]
  | true =>
    have hp := isPush_eq_false_of_isLate hl
    cases ht : isTrap x.i <;> simp [effectOrder, hl, hp, ht]

/-- A word that is done is the whole run. -/
theorem runWords_single_done {x : Word2} {s t : State} (he : exec x.i { s with iss := { s.iss with slot := x.slot } } = .next t)
    (hv : t.iss.verdict = .done) : runWords [x] s = .all t := by
  simp [runWords, he, hv]

/-- A word that is not done holds the run. -/
theorem runWords_single_held {x : Word2} {s t : State} (he : exec x.i { s with iss := { s.iss with slot := x.slot } } = .next t)
    (hv : t.iss.verdict ≠ .done) : runWords [x] s = .held x t := by
  simp [runWords, he, hv]

theorem runBundle_single_done {x : Word2} {s t : State} (he : exec x.i { s with iss := { s.iss with slot := x.slot } } = .next t)
    (hv : t.iss.verdict = .done) : runBundle [x] s = .issued t := by
  simp [runBundle, runOrdered, effectOrder_single, runWords_single_done he hv]

theorem runBundle_single_held {x : Word2} {s t : State} (he : exec x.i { s with iss := { s.iss with slot := x.slot } } = .next t)
    (hv : t.iss.verdict ≠ .done) : runBundle [x] s = endingOf x t := by
  simp [runBundle, runOrdered, effectOrder_single, runWords_single_held he hv]

theorem endingOf_stalled {x : Word2} {t : State} (hv : t.iss.verdict = .stalled) : endingOf x t = .waits t := by
  simp [endingOf, hv]

theorem endingOf_trap {x : Word2} {t : State} (hv : t.iss.verdict ≠ .stalled) (ht : isTrap x.i = true) :
    endingOf x t = .trapped t := by
  unfold isTrap at ht
  split at ht
  next hi => simp [endingOf, hi]
  next => cases ht

theorem endingOf_other {x : Word2} {t : State} (hv : t.iss.verdict ≠ .stalled) (ht : isTrap x.i = false) :
    endingOf x t = if leavesThread x.i then .gone t else .cause t := by
  unfold endingOf
  split
  next hs => exact absurd hs hv
  next hi _ => simp [hi, isTrap] at ht
  next => rfl

/-! ### What an attempt does with a bundle that passes its checks -/

/-- The end of a bundle that took its thread elsewhere: its issue cycle passes in a bank whose mode changed. -/
def goneBundle (mode : Bool) (c : Ctx) (t : State) : State :=
  if (t.bank c).tr.mode = mode then t else t.setBank c (afterCycle (t.bank c))

/-- The outcome of an attempt by how its bundle ended, where no engine fault is due. -/
def endingOutcome (s : State) (c : Ctx) (l : List Word2) (e : Ending) : Host.Outcome State Fault Refusal :=
  match e with
  | .issued t => .next (commitBundle s c l t endBundle)
  | .gone t => .next (commitBundle s c l t (goneBundle s.cur.tr.mode c))
  | .trapped t => .next (commitBundle s c l t id)
  | .cause t => .next t
  | .waits t => .next t
  | .stop o => o

theorem dueEngFault_of_no_faults {s : State} {c : Ctx} (h : (s.bank c).eng.faults = []) : dueEngFault s c = none := by
  simp [dueEngFault, h, firstFault]

theorem dueDomainFault_of_no_fault {s : State} {c : Ctx} (h : (s.bank c).dfault = none) : dueDomainFault s c = none := by
  simp [dueDomainFault, h]

/-- A bundle that passes every check and that nothing holds up is run, and its ending says what the attempt leaves. -/
theorem issueWords_of_checks {s s1 s2 : State} {c : Ctx} {ws : List DWord} {l : List Word2}
    (h2 : { s1 with iss := { s1.iss with fall := s1.iss.pc + BitVec.ofNat 48 (8 * ws.length) } } = s2)
    (hl : wordsOf (itemsOf ws) = l)
    (hb : bundleError (itemsOf ws) = none) (hw : wordError s2.cur (itemsOf ws) = none)
    (hs : stepsWait s2.cur l = false) (hi : (l.any fun x => interlocked x.i s2.cur none) = false)
    (hf : dueEngFault s c = none) : issueWords s s1 c ws = endingOutcome s2 c l (runBundle l s2) := by
  simp only [issueWords, h2, hl, hb, hw, hs, hi, hf]
  cases runBundle l s2 with
  | trapped t => exact ite_self _
  | _ => rfl

/-- The words of a fetch that found no error in a register and met no domain fault are the bundle that is attempted. -/
theorem tryBundle_of_fetch {s s1 : State} {c : Ctx} {ws : List DWord}
    (hfetch : fetchBundle (startBundle s c) c (s.bank c).th.pc 4 = .ok (s1, ws))
    (hreg : registerError s1 c (wordsOf (itemsOf ws)) = none)
    (hdom : dueDomainFault s c = none) : tryBundle s c = issueWords s s1 c ws := by
  have hpc : (startBundle s c).iss.pc = (s.bank c).th.pc := rfl
  simp [tryBundle, hpc, hfetch, hreg, hdom]

/-! ### How an attempt becomes a step -/

theorem activeBank_of_canIssue {s : State} {c : Ctx} (h : canIssue s c = true) : activeBank s c = true := by
  simp only [canIssue, Bool.and_eq_true] at h
  exact h.1.1.1.1

/-- An issuing bank that is ready is not blocked on a fault, so that no other takes its place. -/
theorem rouse_of_ready {s : State} {c : Ctx} (hi : (s.core c.core).issuing = some c.bank) (hp : (s.bank c).phase = .ready) :
    rouse c.core s = s := by
  simp [rouse, hi, Bank.onFault, hp]

theorem settle_of_no_wait {s : State} {c : Ctx} (hw : (s.bank c).pipe.wait = .none) (hd : (s.bank c).discard = false) :
    settle c s = s := by
  have h1 : settleDiscard c s = s := by simp [settleDiscard, hd]
  have h2 : settleIdle c s = s := by simp [settleIdle, hw]
  have h3 : settleTexit c s = s := by simp [settleTexit, hw]
  rw [settle, h1, h2, h3]

theorem issueCore_of_canIssue {s t : State} {c : Ctx} (hc : canIssue s c = true) (hw : (s.bank c).pipe.wait = .none)
    (hd : (s.bank c).discard = false) (ht : issueNext s c = .next t) : issueCore c.core s = .next (helperTurn t c) := by
  have ha := activeBank_of_canIssue hc
  simp only [activeBank, Bool.and_eq_true, beq_iff_eq] at ha
  obtain ⟨⟨⟨hi, -⟩, hz⟩, hp⟩ := ha
  simp [issueCore, hz, rouse_of_ready hi hp, hi, settle_of_no_wait hw hd, hc, ht]

theorem issueBundle_eq {s t : State} {c : Ctx} (ht : tryBundle { s with iss := { s.iss with cause := none } } c = .next t) :
    issueBundle s c = .next (if !(s.bank c).pipe.steps.isEmpty && t.iss.cause.isSome
      then { s with iss := { s.iss with cause := none } } else t) := by
  simp only [issueBundle, ht, afterSteps]
  rfl

end Sys2Proof.Machine
end

section
/-! OBLIGATION O58. The step that issues a bundle of one word. Its premises are shared by the lemmas below: each says what the attempt
leaves for one verdict of the word, and one lemma says what a step makes of an attempt. -/

namespace Sys2Proof.Machine

/-- The state in which bank `c` attempts its bundle: the move is taken off the agenda and no cause has been raised. -/
def attemptState (s : State) (r : List Move) : State := { s with agenda := r, iss := { s.iss with cause := none } }

/-- A step whose move is the issue of a ready bank leaves what the attempt leaves, or, where that is a cause before the memory steps of
earlier words, the bundle unattempted; then the helper has its turn and landed words heal. -/
theorem step_of_tryBundle {s t : State} {r : List Move} {c : Ctx}
    (ha : s.agenda = .issue c.core :: r) (hp : s.plat.power = .on) (hc : canIssue (attemptState s r) c = true)
    (hw : (s.bank c).pipe.wait = .none) (hd : (s.bank c).discard = false) (hg : gangStart (attemptState s r) c = none)
    (ht : tryBundle (attemptState s r) c = .next t) :
    step s = .next (healLanded s (helperTurn
      (if !(s.bank c).pipe.steps.isEmpty && t.iss.cause.isSome then attemptState s r else t) c)) := by
  have hnext : issueNext { s with agenda := r } c = issueBundle { s with agenda := r } c := by
    have hg' : gangStart { s with agenda := r } c = none := hg
    simp [issueNext, hg']
  have hcore := issueCore_of_canIssue (s := { s with agenda := r }) hc hw hd (hnext.trans (issueBundle_eq ht))
  have hmove : makeMove (.issue c.core) { s with agenda := r } = issueCore c.core { s with agenda := r } := if_pos hp
  simp only [step, nextMove, ha, hmove, hcore, healed]
  rfl

/-- The attempt of a bundle of one word that passes its checks and that nothing holds up is the run of its word. -/
theorem tryBundle_single {s s1 s2 : State} {c : Ctx} {w : DWord} {i : Instr}
    (h2 : { s1 with iss := { s1.iss with fall := s1.iss.pc + 8 } } = s2)
    (hfetch : fetchBundle (startBundle s c) c (s.bank c).th.pc 4 = .ok (s1, [w])) (hdec : decodeWord w = .ok i)
    (hreg : registerError s1 c [{ slot := (slotOf w).getD 0, i := i }] = none) (hdom : (s.bank c).dfault = none)
    (heng : (s.bank c).eng.faults = []) (hpre : precheck i s2.cur = none)
    (hsteps : stepsWait s2.cur [{ slot := (slotOf w).getD 0, i := i }] = false) (hlock : interlocked i s2.cur none = false) :
    tryBundle s c = endingOutcome s2 c [{ slot := (slotOf w).getD 0, i := i }]
      (runBundle [{ slot := (slotOf w).getD 0, i := i }] s2) := by
  have hl : wordsOf (itemsOf [w]) = [{ slot := (slotOf w).getD 0, i := i }] := wordsOf_single hdec
  calc tryBundle s c = issueWords s s1 c [w] := tryBundle_of_fetch hfetch (hl ▸ hreg) (dueDomainFault_of_no_fault hdom)
    _ = _ := issueWords_of_checks h2 hl (bundleError_single (slotOf_isSome_of_decode hdec)) (wordError_single hdec hpre) hsteps
        (by simp [hlock]) (dueEngFault_of_no_faults heng)

/-- Nothing is bad, so that nothing heals. -/
theorem healLanded_of_none_bad {s t : State} (h : t.mem.bad = []) : healLanded s t = t := by
  simp [healLanded, h]

/-- A taken branch gives the next bundle (R301). -/
theorem endBundle_pc_of_target {s : State} {a : Addr} (h : s.iss.target = some a) : (endBundle s).cur.th.pc = a := by
  simp [endBundle, h]

theorem loopClosing_of_inactive {b : Bank} (h : ∀ k, k < 4 → (b.loops.get k).active = false) (pc : Addr) :
    loopClosing b pc = (b, none) := by
  have hnone : closingLoops b.loops pc = [] := by
    simp [closingLoops, h 0 (by decide), h 1 (by decide), h 2 (by decide), h 3 (by decide)]
  simp [loopClosing, hnone, closeLoops]

/-- With no loop active and no branch taken the bundle that follows is next (R323). -/
theorem endBundle_pc_of_no_loop {s : State} (ht : s.iss.target = none)
    (hl : ∀ k, k < 4 → ((afterCycle s.cur).loops.get k).active = false) : (endBundle s).cur.th.pc = s.iss.fall := by
  simp [endBundle, ht, loopClosing_of_inactive hl]

/-- Settles O58: the attempt runs the one word, and each verdict of the word is one ending of its bundle. -/
theorem stepRunsDecoded : Obligations.StepRunsDecoded := by
  refine ⟨?_, fun _ _ => healLanded_of_none_bad, fun _ _ => endBundle_pc_of_target, fun _ => endBundle_pc_of_no_loop⟩
  intro s core bank r s1 w i c s0 s2 k leaves ha hp _ hc hw hd hdom heng hg hsteps hfetch hreg hdec hpre hlock t he
  have htry : tryBundle s0 c = endingOutcome s2 c [{ slot := k, i := i }] (runBundle [{ slot := k, i := i }] s2) :=
    tryBundle_single rfl hfetch hdec hreg hdom heng hpre hsteps hlock
  have leaves_of {u : State} (hu : tryBundle s0 c = .next u) :
      leaves (if !(s.bank c).pipe.steps.isEmpty && u.iss.cause.isSome then s0 else u) :=
    step_of_tryBundle ha hp hc hw hd hg hu
  have held (hv : t.iss.verdict ≠ .done) := runBundle_single_held (x := { slot := k, i := i }) he hv
  have caused (hv : t.iss.verdict = .diverted) (hl : leavesThread i = false) (hr : isTrap i = false) : tryBundle s0 c = .next t := by
    rw [htry, held (by simp [hv]), endingOf_other (by simp [hv]) hr, hl]
    rfl
  refine ⟨fun hno => ?_, fun hsome hcause hv hl hr => ?_⟩
  · have leaves_attempt {u : State} (hu : tryBundle s0 c = .next u) : leaves u := by
      simpa [hno] using leaves_of hu
    refine ⟨fun hv => ?_, fun hv => ?_, fun hv hl hr => leaves_attempt (caused hv hl hr), fun hv hr => ?_, fun hv hl => ?_⟩
    · exact leaves_attempt (by rw [htry, runBundle_single_done he hv]; rfl)
    · exact leaves_attempt (by rw [htry, held (by simp [hv]), endingOf_stalled hv]; rfl)
    · exact leaves_attempt (by rw [htry, held (by simp [hv]), endingOf_trap (by simp [hv]) hr]; rfl)
    · have hr : isTrap i = false := isTrap_eq_false_of_leavesThread hl
      exact leaves_attempt (by rw [htry, held (by simp [hv]), endingOf_other (by simp [hv]) hr, hl]; rfl)
  · simpa [hsome, hcause] using leaves_of (caused hv hl hr)

end Sys2Proof.Machine
end

section
/-! SUPPORT. Laws of the scheduler's operations: what an error of a queue leaves (R56), what a recorded uncorrectable error leaves alone
(R139), what leaves and enters the pool (R48), and what a cycle of the distributor selects where no gang node may be (R49, R52, R53). -/

namespace Sys2Proof.Machine

/-- A part of the state that no step of a fold changes is unchanged after the fold. -/
theorem foldl_keeps {α β γ : Type} (part : α → γ) {op : α → β → α} (h : ∀ a b, part (op a b) = part a) (l : List β) (a : α) :
    part (l.foldl op a) = part a :=
  (List.foldl_hom part (g₂ := fun c _ => c) fun a b => (h a b).symm).symm.trans (List.foldl_fixed l)

/-- A fold that at each step keeps its choice or takes the element at hand ends with its first choice or with an element. -/
theorem foldl_picks {β : Type} {op : Option β → β → Option β} (h : ∀ b i, op b i = b ∨ op b i = some i) (l : List β) {b : Option β}
    {k : β} (hk : l.foldl op b = some k) : b = some k ∨ k ∈ l := by
  induction l generalizing b with
  | nil => exact .inl hk
  | cons i r ih =>
    rcases ih hk with hb | hr
    · rcases h b i with hkeep | htake
      · exact .inl (hkeep ▸ hb)
      · have hik : i = k := Option.some.inj (htake ▸ hb)
        exact .inr (hik ▸ List.mem_cons_self)
    · exact .inr (List.mem_cons_of_mem _ hr)

/-! ### Errors and staging buffers (R40, R56) -/

@[simp] theorem setStaging_queue (s : State) (hart : Nat) (x : Option Staging) (q : Nat) :
    (setStaging s hart x).queue q = s.queue q := rfl
@[simp] theorem setStaging_plat (s : State) (hart : Nat) (x : Option Staging) : (setStaging s hart x).plat = s.plat := rfl
@[simp] theorem setStaging_none_staging (s : State) (hart : Nat) : tabGet? (setStaging s hart none).sched.staging hart = none :=
  tabGet?_tabDel_same _ _

theorem schedError_ecode (s : State) (q code : Nat) (qerr : Word) (node : Nat) :
    ((schedError s q code qerr node).queue q).ecode = BitVec.ofNat 8 code :=
  congrArg Queue.ecode (State.queue_setQueue s q _)

theorem raiseEvent_evtst_zero (s : State) : (raiseEvent 0 s).plat.evtst.getLsbD 0 = true := by
  simp [raiseEvent]

theorem schedError_evtst (s : State) (q code : Nat) (qerr : Word) (node : Nat) :
    (schedError s q code qerr node).plat.evtst.getLsbD 0 = true := raiseEvent_evtst_zero _

/-- A store that is no piece: the error, and the agent's buffer emptied (R40). -/
theorem badWrite_spec (s : State) (p : PieceStore) : ((badWrite s p).queue p.q.val).ecode = 0x0A ∧
    tabGet? (badWrite s p).sched.staging p.hart = none ∧ (badWrite s p).plat.evtst.getLsbD 0 = true :=
  ⟨schedError_ecode s p.q.val 0x0A _ 0xFFFF, setStaging_none_staging _ _, schedError_evtst s p.q.val 0x0A _ 0xFFFF⟩

/-! ### Recorded errors (R139) -/

/-- What finding an uncorrectable error never changes. -/
def ueKept (s : State) : Tab Bank × Sched × Mem := (s.banks, s.sched, s.mem.main)

theorem foundUe_kept (s : State) (w : Option Ctx) (strc key : Nat) : ueKept (foundUe s w strc key) = ueKept s := by
  have hcount : ueKept (countUe s w strc key) = ueKept s := rfl
  have hdrop (t : State) : ueKept (t.dropBad strc key) = ueKept t := rfl
  have hcore (t : State) (k : Fin 32) (x : Core) : ueKept (t.setCore k x) = ueKept t := rfl
  have hfam (t : State) (f : Nat) (on off : Byte) : ueKept (t.famSet f on off) = ueKept t := rfl
  have hfatal (t : State) : ueKept (fatalError 3 t) = ueKept t := rfl
  simp only [foundUe, apply_ite ueKept, hfatal, hfam, hcore, hdrop, hcount, ite_self]

theorem unitUe_kept (s : State) (pa n : Nat) (acc : Acc) : ueKept (unitUe s pa n acc) = ueKept s :=
  foldl_keeps ueKept (fun t e => by
    split
    · split
      · exact foundUe_kept _ _ _ _
      · rfl
    · rfl) _ s

theorem launchUe_kept (s : State) (l : Launch) : ueKept (launchUe s l) = ueKept s :=
  foldl_keeps ueKept (op := fun t (x : (Nat × Nat) × Nat) => unitUe t x.2 x.1.2 .rd) (fun t x => unitUe_kept t x.2 x.1.2 .rd) _ s

/-- Where no place is bad an access finds nothing. -/
theorem unitUe_of_none_bad {s : State} (h : s.mem.bad = []) (pa n : Nat) (acc : Acc) : unitUe s pa n acc = s := by
  unfold unitUe
  induction unitErrs s pa n acc with
  | nil => rfl
  | cons e r ih =>
    cases e with
    | ue strc key => simpa [h] using ih
    | _ => exact ih

theorem launchUe_of_none_bad {s : State} (h : s.mem.bad = []) (l : Launch) : launchUe s l = s := by
  unfold launchUe
  induction (arrayPieces l.addr (32 * l.count)).zip l.pages with
  | nil => rfl
  | cons x r ih => rw [List.foldl_cons, unitUe_of_none_bad h, ih]

/-! ### The pool (R48) -/

theorem mem_of_oldestListed {s : State} {j : Nat} (h : oldestListed s = some j) : ∃ e ∈ s.sched.queues, j ∈ e.2.rlist := by
  rcases foldl_picks (fun b i => by cases b with
    | none => exact .inr rfl
    | some k => exact (ite_eq_or_eq _ _ _).symm) _ h with hn | hj
  · cases hn
  · simpa [List.mem_flatMap] using hj

/-- A node of no ready list that leaves the pool is no longer in it. -/
theorem leavePool_not_mem {s : State} {i : Nat} (h : ∀ e ∈ s.sched.queues, i ∉ e.2.rlist) : i ∉ (leavePool s i).sched.pool := by
  have gone : i ∉ s.sched.pool.filter fun j => j != i := by simp
  unfold leavePool
  dsimp only
  split
  next => exact gone
  next j hj =>
    obtain ⟨e, he, hje⟩ := mem_of_oldestListed hj
    have hne : i ≠ j := fun hij => h e he (hij ▸ hje)
    split
    · simp [hne]
    · exact gone

/-! ### A cycle of the distributor (R49, R52, R53) -/

/-- To track the first node of a class changes that record alone. -/
theorem trackFirst_frame (s : State) (c : NodeClass) :
    trackFirst s c = { s with sched := { s.sched with first := (trackFirst s c).sched.first } } := by
  unfold trackFirst
  split
  · rfl
  · split
    · split <;> rfl
    · rfl

@[simp] theorem trackFirst_banks (s : State) (c : NodeClass) : (trackFirst s c).banks = s.banks := by rw [trackFirst_frame]
@[simp] theorem trackFirst_sel (s : State) (c : NodeClass) : (trackFirst s c).sched.sel = s.sched.sel := by rw [trackFirst_frame]
@[simp] theorem trackFirst_resv (s : State) (c : NodeClass) : (trackFirst s c).sched.resv = s.sched.resv := by rw [trackFirst_frame]

/-- The state without a gang's reservation. -/
def noResv (s : State) : State := { s with sched := { s.sched with resv := none } }

theorem noResv_of_none {s : State} (h : s.sched.resv = none) : noResv s = s := by
  unfold noResv
  rw [← h]

theorem insertPool_noResv (s : State) (i : Nat) (l : List Nat) : insertPool (noResv s) i l = insertPool s i l := by
  have hbefore (j : Nat) : poolBefore (noResv s) i j = poolBefore s i j := rfl
  induction l with
  | nil => rfl
  | cons j r ih => simp only [insertPool, hbefore, ih]

@[simp] theorem poolOrder_noResv (s : State) : (noResv s).poolOrder = s.poolOrder := by
  have hinsert : (fun l i => insertPool (noResv s) i l) = fun l i => insertPool s i l :=
    funext fun l => funext fun i => insertPool_noResv s i l
  unfold State.poolOrder
  rw [hinsert]
  rfl

/-- A reservation does not say which nodes may be selected. -/
@[simp] theorem openPool_noResv (s : State) (cls : NodeClass) : (noResv s).openPool cls = s.openPool cls := by
  unfold State.openPool
  rw [poolOrder_noResv]
  rfl

@[simp] theorem candidates_noResv (s : State) (cls : NodeClass) : (noResv s).candidates cls = s.candidates cls := by
  unfold State.candidates
  rw [openPool_noResv]
  rfl

theorem dropResv_of_no_gang {s : State} (h : s.openPool .gang = []) : dropResv s = noResv s := by
  unfold dropResv
  split
  next => simp [h, noResv]
  next hr => exact (noResv_of_none hr).symm

theorem selectGang_of_no_gang {s : State} (h : s.openPool .gang = []) : selectGang s = noResv s := by
  simp [selectGang, dropResv_of_no_gang h, h]

/-- Without a gang node the cycle is the single class's, and no reservation stands. -/
theorem selectAll_of_no_gang {s : State} (h : s.openPool .gang = []) : selectAll s = selectSingle (noResv s) := by
  have hlead : gangLeads s = true := by simp [gangLeads, State.candidates, h]
  simp [selectAll, hlead, selectGang_of_no_gang h]

theorem selectSingle_of_first {s : State} {i : Nat} {c : Ctx} (h : firstSingle s = some (i, c)) :
    selectSingle s = addSelection s i [c] := by
  simp [selectSingle, h]

theorem selectSingle_of_no_candidate {s : State} (h : s.candidates .single = []) : selectSingle s = s := by
  simp [selectSingle, firstSingle, h]

theorem preempt_of_fits {s : State} {i : Nat} (h : fitsNow s i = true) (l : List PreVictim) : preempt s i l = s := by
  cases l with
  | nil => rfl
  | cons v r => simp [preempt, h]

end Sys2Proof.Machine
end

section
/-! OBLIGATION O54. The scheduler's events, each as the function that gives its row its meaning says it. -/

namespace Sys2Proof.Machine

theorem State.awake_of_on {s : State} (h : s.plat.power = .on) : s.awake = true := by
  simp [State.awake, h]

/-! ### Submission (R40, R43) -/

theorem execWindowSubmit64_of_on (q slot : Fin 64) (x : LineStore) {s : State} (h : s.plat.power = .on) :
    execWindowSubmit64 q slot x s = .next (acceptDesc (setStaging s x.hart none) q.val x.desc).1 := by
  simp [execWindowSubmit64, State.awake_of_on h]

theorem acceptDesc_of_closed {s : State} {q : Nat} (h : s.queueOpen q = false) (d : BitVec 512) :
    acceptDesc s q d = (s.setQueue q { s.queue q with qdrop := (s.queue q).qdrop + 1 }, .dropped) := by
  simp [acceptDesc, h]

/-- The first piece of a slot begins the agent's buffer. -/
theorem execWindowPieceStore_first {p : PieceStore} {s : State} (h : s.plat.power = .on) (hsize : p.size = 8) (hoff : p.off.val = 0)
    (hnone : tabGet? s.sched.staging p.hart = none) : execWindowPieceStore p s =
      .next (setStaging s p.hart (some { q := p.q.val, slot := 0, pieces := [(0, p.val)] })) := by
  simp [execWindowPieceStore, State.awake_of_on h, hsize, hoff, hnone, takePiece, tabSet]

theorem execWindowPieceStore_bad {p : PieceStore} {s : State} (h : s.plat.power = .on) (hsize : p.size ≠ 8) :
    execWindowPieceStore p s = .next (badWrite s p) := by
  simp [execWindowPieceStore, State.awake_of_on h, hsize]

/-! ### Selection and binding (R49, R50, R52, R260) -/

theorem execDistributorSelection_of_awake {s : State} (h : s.plat.power = .on) (hb : s.plat.slp.busy = false) :
    execDistributorSelection s = .next (distribute s) := by
  simp [execDistributorSelection, State.awake_of_on h, hb]

theorem execDistributorSelection_of_sleep {s : State} (hb : s.plat.slp.busy = true) : execDistributorSelection s = .next s := by
  simp [execDistributorSelection, hb]

/-- Without a gang node the first single-class node that a bank suits is selected. -/
theorem distribute_single {s : State} {i : Nat} {c : Ctx} (hg : s.openPool .gang = []) (hr : s.sched.resv = none)
    (hf : firstSingle s = some (i, c)) : (distribute s).banks = s.banks ∧
    (distribute s).sched.sel = s.sched.sel ++ [{ node := i, at_ := s.time, banks := [c], prio := effPrio s i }] := by
  have hall : selectAll s = addSelection s i [c] := by
    rw [selectAll_of_no_gang hg, noResv_of_none hr, selectSingle_of_first hf]
  simp [distribute, hall, addSelection]

/-- Without a node of either class nothing is selected, and no reservation stands. -/
theorem distribute_none {s : State} (hc : s.candidates .single = []) (hg : s.openPool .gang = []) :
    (distribute s).sched.sel = s.sched.sel ∧ (distribute s).sched.resv = none ∧ (distribute s).banks = s.banks := by
  have hall : selectAll s = noResv s := by rw [selectAll_of_no_gang hg, selectSingle_of_no_candidate (by simpa using hc)]
  simp [distribute, hall, noResv]

theorem execBinding_of_oldest {s : State} {x : Selection} {r : List Selection} (hs : s.sched.sel = x :: r) (ht : x.at_ + 2 ≤ s.time)
    (hd : sideDue s = none) : execBinding s = .next (bindNode s x) := by
  simp [execBinding, hd, hs, ht]

theorem execBinding_of_side {s : State} {i : Nat} (hd : sideDue s = some i) : execBinding s = .next (startNode s i) := by
  simp [execBinding, hd]

/-! ### Ageing, pre-emption and application nodes (R45, R48, R53) -/

theorem execNodeAgeing_of_due {n : NodeIx} {s : State} (hr : (s.node n.val).st = .ready)
    (ht : (s.node n.val).since + ((s.node n.val).aged + 1) * s.sched.age.toNat ≤ s.time) :
    execNodeAgeing n s = .next (s.setNode n.val { s.node n.val with aged := (s.node n.val).aged + 1 }) := by
  simp [execNodeAgeing, hr, ht]

theorem execPreemptTrigger_of_due {cls : NodeClass} {s : State} {i t : Nat} (hc : cls = .single ∨ cls = .gang)
    (hf : tabGet? s.sched.first (classIx cls) = some (i, t)) (hp : s.sched.preempt ≠ 0) (ht : t + s.sched.preempt.toNat ≤ s.time)
    (hr : (s.node i).st = .ready) (hs : ∀ x ∈ s.sched.sel, x.node ≠ i) :
    execPreemptTrigger cls s = .next (preempt s i (preVictims s i)) := by
  have hsel : (s.sched.sel.any fun x => x.node == i) = false := by simpa using hs
  have hp' : ¬s.sched.preempt = 0#32 := hp
  simp [execPreemptTrigger, hf, hc, hp', ht, hr, hsel]

theorem execAppNodeClaim_of_sleep (n : NodeIx) {s : State} (hb : s.plat.slp.busy = true) : execAppNodeClaim n s = .next s := by
  simp [execAppNodeClaim, hb]

theorem execAppNodeClaim_of_first {n : NodeIx} {s : State} (h : s.plat.power = .on) (hb : s.plat.slp.busy = false)
    (hc : (s.candidates .application).head? = some n.val) : execAppNodeClaim n s =
      .next ((leavePool s n.val).setNode n.val { (leavePool s n.val).node n.val with st := .running }) := by
  simp [execAppNodeClaim, State.awake_of_on h, hb, hc]

theorem execAppNodeComplete_of_running {n : NodeIx} {s : State} (h : s.plat.power = .on) (hr : (s.node n.val).st = .running)
    (hc : (s.node n.val).desc.cls = .application) : execAppNodeComplete n s = .next (completeNode s n.val) := by
  simp [execAppNodeComplete, State.awake_of_on h, hr, hc]

/-! ### Tile records (R60) -/

/-- The array of the next TLAUNCH is read into its consumption. -/
theorem execRecordConsumption_of_unread {s : State} {l : Launch} {r : List Launch} (hres : s.sched.resid = []) (hl : s.sched.launch = l :: r)
    (he : l.recs = []) :
    execRecordConsumption s = .next (setHeadLaunch (launchUe s l) (some { l with recs := launchRecords s l })) := by
  simp [execRecordConsumption, hres, hl, he]

theorem setHeadLaunch_of_no_resid {s : State} (h : s.sched.resid = []) (x : Launch) :
    setHeadLaunch s (some x) = { s with sched := { s.sched with launch := x :: s.sched.launch.drop 1 } } := by
  simp [setHeadLaunch, h]

theorem recordConsumption_reads {s : State} {l : Launch} {r : List Launch} (hres : s.sched.resid = []) (hl : s.sched.launch = l :: r)
    (he : l.recs = []) : ∃ t, execRecordConsumption s = .next t ∧ t.sched.launch = { l with recs := launchRecords s l } :: r ∧
      t.banks = s.banks ∧ t.mem.main = s.mem.main ∧ (s.mem.bad = [] → t.mem = s.mem) := by
  have hkept := launchUe_kept s l
  simp only [ueKept, Prod.mk.injEq] at hkept
  obtain ⟨hbanks, hsched, hmain⟩ := hkept
  refine ⟨_, execRecordConsumption_of_unread hres hl he, ?_⟩
  rw [setHeadLaunch_of_no_resid (by rw [hsched, hres])]
  exact ⟨by simp [hsched, hl], hbanks, hmain, fun hbad => by rw [launchUe_of_none_bad hbad]⟩

theorem execTileNodeCreate_of_read {s : State} {l : Launch} (hl : headLaunch s = some l) (hr : l.recs ≠ []) :
    execTileNodeCreate s = .next (consumeOne s l) := by
  simp [execTileNodeCreate, hl, hr]

/-! ### Queue registers (R47, R54, R55, R57) -/

theorem execQueueEnable_of_on (q : Fin 64) (on : Bool) {s : State} (h : s.plat.power = .on) :
    execQueueEnable q on s = .next (s.setQueue q.val { s.queue q.val with en := on }) := by
  simp [execQueueEnable, State.awake_of_on h]

theorem execQueueStopClear_of_stopped {q : Fin 64} {s : State} (h : s.plat.power = .on) (hs : (s.queue q.val).stop = true) :
    execQueueStopClear q s = .next (resumeWalks (s.setQueue q.val { s.queue q.val with stop := false }) q.val) := by
  simp [execQueueStopClear, State.awake_of_on h, hs]

theorem execQslotWrite_of_open {q : Fin 64} (v : BitVec 32) {s : State} (ho : s.queueOpen q.val = true) :
    execQslotWrite q v s = .next s := by
  simp [execQslotWrite, ho]

/-- A range that ends within the slots and overlaps no other queue's is taken. -/
theorem execQslotWrite_of_apart {q : Fin 64} {v : BitVec 32} {s : State} (h : s.plat.power = .on) (ho : s.queueOpen q.val = false)
    (hend : (v.extractLsb' 0 16).toNat + (v.extractLsb' 16 16).toNat ≤ 65536)
    (hapart : ∀ e ∈ s.sched.queues, e.1 = q.val ∨ e.2.size = 0 ∨ v.extractLsb' 16 16 = 0 ∨
      (v.extractLsb' 0 16).toNat + (v.extractLsb' 16 16).toNat ≤ e.2.base.toNat ∨
      e.2.base.toNat + e.2.size.toNat ≤ (v.extractLsb' 0 16).toNat) :
    execQslotWrite q v s =
      .next (s.setQueue q.val { s.queue q.val with size := v.extractLsb' 16 16, base := v.extractLsb' 0 16 }) := by
  have hclash : (s.sched.queues.any fun e => e.1 != q.val && e.2.size != 0 && v.extractLsb' 16 16 != 0 &&
      decide ((v.extractLsb' 0 16).toNat < e.2.base.toNat + e.2.size.toNat) &&
      decide (e.2.base.toNat < (v.extractLsb' 0 16).toNat + (v.extractLsb' 16 16).toNat)) = false := by
    rw [List.any_eq_false]
    intro e he hmeets
    simp only [Bool.and_eq_true, bne_iff_ne, decide_eq_true_eq] at hmeets
    obtain ⟨⟨⟨⟨hother, hsize⟩, hsome⟩, hlo⟩, hhi⟩ := hmeets
    rcases hapart e he with hq | hz | hv | hbelow | habove
    · exact hother hq
    · exact hsize hz
    · exact hsome hv
    · omega
    · omega
  have hin : decide (65536 < (v.extractLsb' 0 16).toNat + (v.extractLsb' 16 16).toNat) = false := by simpa using hend
  simp only [execQslotWrite, State.awake_of_on h, ho, hclash, hin]
  rfl

/-- Settles O54: each clause is the law above of the function that the event runs. -/
theorem schedulerEvents : Obligations.SchedulerEvents := by
  refine ⟨fun q slot x s h => execWindowSubmit64_of_on q slot x h, fun q d s h => ⟨_, acceptDesc_of_closed h d, by simp, by simp⟩,
    fun p s => execWindowPieceStore_first, fun p s h hsize => ⟨_, execWindowPieceStore_bad h hsize, badWrite_spec s p⟩,
    fun s h => ⟨execDistributorSelection_of_awake h, execDistributorSelection_of_sleep⟩,
    fun s i c h hb hg hr hf => ⟨_, execDistributorSelection_of_awake h hb, distribute_single hg hr hf⟩,
    fun s h hb hc hg => ⟨_, execDistributorSelection_of_awake h hb, distribute_none hc hg⟩,
    fun s x r => execBinding_of_oldest, fun s i => execBinding_of_side, fun n s => execNodeAgeing_of_due,
    fun cls s i t hc hf hp ht hr hs => ⟨execPreemptTrigger_of_due hc hf hp ht hr hs, fun hfit => preempt_of_fits hfit _⟩,
    fun n s => execAppNodeClaim_of_sleep n,
    fun n s h hb hc hq => ⟨_, execAppNodeClaim_of_first h hb hc, by simp, by simpa using leavePool_not_mem hq⟩,
    fun n s => execAppNodeComplete_of_running, fun s l r => recordConsumption_reads, fun s l => execTileNodeCreate_of_read,
    fun q on s => execQueueEnable_of_on q on, fun q s => execQueueStopClear_of_stopped,
    fun q v s h => ⟨execQslotWrite_of_open v, execQslotWrite_of_apart h⟩⟩

end Sys2Proof.Machine
end

section
/-! SUPPORT. The shape of every instruction word: its run under the common checks, and how that ends (R85, R272). -/

namespace Sys2Proof.Machine

/-- How a word's run ends: with the verdict that `v` gives its state, or with its stop. -/
def endWord (v : State → Verdict) (r : Res) : Host.Outcome State Fault Refusal :=
  match r with
  | .ok t => .next (t.verdict (v t))
  | .error (st, t) => .next (takeStop st t)

/-- Every instruction word runs an effect under the common checks; RTE, TYIELD and TEXIT choose another verdict than done. -/
theorem exec_eq_endWord {i : Instr} (h : i.isEvent = false) (s : State) :
    ∃ eff v, exec i s = endWord v (runWord i s eff) := by
  have other (eff : State → Res) : ∃ eff' v, word i s eff = endWord v (runWord i s eff') := ⟨eff, fun _ => .done, rfl⟩
  cases i
  case rte => exact ⟨_, _, rfl⟩
  case tyield => exact ⟨_, _, rfl⟩
  case texit => exact ⟨_, _, rfl⟩
  any_goals exact other _
  -- what is left are the event rows
  all_goals exact nomatch h

theorem runWord_of_interlocked {i : Instr} {s : State} (hp : precheck i s.cur = none) (hl : interlocked i s.cur s.iss.fresh = true)
    (eff : State → Res) : runWord i s eff = .error (.stall, s) := by
  simp [runWord, hp, hl]

end Sys2Proof.Machine
end

section
/-! OBLIGATIONS O3 and O7. -/

namespace Sys2Proof.Machine

/-- Settles O7: the interlock holds the word up before its guard and its effect. -/
theorem interlockHoldsUp : Obligations.InterlockHoldsUp := by
  intro i s hi hp hl
  obtain ⟨eff, v, hexec⟩ := exec_eq_endWord hi s
  rw [hexec, runWord_of_interlocked hp hl]
  rfl

/-- Settles O3: each word is the one that the encoder writes for its instruction, which is well formed. -/
theorem wordsOfTheManual : Obligations.WordsOfTheManual :=
  ⟨Laws.RoundTrip.sdiv _ _ (by decide) _ rfl, Laws.RoundTrip.kld _ _ (by decide) _ rfl, Laws.RoundTrip.loop _ _ (by decide) _ rfl⟩

end Sys2Proof.Machine
end

section
/-! SUPPORT. Results that land: what none of them changes in its bank, and what one scalar result leaves (R65, R81, R84, R85, R132). -/

namespace Sys2Proof.Machine

/-- What no result that lands changes in its bank, beside its pipe. -/
def threadPart (b : Bank) : Phase × Thread × Engines × Frec × Option Nat × Bool :=
  (b.phase, b.th, b.eng, b.frec, b.dfault, b.tr.mode)

/-- What no register write changes in its bank. -/
def writeKept (b : Bank) : Pipe × Phase × Thread × Engines × Frec × Option Nat × Bool := (b.pipe, threadPart b)

/-- What no result that lands changes in its bank: it leaves the lists of results in flight, but not the wait. -/
def landKept (b : Bank) : Wait × Phase × Thread × Engines × Frec × Option Nat × Bool := (b.pipe.wait, threadPart b)

theorem setSysLoops_kept (b : Bank) (l : Loops) : writeKept (b.setSysLoops l) = writeKept b := by
  unfold Bank.setSysLoops
  split <;> rfl

/-- MODE is no field that SYSW writes (R226). -/
theorem sysWrite_kept (b : Bank) (n : Nat) (v : Word) : writeKept (sysWrite b n v) = writeKept b := by
  unfold sysWrite
  repeat' split
  any_goals exact setSysLoops_kept b _
  all_goals rfl

theorem landWrite_kept (b : Bank) (w : RegWrite) : writeKept (landWrite b w) = writeKept b := by
  by_cases hsys : ∃ n v, w = .sys n v
  · obtain ⟨n, v, rfl⟩ := hsys
    exact sysWrite_kept b n v
  · have hframe := landWrite_frame b w fun n v hw => hsys ⟨n, v, hw⟩
    exact (congrArg writeKept hframe).trans rfl

theorem landWrite_pipe (b : Bank) (w : RegWrite) : (landWrite b w).pipe = b.pipe :=
  congrArg Prod.fst (landWrite_kept b w)

theorem landWrite_landKept (b : Bank) (w : RegWrite) : landKept (landWrite b w) = landKept b :=
  congrArg (fun x => (x.1.wait, x.2)) (landWrite_kept b w)

theorem landDue_kept (b : Bank) (t : Nat) : landKept (landDue b t) = landKept b :=
  foldl_keeps landKept (op := fun b (x : Inflight) => (landWrite b x.w).orAf x.af) (fun b x => landWrite_landKept b x.w) _ _

theorem landLock_kept (b : Bank) (l : Lock) : landKept (landLock b l) = landKept b :=
  foldl_keeps landKept (op := landWrite) landWrite_landKept l.ws _

/-- Two banks agree in what no result that lands changes. -/
structure LandSame (a b : Bank) : Prop where
  wait   : a.pipe.wait = b.pipe.wait
  phase  : a.phase = b.phase
  th     : a.th = b.th
  eng    : a.eng = b.eng
  frec   : a.frec = b.frec
  dfault : a.dfault = b.dfault
  mode   : a.tr.mode = b.tr.mode

theorem landSame_of_landKept {a b : Bank} (h : landKept a = landKept b) : LandSame a b := by
  simp only [landKept, threadPart, Prod.mk.injEq] at h
  obtain ⟨hwait, hphase, hth, heng, hfrec, hdfault, hmode⟩ := h
  exact ⟨hwait, hphase, hth, heng, hfrec, hdfault, hmode⟩

theorem landSame_refl (b : Bank) : LandSame b b := landSame_of_landKept rfl

theorem drain_same (b : Bank) : LandSame (drain b) b := by
  apply landSame_of_landKept
  rw [drain, foldl_keeps landKept landLock_kept, foldl_keeps landKept fun b' k => landDue_kept b' _]

@[simp] theorem drain_phase (b : Bank) : (drain b).phase = b.phase := (drain_same b).phase
@[simp] theorem drain_eng (b : Bank) : (drain b).eng = b.eng := (drain_same b).eng
@[simp] theorem drain_frec (b : Bank) : (drain b).frec = b.frec := (drain_same b).frec
@[simp] theorem drain_dfault (b : Bank) : (drain b).dfault = b.dfault := (drain_same b).dfault
@[simp] theorem drain_mode (b : Bank) : (drain b).tr.mode = b.tr.mode := (drain_same b).mode
@[simp] theorem drain_wait (b : Bank) : (drain b).pipe.wait = b.pipe.wait := (drain_same b).wait

/-! ### One result -/

/-- A result that lands is no longer outstanding; the others are. -/
theorem landLock_locks (b : Bank) (l : Lock) : (landLock b l).pipe.locks = b.pipe.locks.filter fun x => x.id != l.id :=
  congrArg Pipe.locks (foldl_keeps Bank.pipe (op := landWrite) landWrite_pipe l.ws _)

/-- A scalar write leaves the trap registers, STATUS.AF among them. -/
theorem landWrite_scalar_tr (b : Bank) (n : Nat) (v m : Word) : (landWrite b (.s n v m)).tr = b.tr := by
  rw [landWrite_frame b (.s n v m) fun _ _ => nofun]

/-- A scalar result that lands: its flags stand in STATUS.AF (R89), its register has its value, every other its own. -/
theorem landLock_scalar {b : Bank} {l : Lock} {n : Nat} {v : Word} (h : l.ws = oneS n v) :
    (landLock b l).tr.af = b.tr.af ||| l.af ∧ (n ≠ 0 → (landLock b l).sreg n = v) ∧
      ∀ m, m ≠ n → (landLock b l).sreg m = b.sreg m := by
  have hland : landLock b l = (landWrite { b with pipe := { b.pipe with locks := b.pipe.locks.filter fun x => x.id != l.id } }
      (.s n v (BitVec.allOnes 32))).orAf l.af := by
    simp [landLock, h, oneS]
  have hsreg (a : Bank) (f : BitVec 6) (m : Nat) : (a.orAf f).sreg m = a.sreg m := rfl
  rw [hland]
  refine ⟨?_, fun hn => ?_, fun m hm => ?_⟩
  · simp only [Bank.orAf, landWrite_scalar_tr]
  · rw [hsreg, landWrite_sreg, if_neg hn]
  · rw [hsreg, landWrite_sreg_other _ _ _ _ _ hm]
    rfl

/-- The one write in flight lands when it is due. -/
theorem landDue_single {b : Bank} {x : Inflight} {t : Nat} (h : b.pipe.inflight = [x]) (hx : x.due ≤ t) :
    landDue b t = (landWrite { b with pipe := { b.pipe with inflight := [] } } x.w).orAf x.af := by
  simp [landDue, h, hx]

theorem onlyBank_setBank (c : Ctx) (s : State) (b : Bank) : OnlyBank c s (s.setBank c b) :=
  fun d hd => State.bank_setBank_other s c d b hd

end Sys2Proof.Machine
end

section
/-! SUPPORT. What a trap and a fault block leave in their bank, and how a bank becomes ready (R17, R132, R133, R228, R232). -/

namespace Sys2Proof.Machine

/-! ### Traps -/

@[simp] theorem TrapInfo.ecause_code (t : TrapInfo) : t.ecause.extractLsb' 0 8 = t.code :=
  (Laws.extract_low _ _ _ _ (by decide)).trans (Laws.extract_all _)

@[simp] theorem trapBank_mode (t : TrapInfo) (b : Bank) : (trapBank t b).tr.mode = true := rfl
@[simp] theorem trapBank_epc (t : TrapInfo) (b : Bank) : (trapBank t b).tr.epc = epcOf t.epc := rfl
@[simp] theorem trapBank_ecause (t : TrapInfo) (b : Bank) : (trapBank t b).tr.ecause = t.ecause := rfl
@[simp] theorem trapBank_eval (t : TrapInfo) (b : Bank) : (trapBank t b).tr.eval = t.eval := rfl
@[simp] theorem trapBank_eng (t : TrapInfo) (b : Bank) : (trapBank t b).eng = b.eng := by simp [trapBank]
@[simp] theorem trapBank_frec (t : TrapInfo) (b : Bank) : (trapBank t b).frec = b.frec := by simp [trapBank]
@[simp] theorem trapBank_dfault (t : TrapInfo) (b : Bank) : (trapBank t b).dfault = b.dfault := by simp [trapBank]

/-- The end of a helper leaves what its core issues. -/
@[simp] theorem endHelper_issuing (c : Ctx) (s : State) (k : Fin 32) : ((endHelper c s).core k).issuing = (s.core k).issuing := by
  unfold endHelper
  dsimp only
  split
  · by_cases hk : k = c.core
    · subst hk
      simp
    · rw [State.core_setCore_other _ _ _ _ hk]
  · rfl

/-! ### The two banks of a core -/

@[simp] theorem otherBank_otherBank (c : Ctx) : otherBank (otherBank c) = c := by
  have hbank : ∀ b : Fin 2, Fin.ofNat 2 ((Fin.ofNat 2 (b.val + 1)).val + 1) = b := by decide
  simp only [otherBank, hbank]

theorem otherBank_ne (c : Ctx) : otherBank c ≠ c := by
  have hbank : ∀ b : Fin 2, Fin.ofNat 2 (b.val + 1) ≠ b := by decide
  exact fun h => hbank c.bank (congrArg Ctx.bank h)

/-- The outgoing bank of a switch drains (R86). -/
theorem switchTo_outgoing (c : Ctx) (s : State) : (switchTo (otherBank c) s).bank c = drain (s.bank c) := by
  have hne : c ≠ otherBank c := (otherBank_ne c).symm
  simp [switchTo, State.bank_setBank_other _ _ _ _ hne]

/-- A bank that is left drains or stays as it is. -/
theorem leaveBank_same (c : Ctx) (s : State) : LandSame ((leaveBank c s).bank c) (s.bank c) := by
  have hswitch : LandSame ((switchTo (otherBank c) s).bank c) (s.bank c) := switchTo_outgoing c s ▸ drain_same _
  unfold leaveBank
  dsimp only
  repeat' split
  any_goals exact hswitch
  all_goals exact landSame_refl _

@[simp] theorem leaveBank_plat (c : Ctx) (s : State) : (leaveBank c s).plat = s.plat := by
  unfold leaveBank
  dsimp only
  repeat' split
  all_goals rfl

/-! ### Fault blocks -/

theorem raiseEvent_evtst {e : Nat} (h : e < 13) (s : State) : (raiseEvent e s).plat.evtst.getLsbD e = true := by
  simp [raiseEvent, h]

/-- A page fault blocks its bank, with a record of the next number, and raises event 1 (R132, R133). -/
theorem pageBlock_spec (c : Ctx) (cause : BitVec 8) (va : Addr) (src : BitVec 4) (cf : Bool) (s : State) :
    let t := pageBlock c cause va src cf s
    (t.bank c).phase = .pageFault ∧ (t.bank c).frec.v = true ∧ (t.bank c).frec.cause = cause ∧ (t.bank c).frec.va = va ∧
      (t.bank c).frec.seq = (s.bank c).frec.seq + 1 ∧ t.plat.evtst.getLsbD 1 = true := by
  have hbank (u : State) (b : Bank) : (raiseEvent 1 (u.setBank c b)).bank c = b := State.bank_setBank u c b
  have hsame (u : State) (b : Bank) : LandSame ((leaveBank c (raiseEvent 1 (u.setBank c b))).bank c) b := by
    simpa only [hbank] using leaveBank_same c (raiseEvent 1 (u.setBank c b))
  simp only [pageBlock, (hsame _ _).phase, (hsame _ _).frec, leaveBank_plat, drain_frec, true_and]
  exact raiseEvent_evtst (by decide) _

/-! ### A bank becomes ready -/

/-- The issuing bank of its core becomes ready, and nothing else of it changes. -/
theorem bankReady_bank_of_issuing {c : Ctx} {s : State} (h : (s.core c.core).issuing = some c.bank) :
    (bankReady c s).bank c = { s.bank c with phase := .ready } := by
  have hissuing (b : Bank) : ((s.setBank c b).core c.core).issuing = some c.bank := h
  simp only [bankReady, hissuing]
  split <;> simp [wakeCore]

/-- A bank that becomes ready where no bank of its core issues begins to issue (R17). -/
theorem bankReady_of_no_issuer {c : Ctx} {s : State} (hf : (s.core c.core).freeze = 0) (hi : (s.core c.core).issuing = none) :
    bankReady c s = startIssue c (wakeCore c (s.setBank c { s.bank c with phase := .ready })) := by
  simp [bankReady, hf, hi]

end Sys2Proof.Machine
end

section
/-! SUPPORT. The bytes that a line writes back (R118), and the registers that a dispatch loads (R37, R82). -/

namespace Sys2Proof.Machine

/-! ### The dirty bytes of a line -/

/-- One byte of a line goes out where it is dirty. -/
def flushByte (base : Nat) (d : BitVec 1024) (dirty : BitVec 128) (m : Mem) (i : Nat) : Mem :=
  if dirty.getLsbD i then memSetByte m (base + i) (d.extractLsb' (8 * i) 8) else m

section
variable (base : Nat) (d : BitVec 1024) (dirty : BitVec 128)

theorem memByte_flushByte_same (m : Mem) (i : Nat) : memByte (flushByte base d dirty m i) (base + i) =
    if dirty.getLsbD i then d.extractLsb' (8 * i) 8 else memByte m (base + i) := by
  unfold flushByte
  split <;> simp

theorem memByte_flushByte_other (m : Mem) {i a : Nat} (h : a ≠ base + i) :
    memByte (flushByte base d dirty m i) a = memByte m a := by
  unfold flushByte
  split
  · exact memByte_memSetByte_other m _ a _ h
  · rfl

/-- The first `n` bytes of a line change no byte before them or behind them. -/
theorem memByte_flush_outside (m : Mem) (n : Nat) {a : Nat} (h : a < base ∨ base + n ≤ a) :
    memByte ((List.range n).foldl (flushByte base d dirty) m) a = memByte m a := by
  induction n with
  | zero => rfl
  | succ n ih =>
    rw [List.range_succ, List.foldl_append, List.foldl_cons, List.foldl_nil,
      memByte_flushByte_other _ _ _ _ (by omega), ih (by omega)]

/-- Each of the first `n` bytes of a line is written where it is dirty, and stays where it is not. -/
theorem memByte_flush_inside (m : Mem) (n : Nat) {i : Nat} (h : i < n) :
    memByte ((List.range n).foldl (flushByte base d dirty) m) (base + i) =
      if dirty.getLsbD i then d.extractLsb' (8 * i) 8 else memByte m (base + i) := by
  induction n with
  | zero => omega
  | succ n ih =>
    rw [List.range_succ, List.foldl_append, List.foldl_cons, List.foldl_nil]
    rcases Nat.lt_succ_iff_lt_or_eq.mp h with hlt | rfl
    · rw [memByte_flushByte_other _ _ _ _ (by omega), ih hlt]
    · rw [memByte_flushByte_same, memByte_flush_outside _ _ _ _ _ (by omega)]

theorem memByte_flushBytes_outside (m : Mem) {a : Nat} (h : a < base ∨ base + 128 ≤ a) :
    memByte (flushBytes m base d dirty) a = memByte m a := memByte_flush_outside base d dirty m 128 h

theorem memByte_flushBytes_inside (m : Mem) {i : Nat} (h : i < 128) : memByte (flushBytes m base d dirty) (base + i) =
    if dirty.getLsbD i then d.extractLsb' (8 * i) 8 else memByte m (base + i) := memByte_flush_inside base d dirty m 128 h

end

/-- A line that goes out of a frame that does not migrate: its dirty bytes stand in main memory, and the L1 holds it no more. -/
theorem evictLine_of_good {s : State} {k : Fin 32} {ln : Nat} {l : Line} (hl : s.l1? k ln = some l) (hbad : s.lineBad k ln = false)
    (hmig : s.famHas (frameOf (128 * ln)) famMIG = false) : evictLine s k ln =
      ({ s with mem := { s.mem with main := flushBytes s.mem.main (128 * ln) l.data l.dirty } }).l1Drop k ln := by
  simp [evictLine, hl, hbad, State.flushLine, hmig]

@[simp] theorem l1Drop_mem (s : State) (k : Fin 32) (ln : Nat) : (s.l1Drop k ln).mem = s.mem := rfl
@[simp] theorem l1?_l1Drop (s : State) (k : Fin 32) (ln : Nat) : (s.l1Drop k ln).l1? k ln = none := by
  simp [State.l1?, State.l1Drop]

/-! ### The registers of a dispatch -/

/-- A whole write of a scalar. -/
def putScalar (b : Bank) (n : Nat) (v : Word) : Bank := landWrite b (.s n v (BitVec.allOnes 32))

/-- s3 upward from the launch vector. -/
def putVector (d : NodeDesc) (b : Bank) (n : Nat) : Bank := (List.range n).foldl (fun b k => putScalar b (3 + k) (d.lv.getD k 0)) b

/-- s1 and s2 from ARGS, s3 to s8 from the launch vector. -/
def putLaunch (d : NodeDesc) (b : Bank) : Bank :=
  putVector d (putScalar (putScalar b 1 (d.args.extractLsb' 0 32)) 2 ((d.args.extractLsb' 32 16).setWidth 32)) 6

/-- A restart with an empty mask loads no scalar of its own. -/
theorem launchRegs_of_empty_mask {s : State} {c : Ctx} {r : Restart} (hr : (s.member c).restart = some r) (hm : r.mask = 0) :
    let b := putLaunch (s.node (s.bank c).th.node).desc (s.bank c)
    launchRegs s c = { b with loops := r.loops, th := { b.th with pc := r.rpc } } := by
  simp [launchRegs, hr, hm, putLaunch, putVector, putScalar]

theorem putScalar_sreg_same (b : Bank) {n : Nat} (h : n ≠ 0) (v : Word) : (putScalar b n v).sreg n = v := by
  rw [putScalar, landWrite_sreg, if_neg h]

theorem putScalar_sreg_other (b : Bank) {n m : Nat} (h : m ≠ n) (v : Word) : (putScalar b n v).sreg m = b.sreg m :=
  landWrite_sreg_other b n m v _ h

theorem putVector_succ (d : NodeDesc) (b : Bank) (n : Nat) :
    putVector d b (n + 1) = putScalar (putVector d b n) (3 + n) (d.lv.getD n 0) := by
  simp [putVector, List.range_succ]

theorem putVector_sreg_outside (d : NodeDesc) (b : Bank) (n : Nat) {m : Nat} (h : m < 3 ∨ 3 + n ≤ m) :
    (putVector d b n).sreg m = b.sreg m := by
  induction n with
  | zero => rfl
  | succ n ih => rw [putVector_succ, putScalar_sreg_other _ (by omega), ih (by omega)]

theorem putVector_sreg_inside (d : NodeDesc) (b : Bank) (n : Nat) {k : Nat} (h : k < n) :
    (putVector d b n).sreg (3 + k) = d.lv.getD k 0 := by
  induction n with
  | zero => omega
  | succ n ih =>
    rw [putVector_succ]
    rcases Nat.lt_succ_iff_lt_or_eq.mp h with hlt | rfl
    · rw [putScalar_sreg_other _ (by omega), ih hlt]
    · exact putScalar_sreg_same _ (by omega) _

theorem putLaunch_sreg_args (d : NodeDesc) (b : Bank) : (putLaunch d b).sreg 1 = d.args.extractLsb' 0 32 := by
  rw [putLaunch, putVector_sreg_outside _ _ _ (by decide), putScalar_sreg_other _ (by decide), putScalar_sreg_same _ (by decide)]

end Sys2Proof.Machine
end

section
/-! OBLIGATION O52. The events of a bank or a core, each as the function that gives its row its meaning says it. -/

namespace Sys2Proof.Machine

/-! ### Waits (R314, R351) -/

theorem settleIdle_of_no_wait {c : Ctx} {s : State} (hw : (s.bank c).pipe.wait = .none) : settleIdle c s = s := by
  simp [settleIdle, hw]

theorem idleCode_of_expired {b : Bank} {now since imm : Nat} (hf : b.eng.faults = []) (hb : b.eng.idle = false) (hi : imm ≠ 0)
    (ht : since + 64 * imm ≤ now) : idleCode b now since imm = some 1 := by
  simp [idleCode, hf, hb, hi, ht]

theorem execIdleTimeout_of_expired (c : Ctx) (s : State) (sd : BitVec 6) (since imm : Nat) (hw : (s.bank c).pipe.wait = .idle sd since imm)
    (hz : (s.core c.core).freeze = 0) (hf : (s.bank c).eng.faults = []) (hb : (s.bank c).eng.idle = false) (hi : imm ≠ 0)
    (ht : since + 64 * imm ≤ s.now c.core) : execIdleTimeout c s =
      .next (s.setBank c ({ s.bank c with pipe := { (s.bank c).pipe with wait := .none } }.lockS sd.toNat 1)) := by
  simp [execIdleTimeout, settleIdle, hw, idleCode_of_expired hf hb hi ht, hz]

theorem execTkwTimeout_of_expired (c : Ctx) (s : State) (a : Word) (t imm : Nat) (hw : (s.bank c).pipe.wait = .tkw a t imm false)
    (hi : imm ≠ 0) (ht : t + 64 * imm ≤ s.now c.core) (hz : (s.core c.core).freeze = 0) : execTkwTimeout c s =
      .next (s.setBank c { s.bank c with pipe := { (s.bank c).pipe with wait := .tkw a t imm true } }) := by
  simp [execTkwTimeout, hw, hi, ht, hz]

/-! ### Results that land (R84, R85, R138) -/

theorem execInterlockedWriteLand_of_ready (c : Ctx) (s : State) (l : Lock) (r : List Lock) (hl : (s.bank c).pipe.locks = l :: r)
    (hr : l.ready = true) (hid : ∀ x ∈ r, x.id ≠ l.id) (hz : (s.core c.core).freeze = 0) :
    ∃ t, execInterlockedWriteLand c s = .next t ∧ (t.bank c).pipe.locks = r ∧
      (∀ n v, l.ws = oneS n v → (t.bank c).tr.af = (s.bank c).tr.af ||| l.af ∧
        (n ≠ 0 → (t.bank c).sreg n = v) ∧ ∀ m, m ≠ n → (t.bank c).sreg m = (s.bank c).sreg m) ∧ OnlyBank c s t := by
  refine ⟨s.setBank c (landLock (s.bank c) l), by simp [execInterlockedWriteLand, hl, hr, hz], ?_, fun n v hws => ?_,
    onlyBank_setBank c s _⟩
  · rw [State.bank_setBank, landLock_locks, hl]
    simpa using hid
  · rw [State.bank_setBank]
    exact landLock_scalar hws

theorem execInterlockedWriteLand_of_frozen (c : Ctx) (s : State) (hz : (s.core c.core).freeze ≠ 0) :
    execInterlockedWriteLand c s = .next s := by
  simp only [execInterlockedWriteLand, hz, if_false]
  split <;> rfl

theorem execInterlockedWriteLand_of_none_ready (c : Ctx) (s : State) (h : ∀ l ∈ (s.bank c).pipe.locks, l.ready = false) :
    execInterlockedWriteLand c s = .next s := by
  have hnone : ((s.bank c).pipe.locks.find? fun l => l.ready) = none := by simpa using h
  simp [execInterlockedWriteLand, hnone]

theorem execFixedLatencyVisible_of_due (c : Ctx) (s : State) (x : Inflight) (hx : (s.bank c).pipe.inflight = [x])
    (hd : x.due ≤ (s.bank c).pipe.cyc) : ∃ t, execFixedLatencyVisible c s = .next t ∧ (t.bank c).pipe.inflight = [] ∧
      (∀ n v, x.w = .s n v (BitVec.allOnes 32) → n ≠ 0 → (t.bank c).sreg n = v) ∧ OnlyBank c s t := by
  refine ⟨_, rfl, ?_, fun n v hw hn => ?_, onlyBank_setBank c s _⟩
  · rw [State.bank_setBank, landDue_single hx hd, Bank.orAf_pipe, landWrite_pipe]
  · rw [State.bank_setBank, landDue_single hx hd, hw]
    exact putScalar_sreg_same _ hn v

/-! ### Engine faults and domain faults (R27, R132, R229) -/

theorem firstFault_single (f : EngFault) : firstFault [f] = some f := by
  cases hf : f.fifo <;> simp [firstFault, hf]

/-- A task-mode boundary at which nothing of an earlier word is left to do. -/
theorem takesFault_at_boundary {s : State} {c : Ctx} (hw : (s.bank c).pipe.wait = .none) (ha : activeBank s c = true)
    (hm : (s.bank c).tr.mode = false) (hk : (s.bank c).dfault = none) (hd : (s.bank c).discard = false)
    (hs : (s.bank c).pipe.steps = []) : takesFault s c = true := by
  simp [takesFault, atBoundary, hw, ha, hm, hk, hd, hs]

theorem execEngineFaultTaken_of_taken {s : State} {c : Ctx} {f : EngFault} (hf : (s.bank c).eng.faults = [f])
    (hw : (s.bank c).pipe.wait = .none) (ht : takesFault s c = true) : execEngineFaultTaken c s = .next (takeEngFault s c f) := by
  simp [execEngineFaultTaken, settleIdle_of_no_wait hw, hf, firstFault_single, ht]

/-- The one engine fault that is pending, other than a page fault, is taken as its trap at the next bundle. -/
theorem takeEngFault_trap {s : State} {c : Ctx} {f : EngFault} (hf : (s.bank c).eng.faults = [f]) (hm : (s.bank c).tr.mode = false)
    (hcode : f.code ≠ 0x07) : let t := takeEngFault s c f
    (t.bank c).tr.mode = true ∧ (t.bank c).tr.eval = f.eval ∧ (t.bank c).tr.ecause.extractLsb' 0 8 = f.code ∧
      (t.bank c).tr.epc = (s.bank c).th.pc.extractLsb' 3 32 ∧ (t.bank c).eng.faults = [] := by
  have hbank (e : Engines) : (s.setEng c e).bump.bank c = { s.bank c with eng := e } := State.bank_setBank s c _
  simp only [takeEngFault, hcode, if_false]
  rw [trapEntry_bank _ _ _ (by rw [hbank]; exact hm), hbank]
  simp [hf, epcOf]

/-- An engine's page fault blocks the bank (R132). -/
theorem takeEngFault_page {s : State} {c : Ctx} {f : EngFault} (hcode : f.code = 0x07) : let t := takeEngFault s c f
    (t.bank c).phase = .pageFault ∧ (t.bank c).frec.v = true ∧ (t.bank c).frec.cause = 0x07 ∧ (t.bank c).frec.va = f.vah ++ f.eval ∧
      (t.bank c).frec.seq = (s.bank c).frec.seq + 1 ∧ t.plat.evtst.getLsbD 1 = true := by
  have hfrec (e : Engines) : ((s.setEng c e).bank c).frec = (s.bank c).frec := by simp [State.setEng]
  simp only [takeEngFault, hcode, if_true]
  rw [← hfrec]
  exact pageBlock_spec c 0x07 _ _ _ _

theorem execDomainFaultTaken_at_boundary (c : Ctx) (s : State) (k : Nat) (hk : (s.bank c).dfault = some k) (ha : activeBank s c = true)
    (hm : (s.bank c).tr.mode = false) (hw : (s.bank c).pipe.wait = .none) (hd : (s.bank c).discard = false)
    (hs : (s.bank c).pipe.steps = []) : ∃ t, execDomainFaultTaken c s = .next t ∧ (t.bank c).tr.mode = true ∧
      (t.bank c).tr.ecause.extractLsb' 0 8 = 0x12#8 ∧ (t.bank c).tr.eval = BitVec.ofNat 32 k ∧ (t.bank c).dfault = none := by
  have hb : atBoundary (s.bank c) = true := by simp [atBoundary, hw]
  refine ⟨_, by
    simp only [execDomainFaultTaken, hk, ha, hm, hd, hs, hb, List.isEmpty_nil, Bool.not_false, Bool.and_self, if_true]
    rfl, ?_⟩
  rw [trapEntry_bank _ _ _ (by rw [State.bank_setBank]; exact hm), State.bank_setBank]
  simp

/-- A memory step of an earlier word holds both faults up (R132). -/
theorem faults_wait_for_steps (c : Ctx) (s : State) (hw : (s.bank c).pipe.wait = .none) (hs : (s.bank c).pipe.steps ≠ []) :
    execEngineFaultTaken c s = .next s ∧ execDomainFaultTaken c s = .next s := by
  have hsteps : (s.bank c).pipe.steps.isEmpty = false := by simpa using hs
  have htakes : takesFault s c = false := by simp [takesFault, hsteps]
  refine ⟨?_, ?_⟩
  · simp only [execEngineFaultTaken, settleIdle_of_no_wait hw, ite_self, htakes]
    split <;> rfl
  · simp only [execDomainFaultTaken, hsteps, Bool.and_false, Bool.false_and]
    split <;> rfl

/-! ### Fault answers (R133) -/

/-- The state in which the record's V is clear. -/
def clearedRecord (s : State) (c : Ctx) : State :=
  s.setBank c { s.bank c with frec := { (s.bank c).frec with v := false } }

theorem answered_of_match {s : State} {c : Ctx} (hv : (s.bank c).frec.v = true) (hp : (s.bank c).phase = .pageFault) :
    answered s c (s.bank c).frec.seq = some (clearedRecord s c) := by
  simp [answered, hv, hp, clearedRecord]

theorem execFrespRetry_of_match (c : Ctx) (s : State) (hv : (s.bank c).frec.v = true) (hp : (s.bank c).phase = .pageFault)
    (hi : (s.core c.core).issuing = some c.bank) : ∃ t, execFrespRetry c (s.bank c).frec.seq s = .next t ∧
      (t.bank c).phase = .ready ∧ (t.bank c).frec.v = false ∧ (t.bank c).th.pc = (s.bank c).th.pc ∧
      (t.bank c).regs = (s.bank c).regs := by
  refine ⟨_, by simp only [execFrespRetry, answered_of_match hv hp]; rfl, ?_⟩
  rw [bankReady_bank_of_issuing (by split <;> exact hi)]
  split <;> simp [clearedRecord, State.setEng]

theorem execFrespDeliver_of_match (c : Ctx) (s : State) (hv : (s.bank c).frec.v = true) (hp : (s.bank c).phase = .pageFault)
    (hi : (s.core c.core).issuing = some c.bank) (hm : (s.bank c).tr.mode = false) :
    ∃ t, execFrespDeliver c (s.bank c).frec.seq s = .next t ∧ (t.bank c).phase = .ready ∧
      (t.bank c).frec.v = false ∧ (t.bank c).tr.mode = true ∧ (t.bank c).tr.ecause.extractLsb' 0 8 = (s.bank c).frec.cause ∧
      (t.bank c).tr.eval = (s.bank c).frec.va.extractLsb' 0 32 := by
  have hmode : ((clearedRecord s c).bank c).tr.mode = false := by simpa [clearedRecord] using hm
  refine ⟨_, by simp only [execFrespDeliver, answered_of_match hv hp]; rfl, ?_⟩
  rw [bankReady_bank_of_issuing (by rw [trapEntry_task _ _ _ hmode, endHelper_issuing]; exact hi), trapEntry_bank _ _ _ hmode]
  simp [clearedRecord]

/-! ### Monitor limit, quantum and stalls (R17, R234) -/

theorem cancelStopped_of_running {e : Engines} (h : ∀ q, q ∈ [e.mx, e.de, e.ci, e.co] → q.stopped = false) :
    cancelStopped e = e := by
  have hkeep (q : Fifo) (hq : q ∈ [e.mx, e.de, e.ci, e.co]) : q.cancelStopped = q := by simp [Fifo.cancelStopped, h q hq]
  simp only [cancelStopped, hkeep e.mx (by simp), hkeep e.de (by simp), hkeep e.ci (by simp), hkeep e.co (by simp)]

/-- A monitor's TEXIT waits for the commands that no fault has stopped. -/
theorem settleTexit_of_cmds {c : Ctx} {s : State} (hw : (s.bank c).pipe.wait = .texit) (hm : (s.bank c).tr.mode = true)
    (hc : (cancelStopped (s.bank c).eng).cmds ≠ []) :
    settleTexit c s = s.setBank c { s.bank c with eng := cancelStopped (s.bank c).eng } := by
  simp [settleTexit, hw, hm, quiet, hc]

/-- What a double fault leaves in its bank before the results in flight land (R234). -/
def doubleFaultBank (b : Bank) : Bank :=
  { b with
    eng := { cancelStopped b.eng with faults := [] }
    tr := { b.tr with mode := true }
    pipe := { b.pipe with wait := .texit } }

theorem doubleFault_bank (c : Ctx) (k : Nat) (wd tv : Bool) (s : State) :
    (doubleFault c k wd tv s).bank c = drain (doubleFaultBank (s.bank c)) := by
  unfold doubleFault
  rw [State.bank, endHelper_banks]
  exact State.bank_setBank _ c _

theorem doubleFaultBank_eng_of_running {b : Bank} (h : ∀ q, q ∈ [b.eng.mx, b.eng.de, b.eng.ci, b.eng.co] → q.stopped = false) :
    (doubleFaultBank b).eng = { b.eng with faults := [] } := by
  simp only [doubleFaultBank, cancelStopped_of_running h]

/-- A double fault is one record and event 7. -/
theorem doubleFault_plat (c : Ctx) (k : Nat) (wd tv : Bool) (s : State) :
    (doubleFault c k wd tv s).plat.evtst.getLsbD 7 = true ∧ (doubleFault c k wd tv s).plat.crkN = s.plat.crkN + 1 := by
  unfold doubleFault
  rw [endHelper_plat]
  exact ⟨raiseEvent_evtst (by decide) _, rfl⟩

theorem execMonitorLimitExpiry_of_due (c : Ctx) (s : State) (hm : (s.bank c).tr.mode = true) (hmon : 2 ^ 22 ≤ (s.bank c).pipe.mon)
    (hw : (s.bank c).pipe.wait = .none) (hz : (s.core c.core).freeze = 0) (hc : (s.bank c).eng.cmds ≠ [])
    (hq : ∀ q, q ∈ [(s.bank c).eng.mx, (s.bank c).eng.de, (s.bank c).eng.ci, (s.bank c).eng.co] → q.stopped = false) :
    ∃ t, execMonitorLimitExpiry c s = .next t ∧ (t.bank c).pipe.wait = .texit ∧ t.plat.evtst.getLsbD 7 = true ∧
      t.plat.crkN = s.plat.crkN + 1 := by
  have hbank := doubleFault_bank c 0 true false s
  have hcmds : (cancelStopped ((doubleFault c 0 true false s).bank c).eng).cmds ≠ [] := by
    rw [hbank, drain_eng, doubleFaultBank_eng_of_running hq,
      cancelStopped_of_running (e := { (s.bank c).eng with faults := [] }) hq]
    exact hc
  refine ⟨_, congrArg Host.Outcome.next (if_pos ⟨hm, hmon, by simp [hw], hz⟩), ?_⟩
  rw [settleTexit_of_cmds (by rw [hbank, drain_wait]; rfl) (by rw [hbank, drain_mode]; rfl) hcmds]
  refine ⟨?_, doubleFault_plat c 0 true false s⟩
  rw [State.bank_setBank, hbank, drain_wait]
  rfl

theorem issuer_of_issuing {s : State} {c : Ctx} (hi : (s.core c.core).issuing = some c.bank) (hs : (s.core c.core).switch = 0)
    (hz : (s.core c.core).freeze = 0) : issuer s c.core = some c := by
  simp [issuer, hi, hs, hz]

theorem execQuantumExpiry_of_spent {s : State} {c : Ctx} (hi : issuer s c.core = some c) (hr : s.isReady (otherBank c) = true)
    (hm : (s.bank c).tr.mode = false) (ht : (s.bank c).pipe.since + 38000 ≤ s.time) :
    execQuantumExpiry c.core s = .next (switchTo (otherBank c) s) := by
  simp [execQuantumExpiry, hi, hr, hm, quantum, ht]

theorem execQuantumExpiry_of_monitor {s : State} {c : Ctx} (hi : issuer s c.core = some c) (hm : (s.bank c).tr.mode = true) :
    execQuantumExpiry c.core s = .next s := by
  simp [execQuantumExpiry, hi, hm]

theorem execStallLimitExpiry_of_stalled {s : State} {c : Ctx} (hi : issuer s c.core = some c) (hr : s.isReady (otherBank c) = true)
    (ht : 64 < (s.bank c).pipe.stall) : execStallLimitExpiry c.core s = .next (switchTo (otherBank c) s) := by
  simp [execStallLimitExpiry, hi, hr, ht]

/-- The other bank issues after four cycles (R17). -/
theorem switchTo_other (c : Ctx) (s : State) : ((switchTo (otherBank c) s).core c.core).issuing = some (otherBank c).bank ∧
    ((switchTo (otherBank c) s).core c.core).switch = 4 :=
  ⟨switchTo_issuing (otherBank c) s, switchTo_cost (otherBank c) s⟩

/-! ### Correctable errors and lines (R118, R119, R138) -/

theorem execEccCorrectableFreeze_of_running (core : Fin 32) (st : Fin 5) (s : State) (hz : (s.core core).freeze = 0) :
    ∃ t, execEccCorrectableFreeze core st s = .next t ∧ tabGet t.mem.eccce st.val 0 = tabGet s.mem.eccce st.val 0 + 1 ∧
      (t.core core).freeze = (if st.val < 3 then 25 else 0) ∧ t.banks = s.banks ∧ t.mem.main = s.mem.main := by
  by_cases hst : st.val < 3
  · exact ⟨_, congrArg Host.Outcome.next (if_pos ⟨hst, hz⟩), tabGet_tabSet_same _ _ _ _, by simp [hst], rfl, rfl⟩
  · exact ⟨_, congrArg Host.Outcome.next (if_neg fun h => hst h.1), tabGet_tabSet_same _ _ _ _, by rw [if_neg hst]; exact hz, rfl, rfl⟩

theorem execFreezeEnd_of_last (core : Fin 32) (s : State) (hz : (s.core core).freeze = 1) :
    execFreezeEnd core s = .next (s.setCore core { s.core core with freeze := 0 }) := by
  simp [execFreezeEnd, hz]

theorem execL1CapacityEviction_of_good (core : Fin 32) (line : Nat) (s : State) (l : Line) (hl : s.l1? core line = some l)
    (hbad : (1, core.val * 2 ^ 48 + line) ∉ s.mem.bad) (hmig : s.famHas (frameOf (128 * line)) famMIG = false) :
    ∃ t, execL1CapacityEviction core line s = .next t ∧ t.l1? core line = none ∧
      (∀ i, i < 128 → t.mainByte (128 * line + i) =
        if l.dirty.getLsbD i then l.data.extractLsb' (8 * i) 8 else s.mainByte (128 * line + i)) ∧
      (∀ a, a < 128 * line ∨ 128 * line + 128 ≤ a → t.mainByte a = s.mainByte a) := by
  have hgood : s.lineBad core line = false := by simpa [State.lineBad, lineKey] using hbad
  refine ⟨_, congrArg Host.Outcome.next (evictLine_of_good hl hgood hmig), l1?_l1Drop _ _ _, fun i hi => ?_, fun a ha => ?_⟩
  · simp only [State.mainByte, l1Drop_mem, memByte_flushBytes_inside _ _ _ _ hi]
  · simp only [State.mainByte, l1Drop_mem, memByte_flushBytes_outside _ _ _ _ ha]

/-! ### The clear engine (R37, R82) -/

theorem execClearEngineDone_of_cleared {c : Ctx} {s : State} {r : Restart} (hp : (s.bank c).phase = .clearing 0)
    (hz : (s.core c.core).freeze = 0) (hr : (s.member c).restart = some r) :
    execClearEngineDone c s = .next (bankReady c (s.setBank c (launchRegs s c))) := by
  simp [execClearEngineDone, hp, hz, firstRestart, hr]

theorem execClearEngineDone_starts_thread (c : Ctx) (s : State) (r : Restart) (hp : (s.bank c).phase = .clearing 0)
    (hz : (s.core c.core).freeze = 0) (hi : (s.core c.core).issuing = none) (hr : (s.member c).restart = some r) (hm : r.mask = 0) :
    ∃ t, execClearEngineDone c s = .next t ∧ (t.bank c).phase = .ready ∧
      (t.core c.core).issuing = some c.bank ∧ (t.bank c).th.pc = r.rpc ∧ (t.bank c).loops = r.loops ∧
      (t.bank c).sreg 1 = (s.node (s.bank c).th.node).desc.args.extractLsb' 0 32 ∧
      (∀ k, k < 6 → (t.bank c).sreg (3 + k) = (s.node (s.bank c).th.node).desc.lv.getD k 0) := by
  refine ⟨_, execClearEngineDone_of_cleared hp hz hr, ?_⟩
  rw [bankReady_of_no_issuer (s := s.setBank c (launchRegs s c)) hz hi, State.bank_setBank, launchRegs_of_empty_mask hr hm]
  simp only [startIssue, wakeCore, State.bank_setCore, State.core_setCore, State.bank_setBank, State.core_setBank, true_and]
  exact ⟨putLaunch_sreg_args _ _, fun k hk => putVector_sreg_inside _ _ _ hk⟩

/-- Settles O52: each clause is the law above of the function that the event runs. -/
theorem bankEvents : Obligations.BankEvents := by
  refine ⟨execIdleTimeout_of_expired, execTkwTimeout_of_expired, execInterlockedWriteLand_of_ready, execInterlockedWriteLand_of_frozen,
    execInterlockedWriteLand_of_none_ready, execFixedLatencyVisible_of_due, fun c s f hf hw ha hm hk hd hs => ?_,
    execDomainFaultTaken_at_boundary, faults_wait_for_steps, fun c s hv hp hi => ⟨execFrespRetry_of_match c s hv hp hi, execFrespDeliver_of_match c s hv hp hi⟩,
    execMonitorLimitExpiry_of_due, fun c s hi hs hz hr => ?_, execEccCorrectableFreeze_of_running, execFreezeEnd_of_last,
    execL1CapacityEviction_of_good, execClearEngineDone_starts_thread⟩
  · have htaken := execEngineFaultTaken_of_taken hf hw (takesFault_at_boundary hw ha hm hk hd hs)
    exact ⟨fun hcode => ⟨_, htaken, takeEngFault_trap hf hm hcode⟩, fun hcode => ⟨_, htaken, takeEngFault_page hcode⟩⟩
  · have hissuer := issuer_of_issuing hi hs hz
    exact ⟨fun hm ht => ⟨_, execQuantumExpiry_of_spent hissuer hr hm ht, switchTo_other c s⟩, execQuantumExpiry_of_monitor hissuer,
      fun ht => ⟨_, execStallLimitExpiry_of_stalled hissuer hr ht, switchTo_other c s⟩⟩

end Sys2Proof.Machine
end

section
/-! SUPPORT. Lanes and elements of a packed register (R66, R67, R71, R75): what one lane of packed values is, and what a masked write
leaves in a lane. -/

namespace Sys2Proof.Machine

/-! ### Packed lanes -/

theorem packLanes_lt (w : Nat) (l : List Nat) : packLanes w l < 2 ^ (w * l.length) := by
  induction l with
  | nil => simp [packLanes]
  | cons x r ih =>
    have hx : x % 2 ^ w < 2 ^ w := Nat.mod_lt _ (Nat.two_pow_pos w)
    calc packLanes w (x :: r) < 2 ^ w + 2 ^ w * packLanes w r := Nat.add_lt_add_right hx _
      _ = 2 ^ w * (packLanes w r + 1) := by ring
      _ ≤ 2 ^ w * 2 ^ (w * r.length) := Nat.mul_le_mul_left _ ih
      _ = 2 ^ (w * (x :: r).length) := by rw [← pow_add, List.length_cons]; congr 1; ring

/-- Lane `j` of packed values is value `j`. -/
theorem elemOf_packLanes (w : Nat) {l : List Nat} {j : Nat} (h : j < l.length) : elemOf (packLanes w l) w j = l[j] % 2 ^ w := by
  induction l generalizing j with
  | nil => simp at h
  | cons x r ih =>
    cases j with
    | zero => simp [elemOf, bits, packLanes]
    | succ j =>
      have hdiv : packLanes w (x :: r) / 2 ^ (w * (j + 1)) = packLanes w r / 2 ^ (w * j) := by
        rw [Nat.mul_succ, Nat.add_comm, pow_add, ← Nat.div_div_eq_div_mul, packLanes,
          Nat.add_mul_div_left _ _ (Nat.two_pow_pos w), Nat.div_eq_of_lt (Nat.mod_lt _ (Nat.two_pow_pos w)), Nat.zero_add]
      rw [elemOf, bits, hdiv]
      exact ih (Nat.lt_of_succ_lt_succ h)

/-- A lane of a register's number is the register's field. -/
theorem elemOf_toNat {n : Nat} (x : BitVec n) (w j : Nat) : elemOf x.toNat w j = (x.extractLsb' (w * j) w).toNat := by
  rw [BitVec.extractLsb'_toNat, Nat.shiftRight_eq_div_pow, elemOf, bits]

theorem elemOf_lt (x w j : Nat) : elemOf x w j < 2 ^ w := Nat.mod_lt _ (Nat.two_pow_pos w)

/-- Field `j` of a register of packed values is value `j`. -/
theorem toNat_extract_ofNat_packLanes {n w : Nat} {l : List Nat} (hn : w * l.length ≤ n) {j : Nat} (h : j < l.length) :
    ((BitVec.ofNat n (packLanes w l)).extractLsb' (w * j) w).toNat = l[j] % 2 ^ w := by
  have hlt : packLanes w l < 2 ^ n := (packLanes_lt w l).trans_le (Nat.pow_le_pow_right (by decide) hn)
  rw [← elemOf_toNat, BitVec.toNat_ofNat, Nat.mod_eq_of_lt hlt, elemOf_packLanes w h]

/-! ### Masked writes -/

/-- A field whose mask is set takes the new value. -/
theorem extract_mergeBits_set {n s w : Nat} {mask : BitVec n} (h : mask.extractLsb' s w = BitVec.allOnes w) (old val : BitVec n) :
    (mergeBits old val mask).extractLsb' s w = val.extractLsb' s w := by
  have hbit (i : Nat) (hi : i < w) : mask.getLsbD (s + i) = true := by
    simpa [hi] using congrArg (fun x => x.getLsbD i) h
  apply BitVec.eq_of_getLsbD_eq
  intro i hi
  rw [BitVec.getLsbD_extractLsb', BitVec.getLsbD_extractLsb']
  simp only [mergeBits, BitVec.getLsbD_or, BitVec.getLsbD_and, BitVec.getLsbD_not, hbit i hi]
  simp

/-- A field whose mask is clear keeps its value. -/
theorem extract_mergeBits_clear {n s w : Nat} {mask : BitVec n} (h : mask.extractLsb' s w = 0) (old val : BitVec n) :
    (mergeBits old val mask).extractLsb' s w = old.extractLsb' s w := by
  have hbit (i : Nat) (hi : i < w) : mask.getLsbD (s + i) = false := by
    simpa [hi] using congrArg (fun x => x.getLsbD i) h
  apply BitVec.eq_of_getLsbD_eq
  intro i hi
  have hin : old.getLsbD (s + i) = true → s + i < n := BitVec.lt_of_getLsbD
  simpa [mergeBits, hi, hbit i hi] using hin

/-! ### The lanes that a scalar word writes (R67) -/

/-- The lanes of a scalar register fill it. -/
theorem lane_widths (m : BitVec 6) : let n := lanesOfSize (modSize m)
    0 < n ∧ 0 < 32 / n ∧ 32 / n * n = 32 := by
  unfold lanesOfSize
  split <;> decide

/-- One lane's bits are set in that lane and clear in the others. -/
theorem elemOf_oneLane (w k j : Nat) : elemOf ((2 ^ w - 1) * 2 ^ (w * k)) w j = if j = k then 2 ^ w - 1 else 0 := by
  apply Nat.eq_of_testBit_eq
  intro i
  rw [elemOf, bits, Nat.testBit_mod_two_pow, Nat.testBit_div_two_pow, Nat.testBit_mul_two_pow, Nat.testBit_two_pow_sub_one]
  split
  next h =>
    subst h
    simp
  next h =>
    have : ¬(i < w ∧ w * k ≤ i + w * j ∧ i + w * j - w * k < w) := by
      rcases Nat.lt_or_gt_of_ne h with hlt | hgt
      · have := Nat.mul_le_mul_left w hlt
        rw [Nat.mul_succ] at this
        omega
      · have := Nat.mul_le_mul_left w hgt
        rw [Nat.mul_succ] at this
        omega
    simpa using this

/-- A lane that lies below bit `n` is one of the low `n` bits. -/
theorem elemOf_mod {n w j : Nat} (h : w * j + w ≤ n) (x : Nat) : elemOf (x % 2 ^ n) w j = elemOf x w j := by
  apply Nat.eq_of_testBit_eq
  intro i
  simp only [elemOf, bits, Nat.testBit_mod_two_pow, Nat.testBit_div_two_pow]
  by_cases hi : i < w
  · have : i + w * j < n := by omega
    simp [this]
  · simp [hi]

/-- The mask of a destination is set in the lanes that are written and clear in the others. -/
theorem dstMask_lane {md : BitVec 6} {n w j : Nat} (hn : w * n = 32) (hj : j < n) :
    (BitVec.ofNat 32 (dstMask md w n)).extractLsb' (w * j) w = if laneWritten md n j then BitVec.allOnes w else 0 := by
  have hfit : w * j + w ≤ 32 := by
    have := Nat.mul_le_mul_left w hj
    rw [Nat.mul_succ] at this
    omega
  by_cases hall : (n = 1 || modSw md) = true
  · have hmask : BitVec.ofNat 32 (dstMask md w n) = BitVec.allOnes 32 := by simp [dstMask, hall]
    have hwritten : laneWritten md n j = true := by
      simp only [laneWritten, Bool.or_eq_true, beq_iff_eq, decide_eq_true_eq] at hall ⊢
      exact .inl hall
    rw [hmask, hwritten, if_pos rfl]
    apply BitVec.eq_of_getLsbD_eq
    intro i hi
    simp only [BitVec.getLsbD_extractLsb', BitVec.getLsbD_allOnes, hi]
    simp
    omega
  · have hlane : laneWritten md n j = (modIx md == j) := by
      simp only [Bool.or_eq_true, decide_eq_true_eq, not_or, Bool.not_eq_true] at hall
      simp [laneWritten, hall]
    have hmask : BitVec.ofNat 32 (dstMask md w n) = BitVec.ofNat 32 ((2 ^ w - 1) * 2 ^ (w * modIx md)) := by
      simp [dstMask, hall]
    rw [hmask, hlane]
    apply BitVec.eq_of_toNat_eq
    rw [← elemOf_toNat, BitVec.toNat_ofNat, elemOf_mod hfit, elemOf_oneLane]
    by_cases h : j = modIx md
    · simp [h]
    · simp [h, Ne.symm h]

/-- A scalar write changes its own register and nothing else (R65). -/
theorem landWrite_scalar_frame (b : Bank) (n : Nat) (v m : Word) :
    landWrite b (.s n v m) = { b with regs := { b.regs with s := (landWrite b (.s n v m)).regs.s } } := by
  unfold landWrite
  dsimp only
  split <;> rfl

theorem landWrite_sreg_same {b : Bank} {n : Nat} (h : n ≠ 0) (v m : Word) :
    (landWrite b (.s n v m)).sreg n = mergeBits (b.sreg n) v m := by
  simp [landWrite, Bank.sreg, h]

/-- A register-form word writes each lane's result in the lanes that its destination names (R67). -/
theorem writesLanes_srWrite (o : SrOps) (b : Bank) {f : Nat → Nat → Nat → Nat → Flagged} {val : Nat → Nat → Nat → Nat → Nat}
    (hval : ∀ w x y d, 0 < w → x < 2 ^ w → y < 2 ^ w → d < 2 ^ w → (f w x y d).val % 2 ^ w = val w x y d) :
    WritesLanes b (srWrite o b f) o val := by
  obtain ⟨hn, hw, hfill⟩ := lane_widths o.md
  refine ⟨fun j hj hd => ?_, fun hd => ?_, fun m hm => landWrite_sreg_other _ _ _ _ _ hm, landWrite_scalar_frame _ _ _ _⟩
  · have hmask : (srValue o (srResults o b f)).2.extractLsb' (32 / lanesOfSize (modSize o.md) * j) (32 / lanesOfSize (modSize o.md)) =
        if laneWritten o.md (lanesOfSize (modSize o.md)) j then BitVec.allOnes _ else 0 := dstMask_lane hfill hj
    rw [srWrite, landWrite_sreg_same hd, elemOf_toNat]
    split
    next h =>
      rw [h, if_pos rfl] at hmask
      rw [extract_mergeBits_set hmask]
      have hlen : ((srResults o b f).map Flagged.val).length = lanesOfSize (modSize o.md) := by simp [srResults, srLanes]
      rw [srValue, toNat_extract_ofNat_packLanes (by rw [hlen, hfill]) (by rw [hlen]; exact hj)]
      simpa [srResults, srLanes] using hval _ _ _ _ hw (elemOf_lt _ _ _) (elemOf_lt _ _ _) (elemOf_lt _ _ _)
    next h =>
      rw [Bool.not_eq_true] at h
      rw [h, if_neg (by decide)] at hmask
      rw [extract_mergeBits_clear hmask, elemOf_toNat]
  · simp [srWrite, landWrite, hd]

/-! ### Flags of several results (R89) -/

/-- The flags of the selected results, each of which raises `c` or nothing: `c` where one of them raises it. -/
theorem foldl_orFlag {α : Type} {p q : α → Bool} {af : α → BitVec 6} {c : BitVec 6} {l : List α}
    (h : ∀ x ∈ l, p x = true → af x = if q x then c else 0) (a : BitVec 6) :
    l.foldl (fun a x => if p x then a ||| af x else a) a = a ||| if l.any (fun x => p x && q x) then c else 0 := by
  induction l generalizing a with
  | nil => simp
  | cons x r ih =>
    rw [List.foldl_cons, ih (fun y hy => h y (List.mem_cons_of_mem x hy)), List.any_cons]
    cases hp : p x with
    | false => simp
    | true =>
      have hx := h x List.mem_cons_self hp
      cases hq : q x with
      | false => simp [hx, hq]
      | true => by_cases hr : r.any (fun x => p x && q x) = true <;> simp [hx, hq, hr, BitVec.or_assoc]

/-- Numbered results of a range. -/
theorem zip_range_map {α : Type} (n : Nat) (f : Nat → α) :
    (List.range n).zip ((List.range n).map f) = (List.range n).map fun j => (j, f j) := by
  simpa using List.zip_map' (f := id) (g := f) (l := List.range n)

end Sys2Proof.Machine
end

section
/-! OBLIGATION O14. SDIV and SREM (R93, R342): the lane results and their flags, and what the two forms of the words lock. -/

namespace Sys2Proof.Machine

/-- An integer as a pattern is one of the patterns of its width. -/
theorem wrapInt_lt (w : Nat) (x : Int) : wrapInt w x < 2 ^ w := by
  have hpos : (0 : Int) < (2 ^ w : Nat) := by exact_mod_cast Nat.two_pow_pos w
  have hlt := Int.emod_lt_of_pos x hpos
  have hle := Int.emod_nonneg x hpos.ne'
  unfold wrapInt
  omega

theorem signed_eq_zero_iff {w x : Nat} (h : x < 2 ^ w) : signed w x = 0 ↔ x = 0 := by
  unfold signed
  rw [Nat.mod_eq_of_lt h]
  split <;> omega

/-- The quotient of R93: toward zero, or the largest magnitude of the dividend's sign. -/
def quotient (w a b : Nat) : Nat :=
  if signed w b = 0 then (if signed w a < 0 then 2 ^ (w - 1) else 2 ^ (w - 1) - 1) else wrapInt w ((signed w a).tdiv (signed w b))

/-- The remainder of R93: the dividend's sign, or the dividend. -/
def remainder (w a b : Nat) : Nat := if signed w b = 0 then a else wrapInt w ((signed w a).tmod (signed w b))

theorem laneDiv_val {w : Nat} (a b d : Nat) (hw : 0 < w) : (laneDiv w a b d).val % 2 ^ w = quotient w a b := by
  have hpos := Nat.two_pow_pos (w - 1)
  have hhalf : 2 ^ (w - 1) < 2 ^ w := Nat.pow_lt_pow_right (by decide) (by omega)
  unfold laneDiv sdivLane quotient
  dsimp only
  split
  · dsimp only
    split <;> exact Nat.mod_eq_of_lt (by omega)
  · exact Nat.mod_eq_of_lt (wrapInt_lt w _)

theorem laneRem_val {w a : Nat} (b d : Nat) (ha : a < 2 ^ w) : (laneRem w a b d).val % 2 ^ w = remainder w a b := by
  unfold laneRem sremLane remainder
  dsimp only
  split
  · simp [Nat.mod_eq_of_lt ha]
  · exact Nat.mod_eq_of_lt (wrapInt_lt w _)

/-- A division by zero raises DZ, and no other division raises a flag. -/
theorem laneDiv_af {w b : Nat} (a d : Nat) (hb : b < 2 ^ w) : (laneDiv w a b d).af = if b == 0 then afDZ else 0 := by
  unfold laneDiv sdivLane
  simp only [signed_eq_zero_iff hb, beq_iff_eq]
  split <;> rfl

theorem laneRem_af {w b : Nat} (a d : Nat) (hb : b < 2 ^ w) : (laneRem w a b d).af = if b == 0 then afDZ else 0 := by
  unfold laneRem sremLane
  simp only [signed_eq_zero_iff hb, beq_iff_eq]
  split <;> rfl

/-- The register form of a word whose results divide: its flags are DZ where a lane that is written divides by zero. -/
theorem srFlags_division {o : SrOps} {b : Bank} {f : Nat → Nat → Nat → Nat → Flagged}
    (haf : ∀ w x y d, y < 2 ^ w → (f w x y d).af = if y == 0 then afDZ else 0) :
    let n := lanesOfSize (modSize o.md)
    srFlags o (srResults o b f) = if (List.range n).any (fun j => laneWritten o.md n j &&
      elemOf (b.sreg o.sb.toNat).toNat (32 / n) (srcLane o.mb n j) == 0) then afDZ else 0 := by
  dsimp only
  rw [srFlags, srResults, srLanes, zip_range_map, List.foldl_map]
  rw [foldl_orFlag (q := fun j => elemOf (b.sreg o.sb.toNat).toNat (32 / lanesOfSize (modSize o.md)) (srcLane o.mb _ j) == 0)
    (c := afDZ) fun j _ _ => haf _ _ _ _ (elemOf_lt _ _ _)]
  simp

/-- A whole write of a scalar (R65). -/
theorem writesScalar_whole (b : Bank) (n : Nat) (v : Word) : WritesScalar b (.s n v (BitVec.allOnes 32)) n v :=
  ⟨landWrite_sreg b n v, fun _ hm => landWrite_sreg_other b n _ v _ hm, landWrite_scalar_frame b n v _⟩

/-- The immediate form writes the result of a and sext(IMM, 32) (R341). -/
theorem writesScalar_siWrite (o : SiOps) (b : Bank) {f : Nat → Nat → Nat → Nat → Flagged} {x : Nat}
    (hval : (siResult o b f).val % 2 ^ 32 = x) : WritesScalar b (siWrite o b f) o.sd.toNat (BitVec.ofNat 32 x) := by
  have hx : BitVec.ofNat 32 (siResult o b f).val = BitVec.ofNat 32 x := by
    rw [← hval]
    exact BitVec.eq_of_toNat_eq (by simp)
  rw [siWrite, hx]
  exact writesScalar_whole b _ _

theorem signExtend_eq_zero_iff (x : BitVec 31) : (x.signExtend 32).toNat = 0 ↔ x = 0 := by
  refine ⟨fun h => ?_, fun h => by rw [h]; rfl⟩
  have hzero : x.signExtend 32 = 0 := BitVec.eq_of_toNat_eq h
  have hint : x.toInt = 0 := by rw [← BitVec.toInt_signExtend_of_le (by decide : 31 ≤ 32), hzero]; rfl
  exact BitVec.eq_of_toInt_eq hint

/-- Settles O14: each form locks the lane results of the quotient or the remainder, with DZ where a written lane divides by zero. -/
theorem scalarDivision : Obligations.ScalarDivision := by
  have siFlags (o : SiOps) (b : Bank) {f : Nat → Nat → Nat → Nat → Flagged}
      (haf : ∀ w x y d, y < 2 ^ w → (f w x y d).af = if y == 0 then afDZ else 0) :
      (siResult o b f).af = if o.imm = 0 then afDZ else 0 := by
    rw [siResult, haf _ _ _ _ (BitVec.isLt _)]
    simp only [beq_iff_eq, signExtend_eq_zero_iff]
  refine ⟨fun h o s hr => ⟨_, _, word_runs hr rfl, ?_, ?_⟩, fun h o s hr => ⟨_, _, word_runs hr rfl, ?_, ?_⟩,
    fun h o s hr => ⟨siWrite o s.cur laneDiv, ?_, ?_⟩, fun h o s hr => ⟨siWrite o s.cur laneRem, ?_, ?_⟩⟩
  · exact writesLanes_srWrite o _ fun w x y d hw _ _ _ => laneDiv_val x y d hw
  · exact srFlags_division fun w x y d => laneDiv_af x d
  · exact writesLanes_srWrite o _ fun w x y d _ hx _ _ => laneRem_val y d hx
  · exact srFlags_division fun w x y d => laneRem_af x d
  · rw [← siFlags o s.cur fun w x y d => laneDiv_af x d]
    exact word_runs hr rfl
  · exact writesScalar_siWrite o _ (laneDiv_val _ _ _ (by decide))
  · rw [← siFlags o s.cur fun w x y d => laneRem_af x d]
    exact word_runs hr rfl
  · exact writesScalar_siWrite o _ (laneRem_val _ _ (BitVec.isLt _))

end Sys2Proof.Machine
end

section
/-! OBLIGATION O19. Integer elements (R92, R360): the pattern of an integer names it within the type's range, so that a result wraps modulo
2^W or clamps to the range. -/

namespace Sys2Proof.Machine

/-- The least and the greatest integer of a type. -/
def intLow (sg : Bool) (w : Nat) : Int := if sg then -(2 ^ (w - 1) : Nat) else 0
def intHigh (sg : Bool) (w : Nat) : Int := if sg then (2 ^ (w - 1) : Nat) - 1 else (2 ^ w : Nat) - 1

theorem intLow_le_intHigh (sg : Bool) (w : Nat) : intLow sg w ≤ intHigh sg w := by
  have h1 := Nat.two_pow_pos (w - 1)
  have h2 := Nat.two_pow_pos w
  unfold intLow intHigh
  split <;> omega

theorem coe_wrapInt (w : Nat) (x : Int) : (wrapInt w x : Int) = x % (2 ^ w : Nat) :=
  Int.toNat_of_nonneg (Int.emod_nonneg x (by exact_mod_cast (Nat.two_pow_pos w).ne'))

/-- The pattern of an integer of the type's range names it. -/
theorem intOf_wrapInt {sg : Bool} {w : Nat} {x : Int} (hw : 0 < w) (hlo : intLow sg w ≤ x) (hhi : x ≤ intHigh sg w) :
    intOf sg w (wrapInt w x) = x := by
  have hdouble : 2 ^ w = 2 * 2 ^ (w - 1) := by rw [← pow_succ', Nat.sub_add_cancel hw]
  have hpos := Nat.two_pow_pos (w - 1)
  have hcoe := coe_wrapInt w x
  have hmod : wrapInt w x % 2 ^ w = wrapInt w x := Nat.mod_eq_of_lt (wrapInt_lt w x)
  rw [hdouble] at hcoe
  cases sg with
  | false =>
    simp only [intLow, intHigh, Bool.false_eq_true, if_false, hdouble] at hlo hhi
    rw [Int.emod_eq_of_lt hlo (by omega)] at hcoe
    simp only [intOf, Bool.false_eq_true, if_false, hmod, hcoe]
  | true =>
    simp only [intLow, intHigh, if_true] at hlo hhi
    simp only [intOf, if_true, signed, hmod]
    rw [hdouble]
    rcases Int.le_total 0 x with hx | hx
    · rw [Int.emod_eq_of_lt hx (by omega)] at hcoe
      rw [if_pos (by omega)]
      exact hcoe
    · rcases Int.lt_or_eq_of_le hx with hneg | rfl
      · rw [← Int.add_emod_right, Int.emod_eq_of_lt (by omega) (by omega)] at hcoe
        rw [if_neg (by omega)]
        omega
      · simp_all

/-- Without SAT a result wraps, and raises no flag. -/
theorem intResult_wraps (sg : Bool) (w : Nat) (v : Int) :
    ((intResult sg false w v).val : Int) = v % (2 ^ w : Nat) ∧ (intResult sg false w v).af = 0 :=
  ⟨coe_wrapInt w v, rfl⟩

/-- The cases of a result under SAT: below the range, above it, and in it. -/
theorem intResult_sat (sg : Bool) (w : Nat) (v : Int) : intResult sg true w v =
    if v < intLow sg w then { val := wrapInt w (intLow sg w), af := afSA }
    else if intHigh sg w < v then { val := wrapInt w (intHigh sg w), af := afSA } else { val := wrapInt w v, af := 0 } := by
  have hnarrow : narrow sg true w v = if v < intLow sg w then (wrapInt w (intLow sg w), afSA)
      else if intHigh sg w < v then (wrapInt w (intHigh sg w), afSA) else (wrapInt w v, 0) := by
    simp only [narrow, Bool.true_and, decide_eq_true_eq]
    rfl
  rw [intResult, hnarrow]
  repeat' split
  all_goals rfl

/-- Under SAT a result clamps to the type's range, and raises SA where it does. -/
theorem intResult_clamps (sg : Bool) {w : Nat} (hw : 0 < w) (v : Int) :
    intOf sg w (intResult sg true w v).val = max (intLow sg w) (min (intHigh sg w) v) ∧
      (intResult sg true w v).af = if v < intLow sg w ∨ intHigh sg w < v then afSA else 0 := by
  have hle := intLow_le_intHigh sg w
  rw [intResult_sat]
  split
  next hlo => exact ⟨by rw [intOf_wrapInt hw le_rfl hle]; omega, by simp [hlo]⟩
  next hlo =>
    split
    next hhi => exact ⟨by rw [intOf_wrapInt hw hle le_rfl]; omega, by simp [hhi]⟩
    next hhi => exact ⟨by rw [intOf_wrapInt hw (by omega) (by omega)]; omega, by simp [hlo, hhi]⟩

/-- Settles O19: the three words' integer elements are results of the exact sum, difference and product. -/
theorem integerElements : Obligations.IntegerElements := by
  intro sg w a b rm hw
  exact ⟨intResult_wraps sg w _, intResult_wraps sg w _, intResult_wraps sg w _, intResult_clamps sg hw _, intResult_clamps sg hw _,
    intResult_clamps sg hw _⟩

end Sys2Proof.Machine
end

section
/-! SUPPORT. The order of R96 on exact numbers: a key in a linear order says which of two numbers is before the other. -/

namespace Sys2Proof.Machine

/-- The value of a finite number. -/
def finVal (n : Bool) (m : Nat) (e : Int) : ℚ := (if n then -1 else 1) * m * (2 : ℚ) ^ e

theorem pow2_mul_zpow {e f : Int} (h : f ≤ e) : (pow2 (e - f) : ℚ) * (2 : ℚ) ^ f = (2 : ℚ) ^ e := by
  have hnat : ((e - f).toNat : Int) = e - f := Int.toNat_of_nonneg (by omega)
  rw [pow2, Nat.cast_pow, Nat.cast_ofNat, ← zpow_natCast, hnat, ← zpow_add₀ (by norm_num)]
  congr 1
  omega

/-- The exact sum of two finite values. -/
theorem dyAdd_value (n1 : Bool) (m1 : Nat) (e1 : Int) (n2 : Bool) (m2 : Nat) (e2 : Int) :
    ((dyAdd n1 m1 e1 n2 m2 e2).1 : ℚ) * (2 : ℚ) ^ min e1 e2 = finVal n1 m1 e1 + finVal n2 m2 e2 := by
  have hone (n : Bool) (m : Nat) {e : Int} (he : min e1 e2 ≤ e) :
      (((if n then -((m * pow2 (e - min e1 e2) : Nat) : Int) else ((m * pow2 (e - min e1 e2) : Nat) : Int)) : Int) : ℚ) *
        (2 : ℚ) ^ min e1 e2 = finVal n m e := by
    rw [finVal, ← pow2_mul_zpow he]
    cases n <;> simp <;> ring
  rw [dyAdd, Int.cast_add, add_mul]
  exact congrArg₂ (· + ·) (hone n1 m1 (min_le_left _ _)) (hone n2 m2 (min_le_right _ _))

/-- Comparison of finite numbers compares their values. -/
theorem numLt_fin (n1 : Bool) (m1 : Nat) (e1 : Int) (n2 : Bool) (m2 : Nat) (e2 : Int) :
    numLt (.fin n1 m1 e1) (.fin n2 m2 e2) = true ↔ finVal n1 m1 e1 < finVal n2 m2 e2 := by
  have hneg : finVal (!n2) m2 e2 = -finVal n2 m2 e2 := by cases n2 <;> simp [finVal]
  have hpos : (0 : ℚ) < (2 : ℚ) ^ min e1 e2 := zpow_pos (by norm_num) _
  have hsum := dyAdd_value n1 m1 e1 (!n2) m2 e2
  rw [hneg, ← sub_eq_add_neg] at hsum
  rw [numLt, decide_eq_true_eq, ← sub_neg (a := finVal n1 m1 e1), ← hsum, mul_neg_iff]
  simp [hpos, hpos.not_gt]

/-- The key of a number: its class (NaN at the end that the order names), its value, and for zeros their sign. -/
def numKey (mx : Bool) (x : Num) : ℤ ×ₗ ℚ ×ₗ ℤ :=
  match x with
  | .nan => toLex (if mx then -2 else 2, toLex (0, 0))
  | .inf n => toLex (if n then -1 else 1, toLex (0, 0))
  | .fin n m e => toLex (0, toLex (finVal n m e, if m = 0 ∧ n = false then 1 else 0))

theorem finVal_eq_zero_iff (n : Bool) (m : Nat) (e : Int) : finVal n m e = 0 ↔ m = 0 := by
  have hexp : (2 : ℚ) ^ e ≠ 0 := zpow_ne_zero _ (by norm_num)
  cases n <;> simp [finVal, hexp]

/-- Finite numbers by value, and of two zeros the negative one first (R96). -/
theorem numBefore_fin (mx : Bool) (n1 : Bool) (m1 : Nat) (e1 : Int) (n2 : Bool) (m2 : Nat) (e2 : Int) :
    numBefore mx (.fin n1 m1 e1) (.fin n2 m2 e2) = true ↔ finVal n1 m1 e1 < finVal n2 m2 e2 ∨
      finVal n1 m1 e1 = finVal n2 m2 e2 ∧ m1 = 0 ∧ n1 = true ∧ m2 = 0 ∧ n2 = false := by
  have hback := numLt_fin n2 m2 e2 n1 m1 e1
  have hzero1 := finVal_eq_zero_iff n1 m1 e1
  have hzero2 := finVal_eq_zero_iff n2 m2 e2
  simp only [numBefore, Bool.or_eq_true, Bool.and_eq_true, numLt_fin, Bool.not_eq_true', ← Bool.not_eq_true, hback,
    Num.isZero, Num.sign, beq_iff_eq, not_lt]
  constructor
  · rintro (hlt | ⟨⟨⟨⟨-, rfl⟩, rfl⟩, hn1⟩, hn2⟩)
    · exact .inl hlt
    · exact .inr ⟨(hzero1.mpr rfl).trans (hzero2.mpr rfl).symm, rfl, hn1, rfl, by simpa using hn2⟩
  · rintro (hlt | ⟨heq, hm1, hn1, hm2, hn2⟩)
    · exact .inl hlt
    · exact .inr ⟨⟨⟨⟨heq.le, hm1⟩, hm2⟩, hn1⟩, by simp [hn2]⟩

/-- A number is before another exactly if its key is less. -/
theorem numBefore_iff (mx : Bool) (x y : Num) : numBefore mx x y = true ↔ numKey mx x < numKey mx y := by
  cases x with
  | nan =>
    cases y with
    | nan => simp [numBefore]
    | inf b => cases mx <;> cases b <;> simp [numBefore, numKey, Prod.Lex.toLex_lt_toLex]
    | fin n2 m2 e2 => cases mx <;> simp [numBefore, numKey, Prod.Lex.toLex_lt_toLex]
  | inf a =>
    cases y with
    | nan => cases mx <;> cases a <;> simp [numBefore, numKey, Prod.Lex.toLex_lt_toLex]
    | inf b => cases a <;> cases b <;> simp [numBefore, numKey, numLt, Num.isZero, Prod.Lex.toLex_lt_toLex]
    | fin n2 m2 e2 => cases a <;> simp [numBefore, numKey, numLt, Num.isZero, Prod.Lex.toLex_lt_toLex]
  | fin n1 m1 e1 =>
    cases y with
    | nan => cases mx <;> simp [numBefore, numKey, Prod.Lex.toLex_lt_toLex]
    | inf b => cases b <;> simp [numBefore, numKey, numLt, Num.isZero, Prod.Lex.toLex_lt_toLex]
    | fin n2 m2 e2 =>
      have hzero1 := finVal_eq_zero_iff n1 m1 e1
      have hzero2 := finVal_eq_zero_iff n2 m2 e2
      simp only [numBefore_fin, numKey, Prod.Lex.toLex_lt_toLex, lt_irrefl, false_or, true_and]
      refine or_congr_right (and_congr_right fun heq => ?_)
      have hm : m1 = 0 ↔ m2 = 0 := by rw [← hzero1, ← hzero2, heq]
      by_cases h2 : m2 = 0 <;> cases n1 <;> cases n2 <;> simp [hm, h2]

end Sys2Proof.Machine
end

section
/-! SUPPORT. The best element of a list (R96, R368): the order of the indexed extremes is a strict weak order, and the search finds the
lowest index of an element that no other beats. -/

namespace Sys2Proof.Machine

variable {mx : Bool} {t : ETy}

/-- The key of an element: an integer's value, a float's key. -/
def elemKey (mx : Bool) (t : ETy) (x : Nat) : ℤ ×ₗ ℚ ×ₗ ℤ :=
  match t with
  | .int sg w => toLex (intOf sg w x, toLex (0, 0))
  | t => numKey mx (t.num x)

/-- The greater key beats for the maximum, the lesser for the minimum. -/
theorem better_iff (x y : Nat) : better mx t x y = true ↔
    if mx then elemKey true t y < elemKey true t x else elemKey false t x < elemKey false t y := by
  cases t with
  | int sg w => cases mx <;> simp [better, elemKey, Prod.Lex.toLex_lt_toLex]
  | _ => cases mx <;> simp [better, elemKey, numBefore_iff]

/-- Of two elements at most one beats the other. -/
theorem better_asymm {x y : Nat} (h : better mx t x y = true) : better mx t y x = false := by
  rw [← Bool.not_eq_true]
  rw [better_iff] at h ⊢
  cases mx <;> exact lt_asymm h

/-- What does not beat one that does not beat a third does not beat the third. -/
theorem better_negTrans {x y z : Nat} (h1 : better mx t x y = false) (h2 : better mx t y z = false) : better mx t x z = false := by
  rw [← Bool.not_eq_true, better_iff] at h1 h2 ⊢
  cases mx
  · exact not_lt.mpr ((not_lt.mp h2).trans (not_lt.mp h1))
  · exact not_lt.mpr ((not_lt.mp h1).trans (not_lt.mp h2))

theorem bestElem_cons_ne_none (p : Nat × Nat) (r : List (Nat × Nat)) : bestElem mx t (p :: r) ≠ none := by
  rw [bestElem]
  split
  · simp
  · split <;> simp

/-- The search over elements of rising index finds one of them that none beats, and that beats each one of lower index. -/
theorem bestElem_spec {l : List (Nat × Nat)} (hl : l.Pairwise fun p q => p.1 < q.1) {k v : Nat} (h : bestElem mx t l = some (k, v)) :
    (k, v) ∈ l ∧ (∀ p ∈ l, better mx t p.2 v = false) ∧ ∀ p ∈ l, p.1 < k → better mx t v p.2 = true := by
  induction l generalizing k v with
  | nil => cases h
  | cons p r ih =>
    obtain ⟨i, x⟩ := p
    rw [List.pairwise_cons] at hl
    obtain ⟨hfirst, hrest⟩ := hl
    have hself : better mx t x x = false := Bool.eq_false_iff.mpr fun hb => by simp [better_asymm hb] at hb
    rw [bestElem] at h
    split at h
    next hnone =>
      cases r with
      | cons q r => exact absurd hnone (bestElem_cons_ne_none q r)
      | nil =>
        cases h
        simp [hself]
    next j y hbest =>
      obtain ⟨hmem, hnone, hlow⟩ := ih hrest hbest
      split at h
      next hb =>
        cases h
        refine ⟨List.mem_cons_of_mem _ hmem, ?_, ?_⟩
        · exact List.forall_mem_cons.mpr ⟨better_asymm hb, hnone⟩
        · exact List.forall_mem_cons.mpr ⟨fun _ => hb, hlow⟩
      next hb =>
        obtain ⟨rfl, rfl⟩ : i = k ∧ x = v := by simpa using h
        refine ⟨List.mem_cons_self, ?_, ?_⟩
        · exact List.forall_mem_cons.mpr ⟨hself, fun q hq => better_negTrans (hnone q hq) (Bool.eq_false_iff.mpr hb)⟩
        · exact List.forall_mem_cons.mpr ⟨fun hlt => absurd hlt (lt_irrefl i), fun q hq hlt => absurd (hfirst q hq) hlt.not_gt⟩

end Sys2Proof.Machine
end

section
/-! SUPPORT. Element-wise writes of a vector register (R71, R75). -/

namespace Sys2Proof.Machine

theorem mul_elemCount_le (w : Nat) : w * elemCount w ≤ 4096 := Nat.mul_div_le 4096 w

/-- Element `i` of a packed vector is value `i`. -/
theorem extract_vPack {w : Nat} (f : Nat → Nat) {i : Nat} (h : i < elemCount w) :
    ((vPack w ((List.range (elemCount w)).map f)).extractLsb' (w * i) w).toNat = f i % 2 ^ w := by
  have hlen : ((List.range (elemCount w)).map f).length = elemCount w := by simp
  rw [vPack, toNat_extract_ofNat_packLanes (by rw [hlen]; exact mul_elemCount_le w) (by rwa [hlen])]
  simp

/-- A masked write of a vector register changes the elements whose mask is set, and nothing else. -/
theorem writesElems_masked (b : Bank) (vd w : Nat) (g : Nat → Bool) (f : Nat → Nat) :
    WritesElems b (.v (b.physV vd) (vPack w ((List.range (elemCount w)).map f))
      (vPack w ((List.range (elemCount w)).map fun i => if g i then 2 ^ w - 1 else 0))) vd w g f := by
  refine ⟨fun i hi => ?_, fun p hp => tabGet_tabSet_other _ _ _ _ _ hp, rfl⟩
  have hreg (val mask : VReg) : (landWrite b (.v (b.physV vd) val mask)).vreg vd = mergeBits (b.vreg vd) val mask :=
    tabGet_tabSet_same _ _ _ _
  have hmask := extract_vPack (fun i => if g i then 2 ^ w - 1 else 0) hi
  rw [hreg, vElem]
  have hfull : (2 ^ w - 1) % 2 ^ w = 2 ^ w - 1 := Nat.mod_eq_of_lt (Nat.sub_lt (Nat.two_pow_pos w) Nat.one_pos)
  split
  next h =>
    rw [extract_mergeBits_set, extract_vPack f hi]
    apply BitVec.eq_of_toNat_eq
    rw [hmask, if_pos h, BitVec.toNat_allOnes, hfull]
  next h =>
    rw [extract_mergeBits_clear, vElem]
    apply BitVec.eq_of_toNat_eq
    rw [hmask, if_neg h]
    simp

end Sys2Proof.Machine
end

section
/-! OBLIGATION O22. Reductions, scans, indexed extremes and histograms. -/

namespace Sys2Proof.Machine

/-! ### Indexed extremes (R368) -/

/-- The candidates of an indexed extreme: the enabled elements with their indices. -/
def extremeCands (t : ETy) (g : PReg) (x : VReg) : List (Nat × Nat) :=
  ((List.range (elemCount t.width)).filter fun i => g.getLsbD i).map fun i => (i, vElem x t.width i)

theorem mem_extremeCands {t : ETy} {g : PReg} {x : VReg} {p : Nat × Nat} : p ∈ extremeCands t g x ↔
    (p.1 < elemCount t.width ∧ g.getLsbD p.1 = true) ∧ p.2 = vElem x t.width p.1 := by
  obtain ⟨i, v⟩ := p
  simp only [extremeCands, List.mem_map, List.mem_filter, List.mem_range, Prod.mk.injEq]
  constructor
  · rintro ⟨j, hj, rfl, rfl⟩
    exact ⟨hj, rfl⟩
  · rintro ⟨hi, rfl⟩
    exact ⟨i, hi, rfl, rfl⟩

theorem extremeCands_pairwise (t : ETy) (g : PReg) (x : VReg) : (extremeCands t g x).Pairwise fun p q => p.1 < q.1 :=
  List.pairwise_map.mpr (List.pairwise_lt_range.filter _)

/-- The value of an indexed extreme: a NaN is made canonical (R95). -/
def canonElem (t : ETy) (v : Nat) : Nat := if t.num v = .nan then (if t = .bf16 then 0x7FC0 else 0x7FC00000) else v

theorem canonElem_eq (t : ETy) (v : Nat) : (if t.num v = .nan then t.nan else v) = canonElem t v := by
  cases t with
  | int sg w => exact (if_neg nofun).trans (if_neg nofun).symm
  | bf16 => rfl
  | f32 => rfl

/-- Where no element is enabled the value is the identity, which for a floating type is the NaN. -/
theorem canonElem_identity (t : ETy) (mx : Bool) : let v := canonElem t (if mx then idMax t else idMin t)
    (∀ sg w, t = .int sg w → v = if mx then idMax (.int sg w) else idMin (.int sg w)) ∧
      (t = .bf16 → v = 0x7FC0) ∧ (t = .f32 → v = 0x7FC00000) := by
  refine ⟨?_, ?_, ?_⟩
  · rintro sg w rfl
    exact if_neg nofun
  · rintro rfl
    cases mx <;> decide
  · rintro rfl
    cases mx <;> decide

/-- What an indexed extreme locks: its value and its index. -/
def extremeWrites (b : Bank) (o : VrOps) (ix v : Nat) : List RegWrite :=
  [.v (b.physV o.vd.toNat) (firstElem (etyOf o.ty).width (canonElem (etyOf o.ty) v)) allOnesV,
   .v (b.physV (o.vd.toNat + 1)) (firstElem 32 ix) allOnesV]

/-- Of two elements, the one before the other in the order of R96 for the maximum or the minimum. -/
def beatsElem (mx : Bool) (t : ETy) (a b : Nat) : Prop :=
  match t with
  | .int sg w => if mx then intOf sg w b < intOf sg w a else intOf sg w a < intOf sg w b
  | t => (if mx then numBefore true (t.num b) (t.num a) else numBefore false (t.num a) (t.num b)) = true

theorem beatsElem_iff (mx : Bool) (t : ETy) (a b : Nat) : beatsElem mx t a b ↔ better mx t a b = true := by
  cases t with
  | int sg w => cases mx <;> simp [beatsElem, better]
  | _ => rfl

section
variable {i : Hdr → VrOps → Instr} {mx : Bool} {h : Hdr} {o : VrOps} {s : State}

/-- What an indexed extreme locks, where the search answers an element and where it answers none. -/
theorem extremeEffect_of_best {k v : Nat}
    (hbest : bestElem mx (etyOf o.ty) (extremeCands (etyOf o.ty) (s.cur.guard h) (s.cur.vreg o.va.toNat)) = some (k, v)) :
    extremeEffect h o mx s = .ok (s.setCur (s.cur.lockWrites (extremeWrites s.cur o k v) 0 true)) := by
  rw [extremeCands] at hbest
  simp only [extremeEffect, hbest, Option.getD_some, canonElem_eq]
  rfl

theorem extremeEffect_of_none
    (hbest : bestElem mx (etyOf o.ty) (extremeCands (etyOf o.ty) (s.cur.guard h) (s.cur.vreg o.va.toNat)) = none) :
    extremeEffect h o mx s = .ok (s.setCur (s.cur.lockWrites
      (extremeWrites s.cur o 0xFFFFFFFF (if mx then idMax (etyOf o.ty) else idMin (etyOf o.ty))) 0 true)) := by
  rw [extremeCands] at hbest
  simp only [extremeEffect, hbest, Option.getD_none, canonElem_eq]
  rfl

/-- An indexed extreme over no enabled element. -/
theorem extreme_of_none_enabled (hexec : exec (i h o) s = word (i h o) s (extremeEffect h o mx)) (hr : Runs (i h o) s)
    (hoff : ∀ k, k < elemCount (etyOf o.ty).width → (s.cur.guard h).getLsbD k = false) :
    exec (i h o) s = .next (s.locked (extremeWrites s.cur o 0xFFFFFFFF (if mx then idMax (etyOf o.ty) else idMin (etyOf o.ty))) 0) := by
  have hcands : extremeCands (etyOf o.ty) (s.cur.guard h) (s.cur.vreg o.va.toNat) = [] := by
    refine List.eq_nil_iff_forall_not_mem.mpr fun p hp => ?_
    obtain ⟨⟨hin, hon⟩, -⟩ := mem_extremeCands.mp hp
    simp [hoff _ hin] at hon
  have hnone : bestElem mx (etyOf o.ty) (extremeCands (etyOf o.ty) (s.cur.guard h) (s.cur.vreg o.va.toNat)) = none := by
    rw [hcands, bestElem]
  rw [hexec]
  exact word_runs hr (extremeEffect_of_none hnone)

/-- An indexed extreme over some enabled element: the element that no other beats, of lowest index. -/
theorem extreme_of_enabled (hexec : exec (i h o) s = word (i h o) s (extremeEffect h o mx)) (hr : Runs (i h o) s)
    (hon : ∃ j, j < elemCount (etyOf o.ty).width ∧ (s.cur.guard h).getLsbD j = true) :
    ∃ k, (k < elemCount (etyOf o.ty).width ∧ (s.cur.guard h).getLsbD k = true) ∧
      (∀ j, j < elemCount (etyOf o.ty).width ∧ (s.cur.guard h).getLsbD j = true →
        ¬beatsElem mx (etyOf o.ty) (vrElem o s.cur o.va.toNat j) (vrElem o s.cur o.va.toNat k)) ∧
      (∀ j, j < elemCount (etyOf o.ty).width ∧ (s.cur.guard h).getLsbD j = true → j < k →
        beatsElem mx (etyOf o.ty) (vrElem o s.cur o.va.toNat k) (vrElem o s.cur o.va.toNat j)) ∧
      exec (i h o) s = .next (s.locked (extremeWrites s.cur o k (vrElem o s.cur o.va.toNat k)) 0) := by
  obtain ⟨j, hj⟩ := hon
  have cand {j : Nat} (hj : j < elemCount (etyOf o.ty).width ∧ (s.cur.guard h).getLsbD j = true) :
      (j, vrElem o s.cur o.va.toNat j) ∈ extremeCands (etyOf o.ty) (s.cur.guard h) (s.cur.vreg o.va.toNat) :=
    mem_extremeCands.mpr ⟨hj, rfl⟩
  cases hbest : bestElem mx (etyOf o.ty) (extremeCands (etyOf o.ty) (s.cur.guard h) (s.cur.vreg o.va.toNat)) with
  | none =>
    cases hl : extremeCands (etyOf o.ty) (s.cur.guard h) (s.cur.vreg o.va.toNat) with
    | nil => exact absurd (hl ▸ cand hj) List.not_mem_nil
    | cons p r => exact absurd (hl ▸ hbest) (bestElem_cons_ne_none p r)
  | some r =>
    obtain ⟨k, v⟩ := r
    obtain ⟨hmem, hnone, hlow⟩ := bestElem_spec (extremeCands_pairwise _ _ _) hbest
    obtain ⟨hk, hv⟩ := mem_extremeCands.mp hmem
    dsimp only at hk hv
    subst hv
    simp only [beatsElem_iff, Bool.not_eq_true]
    refine ⟨k, hk, fun j hj => (hnone _ (cand hj) :), fun j hj => (hlow _ (cand hj) :), ?_⟩
    rw [hexec]
    exact word_runs hr (extremeEffect_of_best hbest)

end

/-! ### Scans (R367) -/

theorem scanList_length (f : Nat → Nat → Flagged) (a : Flagged) (l : List Flagged) : (scanList f a l).length = l.length := by
  induction l generalizing a with
  | nil => rfl
  | cons x r ih => simp [scanList, ih]

/-- Each result combines the one before it with its own element. -/
theorem scanList_getElem? (f : Nat → Nat → Flagged) {a y z : Flagged} {l : List Flagged} {i : Nat}
    (hy : (a :: scanList f a l)[i]? = some y) (hz : l[i]? = some z) :
    ((scanList f a l)[i]?).map Flagged.val = some (f y.val z.val).val := by
  induction l generalizing a i with
  | nil => cases hz
  | cons x r ih =>
    cases i with
    | zero =>
      cases hy
      cases hz
      rfl
    | succ i => exact ih hy hz

/-- A reserved code makes a word that is not well formed (R281, R367). -/
theorem vscan_reserved (h : Hdr) (o : VrOps) (s : State) (hc : 3 ≤ o.vc.toNat) :
    exec (.vscan h o) s = .next (takeStop (illegalStop (.vscan h o)) s) := by
  have hwf : (Instr.vscan h o).wf = false := by
    have : ¬o.vc.toNat ≤ 2 := by omega
    simp [Instr.wf, this]
  exact word_checked (by simp [precheck, hwf]; rfl)

/-! ### Histograms (R371) -/

/-- A lane at its greatest count clamps under SAT. -/
theorem histLane_af (sat : Bool) {x : Nat} (hx : x < 2 ^ 32) :
    (intResult false sat 32 ((x : Int) + 1)).af = if sat && x == 0xFFFFFFFF then afSA else 0 := by
  cases sat with
  | false => rfl
  | true =>
    rw [(intResult_clamps false (by decide) _).2]
    have hiff : ((x : Int) + 1 < intLow false 32 ∨ intHigh false 32 < (x : Int) + 1) ↔ x = 0xFFFFFFFF := by
      simp only [intLow, intHigh, Bool.false_eq_true, if_false]
      omega
    simp only [hiff, Bool.true_and, beq_iff_eq]

/-- The flags of several results, each of which raises `c` or nothing. -/
theorem foldl_or {α : Type} {q : α → Bool} {af : α → BitVec 6} {c : BitVec 6} {l : List α}
    (h : ∀ x ∈ l, af x = if q x then c else 0) (a : BitVec 6) :
    l.foldl (fun a x => a ||| af x) a = a ||| if l.any q then c else 0 := by
  simpa using foldl_orFlag (p := fun _ => true) (fun x hx _ => h x hx) a

/-- Does lane `l` count in bin `k`, and is it at its greatest count? -/
def histHit (b : Bank) (h : Hdr) (o : VrOps) (k l : Nat) : Bool := (b.guard h).getLsbD l && vElem (b.vreg o.va.toNat) 32 l == k
def histFull (b : Bank) (o : VrOps) (k l : Nat) : Bool := vElem (b.vreg (o.vd.toNat + k)) 32 l == 0xFFFFFFFF

theorem histBin_writes (b : Bank) (h : Hdr) (o : VrOps) (k : Nat) : WritesElems b (histBin b h o k).1 (o.vd.toNat + k) 32
    (histHit b h o k) fun l => (intResult false o.sat 32 ((vElem (b.vreg (o.vd.toNat + k)) 32 l : Nat) + 1 : Int)).val := by
  have hwrites := writesElems_masked b (o.vd.toNat + k) 32 (histHit b h o k)
    fun l => (intResult false o.sat 32 ((vElem (b.vreg (o.vd.toNat + k)) 32 l : Nat) + 1 : Int)).val
  rw [histBin, List.map_map]
  exact hwrites

theorem histBin_af (b : Bank) (h : Hdr) (o : VrOps) (k : Nat) : (histBin b h o k).2 =
    if (List.range 128).any (fun l => histHit b h o k l && (o.sat && histFull b o k l)) then afSA else 0 := by
  rw [histBin]
  dsimp only
  rw [zip_range_map, List.foldl_map]
  exact (foldl_orFlag (p := histHit b h o k) (fun l _ _ => histLane_af o.sat (BitVec.isLt _)) 0).trans (BitVec.zero_or)

/-- The flags of a histogram: SA where an enabled lane's slot clamps. -/
theorem hist_af (b : Bank) (h : Hdr) (o : VrOps) :
    ((List.range (histBins o)).map (histBin b h o)).foldl (fun f x => f ||| x.2) 0 =
      if (List.range (histBins o)).any fun k => (List.range 128).any fun l => histHit b h o k l && (o.sat && histFull b o k l)
      then afSA else 0 := by
  rw [List.foldl_map]
  exact (foldl_or (fun k _ => histBin_af b h o k) 0).trans BitVec.zero_or

/-- A lane clamps: it is enabled, its value names a bin, and its slot there is at its greatest count. -/
theorem hist_clamps_iff (b : Bank) (h : Hdr) (o : VrOps) :
    ((List.range (histBins o)).any fun k => (List.range 128).any fun l => histHit b h o k l && (o.sat && histFull b o k l)) = true ↔
      o.sat = true ∧ ∃ l, l < 128 ∧ (b.guard h).getLsbD l = true ∧ vElem (b.vreg o.va.toNat) 32 l < histBins o ∧
        vElem (b.vreg (o.vd.toNat + vElem (b.vreg o.va.toNat) 32 l)) 32 l = 0xFFFFFFFF := by
  simp only [List.any_eq_true, List.mem_range, histHit, histFull, Bool.and_eq_true, beq_iff_eq]
  constructor
  · rintro ⟨k, hk, l, hl, ⟨hon, rfl⟩, hsat, hfull⟩
    exact ⟨hsat, l, hl, hon, hk, hfull⟩
  · rintro ⟨hsat, l, hl, hon, hk, hfull⟩
    exact ⟨_, hk, l, hl, ⟨hon, rfl⟩, hsat, hfull⟩

/-- Settles O22: each word locks what its tree, its scan, its search or its bins give. -/
theorem vectorReductions : Obligations.VectorReductions := by
  refine ⟨fun h o s hr => word_runs hr rfl, fun h o s hr => word_runs hr rfl, fun h o s hr => word_runs hr rfl,
    fun h o s hr hoff => ⟨_, extreme_of_none_enabled rfl hr hoff, canonElem_identity _ true⟩,
    fun h o s hr hoff => ⟨_, extreme_of_none_enabled rfl hr hoff, canonElem_identity _ false⟩,
    fun h o s hr hon => extreme_of_enabled rfl hr hon, fun h o s hr hon => extreme_of_enabled rfl hr hon,
    fun h o s hr => word_runs hr rfl, ?_, ?_, vscan_reserved, fun h o s hr => ?_, fun h o s hr => word_runs hr rfl⟩
  · exact fun f x l => ⟨by simp [scanAll, scanList_length], rfl, fun i y z => scanList_getElem? f⟩
  · exact fun o t => ⟨fun hc => by simp [scanOp, scanIdent, hc], fun hc => by simp [scanOp, scanIdent, hc],
      fun hc => by simp [scanOp, scanIdent, hc]⟩
  · refine ⟨_, _, word_runs hr rfl, by simp, fun k hk => ⟨(histBin s.cur h o k).1, by simp [hk], histBin_writes s.cur h o k, ?_⟩⟩
    have hclamps := hist_clamps_iff s.cur h o
    rw [hist_af]
    exact ⟨fun hfull => if_pos (hclamps.mpr hfull), fun hfull => if_neg fun hany => hfull (hclamps.mp hany)⟩

end Sys2Proof.Machine
end

section
/-! SUPPORT. The blocks in which copied elements cross the Birith link (R114): a value's fields give it back, a block gives back its values,
and bytes are cut into blocks and put together again without loss. -/

namespace Sys2Proof.Machine

/-! ### Bytes and values -/

@[simp] theorem leNat_cons (x : Byte) (r : List Byte) : leNat (x :: r) = leNat r * 256 + x.toNat := rfl

/-- The bytes of the number that bytes make are those bytes. -/
theorem natLe_leNat (b : List Byte) : natLe b.length (leNat b) = b := by
  induction b with
  | nil => rfl
  | cons x r ih =>
    have hx : x.toNat < 256 := x.isLt
    have hlow : BitVec.ofNat 8 (leNat r * 256 + x.toNat) = x := BitVec.eq_of_toNat_eq (by rw [BitVec.toNat_ofNat]; omega)
    have hhigh : (leNat r * 256 + x.toNat) / 256 = leNat r := by omega
    simp only [List.length_cons, natLe, leNat_cons, hlow, hhigh, ih]

/-- A value's fields give back its bits. -/
theorem pack_linkNum (e f x : Nat) : (linkNum e f x).pack e f = x := by
  have hfrac := Nat.mod_add_div x (2 ^ f)
  have hexp := Nat.mod_add_div (x / 2 ^ f) (2 ^ e)
  have hsign := Nat.mod_add_div (x / 2 ^ f / 2 ^ e) 2
  have hfe : x / 2 ^ (e + f) = x / 2 ^ f / 2 ^ e := by rw [Nat.add_comm, pow_add, Nat.div_div_eq_div_mul]
  have hflag : x / 2 ^ (e + f + 1) = x / 2 ^ f / 2 ^ e / 2 := by rw [pow_succ, ← Nat.div_div_eq_div_mul, hfe]
  have hbit : (if x / 2 ^ f / 2 ^ e % 2 == 1 then 2 ^ (e + f) else 0) = 2 ^ (e + f) * (x / 2 ^ f / 2 ^ e % 2) := by
    rcases Nat.mod_two_eq_zero_or_one (x / 2 ^ f / 2 ^ e) with h | h <;> simp [h]
  calc (linkNum e f x).pack e f
      = x % 2 ^ f + 2 ^ f * (x / 2 ^ f % 2 ^ e) + 2 ^ (e + f) * (x / 2 ^ f / 2 ^ e % 2) +
          2 ^ (e + f + 1) * (x / 2 ^ f / 2 ^ e / 2) := by
        simp only [LinkNum.pack, linkNum, bits, bitOf, pow_zero, Nat.div_one, hfe, hflag, hbit]
    _ = x % 2 ^ f + 2 ^ f * (x / 2 ^ f % 2 ^ e + 2 ^ e * (x / 2 ^ f / 2 ^ e % 2 + 2 * (x / 2 ^ f / 2 ^ e / 2))) := by ring
    _ = x := by rw [hsign, hexp, hfrac]

theorem linkNum_exp_lt {e : Nat} (h : e ≤ 10) (f x : Nat) : (linkNum e f x).exp < 1024 :=
  (Nat.mod_lt _ (Nat.two_pow_pos e)).trans_le (Nat.pow_le_pow_right (by decide) h : 2 ^ e ≤ 2 ^ 10)

/-! ### One block -/

theorem foldl_min_le (l : List LinkNum) (m : Nat) :
    l.foldl (fun m v => min m v.exp) m ≤ m ∧ ∀ v ∈ l, l.foldl (fun m v => min m v.exp) m ≤ v.exp := by
  induction l generalizing m with
  | nil => simp
  | cons x r ih =>
    obtain ⟨hle, hall⟩ := ih (min m x.exp)
    refine ⟨hle.trans (min_le_left _ _), ?_⟩
    exact List.forall_mem_cons.mpr ⟨hle.trans (min_le_right _ _), hall⟩

theorem blockMin_le (l : List LinkNum) : blockMin l ≤ 1023 ∧ ∀ v ∈ l, blockMin l ≤ v.exp := foldl_min_le l 1023

theorem blockWidth_le (l : List LinkNum) : blockWidth l ≤ 11 := by
  unfold blockWidth
  cases h : (List.range 12).find? fun w => l.all fun v => decide (v.exp - blockMin l < 2 ^ w) with
  | none => exact le_rfl
  | some w => exact Nat.le_of_lt_succ (List.mem_range.mp (List.mem_of_find?_eq_some h))

/-- Every exponent delta of a block fits its width. -/
theorem delta_lt {l : List LinkNum} {v : LinkNum} (hv : v ∈ l) (he : v.exp < 1024) : v.exp - blockMin l < 2 ^ blockWidth l := by
  unfold blockWidth
  cases h : (List.range 12).find? fun w => l.all fun v => decide (v.exp - blockMin l < 2 ^ w) with
  | none => simp only [Option.getD_none]; omega
  | some w =>
    have hall := List.find?_some h
    simp only [List.all_eq_true, decide_eq_true_eq] at hall
    exact hall v hv

/-- The three fields of a block's header. -/
theorem linkBlock_head (l : List LinkNum) : bits (linkBlock l).head.toNat 0 10 = blockMin l ∧
    bits (linkBlock l).head.toNat 10 4 = blockWidth l ∧ (linkBlock l).head.getLsbD 14 = blockFlags l := by
  obtain ⟨hmin, -⟩ := blockMin_le l
  have hwidth := blockWidth_le l
  have hhead : (linkBlock l).head.toNat = blockMin l + 1024 * blockWidth l + if blockFlags l then 16384 else 0 := by
    simp only [linkBlock, BitVec.toNat_ofNat]
    split <;> omega
  rw [BitVec.getLsbD, Nat.testBit_eq_decide_div_mod_eq, hhead]
  cases blockFlags l <;> simp [bits] <;> omega

/-- A block gives back its values. -/
theorem linkBlock_nums {l : List LinkNum} (h : ∀ v ∈ l, v.exp < 1024) : LinkBlock.nums (linkBlock l) = l := by
  obtain ⟨hmin, hwidth, hflags⟩ := linkBlock_head l
  rw [LinkBlock.nums, hmin, hwidth, hflags]
  simp only [linkBlock, List.map_map]
  refine (List.map_congr_left fun v hv => ?_).trans (List.map_id l)
  obtain ⟨-, hle⟩ := blockMin_le l
  have hexp : blockMin l + (v.exp - blockMin l) % 2 ^ blockWidth l = v.exp := by
    rw [Nat.mod_eq_of_lt (delta_lt hv (h v hv))]
    exact Nat.add_sub_of_le (hle v hv)
  have hflag : blockFlags l = false → v.flag = 0 := fun hf => by
    simp only [blockFlags, List.any_eq_false, bne_iff_ne, ne_eq, not_not] at hf
    exact hf v hv
  cases hb : blockFlags l with
  | false => simp [hexp, ← hflag hb]
  | true => simp [hexp]

/-! ### Bytes cut into pieces -/

/-- The pieces in order are the bytes. -/
theorem cutBytes_flatten {n : Nat} (hn : 0 < n) {fuel : Nat} {l : List Byte} (h : l.length ≤ fuel) : (cutBytes n fuel l).flatten = l := by
  induction fuel generalizing l with
  | zero => simp [cutBytes, List.eq_nil_of_length_eq_zero (Nat.le_zero.mp h)]
  | succ fuel ih =>
    rw [cutBytes]
    split
    next hl => simp_all
    next hl =>
      have hpos : 0 < l.length := List.length_pos_iff.mpr (by simpa using hl)
      rw [List.flatten_cons, ih (by rw [List.length_drop]; omega), List.take_append_drop]

/-- Pieces of whole units hold whole units. -/
theorem dvd_length_of_mem_cutBytes {k n fuel : Nat} (hn : k ∣ n) {l p : List Byte} (hl : k ∣ l.length) (hp : p ∈ cutBytes n fuel l) :
    k ∣ p.length := by
  induction fuel generalizing l with
  | zero => cases hp
  | succ fuel ih =>
    rw [cutBytes] at hp
    split at hp
    next => cases hp
    next =>
      rcases List.mem_cons.mp hp with rfl | hrest
      · rw [List.length_take]
        rcases min_choice n l.length with h | h <;> rwa [h]
      · exact ih (by rw [List.length_drop]; exact Nat.dvd_sub hl hn) hrest

/-- A piece is neither empty nor longer than asked for. -/
theorem length_of_mem_cutBytes {n fuel : Nat} (hn : 0 < n) {l p : List Byte} (hp : p ∈ cutBytes n fuel l) :
    0 < p.length ∧ p.length ≤ n := by
  induction fuel generalizing l with
  | zero => cases hp
  | succ fuel ih =>
    rw [cutBytes] at hp
    split at hp
    next => cases hp
    next hl =>
      rcases List.mem_cons.mp hp with rfl | hrest
      · have hpos : 0 < l.length := List.length_pos_iff.mpr (by simpa using hl)
        rw [List.length_take]
        omega
      · exact ih hrest

/-- Bytes of whole values are cut into pieces of one value each. -/
theorem length_eq_of_mem_cutBytes {n fuel : Nat} (hn : 0 < n) {l p : List Byte} (hl : n ∣ l.length) (hp : p ∈ cutBytes n fuel l) :
    p.length = n := by
  obtain ⟨hpos, hle⟩ := length_of_mem_cutBytes hn hp
  exact Nat.le_antisymm hle (Nat.le_of_dvd hpos (dvd_length_of_mem_cutBytes (dvd_refl n) hl hp))

/-! ### Blocks of bytes -/

/-- Blocks of whole values give back their bytes. -/
theorem ofBlocks_toBlocks {n e f : Nat} (hn : 0 < n) (he : e ≤ 10) {l : List Byte} (hl : n ∣ l.length) :
    ofBlocks n e f (toBlocks n e f l) = l := by
  have hvalue (b : List Byte) (hb : n ∣ b.length) :
      ((cutBytes n b.length b).map fun x => linkNum e f (leNat x)).flatMap (fun v => natLe n (v.pack e f)) = b := by
    rw [List.flatMap_map]
    have hpiece : ∀ x ∈ cutBytes n b.length b, natLe n ((linkNum e f (leNat x)).pack e f) = x := fun x hx => by
      rw [pack_linkNum, ← length_eq_of_mem_cutBytes hn hb hx, natLe_leNat]
    rw [List.flatMap_congr hpiece, List.flatMap_id', cutBytes_flatten hn le_rfl]
  have hblock : ∀ b ∈ cutBytes (32 * n) l.length l,
      (LinkBlock.nums (linkBlock ((cutBytes n b.length b).map fun x => linkNum e f (leNat x)))).flatMap
        (fun v => natLe n (v.pack e f)) = b :=
    fun b hb => by
      rw [linkBlock_nums, hvalue b (dvd_length_of_mem_cutBytes (dvd_mul_left n 32) hl hb)]
      intro v hv
      obtain ⟨x, -, rfl⟩ := List.mem_map.mp hv
      exact linkNum_exp_lt he f _
  rw [ofBlocks, toBlocks, List.flatMap_map, List.flatMap_assoc, List.flatMap_congr hblock, List.flatMap_id',
    cutBytes_flatten (by omega) le_rfl]

/-- What crosses the link arrives bit for bit. -/
theorem wireData_wireOf (fp pk : Bool) (l : List Byte) : wireData (wireOf fp pk l) = l := by
  unfold wireOf
  split
  next h =>
    simp only [Bool.and_eq_true, beq_iff_eq] at h
    exact ofBlocks_toBlocks (by decide) (by decide) (Nat.dvd_of_mod_eq_zero h.2)
  next =>
    split
    next h =>
      simp only [Bool.and_eq_true, beq_iff_eq] at h
      exact ofBlocks_toBlocks (by decide) (by decide) (Nat.dvd_of_mod_eq_zero h.2)
    next => rfl

end Sys2Proof.Machine
end

section
/-! SUPPORT. What the performance of a memory step leaves alone (R118, R241): every cluster, and every thread's list of steps; and the
bytes that a step of a store puts in the scratchpad. -/

namespace Sys2Proof.Machine

/-! ### Lines and their writes -/

/-- What no access of a line changes. -/
def lineKept (s : State) : Tab Bank × Tab Cluster := (s.banks, s.clusters)

theorem foundUe_lineKept (s : State) (w : Option Ctx) (strc key : Nat) : lineKept (foundUe s w strc key) = lineKept s := by
  have hcount : lineKept (countUe s w strc key) = lineKept s := rfl
  have hdrop (t : State) : lineKept (t.dropBad strc key) = lineKept t := rfl
  have hcore (t : State) (k : Fin 32) (x : Core) : lineKept (t.setCore k x) = lineKept t := rfl
  have hfam (t : State) (f : Nat) (on off : Byte) : lineKept (t.famSet f on off) = lineKept t := rfl
  have hfatal (t : State) : lineKept (fatalError 3 t) = lineKept t := rfl
  simp only [foundUe, apply_ite lineKept, hfatal, hfam, hcore, hdrop, hcount, ite_self]

theorem flushLine_lineKept (s : State) (ln : Nat) (l : Line) : lineKept (s.flushLine ln l) = lineKept s := by
  unfold State.flushLine
  split <;> rfl

theorem writeBack_lineKept (s : State) (k : Fin 32) (ln : Nat) (tag : Option (BitVec 2)) :
    lineKept (writeBack s k ln tag) = lineKept s := by
  unfold writeBack
  split
  · rfl
  · split
    · exact foundUe_lineKept _ _ _ _
    · exact flushLine_lineKept _ _ _

theorem evictLine_lineKept (s : State) (k : Fin 32) (ln : Nat) : lineKept (evictLine s k ln) = lineKept s := by
  unfold evictLine
  split
  · rfl
  · split
    · split
      · exact foundUe_lineKept _ _ _ _
      · rfl
    · exact flushLine_lineKept _ _ _

theorem wbAll_lineKept (s : State) (k : Fin 32) (sc : BitVec 2) : lineKept (wbAll s k sc) = lineKept s := by
  unfold wbAll
  split
  · rfl
  · refine foldl_keeps lineKept (fun t x => ?_) _ _
    split
    · exact writeBack_lineKept _ _ _ _
    · rfl

theorem invAll_lineKept (s : State) (k : Fin 32) (sc : BitVec 2) : lineKept (invAll s k sc) = lineKept s := by
  unfold invAll
  split
  · rfl
  · refine foldl_keeps lineKept (fun t x => ?_) _ _
    split
    · exact evictLine_lineKept _ _ _
    · rfl

theorem fillLine_lineKept (s : State) (k : Fin 32) (ln : Nat) : lineKept (fillLine s k ln).1 = lineKept s := by
  unfold fillLine
  split <;> rfl

theorem setSync_lineKept (s : State) (w : Nat) (x : SyncWord) : lineKept (s.setSync w x) = lineKept s := rfl

theorem syncRead_lineKept (s : State) (pa n : Nat) : lineKept (s.syncRead pa n) = lineKept s := by
  refine foldl_keeps lineKept (fun t w => ?_) _ _
  dsimp only
  split
  · rfl
  · rw [setSync_lineKept]
    exact foldl_keeps lineKept (op := fun s k => wbAll s k 3) (fun u k => wbAll_lineKept u k 3) _ _

theorem syncStore_lineKept (s : State) (pa n : Nat) : lineKept (s.syncStore pa n) = lineKept s :=
  foldl_keeps lineKept (op := fun s w => s.setSync w { s.syncWord w with rels := [], full := true }) (fun _ _ => rfl) _ _

theorem cacheRead_lineKept (s : State) (k : Fin 32) (pa n : Nat) (l1 : Bool) : lineKept (cacheRead s k pa n l1).1 = lineKept s := by
  unfold cacheRead
  split
  · exact fillLine_lineKept _ _ _
  · exact writeBack_lineKept _ _ _ _

theorem cacheWrite_lineKept (s : State) (k : Fin 32) (pa : Nat) (b : List Byte) (l1 : Bool) (sc : BitVec 2) :
    lineKept (cacheWrite s k pa b l1 sc) = lineKept s := by
  unfold cacheWrite
  dsimp only
  split
  · exact fillLine_lineKept _ _ _
  · split
    · exact syncStore_lineKept _ _ _
    · exact (syncStore_lineKept _ _ _).trans (flushLine_lineKept _ _ _)

/-! ### A step -/

/-- What the performance of a memory step keeps: the steps that each thread waits for, and the clusters. -/
def stepsKept (s : State) : (Ctx → List MemStep) × Tab Cluster := (fun c => (s.bank c).pipe.steps, s.clusters)

theorem stepsKept_of_lineKept {s t : State} (h : lineKept t = lineKept s) : stepsKept t = stepsKept s := by
  simp only [lineKept, Prod.mk.injEq] at h
  simp only [stepsKept, State.bank, h.1, h.2]

theorem setBank_stepsKept {s : State} {c : Ctx} {b : Bank} (h : b.pipe.steps = (s.bank c).pipe.steps) :
    stepsKept (s.setBank c b) = stepsKept s := by
  refine Prod.ext (funext fun d => ?_) rfl
  by_cases hd : d = c
  · subst hd
    simpa [stepsKept] using h
  · simp [stepsKept, State.bank_setBank_other _ _ _ _ hd]

theorem setEarly_stepsKept (s : State) (c : Ctx) (l : List Early) : stepsKept (s.setEarly c l) = stepsKept s := setBank_stepsKept rfl

theorem noEarly_stepsKept (s : State) (c : Ctx) : stepsKept (s.noEarly c) = stepsKept s := by
  unfold State.noEarly
  split
  · rfl
  · exact setEarly_stepsKept _ _ _

theorem storeOver_stepsKept (s : State) (c : Ctx) (pa n : Nat) : stepsKept (s.storeOver c pa n) = stepsKept s := by
  unfold State.storeOver
  split
  · rfl
  · exact setEarly_stepsKept _ _ _

theorem readLoc_stepsKept (s : State) (c : Ctx) (loc : Loc) (n : Nat) (l1 : Bool) : stepsKept (readLoc s c loc n l1).1 = stepsKept s := by
  have hread (t : State) (a : Nat) : stepsKept (cacheRead (if l1 then t else t.syncRead a n) c.core a n l1).1 = stepsKept t := by
    refine stepsKept_of_lineKept ((cacheRead_lineKept _ _ _ _ _).trans ?_)
    split
    · rfl
    · exact syncRead_lineKept _ _ _
  unfold readLoc
  split
  · rfl
  · split
    · exact hread s _
    · dsimp only
      split
      · exact setEarly_stepsKept _ _ _
      · exact (hread _ _).trans (setEarly_stepsKept _ _ _)

theorem writeLoc_stepsKept (s : State) (c : Ctx) (loc : Loc) (b : List Byte) (l1 : Bool) (sc : BitVec 2) :
    stepsKept (writeLoc s c loc b l1 sc) = stepsKept s := by
  unfold writeLoc
  split
  · exact setBank_stepsKept rfl
  · exact (stepsKept_of_lineKept (cacheWrite_lineKept _ _ _ _ _ _)).trans (storeOver_stepsKept _ _ _ _)

theorem performStep_stepsKept (s : State) (c : Ctx) (m : MemStep) : stepsKept (performStep s c m) = stepsKept s := by
  unfold performStep
  split
  · exact writeLoc_stepsKept _ _ _ _ _ _
  · dsimp only
    have hfill : stepsKept ((readLoc s c m.loc 64 m.l1).1.setBank c
        (((readLoc s c m.loc 64 m.l1).1.bank c).fillLock m.lock m.off (readLoc s c m.loc 64 m.l1).2 m.last)) = stepsKept s := by
      refine Eq.trans (setBank_stepsKept ?_) (readLoc_stepsKept s c m.loc 64 m.l1)
      rfl
    split
    · unfold afterAcquire
      rw [if_pos rfl, noEarly_stepsKept]
      exact (stepsKept_of_lineKept (invAll_lineKept _ _ _)).trans hfill
    · exact hfill

/-- The step that is performed leaves its thread's list, and no cluster changes. -/
theorem nextStep_kept (s : State) (c : Ctx) : ((nextStep s c).bank c).pipe.steps = (s.bank c).pipe.steps.drop 1 ∧
    (nextStep s c).clusters = s.clusters := by
  unfold nextStep
  dsimp only
  split
  next h => simp [h]
  next m r h =>
    have hkept := performStep_stepsKept (s.setBank c { s.bank c with pipe := { (s.bank c).pipe with steps := r } }) c m
    refine ⟨(congrFun (congrArg Prod.fst hkept) c).trans ?_, congrArg Prod.snd hkept⟩
    simp [stepsKept, h]

/-! ### Bytes in the scratchpad -/

theorem tabGet?_scrPut_below (t : Tab Byte) {o i : Nat} (x : List Byte) (h : i < o) : tabGet? (scrPut t o x) i = tabGet? t i := by
  induction x generalizing t o with
  | nil => rfl
  | cons b r ih => rw [scrPut, ih _ (by omega), tabGet?_tabSet_other _ _ _ _ (by omega)]

/-- Bytes that are written stand in the scratchpad. -/
theorem tabGet?_scrPut (t : Tab Byte) (o : Nat) {x : List Byte} {k : Nat} (h : k < x.length) :
    tabGet? (scrPut t o x) (o + k) = some x[k] := by
  induction x generalizing t o k with
  | nil => simp at h
  | cons b r ih =>
    cases k with
    | zero => simp [scrPut, tabGet?_scrPut_below]
    | succ k =>
      have hk : o + (k + 1) = o + 1 + k := by omega
      rw [scrPut, hk]
      exact ih _ _ (Nat.lt_of_succ_lt_succ h)

theorem scrByte_scrWrite (b : Bank) (o : Nat) {x : List Byte} {k : Nat} (h : k < x.length) :
    (b.scrWrite o x).scrByte (o + k) = x.getD k 0 := by
  simp [Bank.scrByte, Bank.scrWrite, tabGet?_scrPut _ _ h, h]

/-- A step of a store into the scratchpad puts its bytes there. -/
theorem nextStep_scratch {s : State} {c : Ctx} {m : MemStep} {r : List MemStep} {o : Nat} {x : List Byte}
    (hs : (s.bank c).pipe.steps = m :: r) (hl : m.loc = .sp o) (hd : m.data = some x) {k : Nat} (hk : k < x.length) :
    ((nextStep s c).bank c).scrByte (o + k) = x.getD k 0 := by
  have hbank : (nextStep s c).bank c =
      ({ s.bank c with pipe := { (s.bank c).pipe with steps := r } } : Bank).scrWrite o x := by
    have hheal (t : State) (n : Nat) : (healPool t c o n).bank c = t.bank c := rfl
    simp only [nextStep, hs, performStep, hd, hl, writeLoc, hheal, State.bank_setBank]
  rw [hbank]
  exact scrByte_scrWrite _ _ hk

end Sys2Proof.Machine
end

section
/-! SUPPORT. Commands that start and what governs their micro-steps (R206 to R209, R222, R241). -/

namespace Sys2Proof.Machine

/-! ### Tokens and FIFOs -/

@[simp] theorem Engines.fifo_setFifo (e : Engines) (f : FifoId) (x : Fifo) : (e.setFifo f x).fifo f = x := by cases f <;> rfl
@[simp] theorem Engines.chan_setFifo (e : Engines) (f : FifoId) (x : Fifo) (k : Nat) : (e.setFifo f x).chan k = e.chan k := by
  cases f <;> rfl

/-- Tokens that are taken leave every FIFO alone. -/
@[simp] theorem Engines.fifo_popTokens (e : Engines) (f g : FifoId) (t : BitVec 4) : (e.popTokens f t).fifo g = e.fifo g := by
  have hchan (e : Engines) (k n : Nat) : (e.setChan k n).fifo g = e.fifo g := by
    unfold Engines.setChan
    split <;> cases g <;> rfl
  exact foldl_keeps (fun e : Engines => e.fifo g) (fun e k => hchan e k _) _ _

@[simp] theorem leaveFifo_bank (s : State) (c : Ctx) (f : FifoId) (x : Cmd) (d : Ctx) : (leaveFifo s c f x).bank d = s.bank d := by
  unfold leaveFifo
  dsimp only
  split
  · rfl
  · split <;> rfl
  · rfl

@[simp] theorem countLease_bank (s : State) (c : Ctx) (x : Cmd) (d : Ctx) : (countLease s c x).bank d = s.bank d := by
  unfold countLease
  dsimp only
  split
  · split <;> rfl
  · rfl

@[simp] theorem cluster_setEng (s : State) (c : Ctx) (e : Engines) (k : Nat) : (s.setEng c e).cluster k = s.cluster k := rfl
@[simp] theorem setEng_eng (s : State) (c : Ctx) (e : Engines) : ((s.setEng c e).bank c).eng = e := by simp [State.setEng]

/-- The head that starts runs from micro-PC 0, and its tokens are taken. -/
theorem startHead_eng (s : State) (c : Ctx) (f : FifoId) (x : Cmd) : ((startHead s c f x).bank c).eng =
    ((s.bank c).eng.popTokens f x.tok).setFifo f { (s.bank c).eng.fifo f with run := true, prog := .reset } := by
  simp only [startHead, leaveFifo_bank, setEng_eng, Engines.fifo_popTokens]

/-! ### Charge -/

theorem charged_granted {s s1 : State} {cl : Nat} {r : ChargeReq} (h : takeGrant s cl r = some s1) (go : State → State) :
    charged s cl r go = go s1 := by simp [charged, h]

theorem charged_asks {s : State} {cl : Nat} {r : ChargeReq} (h : takeGrant s cl r = none) (go : State → State) :
    charged s cl r go = askCharge s cl r := by simp [charged, h]

end Sys2Proof.Machine
end

section
/-! OBLIGATION O53. The events of engines and clusters, each as the function that gives its row its meaning says it. -/

namespace Sys2Proof.Machine

/-! ### Commands start (R206, R207, R222) -/

theorem execMatrixCommandStart_of_ready (c : Ctx) (s : State) (x : Cmd) (hx : mxReady s c = some x)
    (ht : mxTotal ((countLease (startHead s c .mx x) c x).bank c) x ≠ 0) :
    ∃ t, execMatrixCommandStart c s = .next t ∧ (t.bank c).eng.mx.run = true ∧ (t.bank c).eng.mx.q = (s.bank c).eng.mx.q ∧
      (∀ k, (t.bank c).eng.chan k = ((s.bank c).eng.popTokens .mx x.tok).chan k) := by
  have hstart : mxStart s c = countLease (startHead s c .mx x) c x := by
    simp only [mxStart, hx]
    exact if_neg fun h => ht h.1
  refine ⟨_, congrArg Host.Outcome.next hstart, ?_⟩
  rw [countLease_bank, startHead_eng]
  exact ⟨rfl, rfl, fun k => Engines.chan_setFifo _ _ _ _⟩

theorem execCopyCommandStart_of_pick (c : Ctx) (s : State) (f : FifoId) (x : Cmd) (hx : copyPick s c = some (f, x)) :
    let s1 := startHead s c f x
    let s2 := s1.setEng c { (s1.bank c).eng with lastCi := f == .ci }
    copyTotal s2 c x ≠ 0 → execCopyCommandStart c s = .next s2 := by
  intro s1 s2 ht
  simp only [execCopyCommandStart, copyStart, hx]
  exact congrArg _ (if_neg ht)

/-- A MERGE that starts stands last at the tree. -/
theorem treeQueue_freeTree_getLast? (s : State) (c : Ctx) : (treeQueue (freeTree s c) c).getLast? = some c := by
  have htree : ((freeTree s c).cluster (clusterOf c.core)).tree = (s.cluster (clusterOf c.core)).tree.filter fun d => d != c := by
    simp [freeTree, setTree]
  have hnot : (((freeTree s c).cluster (clusterOf c.core)).tree.filter (atTree (freeTree s c))).contains c = false := by
    simp [htree]
  rw [treeQueue]
  simp only [hnot]
  simp

theorem execDataCommandStart_of_ready (c : Ctx) (s : State) (x : Cmd) (hx : deReady s c = some x) :
    let s1 := startHead s c .de x
    (s1.bank c).eng.de.run = true ∧
    (x.kind = .hacc → execDataCommandStart c s = .next s1) ∧
    (x.kind = .merge → ∃ t, execDataCommandStart c s = .next t ∧ t = setTree s1 c (treeQueue (freeTree s1 c) c) ∧
      (t.cluster (clusterOf c.core)).tree.getLast? = some c) ∧
    (x.kind = .chain → (chainD x.desc.toNat).n ≠ 0 → execDataCommandStart c s = .next s1) ∧
    (x.kind = .chain → (chainD x.desc.toNat).n = 0 → execDataCommandStart c s = .next (chainDone s1 c x)) := by
  have hstart : execDataCommandStart c s = .next (deStart s c) := rfl
  refine ⟨by rw [startHead_eng]; rfl, fun hk => ?_, fun hk => ⟨_, ?_, rfl, ?_⟩, fun hk hn => ?_, fun hk hn => ?_⟩
  · simp [hstart, deStart, hx, hk]
  · simp [hstart, deStart, hx, hk]
  · rw [setTree, State.cluster_setCluster]
    exact treeQueue_freeTree_getLast? _ c
  · simp [hstart, deStart, hx, hk, hn]
  · simp [hstart, deStart, hx, hk, hn]

/-! ### Micro-steps (R208, R241, R242) -/

theorem execMatrixMicroStep_of_running (c : Ctx) (s : State) (x : Cmd) (hx : runningHead s c .mx = some x)
    (hp : (s.bank c).eng.mx.prog.done = false) :
    let k := clusterOf c.core
    let q := chargeReq whoMatrix c (mxCharge s c x)
    (mxCharge s c x = 0 → execMatrixMicroStep c s = .next (mxAdvance s c x)) ∧
    (mxCharge s c x ≠ 0 → ∀ s1, takeGrant s k q = some s1 → execMatrixMicroStep c s = .next (mxAdvance s1 c x)) ∧
    (mxCharge s c x ≠ 0 → takeGrant s k q = none → execMatrixMicroStep c s = .next (askCharge s k q)) := by
  have hzero (h : mxCharge s c x = 0) : mxMicro s c = mxAdvance s c x := by simp [mxMicro, hx, hp, h]
  have hcharged (h : mxCharge s c x ≠ 0) : mxMicro s c =
      charged s (clusterOf c.core) (chargeReq whoMatrix c (mxCharge s c x)) fun s => mxAdvance s c x := by
    cases hw : mxCharge s c x with
    | zero => exact absurd hw h
    | succ w => simp [mxMicro, hx, hp, hw]
  exact ⟨fun h => congrArg _ (hzero h), fun h s1 hg => congrArg _ ((hcharged h).trans (charged_granted hg _)),
    fun h hg => congrArg _ ((hcharged h).trans (charged_asks hg _))⟩

theorem execCopyMicroStep_of_running (c : Ctx) (s : State) (f : FifoId) (x : Cmd) (hx : copyRunning s c = some (f, x))
    (hp : ((s.bank c).eng.fifo f).prog.done = false) :
    let k := clusterOf c.core
    let p := ((s.bank c).eng.fifo f).prog
    let l := runLength s c x p.step
    let n := blocksBegun p.count ((List.range l).map fun i => stepBits s c x (p.step + i)).sum
    let q := chargeReq (whoCopy c.core) c (n * s.clsWeight k 11)
    (n = 0 → execCopyMicroStep c s = .next (copyAdvance s c f x l)) ∧
    (n ≠ 0 → ∀ s1, takeGrant s k q = some s1 → execCopyMicroStep c s = .next (copyAdvance s1 c f x l)) ∧
    (n ≠ 0 → takeGrant s k q = none → execCopyMicroStep c s = .next (askCharge s k q)) := by
  intro k p l n q
  have hzero (h : n = 0) : copyMicro s c = copyAdvance s c f x l := by
    simp only [n, p, l] at h
    simp [copyMicro, hx, hp, h, l, p]
  have hcharged (h : n ≠ 0) : copyMicro s c = charged s k q fun s => copyAdvance s c f x l := by
    cases hw : n with
    | zero => exact absurd hw h
    | succ w =>
      simp only [n, p, l] at hw
      simp [copyMicro, hx, hp, hw, l, p, q, n, k]
  exact ⟨fun h => congrArg _ (hzero h), fun h s1 hg => congrArg _ ((hcharged h).trans (charged_granted hg _)),
    fun h hg => congrArg _ ((hcharged h).trans (charged_asks hg _))⟩

section
variable (c : Ctx) (s : State) (x : Cmd)

theorem execDataMicroStep_of_hacc (hx : runningHead s c .de = some x) (hk : x.kind = .hacc) (hp : (s.bank c).eng.de.prog.done = false) :
    let k := clusterOf c.core
    let q := chargeReq (whoData c.core) c (s.clsWeight k 13)
    ((s.bank c).eng.de.prog.last ≠ some (0, 0) → execDataMicroStep c s = .next (haccBegin s c x)) ∧
    ((s.bank c).eng.de.prog.last = some (0, 0) → ∀ s1, takeGrant s k q = some s1 → execDataMicroStep c s = .next (haccStep s1 c x)) ∧
    ((s.bank c).eng.de.prog.last = some (0, 0) → takeGrant s k q = none → execDataMicroStep c s = .next (askCharge s k q)) := by
  intro k q
  have hcharged (h : (s.bank c).eng.de.prog.last = some (0, 0)) : deMicro s c = charged s k q fun s => haccStep s c x := by
    simp [deMicro, hx, hp, hk, h, k, q]
  have hbegin (h : (s.bank c).eng.de.prog.last ≠ some (0, 0)) : deMicro s c = haccBegin s c x := by
    simp only [deMicro, hx, hp, hk]
    exact if_pos h
  exact ⟨fun h => congrArg _ (hbegin h), fun h s1 hg => congrArg _ ((hcharged h).trans (charged_granted hg _)),
    fun h hg => congrArg _ ((hcharged h).trans (charged_asks hg _))⟩

theorem execDataMicroStep_of_merge (hx : runningHead s c .de = some x) (hk : x.kind = .merge) (hp : (s.bank c).eng.de.prog.done = false) :
    let k := clusterOf c.core
    let q := chargeReq whoTree c (s.clsWeight k 12)
    let s1 := setTree s c (treeQueue s c)
    ((treeQueue s c).head? ≠ some c → execDataMicroStep c s = .next s1) ∧
    ((treeQueue s c).head? = some c → (s.bank c).eng.de.prog.fibres = [] → execDataMicroStep c s = .next (mergeLoad s1 c x)) ∧
    ((treeQueue s c).head? = some c → (s.bank c).eng.de.prog.fibres ≠ [] →
      (∀ s2, takeGrant s1 k q = some s2 → execDataMicroStep c s = .next (mergeStep s2 c x)) ∧
      (takeGrant s1 k q = none → execDataMicroStep c s = .next (askCharge s1 k q))) := by
  intro k q s1
  have hcharged (h : (treeQueue s c).head? = some c) (hf : (s.bank c).eng.de.prog.fibres ≠ []) :
      deMicro s c = charged s1 k q fun s => mergeStep s c x := by
    simp [deMicro, hx, hp, hk, h, hf, k, q, s1]
  have hwaits (h : (treeQueue s c).head? ≠ some c) : deMicro s c = s1 := by simp [deMicro, hx, hp, hk, h, s1]
  have hload (h : (treeQueue s c).head? = some c) (hf : (s.bank c).eng.de.prog.fibres = []) : deMicro s c = mergeLoad s1 c x := by
    simp [deMicro, hx, hp, hk, h, hf, s1]
  exact ⟨fun h => congrArg _ (hwaits h), fun h hf => congrArg _ (hload h hf),
    fun h hf => ⟨fun s2 hg => congrArg _ ((hcharged h hf).trans (charged_granted hg _)),
      fun hg => congrArg _ ((hcharged h hf).trans (charged_asks hg _))⟩⟩

theorem execDataMicroStep_of_chain (hx : runningHead s c .de = some x) (hk : x.kind = .chain) (hp : (s.bank c).eng.de.prog.done = false) :
    let k := clusterOf c.core
    let q := chargeReq (whoData c.core) c (s.clsWeight k 14)
    (∀ s1, takeGrant s k q = some s1 → execDataMicroStep c s = .next (chainStep s1 c x)) ∧
    (takeGrant s k q = none → execDataMicroStep c s = .next (askCharge s k q)) := by
  intro k q
  have hcharged : deMicro s c = charged s k q fun s => chainStep s c x := by simp [deMicro, hx, hp, hk, k, q]
  exact ⟨fun s1 hg => congrArg _ (hcharged.trans (charged_granted hg _)), fun hg => congrArg _ (hcharged.trans (charged_asks hg _))⟩

end

/-! ### The matrix lease (R209) -/

/-- The lease that a bank is granted. -/
def newLease (s : State) (c : Ctx) : Lease :=
  { holder := c, left := max 1 ((s.bank c).sys.leaseq.toNat % 2 ^ 16), since := s.time }

/-- The array goes to bank `i` of its cluster. -/
def grantLease (cl : Fin 8) (s : State) (i : Nat) : State :=
  let c := clusterBank cl.val i
  let s1 := s.setCluster cl.val { s.cluster cl.val with lease := some (newLease s c), lastH := i }
  s1.setEng c { (s1.bank c).eng with wantMx := false }

theorem execLeaseGrant_of_request (cl : Fin 8) (s : State) (i : Nat) (hfree : (s.cluster cl.val).lease = none)
    (hi : ((List.range 8).map fun k => ((s.cluster cl.val).lastH + 1 + k) % 8).find?
      (fun k => wantsLease s (clusterBank cl.val k)) = some i) :
    ∃ t l, execLeaseGrant cl s = .next t ∧ (t.cluster cl.val).lease = some l ∧ l.holder = clusterBank cl.val i ∧ l.since = s.time ∧
      l.left = max 1 ((s.bank l.holder).sys.leaseq.toNat % 2 ^ 16) ∧ (t.bank l.holder).eng.wantMx = false := by
  have hgrant : execLeaseGrant cl s = .next (grantLease cl s i) := by simp [execLeaseGrant, grantLease, newLease, hfree, hi]
  exact ⟨_, newLease s (clusterBank cl.val i), hgrant, by simp [grantLease], rfl, rfl, rfl, by simp [grantLease, newLease]⟩

theorem execLeaseTimeout_of_expired (cl : Fin 8) (s : State) (l : Lease) (hl : (s.cluster cl.val).lease = some l)
    (hc : clusterOf l.holder.core = cl.val) (ht : l.since + 65536 ≤ s.time) (hr : (s.bank l.holder).eng.mx.run = false) :
    ∃ t, execLeaseTimeout cl s = .next t ∧ (t.cluster cl.val).lease = none := by
  have hholds : holdsLease s l.holder = true := by simp [holdsLease, hc, hl]
  refine ⟨endLease s l.holder, by simp [execLeaseTimeout, hl, hr, Nat.not_lt.mpr ht], ?_⟩
  simp [endLease, hholds, hc]

end Sys2Proof.Machine
end

section
/-! SUPPORT. A cycle of the charge-budget bucket (R241, R242): what the round-robin pass makes of no request and of one, and what the
performance of granted memory steps leaves. -/

namespace Sys2Proof.Machine

@[simp] theorem setBucket_bucket (s : State) (k : Nat) (b : Bucket) : ((s.setBucket k b).cluster k).bucket = b := by
  simp [State.setBucket]
@[simp] theorem setBucket_banks (s : State) (k : Nat) (b : Bucket) : (s.setBucket k b).banks = s.banks := rfl

/-! ### The pass -/

theorem grantPass_of_no_request {b : Bucket} (h : b.reqs = []) (l : List Nat) : grantPass b l = b := by
  induction l with
  | nil => rfl
  | cons w r ih => simp [grantPass, reqOf, h, ih]

/-- The one request is granted where the level covers it. -/
theorem grantPass_grants {b : Bucket} {r : ChargeReq} (hq : b.reqs = [r]) (hres : b.resv = []) (hw : r.weight ≤ b.level) {l : List Nat}
    (hl : r.who ∈ l) : grantPass b l = grantOne b r := by
  induction l with
  | nil => cases hl
  | cons w l ih =>
    by_cases hwho : r.who = w
    · have hserved : grantPass b (w :: l) = grantPass (grantOne b r) l := by simp [grantPass, reqOf, hq, hwho, hres, hw]
      rw [hserved, grantPass_of_no_request (by simp [grantOne, hq])]
    · have hother : grantPass b (w :: l) = grantPass b l := by simp [grantPass, reqOf, hq, hwho]
      rw [hother, ih ((List.mem_cons.mp hl).resolve_left hwho)]

/-- The one request is refused where the level does not cover it. -/
theorem grantPass_refuses {b : Bucket} {r : ChargeReq} (hq : b.reqs = [r]) (hw : b.level < r.weight) (l : List Nat) :
    let t := grantPass b l
    t.level = b.level ∧ t.reqs = [r] ∧ t.granted = b.granted ∧ (b.anyRef = true ∨ r.who ∈ l → t.anyRef = true) := by
  induction l generalizing b with
  | nil => exact ⟨rfl, hq, rfl, fun h => h.resolve_right List.not_mem_nil⟩
  | cons w l ih =>
    by_cases hwho : r.who = w
    · have hrefused : grantPass b (w :: l) = grantPass (refuseOne b r) l := by simp [grantPass, reqOf, hq, hwho, Nat.not_le.mpr hw]
      obtain ⟨hlevel, hreqs, hgranted, hany⟩ := ih (b := refuseOne b r) hq hw
      rw [hrefused]
      exact ⟨hlevel, hreqs, hgranted, fun _ => hany (.inl rfl)⟩
    · have hother : grantPass b (w :: l) = grantPass b l := by simp [grantPass, reqOf, hq, hwho]
      obtain ⟨hlevel, hreqs, hgranted, hany⟩ := ih hq hw
      rw [hother]
      exact ⟨hlevel, hreqs, hgranted, fun h => hany (h.imp_right fun hm => (List.mem_cons.mp hm).resolve_left hwho)⟩

/-- The order of a pass: each requester once, from the one after the last. -/
def passOrder (last : Nat) : List Nat := (List.range 19).map fun i => (last + 1 + i) % 19

theorem mem_passOrder {w : Nat} (h : w < 19) (last : Nat) : w ∈ passOrder last :=
  List.mem_map.mpr ⟨(w + 19 - (last + 1) % 19) % 19, List.mem_range.mpr (Nat.mod_lt _ (by decide)), by omega⟩

/-! ### The cycle -/

/-- The bucket of a cluster when a cycle's pass begins, and when it has ended. -/
def chargedBucket (s : State) (cl : Nat) : Bucket :=
  let b := (s.cluster cl).bucket
  { b with level := min b.cap (b.level + b.cur), reqs := b.reqs.filter fun r => !frozenReq s cl r }
def servedBucket (s : State) (cl : Nat) : Bucket :=
  let b := (s.cluster cl).bucket
  let asleep := b.reqs.filter (frozenReq s cl)
  let b1 := chargedBucket s cl
  let b2 := keepRefused (grantPass (serveResv b1 asleep b1.resv) (passOrder b.last))
  { b2 with reqs := asleep ++ b2.reqs, full := b2.full && b2.level == b2.cap }

theorem execBucketCycle_eq (cl : Fin 8) (s : State) :
    execBucketCycle cl s = .next (takeSteps (s.setBucket cl.val (servedBucket s cl.val)) cl.val) := rfl

section
variable {s : State} {cl : Nat}

/-- Where no request stands the level rises alone. -/
theorem servedBucket_of_no_request (hq : (s.cluster cl).bucket.reqs = []) (hres : (s.cluster cl).bucket.resv = []) :
    let b := (s.cluster cl).bucket
    (servedBucket s cl).level = min b.cap (b.level + b.cur) ∧ (servedBucket s cl).reqs = [] ∧ (servedBucket s cl).granted = b.granted := by
  have hpass : grantPass (chargedBucket s cl) (passOrder (s.cluster cl).bucket.last) = chargedBucket s cl :=
    grantPass_of_no_request (by simp [chargedBucket, hq]) _
  have hserve (a : List ChargeReq) : serveResv (chargedBucket s cl) a (chargedBucket s cl).resv = chargedBucket s cl := by
    simp [chargedBucket, hres, serveResv]
  simp only [servedBucket, hserve, hpass]
  simp [keepRefused, chargedBucket, hq]

variable {r : ChargeReq}

theorem servedBucket_of_request (hq : (s.cluster cl).bucket.reqs = [r]) (hres : (s.cluster cl).bucket.resv = [])
    (hf : frozenReq s cl r = false) : let t := grantPass (chargedBucket s cl) (passOrder (s.cluster cl).bucket.last)
    (servedBucket s cl).level = t.level ∧ (servedBucket s cl).reqs = t.reqs ∧ (servedBucket s cl).granted = t.granted ∧
      (servedBucket s cl).anyRef = t.anyRef := by
  have hserve (a : List ChargeReq) : serveResv (chargedBucket s cl) a (chargedBucket s cl).resv = chargedBucket s cl := by
    simp [chargedBucket, hres, serveResv]
  have hasleep : (s.cluster cl).bucket.reqs.filter (frozenReq s cl) = [] := by simp [hq, hf]
  simp only [servedBucket, hserve, hasleep, List.nil_append]
  exact ⟨rfl, rfl, rfl, rfl⟩

/-- One request that the level covers is granted. -/
theorem servedBucket_grants (hq : (s.cluster cl).bucket.reqs = [r]) (hres : (s.cluster cl).bucket.resv = []) (hwho : r.who < 19)
    (hf : frozenReq s cl r = false) : let b := (s.cluster cl).bucket
    let l := min b.cap (b.level + b.cur)
    r.weight ≤ l → (servedBucket s cl).level = l - r.weight ∧ (servedBucket s cl).reqs = [] ∧
      (servedBucket s cl).granted = b.granted ++ [r] := by
  intro b l hw
  have hreqs : (chargedBucket s cl).reqs = [r] := by simp [chargedBucket, hq, hf]
  obtain ⟨hlevel, hreq, hgranted, -⟩ := servedBucket_of_request hq hres hf
  rw [grantPass_grants hreqs hres hw (mem_passOrder hwho _)] at hlevel hreq hgranted
  exact ⟨hlevel, hreq.trans (by simp [grantOne, hreqs]), hgranted⟩

/-- One request that the level does not cover is refused. -/
theorem servedBucket_refuses (hq : (s.cluster cl).bucket.reqs = [r]) (hres : (s.cluster cl).bucket.resv = []) (hwho : r.who < 19)
    (hf : frozenReq s cl r = false) : let b := (s.cluster cl).bucket
    let l := min b.cap (b.level + b.cur)
    l < r.weight → (servedBucket s cl).level = l ∧ (servedBucket s cl).reqs = [r] ∧
      (servedBucket s cl).granted = b.granted ∧ (servedBucket s cl).anyRef = true := by
  intro b l hw
  have hreqs : (chargedBucket s cl).reqs = [r] := by simp [chargedBucket, hq, hf]
  obtain ⟨hlevel, hreq, hgranted, hany⟩ := servedBucket_of_request hq hres hf
  obtain ⟨hlevel', hreq', hgranted', hany'⟩ := grantPass_refuses hreqs hw (passOrder (s.cluster cl).bucket.last)
  exact ⟨hlevel.trans hlevel', hreq.trans hreq', hgranted.trans hgranted', hany.trans (hany' (.inr (mem_passOrder hwho _)))⟩

end

/-! ### Granted steps -/

/-- Where no memory step is granted none is performed. -/
theorem takeSteps_of_no_step {s : State} {cl : Nat} (h : ∀ x ∈ (s.cluster cl).bucket.granted, stepGrant x = false) :
    takeSteps s cl = s.setBucket cl (s.cluster cl).bucket := by
  have hnone : (s.cluster cl).bucket.granted.filter stepGrant = [] := List.filter_eq_nil_iff.mpr fun x hx => by simp [h x hx]
  have hall : (s.cluster cl).bucket.granted.filter (fun r => !stepGrant r) = (s.cluster cl).bucket.granted :=
    List.filter_eq_self.mpr fun x hx => by simp [h x hx]
  simp only [takeSteps, hnone, hall, List.foldl_nil]

/-- One memory step that is granted is performed. -/
theorem takeSteps_of_step {s : State} {cl : Nat} {g : List ChargeReq} {r : ChargeReq} (hg : (s.cluster cl).bucket.granted = g ++ [r])
    (h : ∀ x ∈ g, stepGrant x = false) (hr : stepGrant r = true) :
    takeSteps s cl = nextStep (s.setBucket cl { (s.cluster cl).bucket with granted := g }) (ctxOf r.bank) := by
  have hone : (g ++ [r]).filter stepGrant = [r] := by
    rw [List.filter_append, List.filter_eq_nil_iff.mpr fun x hx => by simp [h x hx]]
    simp [hr]
  have hrest : (g ++ [r]).filter (fun r => !stepGrant r) = g := by
    rw [List.filter_append, List.filter_eq_self.mpr fun x hx => by simp [h x hx]]
    simp [hr]
  simp only [takeSteps, hg, hone, hrest, List.foldl_cons, List.foldl_nil]

end Sys2Proof.Machine
end

section
/-! OBLIGATION O53, the bucket's clauses (R241 to R243). -/

namespace Sys2Proof.Machine

theorem execBucketCycle_of_no_request (cl : Fin 8) (s : State) (hq : (s.cluster cl.val).bucket.reqs = [])
    (hres : (s.cluster cl.val).bucket.resv = []) (hg : ∀ x ∈ (s.cluster cl.val).bucket.granted, stepGrant x = false) :
    let b := (s.cluster cl.val).bucket
    ∃ t, execBucketCycle cl s = .next t ∧ (t.cluster cl.val).bucket.level = min b.cap (b.level + b.cur) ∧
      (t.cluster cl.val).bucket.reqs = [] ∧ t.banks = s.banks := by
  obtain ⟨hlevel, hreqs, hgranted⟩ := servedBucket_of_no_request hq hres
  refine ⟨_, execBucketCycle_eq cl s, ?_⟩
  rw [takeSteps_of_no_step (by simpa [hgranted] using hg)]
  simpa using ⟨hlevel, hreqs⟩

theorem execBucketCycle_of_request (cl : Fin 8) (s : State) (r : ChargeReq) (hq : (s.cluster cl.val).bucket.reqs = [r])
    (hres : (s.cluster cl.val).bucket.resv = []) (hwho : r.who < 19) (hf : frozenReq s cl.val r = false)
    (hg : ∀ x ∈ (s.cluster cl.val).bucket.granted, stepGrant x = false) :
    let b := (s.cluster cl.val).bucket
    let l := min b.cap (b.level + b.cur)
    ∃ t, execBucketCycle cl s = .next t ∧
      (r.weight ≤ l → (t.cluster cl.val).bucket.level = l - r.weight ∧ (t.cluster cl.val).bucket.reqs = [] ∧
        (stepGrant r = false → r ∈ (t.cluster cl.val).bucket.granted) ∧
        (stepGrant r = true → (t.bank (ctxOf r.bank)).pipe.steps = (s.bank (ctxOf r.bank)).pipe.steps.drop 1 ∧
          ∀ m l o x, (s.bank (ctxOf r.bank)).pipe.steps = m :: l → m.loc = .sp o → m.data = some x →
            ∀ k, k < x.length → (t.bank (ctxOf r.bank)).scrByte (o + k) = x.getD k 0)) ∧
      (l < r.weight → (t.cluster cl.val).bucket.level = l ∧ (t.cluster cl.val).bucket.reqs = [r] ∧
        (t.cluster cl.val).bucket.anyRef = true) := by
  intro b l
  refine ⟨_, execBucketCycle_eq cl s, fun hw => ?_, fun hw => ?_⟩
  · obtain ⟨hlevel, hreqs, hgranted⟩ := servedBucket_grants hq hres hwho hf hw
    cases hr : stepGrant r with
    | false =>
      have hnone : ∀ x ∈ b.granted ++ [r], stepGrant x = false := by simpa [or_imp, forall_and, hr] using hg
      rw [takeSteps_of_no_step (by simpa [hgranted] using hnone)]
      simpa [hgranted] using ⟨hlevel, hreqs⟩
    | true =>
      rw [takeSteps_of_step (by rw [setBucket_bucket]; exact hgranted) hg hr]
      have hkept (u : State) := nextStep_kept u (ctxOf r.bank)
      have hcluster (u : State) : (nextStep u (ctxOf r.bank)).cluster cl.val = u.cluster cl.val := by
        rw [State.cluster, (hkept u).2, State.cluster]
      rw [hcluster, setBucket_bucket, setBucket_bucket]
      refine ⟨hlevel, hreqs, nofun, fun _ => ⟨(hkept _).1, fun m r' o x hs hl hd k hk => ?_⟩⟩
      refine nextStep_scratch (r := r') ?_ hl hd hk
      exact hs
  · obtain ⟨hlevel, hreqs, hgranted, hany⟩ := servedBucket_refuses hq hres hwho hf hw
    rw [takeSteps_of_no_step (by simpa [hgranted] using hg)]
    simpa using ⟨hlevel, hreqs, hany⟩

/-- CUR changes at the first tick of a microsecond, up after a refusal and down after a full microsecond (R243). -/
theorem execRefillTick_spec (cl : Fin 8) (s : State) :
    let k := s.cluster cl.val
    let b := k.bucket
    (s.time / 1900 ≤ b.tickAt / 1900 → execRefillTick cl s = .next s) ∧
    (b.tickAt / 1900 < s.time / 1900 → ∃ t, execRefillTick cl s = .next t ∧ (t.cluster cl.val).bucket.level = b.level ∧
      (b.anyRef = true → (t.cluster cl.val).bucket.cur = min (teff k) (b.cur + b.ramp)) ∧
      (b.anyRef = false → b.full = true → (t.cluster cl.val).bucket.cur = max b.min (b.cur - b.ramp)) ∧
      (b.anyRef = false → b.full = false → (t.cluster cl.val).bucket.cur = b.cur)) := by
  refine ⟨fun h => congrArg Host.Outcome.next (if_pos h),
    fun h => ⟨_, congrArg Host.Outcome.next (if_neg (Nat.not_le.mpr h)), ?_⟩⟩
  rw [setBucket_bucket]
  exact ⟨rfl, fun ha => by simp [ha], fun ha hf => by simp [ha, hf], fun ha hf => by simp [ha, hf]⟩

end Sys2Proof.Machine
end

section
/-! SUPPORT. The sensors of a cluster (R249, R250): marking and throttling leave every bank and the memory alone, keep the readings, and
clear no SENSF bit. -/

namespace Sys2Proof.Machine

@[simp] theorem setClk_clk (s : State) (cl : Nat) (x : Clocking) : ((s.setClk cl x).cluster cl).clk = x := by
  simp [State.setClk]

/-- Asking for a hop changes nothing but the request. -/
theorem wantHop_eq (k : Clocking) : wantHop k = { k with ask := (wantHop k).ask } := by
  unfold wantHop
  split <;> rfl

/-- What no sensor reading changes beside the readings. -/
def sensorKept (s : State) : Tab Bank × MemBlk × Heap × Sched := (s.banks, s.mem, s.heap, s.sched)

/-- A sensor that has failed is marked; the readings and the other marks stay. -/
theorem markFailed_clk (s : State) (cl i : Nat) : ((markFailed s cl i).cluster cl).clk =
    { (s.cluster cl).clk with sensf := (s.cluster cl).clk.sensf ||| (1#6 <<< i) } :=
  setClk_clk s cl _

/-- One sensor is marked where it is not yet and the test says so. -/
def markWhere (cl : Nat) (p : State → Nat → Bool) (s : State) (i : Nat) : State :=
  if !(s.cluster cl).clk.sensf.getLsbD i && p s i then markFailed s cl i else s

section
variable (cl : Nat) (p : State → Nat → Bool)

theorem markWhere_kept (s : State) (i : Nat) : sensorKept (markWhere cl p s i) = sensorKept s := by
  unfold markWhere
  split <;> rfl

theorem markWhere_sensv (s : State) (i : Nat) : ((markWhere cl p s i).cluster cl).clk.sensv = (s.cluster cl).clk.sensv := by
  unfold markWhere
  split
  · rw [markFailed_clk]
  · rfl

/-- A mark that stands stays. -/
theorem markWhere_mono {s : State} {j : Nat} (h : (s.cluster cl).clk.sensf.getLsbD j = true) (i : Nat) :
    ((markWhere cl p s i).cluster cl).clk.sensf.getLsbD j = true := by
  unfold markWhere
  split
  · rw [markFailed_clk]
    simp [h]
  · exact h

/-- A sensor that fails the test is marked. -/
theorem markWhere_marks {s : State} {i : Nat} (hi : i < 6) (h : p s i = true) :
    ((markWhere cl p s i).cluster cl).clk.sensf.getLsbD i = true := by
  unfold markWhere
  cases hm : (s.cluster cl).clk.sensf.getLsbD i with
  | true => simpa using hm
  | false =>
    rw [if_pos (by simp [h]), markFailed_clk]
    simp [hi]

theorem foldl_markWhere_mono {j : Nat} (l : List Nat) {s : State} (h : (s.cluster cl).clk.sensf.getLsbD j = true) :
    ((l.foldl (markWhere cl p) s).cluster cl).clk.sensf.getLsbD j = true := by
  induction l generalizing s with
  | nil => exact h
  | cons i r ih => exact ih (markWhere_mono cl p h i)

theorem foldl_markWhere_sensv (l : List Nat) (s : State) :
    ((l.foldl (markWhere cl p) s).cluster cl).clk.sensv = (s.cluster cl).clk.sensv :=
  foldl_keeps (fun s : State => (s.cluster cl).clk.sensv) (markWhere_sensv cl p) l s

/-- A sensor whose reading fails the test in every state with these readings is marked by the pass. -/
theorem foldl_markWhere_marks {s : State} {l : List Nat} {i : Nat} (hl : i ∈ l) (hi : i < 6)
    (h : ∀ t : State, (t.cluster cl).clk.sensv = (s.cluster cl).clk.sensv → p t i = true) :
    ((l.foldl (markWhere cl p) s).cluster cl).clk.sensf.getLsbD i = true := by
  obtain ⟨l1, l2, rfl⟩ := List.append_of_mem hl
  rw [List.foldl_append, List.foldl_cons]
  exact foldl_markWhere_mono cl p l2 (markWhere_marks cl p hi (h _ (foldl_markWhere_sensv cl p l1 s)))

end

/-- The two passes of the marks: each sensor by itself, then against its neighbours. -/
theorem markSensors_eq (s : State) (cl : Nat) : markSensors s cl =
    (List.range 6).foldl (markWhere cl fun s i => disagrees s cl i)
      ((List.range 6).foldl (markWhere cl fun s i => sensorOutside i (sensorVal (s.cluster cl).clk.sensv i) || stuck s cl i) s) := rfl

theorem markSensors_kept (s : State) (cl : Nat) : sensorKept (markSensors s cl) = sensorKept s := by
  rw [markSensors_eq, foldl_keeps sensorKept (markWhere_kept cl _), foldl_keeps sensorKept (markWhere_kept cl _)]

theorem markSensors_sensv (s : State) (cl : Nat) : ((markSensors s cl).cluster cl).clk.sensv = (s.cluster cl).clk.sensv := by
  rw [markSensors_eq, foldl_markWhere_sensv, foldl_markWhere_sensv]

theorem markSensors_mono {s : State} {cl j : Nat} (h : (s.cluster cl).clk.sensf.getLsbD j = true) :
    ((markSensors s cl).cluster cl).clk.sensf.getLsbD j = true := by
  rw [markSensors_eq]
  exact foldl_markWhere_mono _ _ _ (foldl_markWhere_mono _ _ _ h)

/-- A reading outside its range marks its sensor. -/
theorem markSensors_outside {s : State} {cl i : Nat} (hi : i < 6) (h : sensorOutside i (sensorVal (s.cluster cl).clk.sensv i) = true) :
    ((markSensors s cl).cluster cl).clk.sensf.getLsbD i = true := by
  rw [markSensors_eq]
  exact foldl_markWhere_mono _ _ _ (foldl_markWhere_marks _ _ (List.mem_range.mpr hi) hi fun t ht => by simp [ht, h])

/-- What the throttle keeps of a cluster's clocking. -/
def readingKept (k : Clocking) : SensorSet × BitVec 6 := (k.sensv, k.sensf)

theorem throttle_reading (s : State) (cl : Nat) : readingKept ((throttle s cl).cluster cl).clk = readingKept (s.cluster cl).clk := by
  have hclamp (t : State) : ((clampCur t cl).cluster cl).clk = (t.cluster cl).clk := by simp [clampCur, State.setBucket]
  simp only [throttle, hclamp, setClk_clk]
  repeat' split
  all_goals rfl

theorem throttle_kept (s : State) (cl : Nat) : sensorKept (throttle s cl) = sensorKept s := rfl

/-- The state after a reading is marked and acted upon, before a fatal temperature is looked for. -/
def sensedState (s : State) (cl : Nat) (r : SensorSet) : State :=
  let s1 := markSensors (takeReadings s cl r) cl
  let k := (s1.cluster cl).clk
  let s2 := throttle (s1.setClk cl { k with sensCap := allFailed k }) cl
  s2.setClk cl (wantHop (s2.cluster cl).clk)

theorem sensedState_kept (s : State) (cl : Nat) (r : SensorSet) : sensorKept (sensedState s cl r) = sensorKept s :=
  (throttle_kept _ cl).trans (markSensors_kept (takeReadings s cl r) cl)

theorem sensedState_reading (s : State) (cl : Nat) (r : SensorSet) :
    readingKept ((sensedState s cl r).cluster cl).clk = readingKept ((markSensors (takeReadings s cl r) cl).cluster cl).clk := by
  rw [sensedState, setClk_clk, wantHop_eq]
  refine (throttle_reading _ cl).trans ?_
  rw [setClk_clk]
  rfl

theorem takeReadings_clk (s : State) (cl : Nat) (r : SensorSet) : ((takeReadings s cl r).cluster cl).clk.sensv = r ∧
    ((takeReadings s cl r).cluster cl).clk.sensf = (s.cluster cl).clk.sensf := by
  rw [takeReadings, setClk_clk]
  exact ⟨rfl, rfl⟩

end Sys2Proof.Machine
end

section
/-! OBLIGATION O53, the clauses of clocks, body bias, droop and sensors (R246 to R249), and the whole. -/

namespace Sys2Proof.Machine

/-! ### Body bias and hops (R246, R247) -/

section
variable (cl : Fin 8)

theorem execBiasWrite_of_free (bb : BitVec 4) (s : State) (hp : s.plat.power = .on) (hb : (s.cluster cl.val).clk.busy = false)
    (hlt : bb.toNat < 0xD) (hne : bb ≠ (s.cluster cl.val).clk.bb) :
    ∃ t, execBiasWrite cl bb s = .next t ∧ (t.cluster cl.val).clk.bb = bb ∧ (t.cluster cl.val).clk.busy = true := by
  refine ⟨_, congrArg Host.Outcome.next ((if_pos hp).trans (if_neg ?_)), ?_⟩
  · simp [hb, hne]
    omega
  · rw [setClk_clk, wantHop_eq]
    exact ⟨rfl, rfl⟩

theorem execBiasSettleDone_of_settled (s : State) (hb : (s.cluster cl.val).clk.busy = true) (hh : (s.cluster cl.val).clk.hop = false)
    (hc : (s.cluster cl.val).clk.curHalf = true) (ht : (s.cluster cl.val).clk.biasSince + 38000 ≤ s.time) :
    ∃ t, execBiasSettleDone cl s = .next t ∧ (t.cluster cl.val).clk.busy = false := by
  refine ⟨_, congrArg Host.Outcome.next (if_pos ⟨hb, by simp [hh], hc, ht⟩), ?_⟩
  rw [setClk_clk, wantHop_eq]

theorem execClockHopRequest_of_on (src half : Bool) (s : State) (hp : s.plat.power = .on) :
    ∃ t, execClockHopRequest cl src half s = .next t ∧ (t.cluster cl.val).clk.src = src ∧ (t.cluster cl.val).clk.half = half ∧
      ((s.cluster cl.val).clk.hop = false → (s.cluster cl.val).clk.retry = false → src ≠ (s.cluster cl.val).clk.curSrc →
        (t.cluster cl.val).clk.ask = true ∧ (t.cluster cl.val).clk.hop = false) := by
  refine ⟨_, congrArg Host.Outcome.next (if_pos hp), ?_⟩
  rw [clkWrite, setClk_clk]
  refine ⟨by rw [wantHop_eq], by rw [wantHop_eq], fun hh hr hne => ?_⟩
  simp [wantHop, hh, hr, hne]

/-- Within a cycle a period of the clock begins no hop. -/
theorem clusterPeriod_within (s : State) (hh : (s.cluster cl.val).clk.hop = false)
    (hp : (s.cluster cl.val).clk.phase + 1 < clusterClock s cl) :
    ((clusterPeriod cl s).cluster cl.val).clk.hop = false ∧ (clusterPeriod cl s).banks = s.banks := by
  simp [clusterPeriod, hh, hp]

theorem beginHop_of_asked (now : Nat) (k : Clocking) (ha : k.ask = true) (hh : k.hop = false) (hr : k.retry = false) :
    (beginHop now k).hop = true ∧ (beginHop now k).hopSince = now ∧ (beginHop now k).tgtSrc = k.src ∧
      (beginHop now k).tgtHalf = k.wantHalf := by
  simp [beginHop, ha, hh, hr]

theorem execHopComplete_of_due (s : State) (hh : (s.cluster cl.val).clk.hop = true) (ht : (s.cluster cl.val).clk.hopSince + 8 ≤ s.time) :
    ∃ t, execHopComplete cl s = .next t ∧ (t.cluster cl.val).clk.curSrc = (s.cluster cl.val).clk.tgtSrc ∧
      (t.cluster cl.val).clk.curHalf = (s.cluster cl.val).clk.tgtHalf := by
  refine ⟨_, congrArg Host.Outcome.next (if_pos ⟨hh, ht⟩), ?_⟩
  rw [setClk_clk, wantHop_eq]
  exact ⟨rfl, rfl⟩

theorem execHopRetry_of_due (s : State) (hr : (s.cluster cl.val).clk.retry = true) (hs : (s.cluster cl.val).clk.stretch = false)
    (ht : (s.cluster cl.val).clk.droopAt + 256 ≤ (s.cluster cl.val).clk.cycles) :
    ∃ t, execHopRetry cl s = .next t ∧ (t.cluster cl.val).clk.retry = false := by
  refine ⟨_, congrArg Host.Outcome.next (if_pos ⟨hr, by simp [hs], ht⟩), ?_⟩
  rw [setClk_clk, wantHop_eq]

/-! ### Droop (R248) -/

theorem execDroopDetect_of_on (s : State) (hp : s.plat.power = .on) :
    ∃ t, execDroopDetect cl s = .next t ∧ (t.cluster cl.val).clk.stretch = true ∧
      (t.cluster cl.val).clk.hop = false ∧ (∀ x ∈ t.pwr.cross, x.meets cl = true → x.slow = true) ∧
      ((s.cluster cl.val).clk.hop = true → (t.cluster cl.val).clk.retry = true) ∧
      ((s.cluster cl.val).clk.stretch = false → (t.cluster cl.val).clk.droop = (s.cluster cl.val).clk.droop + 1) := by
  refine ⟨_, congrArg Host.Outcome.next (if_pos hp), ?_⟩
  rw [setClk_clk]
  have hcluster (p : PowerBlk) : ({ s with pwr := p } : State).cluster cl.val = s.cluster cl.val := rfl
  simp only [hcluster]
  have hcross : ∀ x ∈ (s.pwr.cross.map fun x => { x with slow := x.slow || x.meets cl }), x.meets cl = true → x.slow = true := by
    intro x hx hm
    obtain ⟨y, -, rfl⟩ := List.mem_map.mp hx
    have hy : y.meets cl = true := hm
    simp [hy]
  cases hh : (s.cluster cl.val).clk.hop with
  | true => exact ⟨rfl, rfl, hcross, fun _ => rfl, fun hs => by simp [hs]⟩
  | false => exact ⟨rfl, by simp, hcross, nofun, fun hs => by simp [hs]⟩

theorem execDroopRecover_of_due (s : State) (hs : (s.cluster cl.val).clk.stretch = true)
    (ht : (s.cluster cl.val).clk.droopAt + 16 ≤ (s.cluster cl.val).clk.cycles) :
    execDroopRecover cl s = .next (s.setClk cl.val { (s.cluster cl.val).clk with stretch := false }) :=
  congrArg Host.Outcome.next (if_pos ⟨hs, ht⟩)

/-! ### Sensors (R249) -/

theorem execSensorReading_not_due (r : SensorSet) (s : State) (hd : sensorDue s cl.val = false) : execSensorReading cl r s = .next s :=
  congrArg Host.Outcome.next (if_pos (.inr (by simp [hd])))

theorem execSensorReading_of_due (r : SensorSet) (s : State) (hp : s.plat.power = .on) (hd : sensorDue s cl.val = true) :
    ∃ t, execSensorReading cl r s = .next t ∧ (t.cluster cl.val).clk.sensv = r ∧
      (∀ i, i < 6 → sensorOutside i (sensorVal r i) = true → (t.cluster cl.val).clk.sensf.getLsbD i = true) ∧
      (∀ i, (s.cluster cl.val).clk.sensf.getLsbD i = true → (t.cluster cl.val).clk.sensf.getLsbD i = true) ∧ t.banks = s.banks ∧
      t.mem = s.mem ∧ t.heap = s.heap ∧ t.sched = s.sched := by
  have hread := sensedState_reading s cl.val r
  have hkept := sensedState_kept s cl.val r
  obtain ⟨hsensv, hsensf⟩ := takeReadings_clk s cl.val r
  simp only [readingKept, sensorKept, Prod.mk.injEq] at hread hkept
  obtain ⟨hv, hf⟩ := hread
  have hspec : ((sensedState s cl.val r).cluster cl.val).clk.sensv = r ∧
      (∀ i, i < 6 → sensorOutside i (sensorVal r i) = true → ((sensedState s cl.val r).cluster cl.val).clk.sensf.getLsbD i = true) ∧
      (∀ i, (s.cluster cl.val).clk.sensf.getLsbD i = true → ((sensedState s cl.val r).cluster cl.val).clk.sensf.getLsbD i = true) ∧
      (sensedState s cl.val r).banks = s.banks ∧ (sensedState s cl.val r).mem = s.mem ∧ (sensedState s cl.val r).heap = s.heap ∧
      (sensedState s cl.val r).sched = s.sched := by
    rw [hv, hf, markSensors_sensv]
    exact ⟨hsensv, fun i hi ho => markSensors_outside hi (by rw [hsensv]; exact ho),
      fun i h => markSensors_mono (by rw [hsensf]; exact h), hkept⟩
  have hnext : execSensorReading cl r s = .next (if isOver (clusterValue (sensedState s cl.val r) cl.val true)
      (sensedState s cl.val r).pwr.tcrit then fatalError 1 (sensedState s cl.val r) else sensedState s cl.val r) :=
    congrArg Host.Outcome.next (if_neg (by simp [hp, hd]))
  -- a fatal temperature changes the platform alone
  split at hnext <;> exact ⟨_, hnext, hspec⟩

theorem execSensfClear_of_on (m : BitVec 6) (s : State) (hp : s.plat.power = .on) : ∃ t, execSensfClear cl m s = .next t ∧
    (t.cluster cl.val).clk.sensf = (s.cluster cl.val).clk.sensf &&& ~~~m ∧ t.banks = s.banks := by
  refine ⟨_, congrArg Host.Outcome.next (if_pos hp), ?_, rfl⟩
  rw [sensfWrite, setClk_clk]

end

/-- Settles O53: each clause is the law above of the function that the event runs. -/
theorem engineAndClusterEvents : Obligations.EngineAndClusterEvents :=
  ⟨execMatrixCommandStart_of_ready, execCopyCommandStart_of_pick, execDataCommandStart_of_ready, execMatrixMicroStep_of_running,
    execCopyMicroStep_of_running, execDataMicroStep_of_hacc, execDataMicroStep_of_merge, execDataMicroStep_of_chain,
    execLeaseGrant_of_request, execLeaseTimeout_of_expired, execBucketCycle_of_no_request, execBucketCycle_of_request,
    execRefillTick_spec, execBiasWrite_of_free, execBiasSettleDone_of_settled, execClockHopRequest_of_on, clusterPeriod_within,
    beginHop_of_asked, execHopComplete_of_due, execHopRetry_of_due, execDroopDetect_of_on, execDroopRecover_of_due,
    execSensorReading_not_due, execSensorReading_of_due, wireData_wireOf, execSensfClear_of_on⟩

end Sys2Proof.Machine
end

section
/-! SUPPORT. Frames and bytes that the memory words rest on: what a thread that forgets its early reads leaves alone (log 8), the bytes of a
number (R7), and the bytes of the scratchpad outside a write (R117). -/

namespace Sys2Proof.Machine

/-! ### Banks and the device -/

theorem OnlyBank.trans {c : Ctx} {s t u : State} (h : OnlyBank c s t) (h' : OnlyBank c t u) : OnlyBank c s u :=
  fun d hd => (h' d hd).trans (h d hd)

theorem SameDevice.trans {s t u : State} (h : SameDevice s t) (h' : SameDevice t u) : SameDevice s u := by
  obtain ⟨h1, h2, h3, h4, h5, h6, h7, h8, h9, h10, h11, h12⟩ := h
  obtain ⟨k1, k2, k3, k4, k5, k6, k7, k8, k9, k10, k11, k12⟩ := h'
  exact ⟨k1.trans h1, k2.trans h2, k3.trans h3, k4.trans h4, k5.trans h5, k6.trans h6, k7.trans h7, k8.trans h8, k9.trans h9,
    k10.trans h10, k11.trans h11, k12.trans h12⟩

theorem SameDevice.refl (s : State) : SameDevice s s := ⟨rfl, rfl, rfl, rfl, rfl, rfl, rfl, rfl, rfl, rfl, rfl, rfl⟩

theorem sameDevice_setBank (c : Ctx) (s : State) (b : Bank) : SameDevice s (s.setBank c b) :=
  ⟨rfl, rfl, rfl, rfl, rfl, rfl, rfl, rfl, rfl, rfl, rfl, rfl⟩

/-! ### Early reads (log 8) -/

/-- The early reads of a bank, replaced. -/
def Bank.withEarly (b : Bank) (l : List Early) : Bank := { b with pipe := { b.pipe with early := l } }

theorem Bank.withEarly_self {b : Bank} {l : List Early} (h : b.pipe.early = l) : b.withEarly l = b := by
  subst h
  rfl

theorem State.noEarly_bank (s : State) (c : Ctx) : (s.noEarly c).bank c = (s.bank c).withEarly [] := by
  unfold State.noEarly
  split
  next h => exact (Bank.withEarly_self (List.isEmpty_iff.mp h)).symm
  next => exact State.bank_setBank _ _ _

theorem State.noStrong_bank (s : State) (c : Ctx) :
    (s.noStrong c).bank c = (s.bank c).withEarly ((s.bank c).pipe.early.filter fun e => !e.strong) := by
  unfold State.noStrong
  split
  next h => exact (Bank.withEarly_self (by simp [List.isEmpty_iff.mp h])).symm
  next => exact State.bank_setBank _ _ _

/-- To forget early reads changes nothing but the thread's list of them. -/
theorem State.noEarly_frame (s : State) (c : Ctx) : SameDevice s (s.noEarly c) ∧ OnlyBank c s (s.noEarly c) ∧ (s.noEarly c).iss = s.iss := by
  unfold State.noEarly
  split
  · exact ⟨.refl s, fun _ _ => rfl, rfl⟩
  · exact ⟨sameDevice_setBank c s _, onlyBank_setBank c s _, rfl⟩

theorem State.noStrong_frame (s : State) (c : Ctx) :
    SameDevice s (s.noStrong c) ∧ OnlyBank c s (s.noStrong c) ∧ (s.noStrong c).iss = s.iss := by
  unfold State.noStrong
  split
  · exact ⟨.refl s, fun _ _ => rfl, rfl⟩
  · exact ⟨sameDevice_setBank c s _, onlyBank_setBank c s _, rfl⟩

/-! ### The bytes of a number (R7) -/

@[simp] theorem natLe_length (n x : Nat) : (natLe n x).length = n := by
  induction n generalizing x with
  | zero => rfl
  | succ n ih => simp [natLe, ih]

theorem natLe_getElem {n k : Nat} (x : Nat) (h : k < (natLe n x).length) : (natLe n x)[k] = BitVec.ofNat 8 (x / 256 ^ k) := by
  induction n generalizing x k with
  | zero => simp at h
  | succ n ih =>
    cases k with
    | zero => simp [natLe]
    | succ k => simp [natLe, ih, Nat.div_div_eq_div_mul, Nat.pow_succ, Nat.mul_comm]

/-- Byte `k` of a pattern's bytes is its byte `k`. -/
theorem natLe_toNat_getElem {w n k : Nat} (v : BitVec w) (h : k < (natLe n v.toNat).length) :
    (natLe n v.toNat)[k] = (v >>> (8 * k)).setWidth 8 := by
  rw [natLe_getElem]
  apply BitVec.eq_of_toNat_eq
  simp [Nat.shiftRight_eq_div_pow, Nat.pow_mul]

/-! ### The scratchpad outside a write (R117) -/

theorem tabGet?_scrPut_other (t : Tab Byte) {o i : Nat} (x : List Byte) (h : i < o ∨ o + x.length ≤ i) :
    tabGet? (scrPut t o x) i = tabGet? t i := by
  induction x generalizing t o with
  | nil => rfl
  | cons b r ih =>
    rw [List.length_cons] at h
    rw [scrPut, ih _ (by omega), tabGet?_tabSet_other _ _ _ _ (by omega)]

theorem scrByte_scrWrite_other (b : Bank) {o a : Nat} (x : List Byte) (h : a < o ∨ o + x.length ≤ a) :
    (b.scrWrite o x).scrByte a = b.scrByte a := by
  rw [Bank.scrByte, Bank.scrWrite, tabGet?_scrPut_other _ _ h]
  rfl

end Sys2Proof.Machine
end

section
/-! SUPPORT. One access of a thread (R117, R118, R320, R346): where an access of at most 64 bytes lands in the window and in monitor mode,
and what a load and a store then do there. -/

namespace Sys2Proof.Machine

/-! ### Reach -/

/-- An access inside the partition lands at its offset of the pool; a read needs the words that it reads to be good (R139). -/
theorem reachWord_window {s : State} {c : Ctx} {va n : Nat} {acc : Acc} (hm : (s.bank c).tr.mode = false) (hw : inWindow va = true)
    (hn : va - windowBase + n ≤ (s.bank c).spTotal) (hb : acc = .wr ∨ badPool s c (va - windowBase) n = none) :
    reachWord s c va n acc = .ok (s, .sp (va - windowBase)) := by
  have hreach : reach s c false va n acc true = .ok (s, .sp (va - windowBase)) := by
    rcases hb with rfl | hb
    · simp [reach, hw, Nat.not_lt.mpr hn]
    · simp only [reach, hw, Bool.not_false, Bool.and_self, if_true, Nat.not_lt.mpr hn, if_false, hb]
      cases acc <;> rfl
  simp only [reachWord, hm, hreach]

/-- A monitor's access that passes its checks lands at its address; a line that is in no L1 of the core has no error there. -/
theorem reachWord_monitor {s : State} {c : Ctx} {va n : Nat} {acc : Acc} (hm : (s.bank c).tr.mode = true)
    (hc : checkPa s c true va n acc = none) (hl : s.l1? c.core (lineOf va) = none) :
    reachWord s c va n acc = .ok (s, .pa va) := by
  have hreach : reach s c true va n acc true = .ok (s, .pa va) := by simp [reach, hc]
  have hline : l1Error s c va va = .ok s := by simp [l1Error, hl]
  simp only [reachWord, hm, hreach, hline]

/-- An access of one step reaches what its step reaches. -/
theorem reachAll_steps {s t : State} {c : Ctx} {va n : Nat} {acc : Acc} {l : Loc} (hn : n ≤ 64)
    (h : reachWord s c va n acc = .ok (t, l)) : reachAll s c va acc (steps n) = .ok (t, [(l, n)]) := by
  simp [steps, hn, reachAll, mStep, h]

/-! ### Loads and stores of one step -/

theorem loadVa_of_reach {s t : State} {c : Ctx} {va n : Nat} {l : Loc} (l1 : Bool) (hn : n ≤ 64)
    (h : reachWord s c va n .rd = .ok (t, l)) : loadVa s c va n l1 = .ok (readLoc t c l n l1) := by
  simp [loadVa, reachAll_steps hn h, readAll]

theorem storeVa_of_reach {s t : State} {c : Ctx} {va : Nat} {b : List Byte} {l : Loc} (l1 rel : Bool) (sc : BitVec 2)
    (hn : b.length ≤ 64) (h : reachWord s c va b.length .wr = .ok (t, l)) : storeVa s c va b l1 rel sc =
      .ok (writeLoc (beforeRelease t c rel (scopeAt (s.bank c) va sc)) c l b l1 sc) := by
  simp [storeVa, reachAll_steps hn h, writeAll]

/-- At core scope an acquire and a release perform no cache operation (R151). -/
theorem beforeRelease_core (s : State) (c : Ctx) (rel : Bool) : beforeRelease s c rel 0 = s := by
  cases rel <;> rfl

theorem afterAcquire_core (s : State) (c : Ctx) (acq : Bool) : afterAcquire s c acq 0 = if acq then s.noEarly c else s := rfl

theorem scopeAt_window {b : Bank} {va : Nat} (hm : b.tr.mode = false) (hw : inWindow va = true) (sc : BitVec 2) : scopeAt b va sc = 0 := by
  simp [scopeAt, hm, hw]

/-! ### Scalar size codes (R279) -/

theorem wf_of_runs {i : Instr} {s : State} (h : Runs i s) : i.wf = true := by
  have hp : precheck i s.cur = none := h.1
  cases hw : i.wf with
  | true => rfl
  | false => simp [precheck, hw] at hp

/-- The fields that a scalar load keeps to (R279, R320). -/
theorem load_fields {h : Hdr} {o : MOps} {s : State} (hr : Runs (.ld h o) s) : o.sz.toNat ≤ 5 ∧ o.ord ≠ 3 := by
  have hw := wf_of_runs hr
  simp only [Instr.wf, mOrdOk, Bool.and_eq_true, decide_eq_true_eq, bne_iff_ne] at hw
  obtain ⟨⟨hsz, -⟩, ⟨hord, -⟩, -⟩ := hw
  exact ⟨hsz, hord⟩

theorem store_size {h : Hdr} {o : MOps} {s : State} (hr : Runs (.st h o) s) : o.sz.toNat ≤ 3 := by
  have hw := wf_of_runs hr
  simp only [Instr.wf, Bool.and_eq_true, decide_eq_true_eq] at hw
  obtain ⟨⟨hsz, -⟩, -⟩ := hw
  exact hsz

theorem szBytes_scalar : ∀ sz : BitVec 3, sz.toNat ≤ 5 → szBytes sz ≤ 8 := by decide

theorem szAlign_scalar {sz : BitVec 3} (h : sz.toNat ≤ 5) : szAlign sz = szBytes sz :=
  Nat.min_eq_left ((szBytes_scalar sz h).trans (by decide))

theorem aligned_of_dvd {va a : Nat} (s : State) (h : va % a = 0) : aligned s va a = .ok () := if_pos h

/-- What a scalar load writes to its registers is the value that its bytes make, extended by its size code. -/
theorem dataWrites_scalar {o : MOps} (h : o.sz.toNat ≤ 5) (b : Bank) (x : List Byte) :
    dataWrites b o.sz o.dr.toNat x = loadedWrites o (leNat x) := by
  unfold dataWrites loadedWrites
  have hcodes : o.sz.toNat = 0 ∨ o.sz.toNat = 1 ∨ o.sz.toNat = 2 ∨ o.sz.toNat = 3 ∨ o.sz.toNat = 4 ∨ o.sz.toNat = 5 := by omega
  rcases hcodes with e | e | e | e | e | e <;> simp only [e, loadedWord, oneS]
  have hlow : BitVec.ofNat 32 (leNat x) = (BitVec.ofNat 64 (leNat x)).extractLsb' 0 32 := by
    apply BitVec.eq_of_toNat_eq
    simp only [BitVec.extractLsb'_toNat, BitVec.toNat_ofNat, Nat.shiftRight_zero]
    omega
  have hhigh : BitVec.ofNat 32 (leNat x / 2 ^ 32) = (BitVec.ofNat 64 (leNat x)).extractLsb' 32 32 := by
    apply BitVec.eq_of_toNat_eq
    simp only [BitVec.extractLsb'_toNat, BitVec.toNat_ofNat, Nat.shiftRight_eq_div_pow]
    omega
  rw [hlow, hhigh]
  rfl

/-- The pattern that a scalar store supplies. -/
def storedPattern (b : Bank) (o : MOps) : DWord := if o.sz = 3 then b.dreg o.dr.toNat else (b.sreg o.dr.toNat).setWidth 64

/-- The bytes that a scalar store supplies are the low bytes of its pattern. -/
theorem dataBytes_scalar {o : MOps} (h : o.sz.toNat ≤ 3) (b : Bank) :
    dataBytes b o.sz o.dr.toNat = natLe (szBytes o.sz) (storedPattern b o).toNat := by
  have hword : ((b.sreg o.dr.toNat).setWidth 64).toNat = (b.sreg o.dr.toNat).toNat := by
    rw [BitVec.toNat_setWidth]
    omega
  have hcodes : o.sz = 0 ∨ o.sz = 1 ∨ o.sz = 2 ∨ o.sz = 3 := by
    revert h; generalize o.sz = z; revert z; decide
  rcases hcodes with e | e | e | e <;> simp [dataBytes, storedPattern, e, szBytes, hword, -BitVec.toNat_setWidth]

/-- Byte `k` of what a scalar store supplies. -/
theorem dataBytes_getD {o : MOps} (h : o.sz.toNat ≤ 3) (b : Bank) {k : Nat} (hk : k < szBytes o.sz) :
    (dataBytes b o.sz o.dr.toNat).getD k 0 = (storedPattern b o >>> (8 * k)).setWidth 8 := by
  rw [dataBytes_scalar h, List.getD_eq_getElem _ _ (by simpa using hk), natLe_toNat_getElem]

end Sys2Proof.Machine
end

section
/-! OBLIGATION O39. A scalar load of the scratchpad window (R117, R146, R320). -/

namespace Sys2Proof.Machine

/-- A strong load of the window first drops what strong loads have read ahead (R146). -/
theorem coreStrong_window {s : State} {o : MOps} {va : Nat} (hm : s.cur.tr.mode = false) (hw : inWindow va = true) :
    coreStrong s o va = if o.ord = 0 then s else s.noStrong s.iss.ctx := by
  rw [coreStrong, scopeAt_window hm hw]
  by_cases h : o.ord = 0 <;> simp [h]

theorem coreStrong_window_frame {s : State} {o : MOps} {va : Nat} (hm : s.cur.tr.mode = false) (hw : inWindow va = true) :
    SameDevice s (coreStrong s o va) ∧ OnlyBank s.iss.ctx s (coreStrong s o va) ∧ (coreStrong s o va).iss = s.iss ∧
    (coreStrong s o va).bank s.iss.ctx =
      s.cur.withEarly (if o.ord = 0 then s.cur.pipe.early else s.cur.pipe.early.filter fun e => !e.strong) := by
  rw [coreStrong_window hm hw]
  split
  · exact ⟨.refl s, fun _ _ => rfl, rfl, rfl⟩
  · obtain ⟨hdev, honly, hiss⟩ := s.noStrong_frame s.iss.ctx
    exact ⟨hdev, honly, hiss, s.noStrong_bank s.iss.ctx⟩

/-- What a load of the window with the register writes `ws` leaves. -/
def windowLoad (o : MOps) (ws : List RegWrite) (s : State) : State :=
  let s1 := coreStrong s o (mVa s.cur o)
  let s2 := s1.setBank s.iss.ctx ((s1.bank s.iss.ctx).lockWrites ws 0 true)
  if o.ord == 2 then s2.noEarly s.iss.ctx else s2

theorem loadEffect_window {o : MOps} {s : State} (hsz : o.sz.toNat ≤ 5) (hm : s.cur.tr.mode = false) (hw : inWindow (mVa s.cur o) = true)
    (ha : mVa s.cur o % szBytes o.sz = 0) (hn : mVa s.cur o - windowBase + szBytes o.sz ≤ s.cur.spTotal)
    (hb : badPool s s.iss.ctx (mVa s.cur o - windowBase) (szBytes o.sz) = none) :
    loadEffect o s =
      .ok (windowLoad o (loadedWrites o (leNat (s.cur.scrBytes (mVa s.cur o - windowBase) (szBytes o.sz)))) s) := by
  obtain ⟨⟨-, -, -, hmem, -⟩, -, -, hbank⟩ := coreStrong_window_frame (o := o) hm hw
  have hreach : reachWord (coreStrong s o (mVa s.cur o)) s.iss.ctx (mVa s.cur o) (szBytes o.sz) .rd =
      .ok (coreStrong s o (mVa s.cur o), .sp (mVa s.cur o - windowBase)) := by
    refine reachWord_window ?_ hw ?_ (.inr ?_)
    · rw [hbank]; exact hm
    · rw [hbank]; exact hn
    · rw [badPool, hmem]; exact hb
  have hread : loadVa (coreStrong s o (mVa s.cur o)) s.iss.ctx (mVa s.cur o) (szBytes o.sz) (viaL1 (o.ord != 0) o.sc) =
      .ok (coreStrong s o (mVa s.cur o), s.cur.scrBytes (mVa s.cur o - windowBase) (szBytes o.sz)) := by
    rw [loadVa_of_reach _ ((szBytes_scalar _ hsz).trans (by decide)) hreach, readLoc, hbank]
    rfl
  unfold loadEffect
  simp only [szAlign_scalar hsz, aligned_of_dvd s ha, hread, scopeAt_window hm hw, afterAcquire_core, dataWrites_scalar hsz]
  rfl

/-- With nothing read ahead the load starts its result and changes nothing else. -/
theorem windowLoad_of_none_early {o : MOps} {s : State} (ws : List RegWrite) (hm : s.cur.tr.mode = false)
    (hw : inWindow (mVa s.cur o) = true) (he : s.cur.pipe.early = []) :
    windowLoad o ws s = s.setCur (s.cur.lockWrites ws 0 true) := by
  have hstrong : coreStrong s o (mVa s.cur o) = s := by
    rw [coreStrong_window hm hw, State.noStrong_nil s _ he, ite_self]
  have hlocked : (s.setCur (s.cur.lockWrites ws 0 true)).noEarly s.iss.ctx = s.setCur (s.cur.lockWrites ws 0 true) :=
    State.noEarly_nil _ _ (by rw [State.setCur, State.bank_setBank]; exact he)
  simp only [windowLoad, hstrong]
  exact (congrArg (ite _ · _) hlocked).trans (ite_self _)

theorem windowLoad_frame {o : MOps} {s : State} (ws : List RegWrite) (hm : s.cur.tr.mode = false) (hw : inWindow (mVa s.cur o) = true) :
    SameDevice s (windowLoad o ws s) ∧ OnlyBank s.iss.ctx s (windowLoad o ws s) ∧ (windowLoad o ws s).iss = s.iss ∧
    (windowLoad o ws s).bank s.iss.ctx =
      (s.cur.lockWrites ws 0 true).withEarly (if o.ord = 2 then [] else if o.ord = 0 then s.cur.pipe.early
        else s.cur.pipe.early.filter fun e => !e.strong) := by
  obtain ⟨hdev, honly, hiss, hbank⟩ := coreStrong_window_frame (o := o) hm hw
  unfold windowLoad
  extract_lets s1 s2
  have hdev2 : SameDevice s s2 := hdev.trans (sameDevice_setBank _ _ _)
  have honly2 : OnlyBank s.iss.ctx s s2 := honly.trans (onlyBank_setBank _ _ _)
  have hbank2 : s2.bank s.iss.ctx = (s1.bank s.iss.ctx).lockWrites ws 0 true := State.bank_setBank _ _ _
  by_cases hacq : o.ord = 2
  · obtain ⟨hdev3, honly3, hiss3⟩ := s2.noEarly_frame s.iss.ctx
    rw [if_pos (beq_iff_eq.mpr hacq), if_pos hacq, State.noEarly_bank, hbank2, hbank]
    exact ⟨hdev2.trans hdev3, honly2.trans honly3, hiss3.trans hiss, rfl⟩
  · rw [if_neg (mt beq_iff_eq.mp hacq), if_neg hacq, hbank2, hbank]
    exact ⟨hdev2, honly2, hiss, rfl⟩

/-- Settles O39: the window load reads the pool's bytes, and what it changes beside its result is the thread's early reads. -/
theorem scratchpadLoad : Obligations.ScratchpadLoad := by
  intro h o s hr hm va off n hw ha hn hb ws
  have hexec := word_runs hr (loadEffect_window (load_fields hr).1 hm hw ha hn hb)
  obtain ⟨hdev, honly, hiss, hbank⟩ := windowLoad_frame (o := o) ws hm hw
  refine ⟨fun he => hexec.trans (congrArg (fun t => Host.Outcome.next (t.verdict .done)) (windowLoad_of_none_early ws hm hw he)),
    _, hexec, rfl, hdev, honly, ?_⟩
  rw [State.cur_verdict, State.cur, hiss]
  exact hbank

end Sys2Proof.Machine
end

section
/-! OBLIGATIONS O40 and O41. A scalar store to the scratchpad window, and one of device scope in monitor mode (R117, R118, R346). -/

namespace Sys2Proof.Machine

theorem storeEffect_of_reach {o : MOps} {s : State} {l : Loc} (hsz : o.sz.toNat ≤ 3) (ha : mVa s.cur o % szBytes o.sz = 0)
    (h : reachWord s s.iss.ctx (mVa s.cur o) (szBytes o.sz) .wr = .ok (s, l)) : storeEffect o s =
      .ok (writeLoc (beforeRelease s s.iss.ctx (o.ord == 2) (scopeAt s.cur (mVa s.cur o) o.sc)) s.iss.ctx l
        (dataBytes s.cur o.sz o.dr.toNat) (viaL1 (o.ord != 0) o.sc) o.sc) := by
  have hle := szBytes_scalar o.sz (hsz.trans (by decide))
  have hlen : (dataBytes s.cur o.sz o.dr.toNat).length = szBytes o.sz := by rw [dataBytes_scalar hsz, natLe_length]
  simp only [storeEffect, szAlign_scalar (hsz.trans (by decide : 3 ≤ 5)), aligned_of_dvd s ha]
  exact storeVa_of_reach _ _ _ (hlen ▸ hle.trans (by decide)) (hlen ▸ h)

/-! ### The window -/

/-- Settles O40: the bytes land in the pool at the offset, which is all of the bank that changes. -/
theorem scratchpadStore : Obligations.ScratchpadStore := by
  intro h o s hr hm va off n hw ha hn
  have hsz := store_size hr
  have hlen : (dataBytes s.cur o.sz o.dr.toNat).length = n := by rw [dataBytes_scalar hsz, natLe_length]
  have heffect := storeEffect_of_reach hsz ha (reachWord_window (s := s) (c := s.iss.ctx) (acc := .wr) hm hw hn (.inl rfl))
  rw [scopeAt_window hm hw, beforeRelease_core] at heffect
  have hcur : (writeLoc s s.iss.ctx (.sp off) (dataBytes s.cur o.sz o.dr.toNat) (viaL1 (o.ord != 0) o.sc) o.sc).cur =
      s.cur.scrWrite off (dataBytes s.cur o.sz o.dr.toNat) := State.bank_setBank s s.iss.ctx _
  refine ⟨_, word_runs hr heffect, rfl, fun k hk => ?_, fun a hout => ?_, ?_, rfl, rfl, rfl, rfl, rfl, onlyBank_setBank _ s _⟩
  · rw [State.cur_verdict, hcur, scrByte_scrWrite _ _ (by rw [hlen]; exact hk)]
    exact dataBytes_getD hsz s.cur hk
  · rw [State.cur_verdict, hcur, scrByte_scrWrite_other _ _ (by rw [hlen]; exact hout)]
  · rw [State.cur_verdict, hcur]
    rfl

/-! ### Monitor mode -/

theorem memWf_iff (s : State) : s.memWf = true ↔
    Memory.wf s.mem.main = true ∧ Memory.wf s.mem.near = true ∧ ∀ x ∈ s.mem.far, Memory.wf x.2 = true := by
  simp [State.memWf, and_assoc]

/-- The canonical form depends on the three tiers alone. -/
theorem memWf_of_main {s t : State} (h : s.memWf = true) (hm : Memory.wf t.mem.main = true) (hn : t.mem.near = s.mem.near)
    (hf : t.mem.far = s.mem.far) : t.memWf = true := by
  rw [memWf_iff] at h ⊢
  rw [hn, hf]
  exact ⟨hm, h.2⟩

/-- A store drops early reads of its thread and nothing else. -/
theorem storeOver_frame (s : State) (c : Ctx) (pa n : Nat) : SameDevice s (s.storeOver c pa n) ∧ OnlyBank c s (s.storeOver c pa n) ∧
    (s.storeOver c pa n).iss = s.iss ∧ ((s.storeOver c pa n).bank c).regs = (s.bank c).regs ∧
    ((s.bank c).pipe.early = [] → s.storeOver c pa n = s) := by
  unfold State.storeOver
  split
  next h => exact ⟨.refl s, fun _ _ => rfl, rfl, rfl, fun _ => rfl⟩
  next h =>
    refine ⟨sameDevice_setBank c s _, onlyBank_setBank c s _, rfl, ?_, fun he => absurd (List.isEmpty_iff.mpr he) h⟩
    rw [State.setEarly, State.bank_setBank]

/-- A store through the system cache to a line that the L1 does not hold (R118). -/
theorem cacheWrite_through {s : State} {k : Fin 32} {pa : Nat} (h : s.l1? k (lineOf pa) = none) (b : List Byte) (sc : BitVec 2) :
    cacheWrite s k pa b false sc = (sysPut s pa b).syncStore pa b.length := by
  simp [cacheWrite, h]

theorem syncStore_rest (s : State) (pa n : Nat) : (s.syncStore pa n).heap = s.heap ∧ (s.syncStore pa n).sched = s.sched ∧
    (s.syncStore pa n).iss = s.iss := by
  have h : (fun t : State => (t.heap, t.sched, t.iss)) (s.syncStore pa n) = (s.heap, s.sched, s.iss) :=
    foldl_keeps (fun t : State => (t.heap, t.sched, t.iss)) (op := fun t w => t.setSync w { t.syncWord w with rels := [], full := true })
      (fun _ _ => rfl) _ _
  simpa using h

/-- What a strong store to a line that is in no L1 of the core leaves (R118, R146). -/
theorem writeLoc_through {s : State} {c : Ctx} {a : Nat} (hl : s.l1? c.core (lineOf a) = none) (b : List Byte) (sc : BitVec 2) :
    let t := writeLoc s c (.pa a) b false sc
    t.mem.main = memSetBytes s.mem.main a b ∧ t.mem.near = s.mem.near ∧ t.mem.far = s.mem.far ∧ (t.bank c).regs = (s.bank c).regs ∧
    OnlyBank c s t ∧ ((s.bank c).pipe.early = [] → t.banks = s.banks) ∧ t.cores = s.cores ∧ t.heap = s.heap ∧ t.sched = s.sched ∧
    t.iss = s.iss := by
  obtain ⟨⟨hcores, -, hsched, hmem, hheap, -⟩, honly, hiss, hregs, hnone⟩ := storeOver_frame s c a b.length
  have hline : (s.storeOver c a b.length).l1? c.core (lineOf a) = none := by
    rw [State.l1?, State.core, hcores]
    exact hl
  obtain ⟨tmain, tnear, tfar, tbanks, tcores⟩ := (sysPut (s.storeOver c a b.length) a b).syncStore_frame a b.length
  obtain ⟨theap, tsched, tiss⟩ := syncStore_rest (sysPut (s.storeOver c a b.length) a b) a b.length
  have hbank (d : Ctx) : (((sysPut (s.storeOver c a b.length) a b).syncStore a b.length).bank d) = (s.storeOver c a b.length).bank d := by
    rw [State.bank, tbanks]
    rfl
  intro t
  have ht : t = (sysPut (s.storeOver c a b.length) a b).syncStore a b.length := cacheWrite_through hline b sc
  rw [ht, tmain, tnear, tfar, tbanks, tcores, theap, tsched, tiss, hbank]
  refine ⟨?_, by rw [sysPut_near, hmem], by rw [sysPut_far, hmem], hregs, fun d hd => (hbank d).trans (honly d hd), fun he => ?_,
    hcores, hheap, hsched, hiss⟩
  · rw [sysPut_main, hmem]
  · rw [hnone he, sysPut_banks]

/-- Settles O41: the store goes through to main memory, and its thread forgets the early reads that it overwrites. -/
theorem monitorStore : Obligations.MonitorStore := by
  intro h o s hr hm hord hsc hwf a n ha hc hl
  have hsz := store_size hr
  have hlen : (dataBytes s.cur o.sz o.dr.toNat).length = n := by rw [dataBytes_scalar hsz, natLe_length]
  have hvia : viaL1 (o.ord != 0) o.sc = false := by simpa [viaL1, hord] using hsc
  have hrel : (o.ord == 2) = false := by simp [hord]
  have heffect := storeEffect_of_reach hsz ha (reachWord_monitor (s := s) (c := s.iss.ctx) hm hc hl)
  obtain ⟨tmain, tnear, tfar, tregs, tonly, tbanks, tcores, theap, tsched, tiss⟩ :=
    writeLoc_through hl (dataBytes s.cur o.sz o.dr.toNat) o.sc
  rw [hvia, hrel, beforeRelease, if_neg Bool.false_ne_true] at heffect
  generalize writeLoc s s.iss.ctx (.pa a) (dataBytes s.cur o.sz o.dr.toNat) false o.sc = t at *
  refine ⟨_, word_runs hr heffect, rfl, memWf_of_main hwf ?_ tnear tfar, fun k hk => ?_, fun b hb => ?_, tnear, tfar, ?_, tonly, tbanks,
    tcores, theap, tsched⟩
  · rw [State.verdict_mem, tmain]
    exact memSetBytes_wf _ _ _ ((memWf_iff s).mp hwf).1
  · rw [← hlen] at hk
    rw [State.mainByte, State.verdict_mem, tmain, memByte_memSetBytes_same _ _ _ _ hk, ← List.getD_eq_getElem _ 0 hk]
    exact dataBytes_getD hsz s.cur (hk.trans_eq hlen)
  · rw [State.mainByte, State.verdict_mem, tmain]
    exact memByte_memSetBytes_other _ _ _ _ (by rw [hlen]; exact hb)
  · rw [State.cur_verdict, State.cur, tiss, tregs]
    rfl

end Sys2Proof.Machine
end

section
/-! SUPPORT. The canonical form of a byte memory (log 5): equal reads mean equal memories, and what a zeroed range reads as. -/

namespace Sys2Proof.Machine

/-! ### Tables by their reads -/

section
variable {α : Type}

theorem mem_of_tabGet? {t : Tab α} {k : Nat} {v : α} (h : tabGet? t k = some v) : (k, v) ∈ t := by
  induction t with
  | nil => cases h
  | cons x r ih =>
    obtain ⟨j, w⟩ := x
    rw [tabGet?] at h
    split at h
    next e =>
      obtain rfl := Option.some.inj h
      exact e ▸ List.mem_cons_self
    next => exact List.mem_cons_of_mem _ (ih h)

/-- Below the first key a table lists nothing. -/
theorem tabGet?_cons_of_lt {j k : Nat} {w : α} {r : Tab α} (hr : Rising j r) (h : k < j) : tabGet? ((j, w) :: r) k = none :=
  Rising.get (m := k) (t := (j, w) :: r) ⟨h, hr⟩ le_rfl

/-- Tables with rising keys that read the same are the same. -/
theorem tab_ext {t t' : Tab α} (h : tabSorted t = true) (h' : tabSorted t' = true) (hget : ∀ k, tabGet? t k = tabGet? t' k) : t = t' := by
  induction t generalizing t' with
  | nil =>
    cases t' with
    | nil => rfl
    | cons y r' => simpa [tabGet?] using hget y.1
  | cons x r ih =>
    cases t' with
    | nil => simpa [tabGet?] using hget x.1
    | cons y r' =>
      obtain ⟨j, v⟩ := x
      obtain ⟨k, w⟩ := y
      have hr := (tabSorted_cons j v r).mp h
      have hr' := (tabSorted_cons k w r').mp h'
      rcases Nat.lt_trichotomy j k with hlt | rfl | hgt
      · have hj := hget j
        rw [tabGet?_cons_of_lt hr' hlt] at hj
        simp [tabGet?] at hj
      · have hv : v = w := by simpa [tabGet?] using hget j
        have hrest : r = r' := ih hr.sorted hr'.sorted fun i => by
          rcases Nat.lt_or_ge j i with hi | hi
          · simpa [tabGet?, Nat.ne_of_lt hi] using hget i
          · rw [hr.get hi, hr'.get hi]
        rw [hv, hrest]
      · have hk := hget k
        rw [tabGet?_cons_of_lt hr hgt] at hk
        simp [tabGet?] at hk

/-- Of a table filtered by its keys the entries that stay read as before. -/
theorem tabGet?_filter (p : Nat → Bool) (t : Tab α) (k : Nat) :
    tabGet? (t.filter fun x => p x.1) k = if p k then tabGet? t k else none := by
  induction t with
  | nil => simp [tabGet?]
  | cons x r ih =>
    obtain ⟨j, w⟩ := x
    by_cases hj : j = k
    · subst hj
      by_cases hp : p j = true <;> simp [hp, tabGet?, ih]
    · by_cases hp : p j = true <;> simp [hp, tabGet?, ih, hj]

end

/-! ### Byte memories -/

theorem tabSorted_of_wf {m : Mem} (h : Memory.wf m = true) : tabSorted m = true := (Bool.and_eq_true_iff.mp h).1

/-- A memory in its canonical form lists the bytes that differ from an unlisted one. -/
theorem tabGet?_of_wf {m : Mem} (h : Memory.wf m = true) (a : Nat) :
    tabGet? m a = if memByte m a = unlistedByte then none else some (memByte m a) := by
  simp only [Memory.wf, Bool.and_eq_true, List.all_eq_true, decide_eq_true_eq] at h
  cases hget : tabGet? m a with
  | none => simp [memByte, tabGet, hget]
  | some v =>
    have hv : v ≠ unlistedByte := h.2 _ (mem_of_tabGet? hget)
    simp [memByte, tabGet, hget, hv]

theorem mem_ext {m m' : Mem} (h : Memory.wf m = true) (h' : Memory.wf m' = true) (hbyte : ∀ a, memByte m a = memByte m' a) : m = m' :=
  tab_ext (tabSorted_of_wf h) (tabSorted_of_wf h') fun k => by rw [tabGet?_of_wf h, tabGet?_of_wf h', hbyte]

theorem memByte_memSetBytes (m : Mem) (a i : Nat) (l : List Byte) :
    memByte (memSetBytes m a l) i = if a ≤ i ∧ i < a + l.length then l.getD (i - a) 0 else memByte m i := by
  split
  next h =>
    have hk : i - a < l.length := by omega
    have hi : memByte (memSetBytes m a l) (a + (i - a)) = l[i - a] := memByte_memSetBytes_same m a (i - a) l hk
    rw [Nat.add_sub_of_le h.1] at hi
    rw [hi, List.getD_eq_getElem _ _ hk]
  next h => exact memByte_memSetBytes_other m a i l (by omega)

theorem memByte_zeroRange (m : Mem) (a n i : Nat) :
    memByte (zeroRange m a n) i = if a ≤ i ∧ i < a + n then 0 else memByte m i := by
  have hget := tabGet?_filter (fun k => decide (k < a) || decide (a + n ≤ k)) m i
  rw [memByte, tabGet, zeroRange, hget]
  split
  next h => rw [if_neg (by simp at h; omega), memByte, tabGet]
  next h => rw [if_pos (by simp at h; omega)]; rfl

theorem flushBytes_wf (m : Mem) (base : Nat) (d : BitVec 1024) (dirty : BitVec 128) (h : Memory.wf m = true) :
    Memory.wf (flushBytes m base d dirty) = true := by
  have hbyte (m : Mem) (i : Nat) (h : Memory.wf m = true) : Memory.wf (flushByte base d dirty m i) = true := by
    unfold flushByte
    split
    · exact memSetByte_wf _ _ _ h
    · exact h
  exact List.foldlRecOn (motive := fun m => Memory.wf m = true) (List.range 128) (flushByte base d dirty) h fun m hm i _ => hbyte m i hm

end Sys2Proof.Machine
end

section
/-! SUPPORT. What no access of memory breaks (R118, R131, R134, R139): the canonical form of the memories, the cached translations, and the
operations that the memory block's units run. -/

namespace Sys2Proof.Machine

/-- An access, or what an access brings with it, leads from `s` to `t`. -/
structure AccessKeeps (s t : State) : Prop where
  wf   : s.memWf = true → t.memWf = true
  tlb  : ∀ k, (t.core k).tlb = (s.core k).tlb
  runs : t.mem.expRun = s.mem.expRun ∧ t.mem.swpRun = s.mem.swpRun

namespace AccessKeeps

variable {s t u : State}

theorem refl (s : State) : AccessKeeps s s := ⟨id, fun _ => rfl, rfl, rfl⟩

theorem trans (h : AccessKeeps s t) (h' : AccessKeeps t u) : AccessKeeps s u :=
  ⟨h'.wf ∘ h.wf, fun k => (h'.tlb k).trans (h.tlb k), h'.runs.1.trans h.runs.1, h'.runs.2.trans h.runs.2⟩

/-- Where neither the tiers nor the cores nor the units' operations change. -/
theorem of_same (hcores : t.cores = s.cores) (hmain : t.mem.main = s.mem.main) (hnear : t.mem.near = s.mem.near)
    (hfar : t.mem.far = s.mem.far) (hexp : t.mem.expRun = s.mem.expRun) (hswp : t.mem.swpRun = s.mem.swpRun) : AccessKeeps s t :=
  ⟨fun h => memWf_of_main h (hmain ▸ ((memWf_iff s).mp h).1) hnear hfar, fun k => by rw [State.core, hcores]; rfl, hexp, hswp⟩

/-- Where only main memory changes, and stays canonical. -/
theorem of_main {m : Mem} (h : Memory.wf s.mem.main = true → Memory.wf m = true) : AccessKeeps s { s with mem := { s.mem with main := m } } :=
  ⟨fun hw => memWf_of_main hw (h ((memWf_iff s).mp hw).1) rfl rfl, fun _ => rfl, rfl, rfl⟩

/-- Where a core changes, but not its translations. -/
theorem of_core {k : Fin 32} {x : Core} (h : x.tlb = (s.core k).tlb) : AccessKeeps s (s.setCore k x) := by
  refine ⟨id, fun j => ?_, rfl, rfl⟩
  by_cases hj : j = k
  · rw [hj, State.core_setCore, h]
  · rw [State.core_setCore_other _ _ _ _ hj]

theorem foldl {β : Type} {op : State → β → State} (h : ∀ s b, AccessKeeps s (op s b)) (l : List β) (s : State) :
    AccessKeeps s (l.foldl op s) :=
  List.foldlRecOn (motive := AccessKeeps s) l op (refl s) fun t ht b _ => ht.trans (h t b)

end AccessKeeps

/-! ### Lines -/

theorem foundUe_keeps (s : State) (w : Option Ctx) (strc key : Nat) : AccessKeeps s (foundUe s w strc key) := by
  have hcount : AccessKeeps s ((countUe s w strc key).dropBad strc key) := .of_same rfl rfl rfl rfl rfl rfl
  have hfam (t : State) (f : Nat) (on off : Byte) : AccessKeeps t (t.famSet f on off) := .of_same rfl rfl rfl rfl rfl rfl
  unfold foundUe
  dsimp only
  split
  · exact .of_same rfl rfl rfl rfl rfl rfl
  · split
    · refine (hcount.trans ?_).trans (hfam _ _ _ _)
      exact .of_core rfl
    · split
      · exact (hcount.trans (hfam _ _ _ _)).trans (.of_same rfl rfl rfl rfl rfl rfl)
      · exact hcount.trans (hfam _ _ _ _)

theorem l1Put_keeps (s : State) (k : Fin 32) (ln : Nat) (l : Line) : AccessKeeps s (s.l1Put k ln l) := .of_core rfl
theorem l1Drop_keeps (s : State) (k : Fin 32) (ln : Nat) : AccessKeeps s (s.l1Drop k ln) := .of_core rfl

theorem sysPut_keeps (s : State) (a : Nat) (b : List Byte) : AccessKeeps s (sysPut s a b) := .of_main (memSetBytes_wf _ _ _)

theorem flushLine_keeps (s : State) (ln : Nat) (l : Line) : AccessKeeps s (s.flushLine ln l) := by
  unfold State.flushLine
  split
  · exact .of_same rfl rfl rfl rfl rfl rfl
  · exact .of_main (flushBytes_wf _ _ _ _)

theorem writeBack_keeps (s : State) (k : Fin 32) (ln : Nat) (tag : Option (BitVec 2)) : AccessKeeps s (writeBack s k ln tag) := by
  unfold writeBack
  split
  · exact .refl s
  · split
    · exact foundUe_keeps _ _ _ _
    · exact (flushLine_keeps _ _ _).trans (l1Put_keeps _ _ _ _)

theorem evictLine_keeps (s : State) (k : Fin 32) (ln : Nat) : AccessKeeps s (evictLine s k ln) := by
  unfold evictLine
  split
  · exact .refl s
  · split
    · split
      · exact foundUe_keeps _ _ _ _
      · exact .trans (t := s.dropBad 1 (lineKey k ln)) (.of_same rfl rfl rfl rfl rfl rfl) (l1Drop_keeps _ _ _)
    · exact (flushLine_keeps _ _ _).trans (l1Drop_keeps _ _ _)

theorem wbAll_keeps (s : State) (k : Fin 32) (sc : BitVec 2) : AccessKeeps s (wbAll s k sc) := by
  unfold wbAll
  split
  · exact .refl s
  · refine .foldl (fun t x => ?_) _ _
    split
    · exact writeBack_keeps _ _ _ _
    · exact .refl t

theorem invAll_keeps (s : State) (k : Fin 32) (sc : BitVec 2) : AccessKeeps s (invAll s k sc) := by
  unfold invAll
  split
  · exact .refl s
  · refine .foldl (fun t x => ?_) _ _
    split
    · exact evictLine_keeps _ _ _
    · exact .refl t

theorem fillLine_keeps (s : State) (k : Fin 32) (ln : Nat) : AccessKeeps s (fillLine s k ln).1 := by
  unfold fillLine
  split
  · exact .refl s
  · exact l1Put_keeps _ _ _ _

/-! ### Reads and writes of a line -/

theorem setSync_keeps (s : State) (w : Nat) (x : SyncWord) : AccessKeeps s (s.setSync w x) := .of_same rfl rfl rfl rfl rfl rfl

theorem syncRead_keeps (s : State) (pa n : Nat) : AccessKeeps s (s.syncRead pa n) := by
  refine .foldl (fun t w => ?_) _ _
  dsimp only
  split
  · exact .refl t
  · exact (AccessKeeps.foldl (op := fun t k => wbAll t k 3) (fun u k => wbAll_keeps u k 3) _ t).trans (setSync_keeps _ _ _)

theorem syncStore_keeps (s : State) (pa n : Nat) : AccessKeeps s (s.syncStore pa n) :=
  .foldl (op := fun s w => s.setSync w { s.syncWord w with rels := [], full := true }) (fun t w => setSync_keeps t w _) _ _

theorem cacheRead_keeps (s : State) (k : Fin 32) (pa n : Nat) (l1 : Bool) : AccessKeeps s (cacheRead s k pa n l1).1 := by
  unfold cacheRead
  split
  · exact fillLine_keeps _ _ _
  · exact writeBack_keeps _ _ _ _

theorem cacheWrite_keeps (s : State) (k : Fin 32) (pa : Nat) (b : List Byte) (l1 : Bool) (sc : BitVec 2) :
    AccessKeeps s (cacheWrite s k pa b l1 sc) := by
  unfold cacheWrite
  dsimp only
  split
  · exact (fillLine_keeps _ _ _).trans (l1Put_keeps _ _ _ _)
  · split
    · exact (sysPut_keeps _ _ _).trans (syncStore_keeps _ _ _)
    · exact (((flushLine_keeps _ _ _).trans (sysPut_keeps _ _ _)).trans (syncStore_keeps _ _ _)).trans (l1Put_keeps _ _ _ _)

end Sys2Proof.Machine
end

section
/-! OBLIGATION O45. Every writer of a memory keeps its canonical form (R118, R134, R151, R174). -/

namespace Sys2Proof.Machine

theorem releaseHeld_memWf (s : State) (h : s.memWf = true) : s.releaseHeld.memWf = true :=
  memWf_of_main h (State.releaseHeld_wf s ((memWf_iff s).mp h).1) rfl rfl

theorem unitPut_memWf (s : State) (a : Nat) (l : List Byte) (h : s.memWf = true) : (unitPut s a l).memWf = true := by
  have htiers : (unitPut s a l).mem.near = s.mem.near ∧ (unitPut s a l).mem.far = s.mem.far := by
    unfold unitPut
    split <;> exact ⟨rfl, rfl⟩
  exact memWf_of_main h (unitPut_wf s a l ((memWf_iff s).mp h).1) htiers.1 htiers.2

theorem nearPut_memWf (s : State) (f : Nat) (x : List Byte) (h : s.memWf = true) : (nearPut s f x).memWf = true := by
  obtain ⟨hmain, hnear, hfar⟩ := (memWf_iff s).mp h
  exact (memWf_iff _).mpr ⟨hmain, nearPut_wf s f x hnear, hfar⟩

theorem setFar_memWf (s : State) (k : Nat) (m : Mem) (h : s.memWf = true) (hm : Memory.wf m = true) : (s.setFar k m).memWf = true := by
  obtain ⟨hmain, hnear, hfar⟩ := (memWf_iff s).mp h
  refine (memWf_iff _).mpr ⟨hmain, hnear, fun x hx => ?_⟩
  rcases mem_tabSet hx with rfl | hx
  · exact hm
  · exact hfar x hx

/-- Settles O45: the reads of a canonical memory name it, and each operation keeps the form by its own law. -/
theorem canonicalMemory : Obligations.CanonicalMemory :=
  ⟨fun _ _ => mem_ext, fun m a l h => ⟨memSetBytes_wf m a l h, fun i => memByte_memSetBytes m a i l⟩,
    fun m a n h => ⟨zeroRange_wf m a n h, memByte_zeroRange m a n⟩,
    fun s a l h => ⟨(sysPut_keeps s a l).wf h, unitPut_memWf s a l h, releaseHeld_memWf s h⟩,
    fun s k n g h => ⟨(writeBack_keeps s k n g).wf h, (evictLine_keeps s k n).wf h⟩,
    fun s k a l v sc => (cacheWrite_keeps s k a l v sc).wf,
    fun s k sc h => ⟨(wbAll_keeps s k sc).wf h, (invAll_keeps s k sc).wf h⟩, nearPut_memWf, setFar_memWf⟩

end Sys2Proof.Machine
end

section
/-! SUPPORT. The accesses that a shootdown or a migration lets complete first (R131, R134): each keeps what `AccessKeeps` says, and where no
memory step waits they write no byte of main memory. -/

namespace Sys2Proof.Machine

/-! ### Steps of a thread -/

theorem setBank_keeps (s : State) (c : Ctx) (b : Bank) : AccessKeeps s (s.setBank c b) := .of_same rfl rfl rfl rfl rfl rfl

theorem noEarly_keeps (s : State) (c : Ctx) : AccessKeeps s (s.noEarly c) := by
  unfold State.noEarly
  split
  · exact .refl s
  · exact setBank_keeps _ _ _

theorem storeOver_keeps (s : State) (c : Ctx) (pa n : Nat) : AccessKeeps s (s.storeOver c pa n) := by
  unfold State.storeOver
  split
  · exact .refl s
  · exact setBank_keeps _ _ _

theorem readLoc_keeps (s : State) (c : Ctx) (loc : Loc) (n : Nat) (l1 : Bool) : AccessKeeps s (readLoc s c loc n l1).1 := by
  have hread (t : State) (a : Nat) : AccessKeeps t (cacheRead (if l1 then t else t.syncRead a n) c.core a n l1).1 := by
    refine AccessKeeps.trans ?_ (cacheRead_keeps _ _ _ _ _)
    split
    · exact .refl t
    · exact syncRead_keeps _ _ _
  have hearly (l : List Early) : AccessKeeps s (s.setEarly c l) := setBank_keeps _ _ _
  unfold readLoc
  split
  · exact .refl s
  · split
    · exact hread s _
    · dsimp only
      split
      · exact hearly _
      · exact (hearly _).trans (hread _ _)

theorem writeLoc_keeps (s : State) (c : Ctx) (loc : Loc) (b : List Byte) (l1 : Bool) (sc : BitVec 2) :
    AccessKeeps s (writeLoc s c loc b l1 sc) := by
  unfold writeLoc
  split
  · exact (setBank_keeps _ _ _).trans (.of_same rfl rfl rfl rfl rfl rfl)
  · exact (storeOver_keeps _ _ _ _).trans (cacheWrite_keeps _ _ _ _ _ _)

theorem performStep_keeps (s : State) (c : Ctx) (m : MemStep) : AccessKeeps s (performStep s c m) := by
  unfold performStep
  split
  · exact writeLoc_keeps _ _ _ _ _ _
  · have hfill := (readLoc_keeps s c m.loc 64 m.l1).trans (setBank_keeps _ c
      (((readLoc s c m.loc 64 m.l1).1.bank c).fillLock m.lock m.off (readLoc s c m.loc 64 m.l1).2 m.last))
    dsimp only
    split
    · rw [afterAcquire, if_pos rfl]
      exact (hfill.trans (invAll_keeps _ _ _)).trans (noEarly_keeps _ _)
    · exact hfill

theorem nextStep_keeps (s : State) (c : Ctx) : AccessKeeps s (nextStep s c) := by
  unfold nextStep
  dsimp only
  split
  · exact .refl s
  · exact (setBank_keeps _ _ _).trans (performStep_keeps _ _ _)

theorem finishSteps_keeps (s : State) (c : Ctx) : AccessKeeps s (finishSteps s c) :=
  .foldl (op := fun t _ => nextStep t c) (fun t _ => nextStep_keeps t c) _ s

theorem finishAll_keeps (s : State) : AccessKeeps s (finishAll s) := by
  unfold finishAll
  refine .foldl (fun t e => ?_) _ s
  exact finishSteps_keeps _ _

theorem finishAll_of_no_steps {s : State} (h : ∀ e ∈ s.banks, e.2.pipe.steps = []) : finishAll s = s := by
  have hnone : (s.banks.filter fun e => !e.2.pipe.steps.isEmpty) = [] := List.filter_eq_nil_iff.mpr fun e he => by simp [h e he]
  rw [finishAll, hnone, List.foldl_nil]

/-! ### Arrays that wait, and early reads -/

theorem unitUe_keeps (s : State) (pa n : Nat) (acc : Acc) : AccessKeeps s (unitUe s pa n acc) := by
  refine .foldl (fun t e => ?_) _ _
  split
  · split
    · exact foundUe_keeps _ _ _ _
    · exact .refl t
  · exact .refl t

theorem launchUe_keeps (s : State) (l : Launch) : AccessKeeps s (launchUe s l) :=
  .foldl (op := fun t (x : (Nat × Nat) × Nat) => unitUe t x.2 x.1.2 .rd) (fun t x => unitUe_keeps t x.2 x.1.2 .rd) _ s

theorem readLaunches_keeps (s : State) : AccessKeeps s (readLaunches s) := by
  refine (AccessKeeps.foldl launchUe_keeps (s.sched.launch.filter fun l => l.recs.isEmpty) s).trans ?_
  exact .of_same rfl rfl rfl rfl rfl rfl

theorem readLaunches_main (s : State) : (readLaunches s).mem.main = s.mem.main := by
  have hkept : ueKept ((s.sched.launch.filter fun l => l.recs.isEmpty).foldl launchUe s) = ueKept s := foldl_keeps ueKept launchUe_kept _ s
  simp only [ueKept, Prod.mk.injEq] at hkept
  exact hkept.2.2

theorem dropEarly_keeps (s : State) : AccessKeeps s (dropEarly s) := by
  unfold dropEarly
  refine .foldl (fun t e => ?_) _ s
  exact noEarly_keeps _ _

theorem completeAccesses_keeps (s : State) : AccessKeeps s (completeAccesses s) :=
  ((finishAll_keeps s).trans (readLaunches_keeps _)).trans (dropEarly_keeps _)

theorem completeAccesses_main {s : State} (h : ∀ e ∈ s.banks, e.2.pipe.steps = []) : (completeAccesses s).mem.main = s.mem.main := by
  rw [completeAccesses, (dropEarly_frame _).1, readLaunches_main, finishAll_of_no_steps h]

end Sys2Proof.Machine
end

section
/-! SUPPORT. Bits of a frame's flags (R124), and what a change of them leaves alone. -/

namespace Sys2Proof.Machine

/-! ### One bit -/

/-- A mask of one bit picks that bit. -/
theorem byte_and_bit : ∀ (i : Fin 8) (x : Byte), (x &&& (1#8 <<< i.val) != 0) = x.getLsbD i.val := by decide

section
variable (s : State) (f : Nat)

theorem famHas_psn : s.famHas f famPSN = (s.fam f).getLsbD 7 := byte_and_bit 7 _
theorem famHas_mig : s.famHas f famMIG = (s.fam f).getLsbD 6 := byte_and_bit 6 _
theorem famHas_nm : s.famHas f famNM = (s.fam f).getLsbD 5 := byte_and_bit 5 _
theorem famHas_mgd : s.famHas f famMGD = (s.fam f).getLsbD 4 := byte_and_bit 4 _
theorem famHas_rl : s.famHas f famRL = (s.fam f).getLsbD 3 := byte_and_bit 3 _
theorem famHas_cmp : s.famHas f famCMP = (s.fam f).getLsbD 2 := byte_and_bit 2 _
theorem famHas_mpin : s.famHas f famMPIN = (s.fam f).getLsbD 1 := byte_and_bit 1 _

/-- RL and MGD follow the region map; the other bits are kept in a map of their own. -/
theorem fam_getLsbD {i : Nat} (hi : i < 8) : (s.fam f).getLsbD i =
    if i = 3 then (s.region (f * 4096)).any Region.rowLinear else if i = 4 then (s.region (f * 4096)).any fun r => r.cls == 2
    else (tabGet s.mem.fam f 0).getLsbD i := by
  have hcases : i = 0 ∨ i = 1 ∨ i = 2 ∨ i = 3 ∨ i = 4 ∨ i = 5 ∨ i = 6 ∨ i = 7 := by omega
  unfold State.fam
  dsimp only
  cases s.region (f * 4096) with
  | none => rcases hcases with rfl | rfl | rfl | rfl | rfl | rfl | rfl | rfl <;> simp [famMGD, famRL]
  | some r =>
    cases hl : r.rowLinear <;> cases hc : r.cls == 2 <;>
      rcases hcases with rfl | rfl | rfl | rfl | rfl | rfl | rfl | rfl <;> simp [famMGD, famRL, hl, hc]

end

/-! ### A change of bits -/

theorem tabGet_famSet (s : State) (f : Nat) (on off : Byte) :
    tabGet (s.famSet f on off).mem.fam f 0 = (tabGet s.mem.fam f 0 ||| on) &&& ~~~off := by
  unfold State.famSet
  dsimp only
  split
  next h => rw [h, tabGet, tabGet?_tabDel_same]; rfl
  next => exact tabGet_tabSet_same _ _ _ _

theorem tabGet_famSet_other (s : State) {f g : Nat} (h : g ≠ f) (on off : Byte) :
    tabGet (s.famSet f on off).mem.fam g 0 = tabGet s.mem.fam g 0 := by
  unfold State.famSet
  dsimp only
  split
  · rw [tabGet, tabGet?_tabDel_other _ _ _ h]; rfl
  · exact tabGet_tabSet_other _ _ _ _ _ h

/-- The flags are read off the region map and the kept bits. -/
theorem fam_congr {s t : State} {f : Nat} (hr : t.mem.rmap = s.mem.rmap) (h : tabGet t.mem.fam f 0 = tabGet s.mem.fam f 0) :
    t.fam f = s.fam f := by
  simp only [State.fam, State.region, hr, h]

/-- A frame's kept bits are set, then cleared; RL and MGD stay. -/
theorem famSet_getLsbD (s : State) (f : Nat) (on off : Byte) {i : Nat} (hi : i < 8) : ((s.famSet f on off).fam f).getLsbD i =
    if i = 3 ∨ i = 4 then (s.fam f).getLsbD i else ((s.fam f).getLsbD i || on.getLsbD i) && !off.getLsbD i := by
  rw [fam_getLsbD _ _ hi, fam_getLsbD _ _ hi, tabGet_famSet]
  by_cases h3 : i = 3
  · subst h3; rfl
  · by_cases h4 : i = 4
    · subst h4; rfl
    · simp [h3, h4, hi]

theorem famSet_fam_other (s : State) {f g : Nat} (h : g ≠ f) (on off : Byte) : (s.famSet f on off).fam g = s.fam g :=
  fam_congr rfl (tabGet_famSet_other s h on off)

/-! ### What changes of a frame's form keep -/

/-- All of the memory block but what a change of a frame's form touches, and the banks and cores. -/
def formKept (s : State) : MemBlk × Tab Bank × Tab Core := ({ s.mem with fam := [], mreqs := [], bounce := [] }, s.banks, s.cores)

theorem famSetRange_formKept (s : State) (f n : Nat) (on off : Byte) : formKept (s.famSetRange f n on off) = formKept s :=
  foldl_keeps formKept (op := fun t k => t.famSet (f + k) on off) (fun _ _ => rfl) _ s

theorem bounce_formKept (s : State) (f : Nat) : formKept (bounce s f) = formKept s := by
  unfold bounce
  extract_lets old rest b s1
  split <;> rfl

theorem reachForm_formKept (s : State) (f : Nat) (form : BitVec 2) : formKept (reachForm s f form) = formKept s :=
  (bounce_formKept _ _).trans rfl

theorem mem_of_formKept {γ : Type} {s t : State} (part : MemBlk → γ) (h : formKept t = formKept s)
    (hp : ∀ m, part { m with fam := [], mreqs := [], bounce := [] } = part m) : part t.mem = part s.mem := by
  rw [← hp t.mem, ← hp s.mem]
  exact congrArg (fun x : MemBlk × Tab Bank × Tab Core => part x.1) h

end Sys2Proof.Machine
end

section
/-! SUPPORT. Tables changed entry by entry, and the holds that break (R164). -/

namespace Sys2Proof.Machine

theorem tabGet?_tabMap {α β : Type} (t : Tab α) (g : Nat → α → β) (k : Nat) : tabGet? (tabMap t g) k = (tabGet? t k).map (g k) := by
  induction t with
  | nil => rfl
  | cons x r ih =>
    obtain ⟨j, w⟩ := x
    by_cases h : j = k
    · subst h
      simp [tabMap, tabGet?]
    · simpa [tabMap, tabGet?, h] using ih

/-- A part of an entry that the change commutes with, the default's too. -/
theorem part_tabGet_tabMap {α γ : Type} (part : α → γ) (t : Tab α) (g : Nat → α → α) (k : Nat) (d : α) {p : γ → γ}
    (hg : ∀ x, part (g k x) = p (part x)) (hd : part d = p (part d)) : part (tabGet (tabMap t g) k d) = p (part (tabGet t k d)) := by
  rw [tabGet, tabGet, tabGet?_tabMap]
  cases tabGet? t k with
  | none => exact hd
  | some x => exact hg x

/-! ### Holds that break -/

theorem breakHold_heap (s : State) (x : Hold) (b : Bool) :
    (breakHold s x b).heap = { s.heap with holds := s.heap.holds.filter fun y => y != x } := rfl

/-- What a break makes of a handle. -/
def Hold.breaks (x : Hold) (noXl : Bool) (k : Nat) (h : Handle) : Handle :=
  if x.hs.contains k then { h with held := false, xl := if noXl then none else h.xl } else h

/-- A broken hold's handles keep ROWV. -/
theorem breakHold_rowv (s : State) (x : Hold) (b : Bool) (k : Nat) :
    (((breakHold s x b).bank x.ctx).hreg k).rowv = ((s.bank x.ctx).hreg k).rowv := by
  have hbank : (breakHold s x b).bank x.ctx = { s.bank x.ctx with h := tabMap (s.bank x.ctx).h (x.breaks b) } :=
    State.bank_setBank _ _ _
  rw [hbank]
  exact part_tabGet_tabMap Handle.rowv _ _ k .reset (p := id) (fun h => by unfold Hold.breaks; split <;> rfl) rfl

/-- What no break of a hold changes. -/
def holdKept (s : State) : MemBlk × Tab Core × Platform := (s.mem, s.cores, s.plat)

theorem breakHolds_kept (s : State) (p : Hold → Bool) (b : Bool) : holdKept (breakHolds s p b).1 = holdKept s :=
  foldl_keeps holdKept (op := fun s x => breakHold s x b) (fun _ _ => rfl) _ s

theorem breakSwp_kept (s : State) (p : Ctx → Handle → Bool) : holdKept (breakSwp s p) = holdKept s :=
  breakHolds_kept s (fun x => x.hs.any fun k => p x.ctx ((s.bank x.ctx).hreg k)) true

theorem foldl_breakHold_heap (l : List Hold) (b : Bool) (s : State) : (l.foldl (fun s x => breakHold s x b) s).heap =
    { s.heap with holds := s.heap.holds.filter fun y => !l.contains y } := by
  induction l generalizing s with
  | nil => simp
  | cons x r ih =>
    rw [List.foldl_cons, ih, breakHold_heap]
    simp only [List.filter_filter, List.contains_cons, Bool.not_or, bne, Bool.and_comm]

/-- Where every hold breaks none is left. -/
theorem breakHolds_all_heap (s : State) (b : Bool) : (breakHolds s (fun _ => true) b).1.heap = { s.heap with holds := [] } := by
  refine (foldl_breakHold_heap _ b s).trans ?_
  have hnone : (s.heap.holds.filter fun y => !(s.heap.holds.filter fun _ => true).contains y) = [] :=
    List.filter_eq_nil_iff.mpr fun y hy => by simpa using hy
  rw [hnone]

end Sys2Proof.Machine
end

section
/-! OBLIGATION O55, the clauses of shootdowns, outside accesses and registers (R121, R123, R128, R131, R252). -/

namespace Sys2Proof.Machine

/-! ### Shootdowns (R131) -/

theorem execShootdown_spec (i : Invalidate) (s : State) : ∃ t, execShootdown i s = .next t ∧
    (∀ k, (t.core k).tlb = (s.core k).tlb.filter fun e => !tlbHit i e) ∧
    ((∀ e ∈ s.banks, e.2.pipe.steps = []) → t.mem.main = s.mem.main) := by
  have hkept := breakSwp_kept (completeAccesses s) fun c h => xlHit s i c h
  simp only [holdKept, Prod.mk.injEq] at hkept
  obtain ⟨hmem, hcores, -⟩ := hkept
  refine ⟨_, rfl, fun k => ?_, fun hsteps => ?_⟩
  · rw [← (completeAccesses_keeps s).tlb k, State.core, State.core, hcores]
    exact part_tabGet_tabMap Core.tlb _ (fun _ k => { k with tlb := k.tlb.filter fun e => !tlbHit i e }) k.val .reset
      (p := List.filter fun e => !tlbHit i e) (fun _ => rfl) rfl
  · exact (congrArg MemBlk.main hmem).trans (completeAccesses_main hsteps)

/-! ### Accesses from outside (R121, R123, R128) -/

/-- An access inside one frame is one piece. -/
theorem pagePieces_single {pa n : Nat} (hn : n ≠ 0) (h : pa % 4096 + n ≤ 4096) : pagePieces (n / 4096 + 2) pa n = [(pa, n)] := by
  have hmin : min n (4096 - pa % 4096) = n := by omega
  simp [pagePieces, hn, hmin]

section
variable {a : ExtAccess} {s : State} {b : List Byte}

/-- What the checks of a write inside one frame make of it. -/
theorem execExternalAccess_single (hw : a.wr = some b) (hb : b ≠ []) (hn : a.pa.toNat % 4096 + b.length ≤ 4096) : execExternalAccess a s =
    .next (match if meetsCtl s a b.length then .error s else extCheck s a.pa.toNat true with
      | .error t => t
      | .waits => s
      | .served t => (sysPut t a.pa.toNat b).syncStore a.pa.toNat b.length) := by
  unfold execExternalAccess
  simp only [hw, pagePieces_single (mt List.length_eq_zero_iff.mp hb) hn]
  cases meetsCtl s a b.length <;> rfl

theorem execExternalAccess_spec (a : ExtAccess) (s : State) (b : List Byte) (hw : a.wr = some b) (hb : b ≠ [])
    (hn : a.pa.toNat % 4096 + b.length ≤ 4096) :
    (meetsCtl s a b.length = true → execExternalAccess a s = .next s) ∧
    (meetsCtl s a b.length = false → extCheck s a.pa.toNat true = .served s → execExternalAccess a s =
      .next ((sysPut s a.pa.toNat b).syncStore a.pa.toNat b.length)) ∧
    (∀ t, meetsCtl s a b.length = false → extCheck s a.pa.toNat true = .error t → execExternalAccess a s = .next t) ∧
    (s.region a.pa.toNat = none → execExternalAccess a s = .next s) := by
  rw [execExternalAccess_single hw hb hn]
  refine ⟨fun h => by simp [h], fun h hc => by simp [h, hc], fun t h hc => by simp [h, hc], fun hr => ?_⟩
  have hc : extCheck s a.pa.toNat true = .error s := by simp [extCheck, hr]
  rw [hc, ite_self]

end

theorem execCompressedFrameFault_spec (pa : BitVec 48) (s : State) (hc : s.famHas (frameOf pa.toNat) famCMP = true) :
    (s.mem.cfaddr = none → ∃ t, execCompressedFrameFault pa s = .next t ∧ t.mem.cfaddr = some pa ∧ t.plat.evtst.getLsbD 2 = true) ∧
    (∀ x, s.mem.cfaddr = some x →
      execCompressedFrameFault pa s = .next { s with mem := { s.mem with cflost := s.mem.cflost + 1 } }) := by
  have hfault : execCompressedFrameFault pa s = .next (cfFault s pa) := congrArg Host.Outcome.next (if_pos hc)
  rw [hfault]
  refine ⟨fun hn => ?_, fun x hx => by simp [cfFault, hx]⟩
  simp only [cfFault, hn]
  exact ⟨_, rfl, rfl, raiseEvent_evtst (by decide) _⟩

/-! ### Registers (R252) -/

theorem execRegisterWrite_unassigned {off : BitVec 24} (h : 6 ≤ off.toNat / 2 ^ 20) (v : BitVec 64) (s : State) :
    execRegisterWrite off v s = .next s := by
  obtain ⟨n, hn⟩ := Nat.exists_eq_add_of_le' h
  rw [execRegisterWrite, ctlWrite]
  simp only [hn]
  exact congrArg Host.Outcome.next (ite_self s)

theorem execRegisterWrite_spec (off : BitVec 24) (v : BitVec 64) (s : State) (hp : s.plat.power = .on) :
    (6 ≤ off.toNat / 2 ^ 20 → execRegisterWrite off v s = .next s) ∧
    (off = 0x000010 → execRegisterWrite off v s = .next { s with sched := { s.sched with age := v.extractLsb' 0 32 } }) ∧
    (off = 0x500000 → execRegisterWrite off v s =
      .next { s with plat := { s.plat with evtst := s.plat.evtst &&& ~~~(v.extractLsb' 0 13) } }) := by
  refine ⟨fun h => execRegisterWrite_unassigned h v s, fun h => ?_, fun h => ?_⟩
  · have hawake : s.awake = true := State.awake_of_on hp
    subst h
    exact congrArg Host.Outcome.next (if_neg (by simp [hawake]))
  · subst h
    exact congrArg Host.Outcome.next (if_neg (by simp [hp]))

end Sys2Proof.Machine
end

section
/-! OBLIGATION O55, the clauses of FAMCMD (R125, R136). -/

namespace Sys2Proof.Machine

/-! ### A change of form (R136) -/

/-- A bounce may pin its frame, when it is the third, and changes none of its other bits. -/
theorem bounce_fam (s : State) (f : Nat) : ((bounce s f).fam f = s.fam f ∨ (bounce s f).fam f = (s.famSet f famMPIN 0).fam f) ∧
    (∀ g, g ≠ f → (bounce s f).fam g = s.fam g) ∧ ((∀ b ∈ s.mem.bounce, b.frame ≠ f) → (bounce s f).fam f = s.fam f) := by
  unfold bounce
  extract_lets old rest b s1
  split
  next hb =>
    refine ⟨.inr rfl, fun g hg => famSet_fam_other s hg famMPIN 0, fun hnone => ?_⟩
    have hold : old = none := List.find?_eq_none.mpr fun x hx => by simpa using hnone x hx
    simp [b, hold] at hb
  next => exact ⟨.inl rfl, fun _ _ => rfl, fun _ => rfl⟩

/-! ### The command (R125) -/

section
variable (s : State) (v : BitVec 64)

def cmdFrame : Nat := (v.extractLsb' 0 36).toNat
/-- The bits that a FAMCMD may change. -/
def cmdMay : Byte := famPSN ||| famCMP ||| famMPIN
def cmdClear : Byte := v.extractLsb' 48 8 &&& cmdMay
/-- CMP is not set on a row-linear, NM or poisoned frame. -/
def cmdKeepsOut : Bool := s.famHas (cmdFrame v) famRL || s.famHas (cmdFrame v) famNM ||
  ((s.fam (cmdFrame v) ||| (v.extractLsb' 40 8 &&& cmdMay)) &&& ~~~cmdClear v &&& famPSN != 0)
def cmdSet : Byte :=
  if cmdKeepsOut s v then (v.extractLsb' 40 8 &&& cmdMay) &&& ~~~famCMP else v.extractLsb' 40 8 &&& cmdMay

/-- The frame's bits set and cleared; a cleared pin starts its count of bounces anew. -/
def cmdMarked : State :=
  let s1 := s.famSet (cmdFrame v) (cmdSet s v) (cmdClear v)
  if cmdClear v &&& famMPIN ≠ 0 then { s1 with mem := { s1.mem with bounce := s1.mem.bounce.filter fun b => b.frame != cmdFrame v } } else s1

theorem famApply_eq : famApply s v = if frameForm s (cmdFrame v) ≠ frameForm (cmdMarked s v) (cmdFrame v)
    then reachForm (cmdMarked s v) (cmdFrame v) (frameForm (cmdMarked s v) (cmdFrame v)) else cmdMarked s v := rfl

theorem cmdMarked_formKept : formKept (cmdMarked s v) = formKept s := by
  unfold cmdMarked
  extract_lets s1
  split <;> rfl

theorem cmdMarked_fam (g : Nat) : (cmdMarked s v).fam g = (s.famSet (cmdFrame v) (cmdSet s v) (cmdClear v)).fam g := by
  unfold cmdMarked
  extract_lets s1
  split <;> rfl

theorem famApply_formKept : formKept (famApply s v) = formKept s := by
  rw [famApply_eq]
  split
  · exact (reachForm_formKept _ _ _).trans (cmdMarked_formKept s v)
  · exact cmdMarked_formKept s v

theorem famApply_fam_other {g : Nat} (hg : g ≠ cmdFrame v) : (famApply s v).fam g = s.fam g := by
  have hmarked : (cmdMarked s v).fam g = s.fam g := (cmdMarked_fam s v g).trans (famSet_fam_other s hg _ _)
  rw [famApply_eq]
  split
  · exact ((bounce_fam _ _).2.1 g hg).trans hmarked
  · exact hmarked

end

end Sys2Proof.Machine
end

section
/-! OBLIGATION O55, the clauses of FAMCMD (R125, R136), continued: the bits of the named frame. -/

namespace Sys2Proof.Machine

section
variable (s : State) (v : BitVec 64)

theorem cmdClear_getLsbD {i : Nat} (hi : i < 8) : (cmdClear v).getLsbD i = (v.getLsbD (48 + i) && cmdMay.getLsbD i) := by
  simp [cmdClear, hi]

theorem cmdSet_getLsbD {i : Nat} (hi : i < 8) :
    (cmdSet s v).getLsbD i = (v.getLsbD (40 + i) && cmdMay.getLsbD i && !(cmdKeepsOut s v && i == 2)) := by
  have hcmp : (~~~famCMP).getLsbD i = !(i == 2) := by revert i; decide
  unfold cmdSet
  split
  next h => rw [BitVec.getLsbD_and, hcmp, h]; simp [hi]
  next h => simp [h, hi]

/-- A kept bit of the named frame. -/
theorem cmdMarked_getLsbD {i : Nat} (hi : i < 8) (h3 : i ≠ 3) (h4 : i ≠ 4) : ((cmdMarked s v).fam (cmdFrame v)).getLsbD i =
    (((s.fam (cmdFrame v)).getLsbD i || (v.getLsbD (40 + i) && cmdMay.getLsbD i && !(cmdKeepsOut s v && i == 2))) &&
      !(v.getLsbD (48 + i) && cmdMay.getLsbD i)) := by
  rw [cmdMarked_fam, famSet_getLsbD _ _ _ _ hi, if_neg (by simp [h3, h4]), cmdSet_getLsbD s v hi, cmdClear_getLsbD v hi]

theorem cmdMarked_getLsbD_region {i : Nat} (h : i = 3 ∨ i = 4) :
    ((cmdMarked s v).fam (cmdFrame v)).getLsbD i = (s.fam (cmdFrame v)).getLsbD i := by
  rw [cmdMarked_fam, famSet_getLsbD _ _ _ _ (by omega), if_pos h]

end

/-- A bounce touches no bit but the pin, and sets that at most. -/
theorem bounce_getLsbD (s : State) (f : Nat) {i : Nat} (hi : i < 8) : (i ≠ 1 → ((bounce s f).fam f).getLsbD i = (s.fam f).getLsbD i) ∧
    ((s.fam f).getLsbD i = true → ((bounce s f).fam f).getLsbD i = true) := by
  have hpin : ((s.famSet f famMPIN 0).fam f).getLsbD i = ((s.fam f).getLsbD i || i == 1) := by
    have hmask : famMPIN.getLsbD i = (i == 1) := by revert i; decide
    rw [famSet_getLsbD _ _ _ _ hi, hmask]
    split
    next h => rcases h with rfl | rfl <;> simp
    next => simp
  rcases (bounce_fam s f).1 with h | h <;> rw [h]
  · exact ⟨fun _ => rfl, id⟩
  · rw [hpin]
    exact ⟨fun h1 => by simp [h1], fun hset => by simp only [hset, Bool.true_or]⟩

section
variable (s : State) (v : BitVec 64)

/-- Which frames CMP is not set on. -/
theorem cmdKeepsOut_eq : cmdKeepsOut s v = (s.famHas (cmdFrame v) famRL || s.famHas (cmdFrame v) famNM ||
    ((s.famHas (cmdFrame v) famPSN || v.getLsbD 47) && !v.getLsbD 55)) := by
  have hmay : cmdMay.getLsbD 7 = true := by decide
  have hpsn : ((s.fam (cmdFrame v) ||| (v.extractLsb' 40 8 &&& cmdMay)) &&& ~~~cmdClear v).getLsbD 7 =
      ((s.famHas (cmdFrame v) famPSN || v.getLsbD 47) && !v.getLsbD 55) := by
    simp only [BitVec.getLsbD_and, BitVec.getLsbD_or, BitVec.getLsbD_not, BitVec.getLsbD_extractLsb', cmdClear_getLsbD v (by decide : 7 < 8),
      hmay, famHas_psn]
    simp only [Nat.reduceLT, Nat.reduceAdd, decide_true, Bool.true_and, Bool.and_true]
  exact congrArg (_ || ·) ((byte_and_bit 7 _).trans hpsn)

theorem famApply_getLsbD {i : Nat} (hi : i < 8) :
    (i ≠ 1 → ((famApply s v).fam (cmdFrame v)).getLsbD i = ((cmdMarked s v).fam (cmdFrame v)).getLsbD i) ∧
    (((cmdMarked s v).fam (cmdFrame v)).getLsbD i = true → ((famApply s v).fam (cmdFrame v)).getLsbD i = true) := by
  rw [famApply_eq]
  split
  · exact bounce_getLsbD _ _ hi
  · exact ⟨fun _ => rfl, id⟩

/-- A command that clears the pin starts the frame's count of bounces anew. -/
theorem cmdMarked_bounce (h : v.getLsbD 49 = true) : ∀ b ∈ (cmdMarked s v).mem.bounce, b.frame ≠ cmdFrame v := by
  have hclear : cmdClear v &&& famMPIN ≠ 0 := by
    have hbit : (cmdClear v &&& famMPIN != 0) = (v.getLsbD 49 && cmdMay.getLsbD 1) :=
      (byte_and_bit 1 (cmdClear v)).trans (cmdClear_getLsbD v (by decide : 1 < 8))
    rw [h] at hbit
    exact bne_iff_ne.mp hbit
  intro b hb
  rw [cmdMarked, if_pos hclear] at hb
  simpa using (List.mem_filter.mp hb).2

/-- The pin is the command's own where it clears it, or where CMP stays. -/
theorem famApply_pin (h : v.getLsbD 49 = true ∨ (famApply s v).famHas (cmdFrame v) famCMP = s.famHas (cmdFrame v) famCMP) :
    ((famApply s v).fam (cmdFrame v)).getLsbD 1 = ((cmdMarked s v).fam (cmdFrame v)).getLsbD 1 := by
  rcases h with hclr | hcmp
  · rw [famApply_eq]
    split
    · refine congrArg (·.getLsbD 1) ((bounce_fam _ _).2.2 ?_)
      exact cmdMarked_bounce s v hclr
    · rfl
  · have hsame : frameForm s (cmdFrame v) = frameForm (cmdMarked s v) (cmdFrame v) := by
      rw [famHas_cmp, (famApply_getLsbD s v (by decide : 2 < 8)).1 (by decide)] at hcmp
      simp only [frameForm, famHas_cmp, famHas_rl, hcmp, cmdMarked_getLsbD_region s v (.inl rfl)]
    rw [famApply_eq, if_neg (not_not.mpr hsame)]

end

/-- The command's effect on the frame that it names (R125). -/
theorem famApply_spec (v : BitVec 64) (s : State) :
    let f := (v.extractLsb' 0 36).toNat
    let set (k : Nat) : Bool := v.getLsbD (40 + k)
    let clr (k : Nat) : Bool := v.getLsbD (48 + k)
    let t := famApply s v
    let psn := (s.famHas f famPSN || set 7) && !clr 7
    let noCmp := s.famHas f famRL || s.famHas f famNM || psn
    let pin := (s.famHas f famMPIN || set 1) && !clr 1
    t.famHas f famPSN = psn ∧ t.famHas f famCMP = ((s.famHas f famCMP || set 2 && !noCmp) && !clr 2) ∧
    (pin = true → t.famHas f famMPIN = true) ∧
    (clr 1 = true ∨ t.famHas f famCMP = s.famHas f famCMP → t.famHas f famMPIN = pin) ∧
    (∀ m ∈ [famMIG, famNM, famMGD, famRL], t.famHas f m = s.famHas f m) ∧ (∀ g, g ≠ f → t.fam g = s.fam g) ∧
    t.mem.main = s.mem.main ∧ t.banks = s.banks ∧ t.cores = s.cores := by
  intro f set clr t psn noCmp pin
  have hkept : formKept t = formKept s := famApply_formKept s v
  obtain ⟨may7, may2, may1⟩ : cmdMay.getLsbD 7 = true ∧ cmdMay.getLsbD 2 = true ∧ cmdMay.getLsbD 1 = true := by decide
  have bit {i : Nat} (hi : i < 8) (h1 : i ≠ 1) : (t.fam f).getLsbD i = ((cmdMarked s v).fam f).getLsbD i := (famApply_getLsbD s v hi).1 h1
  have marked {i : Nat} (hi : i < 8) (h3 : i ≠ 3) (h4 : i ≠ 4) := cmdMarked_getLsbD s v hi h3 h4
  have hpsn : ((cmdMarked s v).fam f).getLsbD 7 = psn := by
    refine (marked (by decide) (by decide) (by decide)).trans ?_
    simp only [psn, famHas_psn, may7, Nat.reduceBEq, Bool.and_true, Bool.and_false, Bool.not_false]
    rfl
  have hpin : ((cmdMarked s v).fam f).getLsbD 1 = pin := by
    refine (marked (by decide) (by decide) (by decide)).trans ?_
    simp only [pin, famHas_mpin, may1, Nat.reduceBEq, Bool.and_true, Bool.and_false, Bool.not_false]
    rfl
  have hout : cmdKeepsOut s v = noCmp := cmdKeepsOut_eq s v
  have hcmp : ((cmdMarked s v).fam f).getLsbD 2 = ((s.famHas f famCMP || set 2 && !noCmp) && !clr 2) := by
    refine (marked (by decide) (by decide) (by decide)).trans ?_
    simp only [hout, famHas_cmp, may2, Nat.reduceBEq, Bool.and_true]
    rfl
  have hkeep {i : Nat} (hi : i < 8) (h3 : i ≠ 3) (h4 : i ≠ 4) (h1 : i ≠ 1) (hmay : cmdMay.getLsbD i = false) :
      (t.fam f).getLsbD i = (s.fam f).getLsbD i := by
    rw [bit hi h1]
    refine (marked hi h3 h4).trans ?_
    simp only [hmay, Bool.and_false, Bool.false_and, Bool.or_false, Bool.not_false, Bool.and_true]
    rfl
  refine ⟨?_, ?_, fun hp => ?_, fun h => ?_, ?_, fun g hg => famApply_fam_other s v hg, mem_of_formKept MemBlk.main hkept fun _ => rfl,
    congrArg (·.2.1) hkept, congrArg (·.2.2) hkept⟩
  · rw [famHas_psn, bit (by decide) (by decide), hpsn]
  · rw [famHas_cmp, bit (by decide) (by decide), hcmp]
  · rw [famHas_mpin]
    exact (famApply_getLsbD s v (by decide)).2 (hpin.trans hp)
  · rw [famHas_mpin]
    exact (famApply_pin s v h).trans hpin
  · simp only [List.forall_mem_cons, famHas_mig, famHas_nm, famHas_mgd, famHas_rl]
    exact ⟨hkeep (by decide) (by decide) (by decide) (by decide) (by decide), hkeep (by decide) (by decide) (by decide) (by decide) (by decide),
      (bit (by decide) (by decide)).trans (cmdMarked_getLsbD_region s v (.inr rfl)),
      (bit (by decide) (by decide)).trans (cmdMarked_getLsbD_region s v (.inl rfl)), List.forall_mem_nil _⟩

end Sys2Proof.Machine
end

section
/-! SUPPORT. Ranges of frames that migrate no more (R134), and the exchange of two ranges of bytes (R135). -/

namespace Sys2Proof.Machine

/-! ### MIG clears -/

theorem famSet_clear_mig (s : State) {f g : Nat} (h : s.famHas g famMIG = false ∨ g = f) : (s.famSet f 0 famMIG).famHas g famMIG = false := by
  rw [famHas_mig] at h ⊢
  by_cases hg : g = f
  · subst hg
    rw [famSet_getLsbD _ _ _ _ (by decide), if_neg (by decide)]
    exact Bool.and_false _
  · rw [famSet_fam_other s hg]
    exact h.resolve_right hg

theorem famSetRange_clear_mig (s : State) {f n g : Nat} (h : s.famHas g famMIG = false ∨ f ≤ g ∧ g < f + n) :
    (s.famSetRange f n 0 famMIG).famHas g famMIG = false := by
  induction n with
  | zero => exact h.resolve_right (by omega)
  | succ n ih =>
    rw [State.famSetRange, List.range_succ, List.foldl_append]
    refine famSet_clear_mig _ ?_
    by_cases hg : g = f + n
    · exact .inr hg
    · exact .inl (ih (h.imp_right fun hr => by omega))

/-- Where no walk and no record waits, none goes on. -/
theorem resumeStalled_of_none {s : State} (hs : s.sched.stalled = []) (he : s.res.emits = []) : resumeStalled s = s := by
  simp [resumeStalled, resumeEmits, hs, he]

theorem famSetRange_rest (s : State) (f n : Nat) (on off : Byte) :
    (s.famSetRange f n on off).sched = s.sched ∧ (s.famSetRange f n on off).res = s.res := by
  have h : (fun t : State => (t.sched, t.res)) (s.famSetRange f n on off) = (s.sched, s.res) :=
    foldl_keeps (fun t : State => (t.sched, t.res)) (op := fun t k => t.famSet (f + k) on off) (fun _ _ => rfl) _ s
  simpa using h

/-- Two ranges whose migration ends: no frame of them migrates. -/
theorem unlock_mig {s : State} (hs : s.sched.stalled = []) (he : s.res.emits = []) (f g n : Nat) :
    let t := resumeStalled ((s.famSetRange f n 0 famMIG).famSetRange g n 0 famMIG).releaseHeld
    ∀ i, i < n → t.famHas (f + i) famMIG = false ∧ t.famHas (g + i) famMIG = false := by
  intro t i hi
  have ht : t = ((s.famSetRange f n 0 famMIG).famSetRange g n 0 famMIG).releaseHeld := by
    obtain ⟨hs1, he1⟩ := famSetRange_rest s f n 0 famMIG
    obtain ⟨hs2, he2⟩ := famSetRange_rest (s.famSetRange f n 0 famMIG) g n 0 famMIG
    exact resumeStalled_of_none ((congrArg Sched.stalled (hs2.trans hs1)).trans hs) ((congrArg Resid.emits (he2.trans he1)).trans he)
  rw [ht]
  exact ⟨famSetRange_clear_mig _ (.inl (famSetRange_clear_mig _ (.inr ⟨by omega, by omega⟩))),
    famSetRange_clear_mig _ (.inr ⟨by omega, by omega⟩)⟩

/-! ### Bytes exchanged -/

@[simp] theorem memBytes_length (m : Mem) (a n : Nat) : (memBytes m a n).length = n := by simp [memBytes]

theorem memBytes_getD (m : Mem) (a : Nat) {n i : Nat} (h : i < n) : (memBytes m a n).getD i 0 = memByte m (a + i) := by
  simp [memBytes, h]

/-- Bytes read from a memory and put at an address. -/
theorem memByte_copy (m m' : Mem) (a b n i : Nat) : memByte (memSetBytes m a (memBytes m' b n)) i =
    if a ≤ i ∧ i < a + n then memByte m' (b + (i - a)) else memByte m i := by
  rw [memByte_memSetBytes, memBytes_length]
  split
  next h => exact memBytes_getD m' b (by omega)
  next => rfl

/-- Two ranges apart from each other, exchanged. -/
theorem memByte_exchange (m : Mem) {a b n : Nat} (h : a + n ≤ b ∨ b + n ≤ a) :
    let m' := memSetBytes (memSetBytes m a (memBytes m b n)) b (memBytes m a n)
    (∀ i, i < n → memByte m' (a + i) = memByte m (b + i) ∧ memByte m' (b + i) = memByte m (a + i)) ∧
    (∀ x, (x < a ∨ a + n ≤ x) → (x < b ∨ b + n ≤ x) → memByte m' x = memByte m x) := by
  intro m'
  refine ⟨fun i hi => ⟨?_, ?_⟩, fun x ha hb => ?_⟩
  · rw [memByte_copy, if_neg (by omega), memByte_copy, if_pos (by omega), Nat.add_sub_cancel_left]
  · rw [memByte_copy, if_pos (by omega), Nat.add_sub_cancel_left]
  · rw [memByte_copy, if_neg (by omega), memByte_copy, if_neg (by omega)]

end Sys2Proof.Machine
end

section
/-! OBLIGATION O55, the clauses of expansions (R128, R129, R134, R139). -/

namespace Sys2Proof.Machine

theorem expandErr_spec (s : State) (code : BitVec 4) : (expandErr s code).mem.expctl.err = true ∧
    (expandErr s code).plat.evtst.getLsbD 3 = true ∧ (expandErr s code).mem.main = s.mem.main :=
  ⟨rfl, raiseEvent_evtst (by decide) _, rfl⟩

/-! ### How an expansion begins -/

/-- Some frame of the source at `a` migrates. -/
def expandMig (s : State) (a : Nat) : Bool := (List.range 16).any fun i => s.famHas (frameOf a + i) famMIG

/-- The expansion's BUSY, while it waits (`w`) or runs. -/
def expandBusy (w : Bool) (s : State) : State :=
  { s with mem := { s.mem with expctl := { s.mem.expctl with busy := true }, expWait := w } }

theorem expandBusy_spec (w : Bool) (s : State) : (expandBusy w s).mem.expctl.busy = true ∧ (expandBusy w s).mem.expWait = w ∧
    (expandBusy w s).mem.expRun = s.mem.expRun ∧ (expandBusy w s).mem.main = s.mem.main ∧ (expandBusy w s).mem.fam = s.mem.fam :=
  ⟨rfl, rfl, rfl, rfl, rfl⟩

/-- The ranges at `a` and `d` migrate, once every access that has translated is complete. -/
def expandLocked (s : State) (a d : Nat) : State := ((completeAccesses s).famSetRange (frameOf a) 16 famMIG 0).famSetRange (frameOf d) 16 famMIG 0

section
variable {s : State} {a d : Nat} (ha : s.mem.expRun.1.toNat = a) (hd : s.mem.expRun.2.toNat = d)
include ha

theorem expandStart_of_not_form (h : expandForm s a = false) : expandStart s = expandErr s 1 := by
  subst ha
  simp [expandStart, h]

theorem expandStart_of_mig (h : expandForm s a = true) (hm : expandMig s a = true) : expandStart s = expandBusy true s := by
  subst ha
  unfold expandStart
  exact (if_neg (by simp [h])).trans (if_pos hm)

include hd

theorem expandStart_of_ue (h : expandForm s a = true) (hm : expandMig s a = false) {s1 : State} (hu : expandUe s (frameOf a) = some s1) :
    expandStart s = if expandDest s d then expandErr s1 4 else expandErr s 2 := by
  subst ha hd
  unfold expandStart
  refine (if_neg (by simp [h])).trans ((if_neg (Bool.eq_false_iff.mp hm)).trans ?_)
  simp only [hu]

theorem expandStart_runs (h : expandForm s a = true) (hm : expandMig s a = false) (hu : expandUe s (frameOf a) = none)
    (hc : (chunkAt s a).isSome = true) (hdst : expandDest s d = true) : expandStart s = expandBusy false (expandLocked s a d) := by
  subst ha hd
  unfold expandStart
  refine (if_neg (by simp [h])).trans ((if_neg (Bool.eq_false_iff.mp hm)).trans ?_)
  simp only [hu, hdst]
  exact (if_neg (by simpa using Option.ne_none_iff_isSome.mpr hc)).trans (if_neg (by simp))

end

theorem expandLocked_spec (s : State) (a d : Nat) : (expandLocked s a d).mem.expRun = s.mem.expRun ∧
    ((∀ e ∈ s.banks, e.2.pipe.steps = []) → (expandLocked s a d).mem.main = s.mem.main) := by
  have hkept : formKept (expandLocked s a d) = formKept (completeAccesses s) :=
    (famSetRange_formKept _ _ _ _ _).trans (famSetRange_formKept _ _ _ _ _)
  exact ⟨(mem_of_formKept MemBlk.expRun hkept fun _ => rfl).trans (completeAccesses_keeps s).runs.1,
    fun h => (mem_of_formKept MemBlk.main hkept fun _ => rfl).trans (completeAccesses_main h)⟩

/-! ### GO, DONE and their clearing -/

theorem execExpandGo_of_free {s : State} (hp : s.plat.power = .on) (hb : s.mem.expctl.busy = false) (hd : s.mem.expctl.done = false) :
    execExpandGo s = .next (expandStart { s with mem := { s.mem with expRun := (s.mem.expsrc, s.mem.expdst) } }) :=
  congrArg Host.Outcome.next (if_neg (by simp [State.awake_of_on hp, hb, hd]))

theorem execExpandGo_spec (s : State) (hp : s.plat.power = .on) (hb : s.mem.expctl.busy = false) (hd : s.mem.expctl.done = false) :
    let s0 := { s with mem := { s.mem with expRun := (s.mem.expsrc, s.mem.expdst) } }
    let a := s.mem.expsrc.toNat
    let mig := (List.range 16).any fun i => s0.famHas (frameOf a + i) famMIG
    (a % 65536 ≠ 0 → execExpandGo s = .next (expandErr s0 1) ∧ (expandErr s0 1).mem.expctl.err = true ∧
      (expandErr s0 1).plat.evtst.getLsbD 3 = true ∧ (expandErr s0 1).mem.main = s.mem.main) ∧
    (expandForm s0 a = true → mig = true → ∃ t, execExpandGo s = .next t ∧ t.mem.expctl.busy = true ∧ t.mem.expWait = true ∧
      t.mem.main = s.mem.main ∧ t.mem.fam = s.mem.fam) ∧
    (expandForm s0 a = true → mig = false → ∀ s1, expandUe s0 (frameOf a) = some s1 → execExpandGo s =
      .next (if expandDest s0 s.mem.expdst.toNat then expandErr s1 4 else expandErr s0 2)) ∧
    (expandForm s0 a = true → mig = false → expandUe s0 (frameOf a) = none → (chunkAt s0 a).isSome →
      expandDest s0 s.mem.expdst.toNat = true → ∃ t, execExpandGo s = .next t ∧ t.mem.expctl.busy = true ∧ t.mem.expWait = false ∧
      t.mem.expRun = (s.mem.expsrc, s.mem.expdst) ∧ ((∀ e ∈ s.banks, e.2.pipe.steps = []) → t.mem.main = s.mem.main)) := by
  intro s0 a mig
  rw [execExpandGo_of_free hp hb hd]
  refine ⟨fun ha => ?_, fun hf hm => ?_, fun hf hm s1 hu => ?_, fun hf hm hu hc hdst => ?_⟩
  · have hform : expandForm s0 a = false := by simp [expandForm, ha]
    exact ⟨congrArg Host.Outcome.next (expandStart_of_not_form (s := s0) rfl hform), expandErr_spec s0 1⟩
  · obtain ⟨hbusy, hwait, -, hmain, hfam⟩ := expandBusy_spec true s0
    exact ⟨_, congrArg Host.Outcome.next (expandStart_of_mig (s := s0) rfl hf hm), hbusy, hwait, hmain, hfam⟩
  · exact congrArg Host.Outcome.next (expandStart_of_ue (s := s0) rfl rfl hf hm hu)
  · obtain ⟨hrun, hmain⟩ := expandLocked_spec s0 a s.mem.expdst.toNat
    obtain ⟨hbusy, hwait, hrunB, hmainB, -⟩ := expandBusy_spec false (expandLocked s0 a s.mem.expdst.toNat)
    exact ⟨_, congrArg Host.Outcome.next (expandStart_runs (s := s0) rfl rfl hf hm hu hc hdst), hbusy, hwait, hrunB.trans hrun,
      fun h => hmainB.trans (hmain h)⟩

/-- The decoded bytes stand at the destination, and the expansion is done. -/
def expandWritten (s : State) (b : List Byte) : State :=
  let s1 := sysPut s s.mem.expRun.2.toNat b
  { s1 with mem := { s1.mem with expctl := { s1.mem.expctl with busy := false, done := true } } }

/-- The pages of a chunk have reached the plain form. -/
def plainFrames (s : State) (src : Nat) : State := (List.range 16).foldl (fun s i => reachForm s (src + i) 0) s

theorem plainFrames_formKept (s : State) (src : Nat) : formKept (plainFrames s src) = formKept s :=
  foldl_keeps formKept (fun t i => reachForm_formKept t (src + i) 0) _ s

theorem execExpandDone_spec (s : State) (hb : s.mem.expctl.busy = true) :
    (s.mem.expWait = true → execExpandDone s = .next (expandStart s)) ∧
    (s.mem.expWait = false → ∀ s1, expandUe s (frameOf s.mem.expRun.1.toNat) = some s1 → execExpandDone s =
      .next (expandErr (expandUnlock s1) 4)) ∧
    (s.mem.expWait = false → expandUe s (frameOf s.mem.expRun.1.toNat) = none → ∀ b, chunkAt s s.mem.expRun.1.toNat = some b →
      ∃ t, execExpandDone s = .next t ∧ t.mem.expctl.busy = false ∧ t.mem.expctl.done = true ∧
      t.mem.main = memSetBytes s.mem.main s.mem.expRun.2.toNat b ∧ t.plat.evtst.getLsbD 3 = true) := by
  refine ⟨fun hw => ?_, fun hw s1 hu => ?_, fun hw hu b hc => ?_⟩
  · simp [execExpandDone, hb, hw]
  · simp [execExpandDone, hb, hw, hu]
  · have hkept := plainFrames_formKept (expandWritten s b) (frameOf s.mem.expRun.1.toNat)
    have hnext : execExpandDone s = .next (raiseEvent 3 (plainFrames (expandWritten s b) (frameOf s.mem.expRun.1.toNat))) := by
      simp only [execExpandDone, hb, hw, hu, hc, Bool.not_true, Bool.false_eq_true, if_false]
      rfl
    have hctl := mem_of_formKept MemBlk.expctl hkept fun _ => rfl
    have hmain := mem_of_formKept MemBlk.main hkept fun _ => rfl
    generalize plainFrames (expandWritten s b) (frameOf s.mem.expRun.1.toNat) = u at *
    exact ⟨_, hnext, congrArg Ctl.busy hctl, congrArg Ctl.done hctl, hmain, raiseEvent_evtst (by decide) u⟩

theorem execExpandDoneClear_spec (s : State) (hp : s.plat.power = .on) (hd : s.mem.expctl.done = true) (hs : s.sched.stalled = [])
    (he : s.res.emits = []) : ∃ t, execExpandDoneClear s = .next t ∧
    t.mem.expctl.done = false ∧ (∀ i, i < 16 → t.famHas (frameOf s.mem.expRun.1.toNat + i) famMIG = false ∧
      t.famHas (frameOf s.mem.expRun.2.toNat + i) famMIG = false) :=
  ⟨_, congrArg Host.Outcome.next (if_pos (by simp [State.awake_of_on hp, hd])), rfl,
    unlock_mig hs he (frameOf s.mem.expRun.1.toNat) (frameOf s.mem.expRun.2.toNat) 16⟩

end Sys2Proof.Machine
end

section
/-! OBLIGATION O55, the clauses of swaps and migration requests (R134 to R136). -/

namespace Sys2Proof.Machine

/-! ### GO (R134) -/

/-- The registers as a write of SWPCTL leaves them. -/
def swapWritten (s : State) (v : BitVec 32) : State := { s with mem := { s.mem with swpsz := v.extractLsb' 4 2, swppte := v.getLsbD 6 } }

/-- The state in which both ranges migrate, once every access that has translated is complete. -/
def swapLocked (s : State) : State :=
  let sr := completeAccesses { s with mem := { s.mem with swpRun := swapRegs s } }
  let n := swapFrames sr
  (sr.famSetRange (sr.mem.swpRun.a.toNat / 4096) n famMIG 0).famSetRange (sr.mem.swpRun.b.toNat / 4096) n famMIG 0

/-- The handle's cached row lies in one of the two ranges. -/
def swapHit (s : State) (_ : Ctx) (h : Handle) : Bool :=
  match h.xl with
  | some x => inSwap s x.pa
  | none => false

/-- The holds of rows in either range break, and the swap is busy. -/
def swapBusy (s : State) : State :=
  let s2 := breakSwp s (swapHit s)
  { s2 with mem := { s2.mem with swpctl := { s2.mem.swpctl with busy := true } } }

theorem swapLocked_spec (s : State) : (swapLocked s).mem.swpRun = swapRegs s ∧
    ((∀ e ∈ s.banks, e.2.pipe.steps = []) → (swapLocked s).mem.main = s.mem.main) := by
  have hkept : formKept (swapLocked s) = formKept (completeAccesses { s with mem := { s.mem with swpRun := swapRegs s } }) :=
    (famSetRange_formKept _ _ _ _ _).trans (famSetRange_formKept _ _ _ _ _)
  exact ⟨(mem_of_formKept MemBlk.swpRun hkept fun _ => rfl).trans (completeAccesses_keeps _).runs.2,
    fun h => (mem_of_formKept MemBlk.main hkept fun _ => rfl).trans (completeAccesses_main h)⟩

theorem swapBusy_spec (s : State) : (swapBusy s).mem.swpctl.busy = true ∧ (swapBusy s).mem.swpRun = s.mem.swpRun ∧
    (swapBusy s).mem.main = s.mem.main := by
  have hmem : (breakSwp s (swapHit s)).mem = s.mem := congrArg Prod.fst (breakSwp_kept s (swapHit s))
  have hrun : (swapBusy s).mem.swpRun = (breakSwp s (swapHit s)).mem.swpRun := rfl
  have hmain : (swapBusy s).mem.main = (breakSwp s (swapHit s)).mem.main := rfl
  exact ⟨rfl, hrun.trans (congrArg MemBlk.swpRun hmem), hmain.trans (congrArg MemBlk.main hmem)⟩

theorem execSwapGo_of_free {s : State} (v : BitVec 32) (hp : s.plat.power = .on) (hb : s.mem.swpctl.busy = false)
    (hd : s.mem.swpctl.done = false) : execSwapGo v s = .next (match swapRefused (swapWritten s v) with
      | some code => raiseEvent 3 { swapWritten s v with
          mem := { (swapWritten s v).mem with swpctl := (swapWritten s v).mem.swpctl.fail code } }
      | none => swapBusy (swapLocked (swapWritten s v))) := by
  unfold execSwapGo
  refine congrArg Host.Outcome.next ((if_neg (by simp [State.awake_of_on hp])).trans ((if_neg (by simp [hb, hd])).trans ?_))
  rfl

theorem execSwapGo_spec (v : BitVec 32) (s : State) (hp : s.plat.power = .on) (hb : s.mem.swpctl.busy = false)
    (hd : s.mem.swpctl.done = false) :
    let s0 := { s with mem := { s.mem with swpsz := v.extractLsb' 4 2, swppte := v.getLsbD 6 } }
    (∀ code, swapRefused s0 = some code → ∃ t, execSwapGo v s = .next t ∧ t.mem.swpctl.err = true ∧ t.mem.swpctl.ecode = code ∧
      t.mem.main = s.mem.main ∧ t.plat.evtst.getLsbD 3 = true) ∧
    (swapRefused s0 = none → ∃ t, execSwapGo v s = .next t ∧ t.mem.swpctl.busy = true ∧
      ((∀ e ∈ s.banks, e.2.pipe.steps = []) → t.mem.main = s.mem.main) ∧ t.mem.swpRun = swapRegs s0) := by
  intro s0
  rw [execSwapGo_of_free v hp hb hd]
  refine ⟨fun code hr => ?_, fun hr => ?_⟩
  · have hr' : swapRefused (swapWritten s v) = some code := hr
    simp only [hr']
    exact ⟨_, rfl, rfl, rfl, rfl, raiseEvent_evtst (by decide) _⟩
  · have hr' : swapRefused (swapWritten s v) = none := hr
    simp only [hr']
    obtain ⟨hlrun, hlmain⟩ := swapLocked_spec (swapWritten s v)
    obtain ⟨hbusy, hrun, hmain⟩ := swapBusy_spec (swapLocked (swapWritten s v))
    exact ⟨_, rfl, hbusy, fun h => hmain.trans (hlmain h), hrun.trans hlrun⟩

/-! ### DONE and its clearing (R135) -/

theorem swapForms_formKept (s : State) : formKept (swapForms s) = formKept s := by
  unfold swapForms
  refine foldl_keeps formKept (fun t i => ?_) _ _
  dsimp only
  split
  · rfl
  · exact (reachForm_formKept _ _ _).trans (reachForm_formKept _ _ _)

/-- The exchange itself, where no PTE goes with it. -/
theorem swapFinish_main {s : State} (hp : s.mem.swpRun.pte = false) :
    let n := swapBytes s.mem.swpRun.sz
    let a := s.mem.swpRun.a.toNat
    let b := s.mem.swpRun.b.toNat
    (swapFinish s).mem.main = memSetBytes (memSetBytes s.mem.main a (memBytes s.mem.main b n)) b (memBytes s.mem.main a n) := by
  simp only [swapFinish, hp, Bool.false_eq_true, if_false]
  rfl

/-- The exchange is done. -/
def swapEnded (s : State) : State := { s with mem := { s.mem with swpctl := { s.mem.swpctl with busy := false, done := true } } }

theorem execSwapDone_of_good {s : State} (hb : s.mem.swpctl.busy = true) (hp : s.mem.swpRun.pte = false) (hbad : s.mem.bad = []) :
    execSwapDone s = .next (raiseEvent 3 (swapEnded (swapForms (swapFinish s)))) := by
  have hue (l : List Nat) : (l.find? fun f => (s.mainUe f).isSome) = none :=
    List.find?_eq_none.mpr fun f _ => by simp [State.mainUe, hbad]
  unfold execSwapDone
  refine congrArg Host.Outcome.next ((if_neg (by simp [hb, swapPteWaits, hp])).trans ?_)
  simp only [hue]
  rfl

theorem execSwapDone_spec (s : State) (hb : s.mem.swpctl.busy = true) (hp : s.mem.swpRun.pte = false) (hbad : s.mem.bad = []) :
    let n := swapBytes s.mem.swpRun.sz
    let a := s.mem.swpRun.a.toNat
    let b := s.mem.swpRun.b.toNat
    (a + n ≤ b ∨ b + n ≤ a) →
    ∃ t, execSwapDone s = .next t ∧ t.mem.swpctl.done = true ∧ t.mem.swpctl.busy = false ∧ t.plat.evtst.getLsbD 3 = true ∧
      (∀ i, i < n → t.mainByte (a + i) = s.mainByte (b + i) ∧ t.mainByte (b + i) = s.mainByte (a + i)) ∧
      (∀ x, (x < a ∨ a + n ≤ x) → (x < b ∨ b + n ≤ x) → t.mainByte x = s.mainByte x) := by
  intro n a b hapart
  have hmain := (mem_of_formKept MemBlk.main (swapForms_formKept (swapFinish s)) fun _ => rfl).trans (swapFinish_main hp)
  have hbytes := memByte_exchange s.mem.main hapart
  refine ⟨_, execSwapDone_of_good hb hp hbad, rfl, rfl, raiseEvent_evtst (by decide) _, ?_⟩
  rw [← hmain] at hbytes
  exact hbytes

theorem execSwapDoneClear_spec (s : State) (hp : s.plat.power = .on) (hd : s.mem.swpctl.done = true) (hs : s.sched.stalled = [])
    (he : s.res.emits = []) : ∃ t, execSwapDoneClear s = .next t ∧ t.mem.swpctl.done = false ∧
    (∀ i, i < swapFrames s → t.famHas (s.mem.swpRun.a.toNat / 4096 + i) famMIG = false ∧
      t.famHas (s.mem.swpRun.b.toNat / 4096 + i) famMIG = false) :=
  ⟨_, congrArg Host.Outcome.next (if_pos (by simp [State.awake_of_on hp, hd])), rfl,
    unlock_mig hs he (s.mem.swpRun.a.toNat / 4096) (s.mem.swpRun.b.toNat / 4096) (swapFrames s)⟩

/-! ### Migration requests (R136) -/

/-- The first request is recorded with its own form as the destination. -/
theorem execMigrationRequest_first (v : BitVec 64) {s : State} (hp : s.plat.power = .on) (hr : s.mem.mreqs = []) :
    let f := (v.extractLsb' 0 36).toNat
    let k := v.extractLsb' 36 2
    execMigrationRequest v s = .next { s with mem := { s.mem with
      mrsp := if s.famHas f famMPIN then 2 else 0
      mreqs := [{ frame := f
                  form := k
                  dest := k
                  side := v.getLsbD 38
                  at_ := s.time
                  pend := !s.famHas f famMPIN && frameForm s f != k }] } } := by
  intro f k
  unfold execMigrationRequest
  refine congrArg Host.Outcome.next ((if_neg (by simp [State.awake_of_on hp])).trans ?_)
  simp only [hr, List.filter_nil, List.any_nil, Bool.false_eq_true, if_false, List.nil_append]
  rfl

theorem execMigrationRequest_spec (v : BitVec 64) (s : State) (hp : s.plat.power = .on) :
    let f := (v.extractLsb' 0 36).toNat
    let k := v.extractLsb' 36 2
    (s.famHas f famMPIN = true → s.mem.mreqs = [] → ∃ t, execMigrationRequest v s = .next t ∧ t.mem.mrsp = 2 ∧
      t.mem.mreqs = [{ frame := f, form := k, dest := k, side := v.getLsbD 38, at_ := s.time, pend := false }]) ∧
    (s.famHas f famMPIN = false → s.mem.mreqs = [] → ∃ t, execMigrationRequest v s = .next t ∧ t.mem.mrsp = 0 ∧
      t.mem.mreqs = [{ frame := f, form := k, dest := k, side := v.getLsbD 38, at_ := s.time, pend := frameForm s f != k }]) := by
  intro f k
  refine ⟨fun hpin hreq => ?_, fun hpin hreq => ?_⟩
  · exact ⟨_, execMigrationRequest_first v hp hreq, if_pos hpin, by simp only [f, k] at hpin ⊢; rw [hpin]; rfl⟩
  · exact ⟨_, execMigrationRequest_first v hp hreq, if_neg (Bool.eq_false_iff.mp hpin), by simp only [f, k] at hpin ⊢; rw [hpin]; rfl⟩

end Sys2Proof.Machine
end

section
/-! OBLIGATION O55, the clauses of holds (R163, R164), and the whole. -/

namespace Sys2Proof.Machine

theorem not_mem_breakHold (s : State) (x : Hold) (b : Bool) : x ∉ (breakHold s x b).heap.holds := by
  simp [breakHold_heap]

/-- The hold on a bank is marked; it stands. -/
theorem holdOn_markClosed {s : State} {r : RowBank} {x : Hold} (h : holdOn s.heap.holds r = some x) (v : Bool) :
    (holdOn (markClosed s r v).heap.holds r).map Hold.closed = some v := by
  have hrb : x.rb = r := by simpa using List.find?_some h
  have hsame : ((fun x : Hold => x.rb == r) ∘ fun x => if x.rb = r then { x with closed := v } else x) = fun x => x.rb == r := by
    funext y
    simp only [Function.comp]
    split <;> rfl
  have hmark : holdOn (markClosed s r v).heap.holds r = (holdOn s.heap.holds r).map fun x => if x.rb = r then { x with closed := v } else x := by
    rw [holdOn, holdOn, markClosed, State.setHolds, List.find?_map, hsame]
  rw [hmark, h, Option.map_some, Option.map_some, if_pos hrb]

theorem hold_events (r : RowBank) (s : State) (x : Hold) (h : holdOn s.heap.holds r = some x) :
    (x.since + s.heap.holdmax.toNat * 1900 ≤ s.time → ∃ t, execHoldExpiry r s = .next t ∧ x ∉ t.heap.holds ∧
      t.heap.hbExp = s.heap.hbExp + 1 ∧ (∀ k, ((t.bank x.ctx).hreg k).rowv = ((s.bank x.ctx).hreg k).rowv)) ∧
    (x.at_ + s.heap.holdq.toNat ≤ s.now x.ctx.core → ∃ t, execHoldQueueLimit r s = .next t ∧ x ∉ t.heap.holds ∧
      t.heap.hbQ = s.heap.hbQ + 1) ∧
    (s.now x.ctx.core < x.at_ + s.heap.holdq.toNat → execHoldQueueLimit r s = .next s) ∧
    (∃ t, execRowAutoClose r s = .next t ∧ (holdOn t.heap.holds r).map Hold.closed = some true ∧ t.banks = s.banks) ∧
    (∃ t, execRowReopen r s = .next t ∧ (holdOn t.heap.holds r).map Hold.closed = some false ∧ t.banks = s.banks) := by
  refine ⟨fun hdue => ?_, fun hdue => ?_, fun hearly => ?_,
    ⟨_, rfl, holdOn_markClosed h true, rfl⟩, ⟨_, rfl, holdOn_markClosed h false, rfl⟩⟩
  · refine ⟨_, by simp only [execHoldExpiry, h, if_pos hdue]; rfl, ?_⟩
    exact ⟨not_mem_breakHold s x false, rfl, breakHold_rowv s x false⟩
  · refine ⟨_, by simp only [execHoldQueueLimit, h, if_pos hdue]; rfl, ?_⟩
    exact ⟨not_mem_breakHold s x false, rfl⟩
  · simp only [execHoldQueueLimit, h, if_neg (Nat.not_le.mpr hearly)]

theorem execMainTierRateChange_spec (s : State) : ∃ t, execMainTierRateChange s = .next t ∧ t.heap.holds = [] ∧
    t.heap.hbPwr = s.heap.hbPwr + BitVec.ofNat 16 s.heap.holds.length ∧ t.mem = s.mem := by
  have hheap := breakHolds_all_heap s false
  have hcount : (breakHolds s (fun _ => true) false).2 = s.heap.holds.length := by simp [breakHolds]
  have hmem : (breakHolds s (fun _ => true) false).1.mem = s.mem := congrArg Prod.fst (breakHolds_kept s _ false)
  have hpwr : (breakPower s).heap.hbPwr = (breakHolds s (fun _ => true) false).1.heap.hbPwr +
    BitVec.ofNat 16 (breakHolds s (fun _ => true) false).2 := rfl
  rw [hheap, hcount] at hpwr
  exact ⟨_, rfl, congrArg Heap.holds hheap, hpwr, hmem⟩

theorem execFamcmd_spec (v : BitVec 64) (s : State) :
    let f := (v.extractLsb' 0 36).toNat
    s.plat.power = .on → s.mainFrame f = true →
    (s.famHas f famMIG = true → execFamcmd v s = .next { s with mem := { s.mem with famHeld := s.mem.famHeld ++ [v] } }) ∧
    (s.famHas f famMIG = false → execFamcmd v s = .next (famApply s v)) := by
  intro f hp hm
  have hopen : execFamcmd v s = .next (if s.famHas f famMIG then { s with mem := { s.mem with famHeld := s.mem.famHeld ++ [v] } }
      else famApply s v) := congrArg Host.Outcome.next (if_neg (by rw [State.awake_of_on hp, hm]; decide))
  rw [hopen]
  exact ⟨fun h => congrArg Host.Outcome.next (if_pos h), fun h => congrArg Host.Outcome.next (if_neg (Bool.eq_false_iff.mp h))⟩

theorem execFamcmdHeldApply_first (s : State) (v : BitVec 64) (r : List (BitVec 64)) (hh : s.mem.famHeld = v :: r)
    (hm : s.famHas (v.extractLsb' 0 36).toNat famMIG = false) :
    execFamcmdHeldApply s = .next (famApply { s with mem := { s.mem with famHeld := r } } v) := by
  have hfind : (v :: r).find? (fun v => !s.famHas (v.extractLsb' 0 36).toNat famMIG) = some v :=
    List.find?_cons_of_pos (by simp only [hm, Bool.not_false])
  simp only [execFamcmdHeldApply, hh, hfind, List.erase_cons_head]

/-- Settles O55: each clause is the law above of the function that the event runs. -/
theorem memoryEvents : Obligations.MemoryEvents :=
  ⟨execShootdown_spec, execExternalAccess_spec, execCompressedFrameFault_spec, execFamcmd_spec, famApply_spec,
    execFamcmdHeldApply_first, execExpandGo_spec, execExpandDone_spec, execExpandDoneClear_spec, execSwapGo_spec, execSwapDone_spec,
    execSwapDoneClear_spec, execMigrationRequest_spec, hold_events, execMainTierRateChange_spec, execRegisterWrite_spec⟩

end Sys2Proof.Machine
end

section
/-! OBLIGATION O46. HOPEN, HREL, HLD and HST: the checks of a row (R160), the handle and its hold (R162, R165), and the access (R161,
R311). -/

namespace Sys2Proof.Machine

/-! ### Translation keeps the word that is being run (R130) -/

theorem walk_iss {s : State} {k : Fin 32} {root va : Nat} {acc : Acc} {ad : Bool} {x : State × Nat}
    (h : walk s k root va acc ad = .ok x) : x.1.iss = s.iss := by
  unfold walk at h
  split at h
  · cases h
  · simp only [] at h
    repeat' split at h
    all_goals cases h
    all_goals rfl

theorem translate_iss {s : State} {k : Fin 32} {satp : DWord} {va : Nat} {acc : Acc} {ad : Bool} {x : State × Nat}
    (h : translate s k satp va acc ad = .ok x) : x.1.iss = s.iss := by
  unfold translate at h
  split at h
  · cases h
  · split at h
    · cases h
      rfl
    · exact walk_iss h

theorem rowXlate_iss {s s1 : State} {c : Ctx} {va pa : Nat} {r w : Bool} (h : rowXlate s c va = .ok (s1, pa, r, w)) : s1.iss = s.iss := by
  unfold rowXlate at h
  simp only [] at h
  split at h
  · cases h
    rfl
  · split at h
    · cases h
    · next ht =>
      cases h
      exact translate_iss ht

/-! ### The checks of HOPEN (R160) -/

theorem region_of_rowAt {s : State} {pa : Nat} {x : RowBank × Nat} (h : s.rowAt pa = some x) : ∃ g, s.region pa = some g := by
  unfold State.rowAt at h
  split at h
  · next g hg => exact ⟨g, hg⟩
  · cases h

section
variable {s s1 : State} {c : Ctx} {va pa : Nat} {r w : Bool}

theorem rowSite_of_window (hm : (s.bank c).tr.mode = false) (hw : inWindow va = true) :
    rowSite s c va = .error (stopAddr 0x08 va, s) := by
  simp [rowSite, hm, hw]

theorem rowSite_of_no_translation {e : AccErr × State} (hw : (s.bank c).tr.mode = true ∨ inWindow va = false)
    (h : rowXlate s c va = .error e) : rowSite s c va = .error (wordStop e c va .rd) := by
  rcases hw with hw | hw <;> simp [rowSite, hw, h]

/-- What the checks ask once the address has a translation. -/
theorem rowSite_of_translated (hw : (s.bank c).tr.mode = true ∨ inWindow va = false) (h : rowXlate s c va = .ok (s1, pa, r, w)) :
    (s1.rowAt pa = none → rowSite s c va = .error (stopAddr 0x08 va, s1)) ∧
    (s1.rowAt pa ≠ none → s1.famHas (frameOf pa) famPSN = true → rowSite s c va = .error (stopAddr 0x11 va, s1)) ∧
    (s1.rowAt pa ≠ none → s1.famHas (frameOf pa) famPSN = false → (∃ g, s1.region pa = some g ∧ g.cls = 2) →
      pinnedObj s1 c pa = none → rowSite s c va = .error (stopAddr 0x0B va, s1)) := by
  have hin : (!(s.bank c).tr.mode && inWindow va) = false := by rcases hw with hw | hw <;> simp [hw]
  refine ⟨fun hrow => ?_, fun hrow hp => ?_, fun hrow hp hg ho => ?_⟩
  · simp [rowSite, hin, h, hrow]
  · obtain ⟨x, hx⟩ := Option.ne_none_iff_exists'.mp hrow
    obtain ⟨g, hg⟩ := region_of_rowAt hx
    simp [rowSite, hin, h, hx, hg, hp]
  · obtain ⟨x, hx⟩ := Option.ne_none_iff_exists'.mp hrow
    obtain ⟨g, hg, hcls⟩ := hg
    simp [rowSite, hin, h, hx, hg, hp, hcls, ho]

theorem rowSite_iss {x : RowSite} (h : rowSite s c va = .ok (s1, x)) : s1.iss = s.iss := by
  unfold rowSite at h
  split at h
  · cases h
  · split at h
    · cases h
    · next hx =>
      split at h
      · simp only [] at h
        repeat' split at h
        all_goals cases h
        all_goals exact rowXlate_iss hx
      · cases h

end

/-! ### Handles and holds (R159, R162, R165) -/

@[simp] theorem State.setHandle_bank (s : State) (c : Ctx) (n : Nat) (x : Handle) :
    (s.setHandle c n x).bank c = { s.bank c with h := tabSet (s.bank c).h n x } := State.bank_setBank _ _ _

theorem releaseHandle_of_invalid {s : State} {c : Ctx} {n : Nat} (h : ((s.bank c).hreg n).rowv = false) : releaseHandle s c n = s := by
  simp [releaseHandle, h]

theorem releaseHandle_of_valid {s : State} {c : Ctx} {n : Nat} (h : ((s.bank c).hreg n).rowv = true) :
    releaseHandle s c n = (s.setHolds (dropShare s.heap.holds c n)).setHandle c n .reset := by
  simp [releaseHandle, h]

/-- A release changes no part of the bank but its handles. -/
theorem releaseHandle_bank (s : State) (c : Ctx) (n : Nat) : ∃ l, (releaseHandle s c n).bank c = { s.bank c with h := l } := by
  unfold releaseHandle
  split
  · exact ⟨_, State.setHandle_bank _ c n .reset⟩
  · exact ⟨_, rfl⟩

theorem releaseHandle_iss (s : State) (c : Ctx) (n : Nat) : (releaseHandle s c n).iss = s.iss := by
  unfold releaseHandle
  split <;> rfl

theorem joinHold_banks (s : State) (c : Ctx) (n : Nat) (rb : RowBank) (row st : Nat) : (joinHold s c n rb row st).banks = s.banks := by
  unfold joinHold
  split <;> rfl

theorem joinHold_iss (s : State) (c : Ctx) (n : Nat) (rb : RowBank) (row st : Nat) : (joinHold s c n rb row st).iss = s.iss := by
  unfold joinHold
  split <;> rfl

/-! ### HOPEN (R160, R312) -/

/-- The address that HOPEN names: the scalar pair s[D], s[D + 1], of 48 bits. -/
def hopenVa (s : State) (o : KOps) : Nat := ((s.cur.sreg (o.dr.toNat + 1)).toNat % 2 ^ 16) * 2 ^ 32 + (s.cur.sreg o.dr.toNat).toNat

theorem pairVa_eq (s : State) (o : KOps) :
    bits (s.cur.sreg (o.dr.toNat + 1)).toNat 0 16 * 2 ^ 32 + (s.cur.sreg o.dr.toNat).toNat = hopenVa s o := by
  simp [bits, hopenVa]

/-- The handle of an opened row under a status. -/
def RowSite.handle (x : RowSite) (va st : Nat) : Handle :=
  { rowv := true, held := decide (st ≤ 1), va := BitVec.ofNat 48 (va / 2048 * 2048), xl := some x.xl, obj := x.obj }

theorem RowSite.handle_eq (x : RowSite) (va st : Nat) : x.handle va st =
    { rowv := true, held := decide (st = 0 ∨ st = 1), va := BitVec.ofNat 48 (va / 2048 * 2048), xl := some x.xl, obj := x.obj } := by
  have hheld : decide (st ≤ 1) = decide (st = 0 ∨ st = 1) := by simp only [decide_eq_decide]; omega
  rw [RowSite.handle, hheld]

/-- What HOPEN leaves of a row whose checks pass. -/
def openRow (s1 : State) (c : Ctx) (o : KOps) (va : Nat) (x : RowSite) : State :=
  let s2 := releaseHandle s1 c o.kh.toNat
  let st := holdStatus s2.heap.holds c x.rb x.row
  let s3 := (joinHold s2 c o.kh.toNat x.rb x.row st).setHandle c o.kh.toNat (x.handle va st)
  let s4 := { s3 with heap := { s3.heap with
    hbBusy := if st = 2 then s3.heap.hbBusy + 1 else s3.heap.hbBusy
    hbLimit := if st = 3 then s3.heap.hbLimit + 1 else s3.heap.hbLimit } }
  s4.setBank c ((s4.bank c).lockS o.dr.toNat (BitVec.ofNat 32 st))

section
variable {h : Hdr} {o : KOps} {s : State}

theorem execHopen_of_site {s1 : State} {x : RowSite} (hr : Runs (.hopen h o) s) (hs : rowSite s s.iss.ctx (hopenVa s o) = .ok (s1, x)) :
    execHopen h o s = .next ((openRow s1 s.iss.ctx o (hopenVa s o) x).verdict .done) := by
  refine word_runs hr ?_
  simp only [pairVa_eq, hs]
  rfl

theorem execHopen_of_stop {st : Stop} {s1 : State} (hr : Runs (.hopen h o) s) (hs : rowSite s s.iss.ctx (hopenVa s o) = .error (st, s1)) :
    execHopen h o s = .next (takeStop st s1) := by
  refine word_stops hr ?_
  simp only [pairVa_eq, hs]

end

/-- The bank that opens a row: its handle is new, and the status is under way to s[D]. -/
theorem openRow_bank (s1 : State) (c : Ctx) (o : KOps) (va : Nat) (x : RowSite) :
    let st := holdStatus (releaseHandle s1 c o.kh.toNat).heap.holds c x.rb x.row
    ((openRow s1 c o va x).bank c).hreg o.kh.toNat = x.handle va st ∧
    ((openRow s1 c o va x).bank c).pipe.locks = (s1.bank c).pipe.locks ++
      [{ id := (s1.bank c).lockId, ws := oneS o.dr.toNat (BitVec.ofNat 32 st), af := 0, ready := true }] ∧
    ((openRow s1 c o va x).bank c).regs = (s1.bank c).regs := by
  intro st
  obtain ⟨l, hl⟩ := releaseHandle_bank s1 c o.kh.toNat
  have hb : (openRow s1 c o va x).bank c =
      { s1.bank c with h := tabSet l o.kh.toNat (x.handle va st) }.lockS o.dr.toNat (BitVec.ofNat 32 st) := by
    refine (State.bank_setBank _ _ _).trans (congrArg (Bank.lockS · _ _) ?_)
    refine (State.setHandle_bank _ c _ _).trans ?_
    have hj : (joinHold (releaseHandle s1 c o.kh.toNat) c o.kh.toNat x.rb x.row st).bank c = { s1.bank c with h := l } := by
      rw [State.bank, joinHold_banks]
      exact hl
    rw [hj]
  rw [hb]
  exact ⟨tabGet_tabSet_same _ _ _ _, rfl, rfl⟩

theorem openRow_iss (s1 : State) (c : Ctx) (o : KOps) (va : Nat) (x : RowSite) : (openRow s1 c o va x).iss = s1.iss :=
  (joinHold_iss _ _ _ _ _ _).trans (releaseHandle_iss _ _ _)

theorem execHopen_spec (h : Hdr) (o : KOps) (s : State) (hr : Runs (.hopen h o) s) :
    let va := hopenVa s o
    (∀ s1 x, rowSite s s.iss.ctx va = .ok (s1, x) →
      let st := holdStatus (releaseHandle s1 s.iss.ctx o.kh.toNat).heap.holds s.iss.ctx x.rb x.row
      ∃ t, execHopen h o s = .next t ∧ t.iss.verdict = .done ∧
        t.cur.hreg o.kh.toNat = { rowv := true, held := decide (st = 0 ∨ st = 1), va := BitVec.ofNat 48 (va / 2048 * 2048),
                                  xl := some x.xl, obj := x.obj } ∧
        t.cur.pipe.locks = s1.cur.pipe.locks ++
          [{ id := s1.cur.lockId, ws := oneS o.dr.toNat (BitVec.ofNat 32 st), af := 0, ready := true }] ∧ t.cur.regs = s1.cur.regs) ∧
    (s.cur.tr.mode = false → inWindow va = true → execHopen h o s = .next (takeStop (stopAddr 0x08 va) s)) ∧
    (s.cur.tr.mode = true ∨ inWindow va = false →
      (∀ e, rowXlate s s.iss.ctx va = .error e → execHopen h o s =
        .next (takeStop (wordStop e s.iss.ctx va .rd).1 (wordStop e s.iss.ctx va .rd).2)) ∧
      (∀ s1 pa r w, rowXlate s s.iss.ctx va = .ok (s1, pa, r, w) →
        (s1.rowAt pa = none → execHopen h o s = .next (takeStop (stopAddr 0x08 va) s1)) ∧
        (s1.rowAt pa ≠ none → s1.famHas (frameOf pa) famPSN = true → execHopen h o s = .next (takeStop (stopAddr 0x11 va) s1)) ∧
        (s1.rowAt pa ≠ none → s1.famHas (frameOf pa) famPSN = false → (∃ g, s1.region pa = some g ∧ g.cls = 2) →
          pinnedObj s1 s.iss.ctx pa = none → execHopen h o s = .next (takeStop (stopAddr 0x0B va) s1)))) := by
  intro va
  refine ⟨fun s1 x hs => ?_, fun hm hw => execHopen_of_stop hr (rowSite_of_window hm hw),
    fun hw => ⟨fun e he => ?_, fun s1 pa r w hx => ?_⟩⟩
  · have hctx : s1.iss.ctx = s.iss.ctx := congrArg Iss.ctx (rowSite_iss hs)
    have hcur : ((openRow s1 s.iss.ctx o va x).verdict .done).cur = (openRow s1 s.iss.ctx o va x).bank s.iss.ctx := by
      rw [State.cur_verdict, State.cur, openRow_iss, hctx]
    have hcur1 : s1.cur = s1.bank s.iss.ctx := by rw [State.cur, hctx]
    refine ⟨_, execHopen_of_site hr hs, rfl, ?_⟩
    rw [hcur, hcur1, ← RowSite.handle_eq]
    exact openRow_bank s1 s.iss.ctx o va x
  · exact execHopen_of_stop hr (rowSite_of_no_translation hw he)
  · obtain ⟨hnone, hpsn, href⟩ := rowSite_of_translated hw hx
    exact ⟨fun hrow => execHopen_of_stop hr (hnone hrow), fun hrow hp => execHopen_of_stop hr (hpsn hrow hp),
      fun hrow hp hg ho => execHopen_of_stop hr (href hrow hp hg ho)⟩

/-! ### HREL (R165) -/

theorem execHrel_of_invalid (h : Hdr) (o : KOps) (s : State) (hr : Runs (.hrel h o) s) (hv : (s.cur.hreg o.kh.toNat).rowv = false) :
    execHrel h o s = .next (s.verdict .done) :=
  word_runs hr (congrArg Except.ok (releaseHandle_of_invalid hv))

theorem execHrel_of_valid (h : Hdr) (o : KOps) (s : State) (hr : Runs (.hrel h o) s) (hv : (s.cur.hreg o.kh.toNat).rowv = true) :
    ∃ t, execHrel h o s = .next t ∧ t.iss.verdict = .done ∧
    t.cur.hreg o.kh.toNat = .reset ∧ (∀ k, k ≠ o.kh.toNat → t.cur.hreg k = s.cur.hreg k) ∧ t.cur.regs = s.cur.regs ∧
    t.mem = s.mem ∧ t.heap = { s.heap with holds := dropShare s.heap.holds s.iss.ctx o.kh.toNat } := by
  have hcur : ((s.setHolds (dropShare s.heap.holds s.iss.ctx o.kh.toNat)).setHandle s.iss.ctx o.kh.toNat .reset).cur =
    { s.cur with h := tabSet s.cur.h o.kh.toNat .reset } := State.setHandle_bank _ _ _ _
  refine ⟨_, word_runs hr (congrArg Except.ok (releaseHandle_of_valid hv)), rfl, ?_⟩
  rw [State.cur_verdict, hcur]
  exact ⟨tabGet_tabSet_same _ _ _ _, fun k hk => tabGet_tabSet_other _ _ _ _ _ hk, rfl, rfl, rfl⟩

/-! ### HLD and HST (R161, R311) -/

theorem execHld_of_access (h : Hdr) (o : KOps) (s : State) (hr : Runs (.hld h o) s) (s1 : State) (pa : Nat)
    (ha : rowAccess s o false = .ok (s1, pa)) :
    let r := rowLoad s1 s.iss.ctx pa (szBytes o.sz) o.ord
    execHld h o s = .next ((afterAcquire (r.1.setBank s.iss.ctx ((r.1.bank s.iss.ctx).lockWrites
      (dataWrites s.cur o.sz o.dr.toNat r.2) 0 true)) s.iss.ctx (o.ord == 2) 2).verdict .done) :=
  word_runs hr (by simp only [ha])

theorem execHst_of_access (h : Hdr) (o : KOps) (s : State) (hr : Runs (.hst h o) s) (s1 : State) (pa : Nat)
    (ha : rowAccess s o true = .ok (s1, pa)) : execHst h o s =
    .next ((sysStore (beforeRelease s1 s.iss.ctx (o.ord == 2) 2) s.iss.ctx pa (dataBytes s.cur o.sz o.dr.toNat)).verdict .done) :=
  word_runs hr (by simp only [ha])

theorem execHld_of_stop {h : Hdr} {o : KOps} {s s1 : State} {st : Stop} (ha : rowAccess s o false = .error (st, s1))
    (hr : Runs (.hld h o) s) : execHld h o s = .next (takeStop st s1) :=
  word_stops hr (by simp only [ha])

theorem execHst_of_stop {h : Hdr} {o : KOps} {s s1 : State} {st : Stop} (ha : rowAccess s o true = .error (st, s1))
    (hr : Runs (.hst h o) s) : execHst h o s = .next (takeStop st s1) :=
  word_stops hr (by simp only [ha])

/-- A thread that has read nothing ahead reads the row at its turn. -/
theorem rowLoad_of_none_early (s : State) (c : Ctx) (pa n : Nat) (ord : BitVec 2) (h : (s.bank c).pipe.early = []) :
    rowLoad s c pa n ord = (s.syncRead pa n, sysBytes (s.syncRead pa n) pa n) := by
  simp only [rowLoad, h]

/-- The address that an access of a row names. -/
def rowVa (s : State) (o : KOps) : Nat := (((s.cur.hreg o.kh.toNat).va.toNat : Int) + signed 22 o.off.toNat + 2 ^ 48).toNat % 2 ^ 48

section
variable {s : State} {o : KOps} (wr : Bool)

theorem rowAccess_of_invalid (hv : (s.cur.hreg o.kh.toNat).rowv = false) :
    rowAccess s o wr = .error (stopAddr 0x08 (rowVa s o), s) := by
  simp [rowAccess, hv, rowVa]

theorem rowAccess_of_misaligned (hv : (s.cur.hreg o.kh.toNat).rowv = true) (hm : signed 22 o.off.toNat % (szBytes o.sz : Nat) ≠ 0) :
    rowAccess s o wr = .error (stopAddr 0x04 (rowVa s o), s) := by
  unfold rowAccess
  simp only [hv, Bool.not_true, Bool.false_eq_true, if_false, if_pos hm]
  rfl

theorem rowAccess_of_outside (hv : (s.cur.hreg o.kh.toNat).rowv = true) (hm : signed 22 o.off.toNat % (szBytes o.sz : Nat) = 0)
    (ho : signed 22 o.off.toNat < 0 ∨ 2048 < signed 22 o.off.toNat + (szBytes o.sz : Nat)) :
    rowAccess s o wr = .error (stopAddr 0x08 (rowVa s o), s) := by
  unfold rowAccess
  simp only [hv, Bool.not_true, Bool.false_eq_true, if_false, if_neg (not_not_intro hm), if_pos ho]
  rfl

end

/-- Settles O46: each clause is the law above of the word that it names. -/
theorem rowWords : Obligations.RowWords :=
  ⟨execHopen_spec, execHrel_of_invalid, execHrel_of_valid, execHld_of_access, rowLoad_of_none_early, execHst_of_access,
    fun _ _ _ hv => ⟨fun hm => ⟨execHld_of_stop (rowAccess_of_misaligned false hv hm),
        execHst_of_stop (rowAccess_of_misaligned true hv hm)⟩,
      fun hm ho => ⟨execHld_of_stop (rowAccess_of_outside false hv hm ho), execHst_of_stop (rowAccess_of_outside true hv hm ho)⟩⟩,
    fun _ _ _ hv => ⟨execHld_of_stop (rowAccess_of_invalid false hv), execHst_of_stop (rowAccess_of_invalid true hv)⟩⟩

end Sys2Proof.Machine
end

section
/-! SUPPORT. The parts of the heap and of the residency unit by number, and what their operations leave alone (R139, R171, R174, R180). -/

namespace Sys2Proof.Machine

/-! ### Objects, experts and slots by number -/

@[simp] theorem State.obj_setObj (s : State) (i : Nat) (o : Obj) : (s.setObj i o).obj i = o := tabGet_tabSet_same _ _ _ _

@[simp] theorem State.xslot_setXslot (s : State) (m : Nat) (x : Slot) : (s.setXslot m x).xslot m = x := tabGet_tabSet_same _ _ _ _

theorem freeEntry_obj (s : State) (i : Nat) :
    ((freeEntry s i).obj i).st = .free ∧ ((freeEntry s i).obj i).gen = nextObjGen (s.obj i).gen := by
  simp [freeEntry]

/-! ### What the heap's and the residency unit's operations keep -/

/-- The memory block and the heap, which no bank switch changes. -/
def memHeap (s : State) : MemBlk × Heap := (s.mem, s.heap)

/-- The heap and the residency block, which no recorded error changes. -/
def heapRes (s : State) : Heap × Resid := (s.heap, s.res)

theorem takeOver_memHeap (c : Ctx) (was : Option (Fin 2)) (s : State) : memHeap (takeOver c was s) = memHeap s := by
  unfold takeOver
  split
  · rfl
  · split <;> rfl

theorem bankReady_memHeap (c : Ctx) (s : State) : memHeap (bankReady c s) = memHeap s := by
  unfold bankReady
  simp only []
  split
  · rfl
  · split
    · rfl
    · split
      · rfl
      · split
        · rfl
        · split
          · split
            · exact takeOver_memHeap _ _ _
            · rfl
          · rfl

theorem wakeCold_memHeap (s : State) (i : Nat) : memHeap (wakeCold s i) = memHeap s :=
  foldl_keeps memHeap (op := fun s (e : Nat × Bank) => if e.2.phase = .cold i then bankReady (ctxOf e.1) s else s)
    (fun s e => by split <;> [exact bankReady_memHeap _ _; rfl]) _ s

theorem foundUe_heapRes (s : State) (w : Option Ctx) (strc key : Nat) : heapRes (foundUe s w strc key) = heapRes s := by
  have hcount : heapRes (countUe s w strc key) = heapRes s := rfl
  have hdrop (t : State) : heapRes (t.dropBad strc key) = heapRes t := rfl
  have hcore (t : State) (k : Fin 32) (x : Core) : heapRes (t.setCore k x) = heapRes t := rfl
  have hfam (t : State) (f : Nat) (on off : Byte) : heapRes (t.famSet f on off) = heapRes t := rfl
  have hfatal (t : State) : heapRes (fatalError 3 t) = heapRes t := rfl
  simp only [foundUe, apply_ite heapRes, hfatal, hfam, hcore, hdrop, hcount, ite_self]

theorem unitUe_heapRes (s : State) (pa n : Nat) (acc : Acc) : heapRes (unitUe s pa n acc) = heapRes s :=
  foldl_keeps heapRes (fun t e => by
    split
    · split
      · exact foundUe_heapRes _ _ _ _
      · rfl
    · rfl) _ s

@[simp] theorem State.setGran_mem (s : State) (g : Nat) (x : Gran) : (s.setGran g x).mem = s.mem := rfl
@[simp] theorem State.setGran_ot (s : State) (g : Nat) (x : Gran) : (s.setGran g x).heap.ot = s.heap.ot := rfl

@[simp] theorem foldl_setGran_mem (l : List Nat) (x : State → Gran) (s : State) :
    (l.foldl (fun s g => s.setGran g (x s)) s).mem = s.mem :=
  foldl_keeps State.mem (op := fun s g => s.setGran g (x s)) (fun _ _ => rfl) l s

@[simp] theorem foldl_setGran_ot (l : List Nat) (x : State → Gran) (s : State) :
    (l.foldl (fun s g => s.setGran g (x s)) s).heap.ot = s.heap.ot :=
  foldl_keeps (·.heap.ot) (op := fun s g => s.setGran g (x s)) (fun _ _ => rfl) l s

end Sys2Proof.Machine
end

section
/-! OBLIGATION O56, the clauses of compaction, retirement and freed entries (R171, R175, R176). -/

namespace Sys2Proof.Machine

theorem execHeapCompact_of_on (s : State) (hp : s.plat.power = .on) :
    execHeapCompact s = .next (setSpat s { s.heap.spat with want := true }) :=
  congrArg Host.Outcome.next (if_pos (State.awake_of_on hp))

theorem execCompactionAutostart_of_movable (s : State) (g i : Nat) (hp : s.plat.power = .on) (hw : s.heap.spat.want = false)
    (hb : s.heap.spat.busy = false) (hf : s.freeGrans < s.heap.freelow.toNat) (hg : g ∈ takeGrans s s.fwdFree s.leanGrans)
    (hi : i ∈ s.granObjs g) (hm : (s.obj i).movable = true) :
    execCompactionAutostart s = .next (setSpat s { s.heap.spat with want := true }) := by
  have hany : ((takeGrans s s.fwdFree s.leanGrans).any fun g => (s.granObjs g).any fun i => (s.obj i).movable) = true :=
    List.any_eq_true.mpr ⟨g, hg, List.any_eq_true.mpr ⟨i, hi, hm⟩⟩
  simp only [execCompactionAutostart, State.awake_of_on hp, hw, hb, hany, hf, decide_true, Bool.not_false, Bool.and_true, if_true]

theorem execCompactionCycleStart_spec (s : State) (hp : s.plat.power = .on) (hw : s.heap.spat.want = true) (hb : s.heap.spat.busy = false) :
    (waitsForOld s (s.heap.cycle + 1) = true → execCompactionCycleStart s =
      .next { s with heap := { s.heap with spwait := s.heap.spwait + 1 } }) ∧
    (waitsForOld s (s.heap.cycle + 1) = false → ∃ t, execCompactionCycleStart s = .next t ∧ t.heap.cycle = s.heap.cycle + 1 ∧
      t.heap.spat.busy = true ∧ t.heap.spat.want = false ∧ t.heap.ot = s.heap.ot ∧ t.mem = s.mem) := by
  have hopen : (!s.awake || !s.heap.spat.want || s.heap.spat.busy) = false := by rw [State.awake_of_on hp, hw, hb]; rfl
  refine ⟨fun hold => ?_, fun hold => ?_⟩
  · simp only [execCompactionCycleStart, hopen, hold, Bool.false_eq_true, if_false, if_true]
  · refine ⟨_, by simp only [execCompactionCycleStart, hopen, hold, Bool.false_eq_true, if_false]; rfl, ?_⟩
    exact ⟨rfl, rfl, rfl, rfl, rfl⟩

/-- An object that a cycle takes up where none is being copied. -/
theorem execCompactionObject_of_todo {s : State} {i : Nat} {r : List Nat} (hp : s.plat.power = .on) (hb : s.heap.spat.busy = true)
    (hc : s.heap.spat.cur = none) (ht : s.heap.spat.todo = i :: r) :
    execCompactionObject s = .next (takeObject (setSpat s { s.heap.spat with todo := r }) i) := by
  have hopen : (s.awake && s.heap.spat.busy && s.heap.spat.cur.isNone) = true := by rw [State.awake_of_on hp, hb, hc]; rfl
  simp only [execCompactionObject, hopen, ht]

theorem takeObject_of_dead {s : State} {i : Nat} (hn : (s.obj i).pins = 0) (hd : (s.obj i).st = .dead)
    (hg : s.heap.spat.chosen.contains ((s.obj i).addr / 2 ^ 21) = true) : takeObject s i = freeEntry s i := by
  have hstay : (decide ((s.obj i).pins ≠ 0) || !s.heap.spat.chosen.contains ((s.obj i).addr / 2 ^ 21)) = false := by rw [hn, hg]; rfl
  simp only [takeObject, hstay, hd, Bool.false_eq_true, if_false]

theorem execCompactionObject_spec (s : State) (i : Nat) (r : List Nat) (hp : s.plat.power = .on) (hb : s.heap.spat.busy = true)
    (hc : s.heap.spat.cur = none) (ht : s.heap.spat.todo = i :: r) :
    execCompactionObject s = .next (takeObject (setSpat s { s.heap.spat with todo := r }) i) ∧
    ((s.obj i).pins = 0 → (s.obj i).st = .dead → s.heap.spat.chosen.contains ((s.obj i).addr / 2 ^ 21) = true →
      ∃ t, execCompactionObject s = .next t ∧ (t.obj i).st = .free ∧
      (t.obj i).gen = nextObjGen (s.obj i).gen ∧ t.heap.spat.todo = r) := by
  have hexec := execCompactionObject_of_todo hp hb hc ht
  refine ⟨hexec, fun hn hd hg => ?_⟩
  obtain ⟨hst, hgen⟩ := freeEntry_obj (setSpat s { s.heap.spat with todo := r }) i
  exact ⟨_, hexec.trans (congrArg _ (takeObject_of_dead hn hd hg)), hst, hgen, rfl⟩

/-- An uncorrectable error in the old copy: the object stays where it is (R139, log 51). -/
theorem execRelocationCommit_of_fault (s : State) (x : Reloc) (hp : s.plat.power = .on) (hc : s.heap.spat.cur = some x)
    (hf : unitFault s (s.heapPa x.old) (s.objSize x.old) .rd = true) :
    ∃ t, execRelocationCommit s = .next t ∧ (t.obj x.oti).st = .live ∧ (t.obj x.oti).addr = (s.obj x.oti).addr ∧
    t.heap.spat.cur = none ∧ t.heap.fwd = s.heap.fwd ∧ t.mem.main = s.mem.main := by
  have hheap : (unitUe s (s.heapPa x.old) (s.objSize x.old) .rd).heap = s.heap := congrArg Prod.fst (unitUe_heapRes _ _ _ _)
  have hmain : (unitUe s (s.heapPa x.old) (s.objSize x.old) .rd).mem.main = s.mem.main := congrArg (·.2.2) (unitUe_kept _ _ _ _)
  generalize hu : unitUe s (s.heapPa x.old) (s.objSize x.old) .rd = u at hheap hmain
  have hobj : (u.obj x.oti).addr = (s.obj x.oti).addr := by rw [State.obj, hheap]; rfl
  refine ⟨_, by simp only [execRelocationCommit, State.awake_of_on hp, hc, hf, if_true, hu]; rfl, ?_⟩
  have hlive := State.obj_setObj u x.oti { u.obj x.oti with st := .live }
  exact ⟨congrArg Obj.st hlive, (congrArg Obj.addr hlive).trans hobj, rfl, congrArg (·.fwd) hheap, hmain⟩

theorem execRelocationCommit_of_good (s : State) (x : Reloc) (hp : s.plat.power = .on) (hc : s.heap.spat.cur = some x)
    (hf : unitFault s (s.heapPa x.old) (s.objSize x.old) .rd = false) :
    ∃ t, execRelocationCommit s = .next t ∧ (t.obj x.oti).st = .live ∧
    (t.obj x.oti).addr = x.new ∧ t.heap.spat.cur = none ∧ t.heap.reloc = s.heap.reloc + 1 ∧
    t.heap.fwd = s.heap.fwd ++ [{ cyc := s.heap.cycle.toNat, new := x.new, old := x.old }] ∧
    t.mem.main = memSetBytes s.mem.main (s.heapPa x.new) (rawBytes s (s.heapPa x.old) (s.objSize x.old)) := by
  let s1 := (heapPut s x.new (rawBytes s (s.heapPa x.old) (s.objSize x.old))).setObj x.oti { s.obj x.oti with st := .live, addr := x.new }
  obtain ⟨hmem, hheap, -⟩ := dropEarly_frame s1
  have hobj : (dropEarly s1).obj x.oti = { s.obj x.oti with st := .live, addr := x.new } := by
    rw [State.obj, hheap]
    exact State.obj_setObj _ _ _
  refine ⟨_, by simp only [execRelocationCommit, State.awake_of_on hp, hc, hf, Bool.false_eq_true, if_false]; rfl, ?_⟩
  exact ⟨congrArg Obj.st hobj, congrArg Obj.addr hobj, rfl, congrArg (·.reloc + 1) hheap,
    congrArg (fun h : Heap => h.fwd ++ [{ cyc := h.cycle.toNat, new := x.new, old := x.old }]) hheap, congrArg MemBlk.main hmem⟩

theorem execCompactionFlip_spec (s : State) (hp : s.plat.power = .on) (hb : s.heap.spat.busy = true) (ht : s.heap.spat.todo = [])
    (hc : s.heap.spat.cur = none) : ∃ t,
    execCompactionFlip s = .next t ∧ t.heap.goodc = BitVec.ofNat 2 (s.heap.goodc.toNat % 3 + 1) ∧ t.heap.from_ = [] ∧
    t.heap.spat.busy = false ∧ t.heap.ot = s.heap.ot ∧ t.mem = s.mem := by
  have hopen : (s.awake && s.heap.spat.busy && s.heap.spat.todo.isEmpty && s.heap.spat.cur.isNone) = true := by
    rw [State.awake_of_on hp, hb, ht, hc]
    rfl
  refine ⟨_, congrArg Host.Outcome.next (if_pos hopen), rfl, rfl, rfl, ?_, ?_⟩
  · simp only []
    split <;> simp
  · simp only []
    split <;> simp

theorem execRetire_spec (n : BitVec 8) (s : State) (hp : s.plat.power = .on) (hn : s.heap.spat.busy = false ∨ n ≠ s.heap.cycle) :
    ∃ t, execRetire n s = .next t ∧ (∀ e ∈ t.heap.fwd, e.cyc ≠ n.toNat) ∧
      (∀ e, e ∈ s.heap.fwd → e.cyc ≠ n.toNat → e ∈ t.heap.fwd) ∧ t.heap.ot = s.heap.ot := by
  have hopen : (!s.awake || (s.heap.spat.busy && n == s.heap.cycle)) = false := by
    rw [State.awake_of_on hp]
    rcases hn with hn | hn <;> simp [hn]
  refine ⟨_, congrArg Host.Outcome.next (if_neg (Bool.eq_false_iff.mp hopen)), fun e he => ?_, fun e he hne => ?_, rfl⟩
  · exact bne_iff_ne.mp (List.mem_filter.mp he).2
  · exact List.mem_filter.mpr ⟨he, bne_iff_ne.mpr hne⟩

theorem execHeapcmdFree_of_poison (i : Nat) (s : State) (hp : s.plat.power = .on) (hs : (s.obj i).st = .poison) :
    ∃ t, execHeapcmdFree i s = .next t ∧ (t.obj i).st = .free ∧ (t.obj i).gen = nextObjGen (s.obj i).gen :=
  ⟨_, congrArg Host.Outcome.next (if_pos ⟨State.awake_of_on hp, hs⟩), freeEntry_obj s i⟩

end Sys2Proof.Machine
end

section
/-! OBLIGATION O56, the clauses of cold objects (R171, R179, R180). -/

namespace Sys2Proof.Machine

/-! ### Eviction (R179) -/

theorem execColdEvictionStart_spec (i : Nat) (s : State) (hp : s.plat.power = .on) (he : s.heap.evict = none) (hi : evictable s i = true) :
    (s.heap.coldlen.toNat < s.heap.coldNext + coldBlocks (s.objSize (s.obj i).addr) →
      execColdEvictionStart i s = .next { s with heap := { s.heap with evfull := s.heap.evfull + 1 } }) ∧
    (s.heap.coldNext + coldBlocks (s.objSize (s.obj i).addr) ≤ s.heap.coldlen.toNat → ∃ t, execColdEvictionStart i s = .next t ∧
      (t.obj i).st = .evict ∧ t.heap.evict = some i ∧ ∃ q, t.res.reqs = s.res.reqs ++ [q] ∧ q.what = .evict i ∧ q.cls = 6) := by
  have hopen : (!s.awake || s.heap.evict.isSome || !evictable s i) = false := by rw [State.awake_of_on hp, he, hi]; rfl
  refine ⟨fun hfull => ?_, fun hroom => ?_⟩
  · simp only [execColdEvictionStart, hopen, if_pos hfull, Bool.false_eq_true, if_false]
  · refine ⟨_, by simp only [execColdEvictionStart, hopen, if_neg (Nat.not_lt.mpr hroom), Bool.false_eq_true, if_false]; rfl, ?_⟩
    exact ⟨congrArg Obj.st (State.obj_setObj _ _ _), rfl, _, rfl, rfl, rfl⟩

/-- No request for `w` stands. -/
theorem reqs_any_eq_false {s : State} {w : FillWhat} (h : ∀ q ∈ s.res.reqs, q.what ≠ w) :
    (s.res.reqs.any fun q => q.what == w) = false :=
  List.any_eq_false.mpr fun q hq => mt beq_iff_eq.mp (h q hq)

theorem execColdEvictionDone_spec (i : Nat) (s : State) (he : s.heap.evict = some i) (hq : ∀ q ∈ s.res.reqs, q.what ≠ .evict i) :
    ∃ t, execColdEvictionDone s = .next t ∧
    (t.obj i).st = .cold ∧ t.heap.evict = none ∧ t.heap.evictN = s.heap.evictN + 1 ∧
    tabGet? t.heap.coldAt i = some (s.heap.coldNext, s.objSize (s.obj i).addr) := by
  refine ⟨_, by simp only [execColdEvictionDone, he, reqs_any_eq_false hq, Bool.false_eq_true, if_false]; rfl, ?_⟩
  exact ⟨congrArg Obj.st (State.obj_setObj _ _ _), rfl, rfl, tabGet?_tabSet_same _ _ _⟩

/-! ### The space of a recall (R174, R180) -/

/-- What finding space for an object never changes: the memory block, and where the heap lies. -/
def spaceKept (s : State) : MemBlk × Addr := (s.mem, s.heap.base)

theorem heapSpace_fresh_kept {s : State} {core : Fin 32} {old : Option Nat} {n : Nat} {x : State × Nat}
    (h : heapSpace.fresh s core old n = some x) : spaceKept x.1 = spaceKept s := by
  obtain ⟨g, -, rfl⟩ := Option.map_eq_some_iff.mp h
  cases old <;> rfl

theorem heapSpace_kept {s : State} {core : Fin 32} {n : Nat} {x : State × Nat} (h : heapSpace s core n = some x) :
    spaceKept x.1 = spaceKept s := by
  unfold heapSpace at h
  split at h
  · obtain ⟨g, -, rfl⟩ := Option.map_eq_some_iff.mp h
    exact foldl_keeps spaceKept (op := fun s j => s.setGran (g + j) .used) (fun _ _ => rfl) _ s.bump
  · simp only [] at h
    split at h
    · split at h
      · cases h
        rfl
      · exact heapSpace_fresh_kept h
    · exact heapSpace_fresh_kept h

theorem recallPlace_kept {s s0 : State} {i a : Nat} (h : recallPlace s i = some (s0, a)) : spaceKept s0 = spaceKept s := by
  unfold recallPlace at h
  split at h
  · cases h
    rfl
  · split at h
    · cases h
    · obtain ⟨x, hx, he⟩ := Option.map_eq_some_iff.mp h
      cases he
      exact heapSpace_kept hx

/-! ### A recall's end (R171, R180) -/

/-- A recall that is over leaves the memory, and of the heap all but the recalls. -/
theorem endRecall_memHeap (s : State) (i : Nat) : memHeap (endRecall s i) =
    (s.mem, { s.heap with recalls := s.heap.recalls.filter fun j => j != i, recallTo := tabDel s.heap.recallTo i }) :=
  wakeCold_memHeap _ _

theorem endRecall_mem (s : State) (i : Nat) : (endRecall s i).mem = s.mem := congrArg Prod.fst (endRecall_memHeap s i)

theorem endRecall_heap (s : State) (i : Nat) : (endRecall s i).heap =
    { s.heap with recalls := s.heap.recalls.filter fun j => j != i, recallTo := tabDel s.heap.recallTo i } :=
  congrArg Prod.snd (endRecall_memHeap s i)

theorem endRecall_obj (s : State) (i j : Nat) : (endRecall s i).obj j = s.obj j := by
  rw [State.obj, endRecall_heap]
  rfl

theorem not_mem_endRecall_recalls (s : State) (i : Nat) : i ∉ (endRecall s i).heap.recalls := by
  simp [endRecall_heap]

theorem poisonObj_st (s : State) (i : Nat) : ((poisonObj s i).obj i).st = .poison := by
  rw [poisonObj, endRecall_obj]
  exact congrArg Obj.st (State.obj_setObj _ _ _)

/-! ### The chunks of a recall (R180) -/

theorem serveChunk_of_recall {q : FillReq} {i : Nat} (hw : q.what = .recall i) (s : State) : serveChunk s q = recallChunk s q i := by
  simp only [serveChunk, hw]

theorem serveChunk_recall_spec (q : FillReq) (s : State) (i : Nat) (hw : q.what = .recall i) :
    (recallPlace s i = none → serveChunk s q = s) ∧
    (∀ s0 a lba n, recallPlace s i = some (s0, a) → tabGet? s.heap.coldAt i = some (lba, n) →
      (openChunk s0 i lba n q.chunk = none → ((serveChunk s q).obj i).st = .poison ∧ i ∉ (serveChunk s q).heap.recalls) ∧
      (∀ x, openChunk s0 i lba n q.chunk = some x →
        (serveChunk s q).mem.main = memSetBytes s.mem.main (s.heapPa (a + 65536 * q.chunk)) x)) := by
  rw [serveChunk_of_recall hw]
  refine ⟨fun hnone => ?_, fun s0 a lba n hplace hcold => ⟨fun hopen => ?_, fun x hopen => ?_⟩⟩
  · simp only [recallChunk, hnone]
  · have hpoison : recallChunk s q i = poisonObj (setReq s0 q none) i := by simp only [recallChunk, hplace, hcold, hopen]
    rw [hpoison]
    exact ⟨poisonObj_st _ _, not_mem_endRecall_recalls _ _⟩
  · have hkept := recallPlace_kept hplace
    have hmain : s0.mem.main = s.mem.main := congrArg (·.1.main) hkept
    have hbase : s0.heapPa (a + 65536 * q.chunk) = s.heapPa (a + 65536 * q.chunk) :=
      congrArg (fun k : MemBlk × Addr => k.2.toNat + (a + 65536 * q.chunk)) hkept
    rw [← hmain, ← hbase]
    simp only [recallChunk, hplace, hcold, hopen]
    split <;> rfl

theorem noteWaits_of_waiting (q : FillReq) (s : State) (i : Nat) (hq : s.res.reqs = [q]) (hw : q.what = .recall i)
    (ht : tabGet? s.heap.recallTo i = none) (hp : recallPlace s i = none) :
    noteWaits s = { s with heap := { s.heap with recallTo := tabSet s.heap.recallTo i none, rcwait := s.heap.rcwait + 1 } } := by
  simp only [noteWaits, hq, List.foldl_cons, List.foldl_nil, hw, ht, hp, Option.isNone_none, Bool.and_self, if_true]

theorem execRecallComplete_spec (i : Nat) (s : State) (hi : i ∈ s.heap.recalls) (hq : ∀ q ∈ s.res.reqs, q.what ≠ .recall i) :
    (tabGet s.heap.recallTo i none = none → execRecallComplete i s = .next s) ∧
    (∀ a, tabGet s.heap.recallTo i none = some a → ∃ t, execRecallComplete i s = .next t ∧ (t.obj i).st = .live ∧
      (t.obj i).addr = a ∧ i ∉ t.heap.recalls ∧ t.heap.recallN = s.heap.recallN + 1 ∧ t.mem = s.mem ∧
      t.heap.fwd = s.heap.fwd ++ [{ cyc := s.heap.cycle.toNat, new := a, old := (s.obj i).addr }]) := by
  have hdone : (!s.heap.recalls.contains i || s.res.reqs.any fun q => q.what == .recall i) = false := by
    simp [hi, reqs_any_eq_false hq]
  refine ⟨fun hnone => ?_, fun a ha => ?_⟩
  · simp only [execRecallComplete, hdone, hnone, Bool.false_eq_true, if_false]
  · let s1 := forwardStub (s.setObj i { s.obj i with st := .live, addr := a }) (s.obj i).addr a
    obtain ⟨hmem, hheap, -⟩ := dropEarly_frame s1
    have hobj : (dropEarly s1).obj i = { s.obj i with st := .live, addr := a } := by
      rw [State.obj, hheap]
      exact State.obj_setObj _ _ _
    refine ⟨_, by simp only [execRecallComplete, hdone, ha, Bool.false_eq_true, if_false]; rfl, ?_⟩
    rw [endRecall_obj, endRecall_mem]
    refine ⟨congrArg Obj.st hobj, congrArg Obj.addr hobj, not_mem_endRecall_recalls _ _, ?_, hmem, ?_⟩
    · rw [endRecall_heap]
      exact congrArg (·.recallN + 1) hheap
    · rw [endRecall_heap]
      exact congrArg Heap.fwd hheap

end Sys2Proof.Machine
end

section
/-! OBLIGATION O56, the clauses of model slots, the Steamer's chunks, frequencies and final closes (R184, R195, R197, R201, R241). -/

namespace Sys2Proof.Machine

/-! ### Install and uninstall (R184) -/

theorem execModelInstall_of_on (m : Fin 8) {s : State} (hp : s.plat.power = .on) : execModelInstall m s = .next (modelInstall s m.val) :=
  congrArg Host.Outcome.next (if_pos (State.awake_of_on hp))

/-- What an install that fails with a code leaves of its reads: with ECODE 5, their uncorrectable errors are recorded (R139). -/
def failedReads (s : State) (m : Nat) (code : BitVec 4) : State :=
  if code = 5 then (installReads s m).foldl (fun s r => unitUe s r.1 r.2 .rd) s else s

theorem failedReads_kept (s : State) (m : Nat) (code : BitVec 4) : (failedReads s m code).res = s.res ∧
    (failedReads s m code).mem.main = s.mem.main ∧ (code ≠ 5 → (failedReads s m code).mem = s.mem) := by
  unfold failedReads
  split
  next h5 =>
    exact ⟨congrArg Prod.snd (foldl_keeps heapRes (fun t (r : Nat × Nat) => unitUe_heapRes t r.1 r.2 .rd) _ s),
      congrArg (·.2.2) (foldl_keeps ueKept (fun t (r : Nat × Nat) => unitUe_kept t r.1 r.2 .rd) _ s), fun h => absurd h5 h⟩
  next => exact ⟨rfl, rfl, fun _ => rfl⟩

theorem execModelInstall_of_code (m : Fin 8) (s : State) (hp : s.plat.power = .on)
    (hw : ((installReads s m.val).any fun r => unitWait s r.1 r.2 .rd) = false) (code : BitVec 4) (hc : installCode s m.val = some code) :
    ∃ t, execModelInstall m s = .next t ∧
    (t.xslot m.val).err = true ∧ (t.xslot m.val).ecode = code ∧ t.res.tags = s.res.tags ∧ t.mem.main = s.mem.main ∧
    (code ≠ 5 → t.mem = s.mem) := by
  obtain ⟨hres, hmain, hmem⟩ := failedReads_kept s m.val code
  have hfail : modelInstall s m.val =
      (failedReads s m.val code).setXslot m.val
        { (failedReads s m.val code).xslot m.val with err := true, ecode := code, inst := false } := by
    simp only [modelInstall, hw, hc, Bool.false_eq_true, if_false]
    rfl
  refine ⟨_, (execModelInstall_of_on m hp).trans (congrArg _ hfail), ?_⟩
  rw [State.xslot_setXslot]
  exact ⟨rfl, rfl, congrArg (·.tags) hres, hmain, hmem⟩

theorem setNm_main (s : State) (on : Bool) (fs : List Nat) : (setNm s on fs).mem.main = s.mem.main :=
  foldl_keeps (·.mem.main) (op := fun s f => s.famSet f (if on then famNM else 0) (if on then 0 else famNM)) (fun _ _ => rfl) fs s

theorem addTag_mem (s : State) (t : Tag) : (addTag s t).mem = s.mem := by
  unfold addTag
  split <;> rfl

theorem execModelInstall_of_good (m : Fin 8) (s : State) (hp : s.plat.power = .on) (hc : installCode s m.val = none)
    (hw : ((installReads s m.val).any fun r => unitWait s r.1 r.2 .rd) = false)
    (hmig : ∀ f ∈ (slotTags s m.val).flatMap (mainFrames s), s.famHas f famMIG = false) :
    ∃ t, execModelInstall m s = .next t ∧ (t.xslot m.val).v = true ∧ (t.xslot m.val).inst = false ∧ t.mem.main = s.mem.main := by
  have hfree : (((slotTags s m.val).flatMap (mainFrames s)).any fun f => s.famHas f famMIG) = false :=
    List.any_eq_false.mpr fun f hf => Bool.eq_false_iff.mp (hmig f hf)
  refine ⟨_, (execModelInstall_of_on m hp).trans (by simp only [modelInstall, hw, hc, hfree, Bool.false_eq_true, if_false]; rfl), ?_⟩
  rw [State.xslot_setXslot]
  exact ⟨rfl, rfl, (foldl_keeps (·.mem.main) (fun t x => congrArg MemBlk.main (addTag_mem t x)) _ _).trans (setNm_main _ _ _)⟩

/-- The entries of a slot's experts. -/
def slotEntries (s : State) (m : Nat) : List Nat := (s.res.tags.filter fun e => xidSlot e.2.xid == m).map Prod.fst

theorem retryFills_of_none {s : State} (h : s.res.retry = []) : retryFills s = s := by
  rw [retryFills, h]
  rfl

theorem execModelUninstall_spec (m : Fin 8) (s : State) (hp : s.plat.power = .on) :
    ((∃ i ∈ slotEntries s m.val, (s.tag i).pins ≠ 0) → ∃ t, execModelUninstall m s = .next t ∧ (t.xslot m.val).err = true ∧
      (t.xslot m.val).ecode = 6 ∧ t.res.tags = s.res.tags) ∧
    (slotEntries s m.val = [] → s.res.retry = [] → ∃ t, execModelUninstall m s = .next t ∧ (t.xslot m.val).v = false ∧
      (t.xslot m.val).key = none) := by
  have hexec : execModelUninstall m s = .next (modelUninstall s m.val) := congrArg Host.Outcome.next (if_pos (State.awake_of_on hp))
  refine ⟨fun ⟨i, hi, hpin⟩ => ?_, fun hnone hretry => ?_⟩
  · have hbusy : ((slotEntries s m.val).any fun i => (s.tag i).pins != 0 || (s.tag i).queues.any XQueue.busy) = true :=
      List.any_eq_true.mpr ⟨i, hi, by rw [bne_iff_ne.mpr hpin]; rfl⟩
    have hrefused : modelUninstall s m.val = s.setXslot m.val { s.xslot m.val with err := true, ecode := 6 } := if_pos hbusy
    refine ⟨_, hexec.trans (congrArg _ hrefused), ?_⟩
    rw [State.xslot_setXslot]
    exact ⟨rfl, rfl, rfl⟩
  · have hgone : modelUninstall s m.val = s.setXslot m.val { s.xslot m.val with v := false, key := none, inst := false } := by
      rw [slotEntries] at hnone
      simp only [modelUninstall, hnone, List.any_nil, List.foldl_nil, Bool.false_eq_true, if_false]
      exact retryFills_of_none hretry
    refine ⟨_, hexec.trans (congrArg _ hgone), ?_⟩
    rw [State.xslot_setXslot]
    exact ⟨rfl, rfl⟩

/-! ### The Steamer's chunks (R197, R241) -/

/-- Where no recall is asked for, none waits. -/
theorem noteWaits_of_no_recall {s : State} (h : ∀ x ∈ s.res.reqs, ∀ i, x.what ≠ .recall i) : noteWaits s = s := by
  unfold noteWaits
  refine List.foldlRecOn (motive := (· = s)) s.res.reqs _ rfl fun t ht q hq => ?_
  split
  next i hw => exact absurd hw (h q hq i)
  next => exact ht

/-- What a paid 64-byte write of a chunk leads to: the next one, or with the last the chunk is served. -/
def paidWrite (q : FillReq) (s : State) : State :=
  if q.paid + 1 < chunkWrites s q then setReq s q (some { q with paid := q.paid + 1 }) else serveChunk s { q with paid := q.paid + 1 }

theorem execSteamerChunk_spec (s : State) (q : FillReq) (hp : s.plat.power = .on) (hr : ∀ x ∈ s.res.reqs, ∀ i, x.what ≠ .recall i)
    (hq : pickReq s = some q) (hw : reqWaits s q = false) :
    let r : ChargeReq := { who := whoSteamer, bank := 0, weight := s.clsWeight q.cl 15 }
    (∀ i, q.what = .evict i → execSteamerChunk s = .next (serveChunk s q)) ∧
    (∀ i b, q.what = .fill i b →
      (chunkWrites s q = 0 → execSteamerChunk s = .next (serveChunk s { q with paid := q.paid + 1 })) ∧
      (chunkWrites s q ≠ 0 → takeGrant s q.cl r = none → execSteamerChunk s = .next (askCharge s q.cl r)) ∧
      (∀ s1, chunkWrites s q ≠ 0 → takeGrant s q.cl r = some s1 →
        (q.paid + 1 < chunkWrites s1 q → execSteamerChunk s = .next (setReq s1 q (some { q with paid := q.paid + 1 }))) ∧
        (chunkWrites s1 q ≤ q.paid + 1 → execSteamerChunk s = .next (serveChunk s1 { q with paid := q.paid + 1 })))) := by
  intro r
  have hexec : execSteamerChunk s = .next (steamerStep s) := congrArg Host.Outcome.next (if_pos (State.awake_of_on hp))
  rw [hexec]
  refine ⟨fun i hev => ?_, fun i b hfill => ?_⟩
  · simp only [steamerStep, noteWaits_of_no_recall hr, hq, hw, hev, Bool.false_eq_true, if_false]
  · have hcharged (hn : chunkWrites s q ≠ 0) : steamerStep s = charged s q.cl r (paidWrite q) := by
      simp only [steamerStep, noteWaits_of_no_recall hr, hq, hw, Bool.false_eq_true, if_false]
      split
      next hev => cases hfill.symm.trans hev
      next h0 _ => exact absurd h0 hn
      next => rfl
    refine ⟨fun h0 => ?_, fun hn hg => ?_, fun s1 hn hg => ⟨fun hmore => ?_, fun hlast => ?_⟩⟩
    · simp only [steamerStep, noteWaits_of_no_recall hr, hq, hw, hfill, h0, Bool.false_eq_true, if_false]
    · rw [hcharged hn, charged_asks hg]
    · rw [hcharged hn, charged_granted hg]
      exact congrArg _ (if_pos hmore)
    · rw [hcharged hn, charged_granted hg]
      exact congrArg _ (if_neg (Nat.not_lt.mpr hlast))

/-- A chunk of a copy in its source's own format takes a write per 64 bytes of its 64 KiB, but for the last. -/
theorem chunkWrites_of_same_format (s : State) (q : FillReq) (i : Nat) (b : Bool) (hw : q.what = .fill i b)
    (hn : q.chunk + 1 < ((s.tag i).srcDesc (s.tag i).srcFar).nch)
    (hf : ((s.tag i).srcDesc (s.tag i).srcFar).fmt = ((s.tag i).nearDesc b).fmt)
    (hd : ((s.tag i).srcDesc (s.tag i).srcFar).nch ≤ ((s.tag i).nearDesc b).nch) : chunkWrites s q = 1024 := by
  have hfill (k : Nat) (hk : k < ((s.tag i).srcDesc (s.tag i).srcFar).nch) :
      fillBytes ((s.tag i).srcDesc (s.tag i).srcFar) ((s.tag i).nearDesc b) (s.tag i).nel ((s.tag i).srcDesc (s.tag i).srcFar).nch k =
        k * 65536 := by
    rw [fillBytes, if_neg (Nat.ne_of_lt hk), if_pos hf, Nat.min_eq_left (by omega)]
  simp only [chunkWrites, hw, hfill _ hn, hfill q.chunk (by omega)]
  omega

/-! ### Frequencies and final closes (R195, R201) -/

theorem execFrequencyDecay_of_due (s : State) (hd : s.res.decayAt + max 1 s.res.xrepDec.toNat * 1000000 ≤ s.aon) :
    ∃ t, execFrequencyDecay s = .next t ∧ t.res.decayAt = s.aon ∧
    (∀ i x, tabGet? s.res.tags i = some x → tabGet? t.res.tags i =
      some { x with a := { x.a with freq := x.a.freq / 2 }, b := { x.b with freq := x.b.freq / 2 } }) := by
  refine ⟨_, congrArg Host.Outcome.next (if_pos hd), rfl, fun i x hx => ?_⟩
  rw [tabGet?_tabMap, hx]
  rfl

theorem execFinalClose_of_ready (m : Fin 8) (l : Nat) (s : State) (h : finalReady s m.val l = true) :
    execFinalClose m l s = .next (finalCloseLayer s m.val l) := congrArg Host.Outcome.next (if_pos h)

end Sys2Proof.Machine
end

section
/-! OBLIGATION O56, the clauses of peers' claims, commands and chunks (R114, R192, R220, R259), and the whole. -/

namespace Sys2Proof.Machine

/-! ### Claims (R192) -/

theorem execRemoteClaim_of_open (x row : BitVec 32) (s : State) (i q : Nat) (hp : s.plat.power = .on) (hs : s.plat.slp.busy = false)
    (hi : s.tagIx? x = some i) (hq : localQueue s (s.tag i) = some q) (hpsn : (s.tag i).psn = false) (hfin : (s.tag i).fin = false)
    (hocc : ((s.tag i).xq q).occ < 4096) (hb : ((s.tag i).xq q).bmode ≠ 0) :
    let s1 := (claimFor s none i q row none).1
    ((((s1.tag i).xq q).slots.filter fun e => e.2.committed).length = (s1.tag i).threshold →
      execRemoteClaim x row s = .next (closeQueue s1 i q false)) ∧
    ((((s1.tag i).xq q).slots.filter fun e => e.2.committed).length ≠ (s1.tag i).threshold → execRemoteClaim x row s = .next s1) := by
  intro s1
  have hawake : (s.awake && !s.plat.slp.busy) = true := by rw [State.awake_of_on hp, hs]; rfl
  have htaken : ((s.tag i).psn || (s.tag i).fin || decide (4096 ≤ ((s.tag i).xq q).occ)) = false := by
    rw [hpsn, hfin, decide_eq_false (Nat.not_le.mpr hocc)]
    rfl
  have hexec : execRemoteClaim x row s = .next
      (if (((s1.tag i).xq q).slots.filter fun e => e.2.committed).length = (s1.tag i).threshold then closeQueue s1 i q false else s1) := by
    simp only [execRemoteClaim, hawake, hi, hq, htaken, if_pos hb, Bool.false_eq_true, if_false]
    rfl
  rw [hexec]
  exact ⟨fun h => congrArg _ (if_pos h), fun h => congrArg _ (if_neg h)⟩

/-! ### Commands (R114, R220) -/

theorem packLanes_bytes (l : List Byte) : packLanes 8 (l.map BitVec.toNat) = leNat l := by
  induction l with
  | nil => rfl
  | cons x r ih =>
    rw [List.map_cons, packLanes, ih, leNat_cons, Nat.mod_eq_of_lt x.isLt]
    omega

/-- Lane `i` of the number of some bytes is byte `i`. -/
theorem map_bits_leNat (l : List Byte) : ((List.range l.length).map fun i => bits (leNat l) (8 * i) 8) = l.map BitVec.toNat := by
  refine List.ext_getElem (by simp) fun i hi _ => ?_
  rw [List.length_map, List.length_range] at hi
  have hlane := elemOf_packLanes 8 (l := l.map BitVec.toNat) (j := i) (by simpa using hi)
  rw [packLanes_bytes, List.getElem_map, Nat.mod_eq_of_lt l[i].isLt] at hlane
  rw [List.getElem_map, List.getElem_range, List.getElem_map]
  exact hlane

/-- Raw bytes that are not combined are written as they are. -/
theorem natLe_remoteElems_raw (old : Nat) (l : List Byte) :
    natLe l.length (remoteElems (memFmt 0) 0 old (leNat l) (8 * l.length / (memFmt 0).width)) = l := by
  have hw : (memFmt 0).width = 8 := rfl
  have hn : 8 * l.length / 8 = l.length := Nat.mul_div_cancel_left _ (by decide)
  have helems : remoteElems (memFmt 0) 0 old (leNat l) l.length = leNat l := by
    simp only [remoteElems, hw, true_or, if_true]
    rw [map_bits_leNat, packLanes_bytes]
  rw [hw, hn, helems, natLe_leNat]

theorem execRemoteCommand_of_plain (cmd : RemoteCopy) (s : State) (hp : s.plat.power = .on) (hr : cmd.red = 0) (hf : cmd.fmt = 0) :
    let data := wireData cmd.wire
    data ≠ [] → cmd.pa.toNat % 4096 + data.length ≤ 4096 →
    (∃ g, s.region cmd.pa.toNat = some g ∧ g.cls = 0) → extCheck s cmd.pa.toNat true = .served s → ∃ t,
    execRemoteCommand cmd s = .next t ∧ (∀ i, i < data.length → t.mainByte (cmd.pa.toNat + i) = data.getD i 0) ∧
      (∀ a, a < cmd.pa.toNat ∨ cmd.pa.toNat + data.length ≤ a → t.mainByte a = s.mainByte a) := by
  intro data hne hpage ⟨g, hg, hcls⟩ hcheck
  have hexec : execRemoteCommand cmd s = .next (sysPut s cmd.pa.toNat data) := by
    have hred : cmd.red.toNat = 0 := by rw [hr]; rfl
    have hfmt : cmd.fmt.toNat = 0 := by rw [hf]; rfl
    have hwrite := natLe_remoteElems_raw (rawLe s cmd.pa.toNat data.length) data
    have hpiece := pagePieces_single (mt List.length_eq_zero_iff.mp hne) hpage
    simp only [execRemoteCommand, State.awake_of_on hp, hpiece, List.foldl_cons, List.foldl_nil, hg, hcls, beq_self_eq_true, if_true,
      hcheck, hred, hfmt, data] at hwrite ⊢
    rw [hwrite]
  refine ⟨_, hexec, fun i hi => ?_, fun a ha => memByte_memSetBytes_other _ _ _ _ ha⟩
  rw [List.getD_eq_getElem _ _ hi]
  exact memByte_memSetBytes_same _ _ _ _ hi

/-! ### Chunks of a distribution (R259) -/

theorem execDistributionChunk_of_unknown (d : DistChunk) (s : State) (hp : s.plat.power = .on) (hd : s.devNo ≠ 0)
    (hi : s.tagIx? d.xid = none) : execDistributionChunk d s = .next (forwardChunk s d d.data) := by
  simp only [execDistributionChunk, State.awake_of_on hp, hi, Option.filter_none, if_neg hd, Bool.not_true, Bool.false_eq_true, if_false]

/-- A chunk of a known expert, by whether the copy has a chunk of its index. -/
theorem execDistributionChunk_of_known {d : DistChunk} {s : State} {i : Nat} (hp : s.plat.power = .on) (hi : s.tagIx? d.xid = some i) :
    (d.idx < ((s.tag i).srcDesc d.far).nch →
      execDistributionChunk d s = .next (if s.devNo = 0 then distRead s i d else distChunk (forwardChunk s d d.data) i d)) ∧
    (((s.tag i).srcDesc d.far).nch ≤ d.idx →
      execDistributionChunk d s = .next (if s.devNo = 0 then s else forwardChunk s d d.data)) := by
  refine ⟨fun hx => ?_, fun hx => ?_⟩
  · simp [execDistributionChunk, State.awake_of_on hp, hi, Option.filter, hx]
  · simp [execDistributionChunk, State.awake_of_on hp, hi, Option.filter, Nat.not_lt.mpr hx]

theorem execDistributionChunk_spec (d : DistChunk) (s : State) (i : Nat) (hp : s.plat.power = .on) (hi : s.tagIx? d.xid = some i) :
    (s.devNo ≠ 0 → d.idx < ((s.tag i).srcDesc d.far).nch →
      execDistributionChunk d s = .next (distChunk (forwardChunk s d d.data) i d)) ∧
    (s.devNo ≠ 0 → ((s.tag i).srcDesc d.far).nch ≤ d.idx → execDistributionChunk d s = .next (forwardChunk s d d.data)) ∧
    (s.devNo = 0 → d.idx < ((s.tag i).srcDesc d.far).nch →
      let t := s.tag i
      let waits := (chunkReads s t d.far d.idx).any fun r => unitWait s r.1 r.2 .rd
      let read := chunkCipher s (s.xslot (xidSlot t.xid)) (t.srcDesc d.far) d.far d.idx
      (waits = true → execDistributionChunk d s = .next s) ∧
      (waits = false → ∀ k x, read = some (k, x) →
        execDistributionChunk d s = .next (distChunk (forwardChunk s d x) i { d with data := x })) ∧
      (waits = false → read = none → execDistributionChunk d s = .next (poisonExpert (chunkUe s t d.far d.idx) i))) := by
  obtain ⟨hin, hbeyond⟩ := execDistributionChunk_of_known hp hi
  refine ⟨fun hd hx => ?_, fun hd hx => ?_, fun hd hx => ?_⟩
  · rw [hin hx, if_neg hd]
  · rw [hbeyond hx, if_neg hd]
  · intro t waits read
    rw [hin hx, if_pos hd]
    refine ⟨fun hw => congrArg _ (if_pos hw), fun hw k x hr => congrArg _ ?_, fun hw hr => congrArg _ ?_⟩
    · exact (if_neg (Bool.eq_false_iff.mp hw)).trans (by simp only [read, t] at hr; simp only [hr])
    · exact (if_neg (Bool.eq_false_iff.mp hw)).trans (by simp only [read, t] at hr; simp only [hr]; rfl)

/-- Settles O56: each clause is the law above of the function that the event runs. -/
theorem heapAndResidencyEvents : Obligations.HeapAndResidencyEvents :=
  ⟨execHeapCompact_of_on, execCompactionAutostart_of_movable, execCompactionCycleStart_spec, execCompactionObject_spec,
    execRelocationCommit_of_fault, execRelocationCommit_of_good, execCompactionFlip_spec, execRetire_spec, execHeapcmdFree_of_poison,
    execColdEvictionStart_spec, execColdEvictionDone_spec, serveChunk_recall_spec, noteWaits_of_waiting, execRecallComplete_spec,
    execModelInstall_of_code, execModelInstall_of_good, execModelUninstall_spec, execSteamerChunk_spec, chunkWrites_of_same_format,
    execFrequencyDecay_of_due, execFinalClose_of_ready, execRemoteClaim_of_open, execRemoteCommand_of_plain,
    execDistributionChunk_of_unknown, execDistributionChunk_spec⟩

end Sys2Proof.Machine
end

section
/-! SUPPORT. What a push of a command changes and how its word waits (R206): the write-back before it (R151), its FIFO, and its checks. -/

namespace Sys2Proof.Machine

/-! ### A write-back keeps the banks and the word that is being run (R118, R151) -/

@[simp] theorem countUe_iss (s : State) (w : Option Ctx) (strc key : Nat) : (countUe s w strc key).iss = s.iss := rfl
@[simp] theorem State.dropBad_iss (s : State) (strc key : Nat) : (s.dropBad strc key).iss = s.iss := rfl
@[simp] theorem State.famSet_iss (s : State) (f : Nat) (on off : Byte) : (s.famSet f on off).iss = s.iss := rfl
@[simp] theorem fatalError_iss (n : Nat) (s : State) : (fatalError n s).iss = s.iss := rfl

theorem foundUe_iss (s : State) (w : Option Ctx) (strc key : Nat) : (foundUe s w strc key).iss = s.iss := by
  simp only [foundUe, apply_ite State.iss, countUe_iss, State.dropBad_iss, State.setCore_iss, State.famSet_iss, fatalError_iss, ite_self]

theorem writeBack_iss (s : State) (k : Fin 32) (ln : Nat) (tag : Option (BitVec 2)) : (writeBack s k ln tag).iss = s.iss := by
  unfold writeBack
  split
  · rfl
  · split
    · exact foundUe_iss _ _ _ _
    · unfold State.flushLine
      split <;> rfl

@[simp] theorem wbAll_iss (s : State) (k : Fin 32) (sc : BitVec 2) : (wbAll s k sc).iss = s.iss := by
  unfold wbAll
  split
  · rfl
  · refine foldl_keeps State.iss (fun t x => ?_) _ _
    split
    · exact writeBack_iss _ _ _ _
    · rfl

@[simp] theorem wbAll_bank (s : State) (k : Fin 32) (sc : BitVec 2) (c : Ctx) : (wbAll s k sc).bank c = s.bank c := by
  have hbanks : (wbAll s k sc).banks = s.banks := congrArg Prod.fst (wbAll_lineKept s k sc)
  rw [State.bank, hbanks]
  rfl

/-! ### Engines and FIFOs -/

theorem Engines.fifo_setFifo_other (e : Engines) {f g : FifoId} (x : Fifo) (h : g ≠ f) : (e.setFifo f x).fifo g = e.fifo g := by
  cases f <;> cases g <;> simp [Engines.fifo, Engines.setFifo] at h ⊢

theorem State.setEng_bank (s : State) (c : Ctx) (e : Engines) : (s.setEng c e).bank c = { s.bank c with eng := e } :=
  State.bank_setBank _ _ _

theorem State.cur_setEng (s : State) (e : Engines) : (s.setEng s.iss.ctx e).cur = { s.cur with eng := e } := State.setEng_bank _ _ _

@[simp] theorem holdsLease_setEng (s : State) (c d : Ctx) (e : Engines) : holdsLease (s.setEng c e) d = holdsLease s d := rfl

/-- The engines after a push: the command stands last in its FIFO (R206) and has taken its number. -/
def Engines.pushed (e : Engines) (f : FifoId) (x : Cmd) : Engines :=
  { e.setFifo f { e.fifo f with q := (e.fifo f).q ++ [x], unpopped := (e.fifo f).unpopped + 1 } with nextId := e.nextId + 1 }

theorem Engines.fifo_pushed (e : Engines) (f g : FifoId) (x : Cmd) : (e.pushed f x).fifo g =
    (e.setFifo f { e.fifo f with q := (e.fifo f).q ++ [x], unpopped := (e.fifo f).unpopped + 1 }).fifo g := by
  cases g <;> rfl

theorem Engines.pushed_q (e : Engines) (f : FifoId) (x : Cmd) : ((e.pushed f x).fifo f).q = (e.fifo f).q ++ [x] := by
  rw [fifo_pushed, fifo_setFifo]

theorem Engines.fifo_pushed_other (e : Engines) {f g : FifoId} (x : Cmd) (h : g ≠ f) : (e.pushed f x).fifo g = e.fifo g := by
  rw [fifo_pushed, fifo_setFifo_other _ _ h]

/-! ### A push (R206) -/

/-- All that a push changes in its bank is its engines. -/
theorem pushCmd_bank (s : State) (c : Ctx) (f : FifoId) (x : Cmd) :
    (pushCmd s c f x).bank c = { s.bank c with eng := (s.bank c).eng.pushed f x } := by
  simp only [pushCmd, State.setEng_bank, wbAll_bank]
  rfl

theorem pushCmd_iss (s : State) (c : Ctx) (f : FifoId) (x : Cmd) : (pushCmd s c f x).iss = s.iss := wbAll_iss _ _ _

theorem pushCmd_onlyBank (s : State) (c : Ctx) (f : FifoId) (x : Cmd) : OnlyBank c s (pushCmd s c f x) :=
  fun d hd => (onlyBank_setBank c _ _ d hd).trans (wbAll_bank _ _ _ d)

theorem pushCmd_spec (s : State) (c : Ctx) (f : FifoId) (x : Cmd) :
    (((pushCmd s c f x).bank c).eng.fifo f).q = ((s.bank c).eng.fifo f).q ++ [x] ∧
    (∀ g, g ≠ f → ((pushCmd s c f x).bank c).eng.fifo g = (s.bank c).eng.fifo g) ∧
    ((pushCmd s c f x).bank c).regs = (s.bank c).regs ∧ OnlyBank c s (pushCmd s c f x) := by
  rw [pushCmd_bank]
  exact ⟨Engines.pushed_q _ _ _, fun _ hg => Engines.fifo_pushed_other _ _ hg, rfl, pushCmd_onlyBank _ _ _ _⟩

theorem pushOrStall_of_place {s0 s : State} {c : Ctx} {f : FifoId} (x : Cmd) (h : ((s.bank c).eng.fifo f).full = false) :
    pushOrStall s0 s c f x = .ok (pushCmd s c f x) := by
  simp [pushOrStall, h]

theorem pushOrStall_of_full {s0 s : State} {c : Ctx} {f : FifoId} (x : Cmd) (h : ((s.bank c).eng.fifo f).full = true) :
    pushOrStall s0 s c f x = .error (.stall, s0) := by
  simp [pushOrStall, h]

/-- A word whose effect is one push appends its command while there is a place, and waits while there is none. -/
theorem word_pushes {i : Instr} {s : State} {eff : State → Res} {f : FifoId} {x : Cmd} (hr : Runs i s)
    (he : eff s = pushOrStall s s s.iss.ctx f x) :
    ((s.cur.eng.fifo f).full = false → word i s eff = .next ((pushCmd s s.iss.ctx f x).verdict .done)) ∧
    ((s.cur.eng.fifo f).full = true → word i s eff = .next (s.verdict .stalled)) :=
  ⟨fun h => word_runs hr (he.trans (pushOrStall_of_place x h)), fun h => word_stops hr (he.trans (pushOrStall_of_full x h))⟩

/-! ### Checks in a row -/

@[simp] theorem firstStop_eq_none_iff {l : List (Option Stop)} : firstStop l = none ↔ ∀ x ∈ l, x = none := List.findSome?_eq_none_iff

@[simp] theorem stopIf_eq_none_iff {p : Bool} {e : Stop} : stopIf p e = none ↔ p = false := by
  cases p <;> simp [stopIf]

end Sys2Proof.Machine
end

section
/-! OBLIGATION O49. The words that push commands: where their checks pass, each appends its command or waits (R302, R325 to R330, R375); a
split command is numbered (R216); and the words of the matrix lease (R209). -/

namespace Sys2Proof.Machine

/-! ### The words that push one command (R325 to R330) -/

/-- What a word of command `k` does where nothing but a place in FIFO `f` is wanting. -/
def PushesOrWaits (i : Instr) (k : CmdKind) (o : EOps) (f : FifoId) (s : State) : Prop :=
  ((s.cur.eng.fifo f).full = false → exec i s = .next ((pushCmd s s.iss.ctx f (cmdOf k o s.cur)).verdict .done)) ∧
  ((s.cur.eng.fifo f).full = true → exec i s = .next (s.verdict .stalled))

section
variable {h : Hdr} {o : EOps} {s : State}

theorem merge_pushesOrWaits (hr : Runs (.merge h o) s) (h0 : (cmdOf .merge o s.cur).y ≠ 0) (hle : (cmdOf .merge o s.cur).y.toNat ≤ 64) :
    PushesOrWaits (.merge h o) .merge o .de s := by
  have hfibres : ¬((cmdOf .merge o s.cur).y = 0 ∨ 64 < (cmdOf .merge o s.cur).y.toNat) := by
    rintro (h | h)
    · exact h0 h
    · omega
  exact word_pushes hr (if_neg hfibres)

theorem hacc_pushesOrWaits (hr : Runs (.hacc h o) s) (hal : (cmdOf .hacc o s.cur).x.toNat % 32 = 0)
    (hin : (cmdOf .hacc o s.cur).x.toNat + 32 ≤ s.cur.spTotal) (hst : s.cur.tr.mode = false ∨ haccStopped s.cur.eng = false) :
    PushesOrWaits (.hacc h o) .hacc o .de s := by
  have hgoing : ¬(s.cur.tr.mode && haccStopped s.cur.eng) = true := by
    rcases hst with h | h <;> simp [h]
  exact word_pushes hr <| (if_neg (not_not_intro hal)).trans <| (if_neg (Nat.not_lt.mpr hin)).trans (if_neg hgoing)

theorem hacc_resumes (h : Hdr) (o : EOps) (s : State) (hr : Runs (.hacc h o) s) (hal : (s.cur.sreg o.sx.toNat).toNat % 32 = 0)
    (hin : (s.cur.sreg o.sx.toNat).toNat + 32 ≤ s.cur.spTotal) (hmon : s.cur.tr.mode = true) (hst : haccStopped s.cur.eng = true) :
    exec (.hacc h o) s = .next ((s.setEng s.iss.ctx (haccResume s.cur.eng)).verdict .done) := by
  have hstopped : (s.cur.tr.mode && haccStopped s.cur.eng) = true := by rw [hmon, hst]; rfl
  exact word_runs hr <| (if_neg (not_not_intro hal)).trans <| (if_neg (Nat.not_lt.mpr hin)).trans (if_pos hstopped)

theorem mzero_pushesOrWaits (hr : Runs (.mzero h o) s) (hy : (cmdOf .mzero o s.cur).y.toNat < 2 ^ 25)
    (hacc : accCheck s.cur (cmdOf .mzero o s.cur).x (shapeOf (cmdOf .mzero o s.cur).y) = none) :
    PushesOrWaits (.mzero h o) .mzero o .mx s := by
  have hcheck (ill : Stop) : firstStop [stopIf (decide (2 ^ 25 ≤ (cmdOf .mzero o s.cur).y.toNat)) ill,
      accCheck s.cur (cmdOf .mzero o s.cur).x (shapeOf (cmdOf .mzero o s.cur).y)] = none := by
    simpa [hacc] using hy
  exact word_pushes hr (by simp only [hcheck])

theorem mrd_pushesOrWaits (hr : Runs (.mrd h o) s) (hy : (cmdOf .mrd o s.cur).y.toNat < 2 ^ 25)
    (hbank : ∀ e, mrdCheck s.cur (cmdOf .mrd o s.cur) e = none)
    (hacc : accCheck s.cur (cmdOf .mrd o s.cur).x (shapeOf (cmdOf .mrd o s.cur).y) = none) :
    PushesOrWaits (.mrd h o) .mrd o .mx s := by
  have hcheck (ill : Stop) : firstStop [mrdEarly s.cur (cmdOf .mrd o s.cur) ill,
      accCheck s.cur (cmdOf .mrd o s.cur).x (shapeOf (cmdOf .mrd o s.cur).y)] = none := by
    simpa [mrdEarly, hacc, hbank] using hy
  exact word_pushes hr (by simp only [hcheck])

theorem mrank_pushesOrWaits (hr : Runs (.mrank h o) s) :
    let x := cmdOf .mrank o s.cur
    x.y.toNat < 2 ^ 17 → (s.cur.ring x.ra).cnt ≠ 0 → rankNeed s.cur x ≤ (s.cur.ring x.ra).cnt →
    (∀ e, operandFmt e (rankOperand s.cur x).bf (rankOperand s.cur x).bank = none) → (rankOperand s.cur x).bf.grp = 0 →
    x.selK ≤ (shapeOf x.y).n → accCheck s.cur x.x (shapeOf x.y) = none → (x.selK = 0 ∨ x.z.toNat % 8 = 0) →
    PushesOrWaits (.mrank h o) .mrank o .mx s := by
  intro x hy hcnt hneed hfmt hgrp hk hacc hsel
  have hearly (ill : Stop) : rankEarly s.cur x ill = none := by
    simpa [rankEarly, hfmt, hcnt, hneed] using hy
  have hcheck (ill : Stop) : firstStop [rankEarly s.cur x ill, stopIf ((rankOperand s.cur x).bf.grp != 0) ill,
      stopIf (decide ((shapeOf x.y).n < x.selK)) ill, accCheck s.cur x.x (shapeOf x.y),
      stopIf (x.selK != 0 && x.z.toNat % 8 != 0) (stopAddr 0x04 x.z.toNat)] = none := by
    rcases hsel with h | h <;> simp [hearly, hgrp, hk, hacc, h]
  exact word_pushes hr (by simp only [x] at hcheck; simp only [hcheck])

end

/-! ### MMA and MMAS (R216, R325) -/

section
variable {i : Instr} {x : Cmd} {s : State} {eff : State → Res}

theorem mmaEffect_of_checked (h : ∀ e, mmaCheck s.cur x e = none) : mmaEffect i x s = pushMma s s s.iss.ctx x := by
  simp only [mmaEffect, h]

theorem pushMma_of_unsplit {s0 : State} {c : Ctx} (h : isSplit (s.bank c) x = false) : pushMma s0 s c x = pushOrStall s0 s c .mx x := by
  simp [pushMma, h]

/-- What a split command leaves: it carries its number, the next one is counted, and what its fellows are compared by is kept (R216). -/
def splitPushed (s : State) (c : Ctx) (x : Cmd) : State :=
  let b := s.bank c
  let s1 := pushCmd s c .mx { x with split := some b.eng.splitNo }
  s1.setEng c { (s1.bank c).eng with split := b.eng.split + 1, sigs := (s1.bank c).eng.sigs ++ [(b.eng.splitNo, splitSig b x)] }

theorem pushMma_of_split_full {s0 : State} {c : Ctx} (h : isSplit (s.bank c) x = true) (hf : ((s.bank c).eng.fifo .mx).full = true) :
    pushMma s0 s c x = .error (.stall, s0) := by
  simp [pushMma, h, pushOrStall_of_full _ hf]

theorem pushMma_of_split_place {s0 : State} {c : Ctx} (h : isSplit (s.bank c) x = true) (hf : ((s.bank c).eng.fifo .mx).full = false) :
    pushMma s0 s c x = .ok (splitPushed s c x) := by
  simp [pushMma, h, pushOrStall_of_place _ hf, splitPushed]

theorem splitPushed_iss (s : State) (c : Ctx) (x : Cmd) : (splitPushed s c x).iss = s.iss :=
  pushCmd_iss s c .mx { x with split := some (s.bank c).eng.splitNo }

theorem splitPushed_onlyBank (s : State) (c : Ctx) (x : Cmd) : OnlyBank c s (splitPushed s c x) :=
  (pushCmd_onlyBank s c .mx { x with split := some (s.bank c).eng.splitNo }).trans (onlyBank_setBank c _ _)

theorem splitPushed_bank (s : State) (c : Ctx) (x : Cmd) : (splitPushed s c x).bank c =
    { s.bank c with eng := { (s.bank c).eng.pushed .mx { x with split := some (s.bank c).eng.splitNo } with
      split := (s.bank c).eng.split + 1
      sigs := (s.bank c).eng.sigs ++ [((s.bank c).eng.splitNo, splitSig (s.bank c) x)] } } := by
  simp only [splitPushed, State.setEng_bank, pushCmd_bank]
  rfl

theorem splitPushed_cur (s : State) (x : Cmd) : (splitPushed s s.iss.ctx x).cur = (splitPushed s s.iss.ctx x).bank s.iss.ctx := by
  rw [State.cur, splitPushed_iss]

theorem mmaWord_pushes (hr : Runs i s) (he : eff s = mmaEffect i x s) (hc : ∀ e, mmaCheck s.cur x e = none) (hs : isSplit s.cur x = false) :
    ((s.cur.eng.fifo .mx).full = false → word i s eff = .next ((pushCmd s s.iss.ctx .mx x).verdict .done)) ∧
    ((s.cur.eng.fifo .mx).full = true → word i s eff = .next (s.verdict .stalled)) :=
  word_pushes hr ((he.trans (mmaEffect_of_checked hc)).trans (pushMma_of_unsplit hs))

/-- A split command waits like any other, or is pushed with its number. -/
theorem mmaWord_splits (hr : Runs i s) (he : eff s = mmaEffect i x s) (hc : ∀ e, mmaCheck s.cur x e = none) (hs : isSplit s.cur x = true) :
    ((s.cur.eng.fifo .mx).full = true → word i s eff = .next (s.verdict .stalled)) ∧
    ((s.cur.eng.fifo .mx).full = false →
      ∃ t, word i s eff = .next t ∧ t.iss.verdict = .done ∧ t.cur.eng.split = s.cur.eng.split + 1 ∧
        t.cur.eng.mx.q = s.cur.eng.mx.q ++ [{ x with split := some s.cur.eng.splitNo }] ∧
        t.cur.eng.sigs = s.cur.eng.sigs ++ [(s.cur.eng.splitNo, splitSig s.cur x)] ∧ t.cur.regs = s.cur.regs ∧
        OnlyBank s.iss.ctx s t) := by
  refine ⟨fun hf => word_stops hr ((he.trans (mmaEffect_of_checked hc)).trans (pushMma_of_split_full hs hf)), fun hf => ?_⟩
  refine ⟨_, word_runs hr ((he.trans (mmaEffect_of_checked hc)).trans (pushMma_of_split_place hs hf)), rfl, ?_⟩
  rw [State.cur_verdict, splitPushed_cur, splitPushed_bank]
  exact ⟨rfl, rfl, rfl, rfl, splitPushed_onlyBank _ _ _⟩

end

/-! ### CPY and VCHAIN: a descriptor is read first (R302, R375) -/

theorem execCpy_of_place (h : Hdr) (o : EOps) (s : State) (hr : Runs (.cpy h o) s) (s1 : State) (d : Nat)
    (hd : readDesc s (descVa s.cur (s.cur.sreg o.sx.toNat)) 32 = .ok (s1, d)) :
    let x := { cmdOf .cpy o s.cur with desc := BitVec.ofNat 512 d }
    (∀ e, copyCheck s1 s1.cur x e = none) → ((s1.bank s.iss.ctx).eng.fifo (copyFifo x.copy.kind)).full = false →
    execCpy h o s = .next (((pushCmd s1 s.iss.ctx (copyFifo x.copy.kind) x).setBank s.iss.ctx
      (attachStreams ((pushCmd s1 s.iss.ctx (copyFifo x.copy.kind) x).bank s.iss.ctx) x)).verdict .done) := by
  intro x hc hf
  refine word_runs hr ?_
  simp only [x] at hc hf
  simp only [hd, hc, pushOrStall_of_place _ hf]
  rfl

/-- The command that VCHAIN pushes (R375): its descriptor and the element type and modes of its word. -/
def chainCmd (b : Bank) (o : VrOps) (d : Nat) : Cmd :=
  { id := b.eng.nextId, kind := .chain, tok := 0, ra := 0, rb := 0, x := 0, y := 0, z := 0, z1 := 0, imm := 0, ty := o.ty, rm := o.rm,
    sat := o.sat, fmts := b.sys.bfmt, desc := BitVec.ofNat 512 d, split := none, mon := b.tr.mode }

theorem execVchain_of_place (h : Hdr) (o : VrOps) (s : State) (hr : Runs (.vchain h o) s) (s1 : State) (d : Nat)
    (hd : readDesc s (descVa s.cur (s.cur.sreg (o.va.extractLsb' 0 6).toNat)) 64 = .ok (s1, d))
    (hc : ∀ e, chainCheck d (etyOf o.ty) o.rm e = none) (hf : ((s1.bank s.iss.ctx).eng.fifo .de).full = false) :
    ∃ x, execVchain h o s = .next ((pushCmd s1 s.iss.ctx .de x).verdict .done) ∧ x.kind = .chain ∧ x.desc = BitVec.ofNat 512 d ∧
      x.ty = o.ty ∧ x.rm = o.rm ∧ x.sat = o.sat := by
  refine ⟨chainCmd s1.cur o d, word_runs hr ?_, rfl, rfl, rfl, rfl, rfl⟩
  simp only [hd, hc]
  exact pushOrStall_of_place _ hf

/-! ### MLEASE and MFREE (R209) -/

theorem execMlease_spec (h : Hdr) (o : EOps) (s : State) (hr : Runs (.mlease h o) s) : execMlease h o s = .next
    ((if holdsLease s s.iss.ctx then s else s.setEng s.iss.ctx { s.cur.eng with wantMx := true, freeMx := false }).verdict .done) :=
  word_runs hr rfl

theorem endLease_of_held {s : State} (h : holdsLease s s.iss.ctx = true) :
    ((endLease s s.iss.ctx).cluster (clusterOf s.iss.ctx.core)).lease = none ∧
    (endLease s s.iss.ctx).cur =
      { s.cur with eng := { s.cur.eng with freeMx := s.cur.eng.freeMx && s.cur.eng.mx.q.any Cmd.needsLease } } := by
  rw [endLease, if_pos h]
  refine ⟨?_, State.setEng_bank _ _ _⟩
  rw [cluster_setEng, State.cluster_setCluster]

section
variable {h : Hdr} {o : EOps} {s : State}

/-- The state in which an MFREE has taken the request for the array back. -/
def requestTakenBack (s : State) : State := s.setEng s.iss.ctx { s.cur.eng with wantMx := false }

theorem requestTakenBack_cur (s : State) : (requestTakenBack s).cur = { s.cur with eng := { s.cur.eng with wantMx := false } } :=
  State.cur_setEng _ _

theorem execMfree_of_not_held (hr : Runs (.mfree h o) s) (hl : holdsLease s s.iss.ctx = false) :
    execMfree h o s = .next ((requestTakenBack s).verdict .done) :=
  word_runs hr (congrArg Except.ok (if_pos (congrArg not hl)))

theorem execMfree_of_idle (hr : Runs (.mfree h o) s) (hl : holdsLease s s.iss.ctx = true)
    (hq : (requestTakenBack s).cur.eng.mx.q.any Cmd.needsLease = false) :
    execMfree h o s = .next ((endLease (requestTakenBack s) s.iss.ctx).verdict .done) :=
  word_runs hr (congrArg Except.ok ((if_neg (Bool.eq_false_iff.mp (congrArg not hl))).trans (if_neg (Bool.eq_false_iff.mp hq))))

theorem execMfree_of_queued (hr : Runs (.mfree h o) s) (hl : holdsLease s s.iss.ctx = true)
    (hq : (requestTakenBack s).cur.eng.mx.q.any Cmd.needsLease = true) : execMfree h o s =
    .next (((requestTakenBack s).setEng s.iss.ctx { (requestTakenBack s).cur.eng with freeMx := true }).verdict .done) :=
  word_runs hr (congrArg Except.ok ((if_neg (Bool.eq_false_iff.mp (congrArg not hl))).trans (if_pos hq)))

/-- An MFREE of the thread that holds the array: the lease ends now, or, while commands that need it are queued, with them. -/
theorem execMfree_of_held (hr : Runs (.mfree h o) s) (hl : holdsLease s s.iss.ctx = true) :
    (s.cur.eng.mx.q.any Cmd.needsLease = false → ∃ t, execMfree h o s = .next t ∧ t.iss.verdict = .done ∧
      (t.cluster (clusterOf s.iss.ctx.core)).lease = none ∧ t.cur.eng.wantMx = false ∧ t.cur.eng.mx = s.cur.eng.mx) ∧
    (s.cur.eng.mx.q.any Cmd.needsLease = true → ∃ t, execMfree h o s = .next t ∧ t.iss.verdict = .done ∧
      (t.cluster (clusterOf s.iss.ctx.core)).lease = (s.cluster (clusterOf s.iss.ctx.core)).lease ∧ t.cur.eng.freeMx = true) := by
  have hback := requestTakenBack_cur s
  have hmx : (requestTakenBack s).cur.eng.mx = s.cur.eng.mx := by rw [hback]
  refine ⟨fun hq => ?_, fun hq => ?_⟩
  · obtain ⟨hlease, hcur⟩ := endLease_of_held (s := requestTakenBack s) hl
    refine ⟨_, execMfree_of_idle hr hl (by rwa [hmx]), rfl, hlease, ?_⟩
    rw [State.cur_verdict]
    exact hcur ▸ hback ▸ ⟨rfl, rfl⟩
  · refine ⟨_, execMfree_of_queued hr hl (by rwa [hmx]), rfl, rfl, ?_⟩
    exact congrArg (fun b : Bank => b.eng.freeMx) (State.cur_setEng (requestTakenBack s) _)

end

/-- Settles O49: a push appends its command or waits, and each word is the law above of what it runs. -/
theorem enginePushes : Obligations.EnginePushes := by
  refine ⟨pushCmd_spec, ⟨?_, ?_, ?_, ?_, ?_, ?_, ?_⟩, hacc_resumes,
    ⟨fun _ _ _ hr => mmaWord_splits hr rfl, fun _ _ _ hr => mmaWord_splits hr rfl⟩, execCpy_of_place, execVchain_of_place, execMlease_spec,
    fun _ _ _ => execMfree_of_not_held, fun _ _ _ => execMfree_of_held⟩
  · exact fun _ _ _ hr ⟨h0, hle⟩ => merge_pushesOrWaits hr h0 hle
  · exact fun _ _ _ hr ⟨hal, hin, hst⟩ => hacc_pushesOrWaits hr hal hin hst
  · exact fun _ _ _ hr ⟨hy, hacc⟩ => mzero_pushesOrWaits hr hy hacc
  · exact fun _ _ _ hr ⟨hy, hbank, hacc⟩ => mrd_pushesOrWaits hr hy hbank hacc
  · exact fun _ _ _ hr ⟨hc, hs⟩ => mmaWord_pushes hr rfl hc hs
  · exact fun _ _ _ hr ⟨hc, hs⟩ => mmaWord_pushes hr rfl hc hs
  · exact fun _ _ _ hr ⟨hy, hcnt, hneed, hfmt, hgrp, hk, hacc, hsel⟩ =>
    mrank_pushesOrWaits hr hy hcnt hneed hfmt hgrp hk hacc hsel

end Sys2Proof.Machine
end

section
/-! SUPPORT. A word whose checks fail, what a trap leaves of the state beside its bank, and the stop of an ill-formed word (R230, R232, R272,
R325). -/

namespace Sys2Proof.Machine

/-! ### A word whose checks fail -/

theorem runWord_of_checked {i : Instr} {s : State} {st : Stop} (h : precheck i s.cur = some st) (eff : State → Res) :
    runWord i s eff = .error (st, s) := by
  simp [runWord, h]

/-- A word whose checks fail takes their stop, whatever it is and whatever its guard is. -/
theorem exec_of_checked {i : Instr} {s : State} {st : Stop} (hi : i.isEvent = false) (h : precheck i s.cur = some st) :
    exec i s = .next (takeStop st s) := by
  obtain ⟨eff, v, hexec⟩ := exec_eq_endWord hi s
  rw [hexec, runWord_of_checked h]
  rfl

theorem exec_of_illFormed {i : Instr} {s : State} (hi : i.isEvent = false) (hwf : i.wf = false) :
    exec i s = .next (takeStop (formStop i s.cur) s) :=
  exec_of_checked hi (by simp [precheck, hwf])

/-! ### What a trap leaves -/

/-- The end of a helper changes its core alone. -/
theorem endHelper_frame (c : Ctx) (s : State) : endHelper c s = { s with cores := (endHelper c s).cores } := by
  unfold endHelper
  dsimp only
  split <;> rfl

/-- What a trap changes beside its own bank: the helper of its core and the notes of the word being run. -/
structure TrapFrame (c : Ctx) (s t : State) : Prop where
  mem   : t.mem = s.mem
  heap  : t.heap = s.heap
  sched : t.sched = s.sched
  res   : t.res = s.res
  plat  : t.plat = s.plat
  banks : OnlyBank c s t

/-- What the trap stop of a word saves. -/
def stopInfo (code : BitVec 8) (eval : Word) (vah : BitVec 16) (fetch next : Bool) (s : State) : TrapInfo :=
  { code := code, eval := eval, vah := vah, slot := BitVec.ofNat 2 s.iss.slot, fetch := fetch, eng := 0,
    epc := if next then s.iss.fall else s.iss.pc }

section
variable (code : BitVec 8) (eval : Word) (vah : BitVec 16) (fetch next : Bool) {s : State}

theorem takeStop_trap_eq (s : State) : takeStop (.trap code eval vah fetch next) s =
    ((trapEntry s.iss.ctx (stopInfo code eval vah fetch next s) s).raised code).verdict .diverted := rfl

/-- A trap in task mode leaves its bank as `trapBank` says. -/
theorem takeStop_trap_cur (h : s.cur.tr.mode = false) :
    (takeStop (.trap code eval vah fetch next) s).cur = trapBank (stopInfo code eval vah fetch next s) s.cur := by
  have hbank := trapEntry_bank s.iss.ctx (stopInfo code eval vah fetch next s) s h
  have hctx : (takeStop (.trap code eval vah fetch next) s).iss.ctx = s.iss.ctx := by
    rw [takeStop_trap_eq, trapEntry_task _ _ _ h, endHelper_frame]
    rfl
  rw [State.cur, hctx]
  exact hbank

/-- A trap in task mode changes nothing but its bank and its core's helper. -/
theorem takeStop_trap_frame (h : s.cur.tr.mode = false) :
    TrapFrame s.iss.ctx s (takeStop (.trap code eval vah fetch next) s) := by
  rw [takeStop_trap_eq, trapEntry_task _ _ _ h, endHelper_frame]
  exact ⟨rfl, rfl, rfl, rfl, rfl, onlyBank_setBank _ _ _⟩

end

theorem trapBank_pc (t : TrapInfo) (b : Bank) : (trapBank t b).th.pc = (drain b).tr.tvec.setWidth 48 := by simp only [trapBank]
theorem trapBank_saved (t : TrapInfo) (b : Bank) : (trapBank t b).saved = (drain b).loops := by simp only [trapBank]
theorem trapBank_loops (t : TrapInfo) (b : Bank) : (trapBank t b).loops = (drain b).loops.inactive := by
  simp only [trapBank]

/-- No loop is active in monitor code (R225). -/
theorem inactive_active (l : Loops) (k : Nat) : (l.inactive.get k).active = false := by
  unfold Loops.get
  split <;> rfl

/-! ### The stop of an ill-formed word (R325) -/

/-- The stops of a matrix word's checks up to its banks' formats: its illegal instruction, or the number of a bank whose format is
reserved. -/
def FormStop (b : Bank) (ill st : Stop) : Prop :=
  st = ill ∨ ∃ k, (bfOf (b.bfmt k)).reserved = true ∧ st = stopTrap 0x01 (BitVec.ofNat 32 k)

section
variable {b : Bank} {ill st : Stop}

theorem FormStop.firstStop {l : List (Option Stop)} (hl : ∀ o ∈ l, ∀ st, o = some st → FormStop b ill st)
    (h : firstStop l = some st) : FormStop b ill st := by
  obtain ⟨o, ho, hst⟩ := List.exists_of_findSome?_eq_some h
  exact hl o ho st hst

theorem FormStop.stopIf {p : Bool} (h : stopIf p ill = some st) : FormStop b ill st := by
  unfold Machine.stopIf at h
  split at h
  · exact .inl (Option.some.inj h).symm
  · cases h

theorem FormStop.operandFmt {k : Nat} (h : operandFmt ill (fmtAt b.sys.bfmt k) k = some st) : FormStop b ill st := by
  unfold Machine.operandFmt at h
  split at h
  case isTrue hr => exact .inr ⟨k, hr, (Option.some.inj h).symm⟩
  repeat' split at h
  case isFalse.isFalse.isFalse.isFalse => cases h
  all_goals exact .inl (Option.some.inj h).symm

theorem FormStop.mrdCheck {x : Cmd} (hx : x.fmts = b.sys.bfmt) (h : mrdCheck b x ill = some st) : FormStop b ill st := by
  unfold Machine.mrdCheck at h
  rw [hx] at h
  split at h
  · cases h
  · next k _ =>
    dsimp only at h
    split at h
    case isTrue hr => exact .inr ⟨k, hr, (Option.some.inj h).symm⟩
    case isFalse => exact .stopIf h

theorem FormStop.getD {o : Option Stop} (h : ∀ st, o = some st → FormStop b ill st) : FormStop b ill (o.getD ill) := by
  cases o with
  | none => exact .inl rfl
  | some st => exact h st rfl

theorem FormStop.mmaEarly (k : CmdKind) (o : EOps) : FormStop b ill ((mmaEarly b (cmdOf k o b) ill).getD ill) :=
  .getD fun _ h => .firstStop (by
    simp only [List.forall_mem_cons]
    exact ⟨fun _ => .stopIf, fun _ => .stopIf, fun _ => .stopIf, fun _ => .stopIf, fun _ => .stopIf, fun _ => .operandFmt,
      fun _ => .operandFmt, nofun⟩) h

theorem FormStop.rankEarly (o : EOps) : FormStop b ill ((rankEarly b (cmdOf .mrank o b) ill).getD ill) :=
  .getD fun _ h => .firstStop (by
    simp only [List.forall_mem_cons]
    exact ⟨fun _ => .stopIf, fun _ => .stopIf, fun _ => .stopIf, fun _ => .operandFmt, nofun⟩) h

theorem FormStop.mrdEarly (o : EOps) : FormStop b ill ((mrdEarly b (cmdOf .mrd o b) ill).getD ill) :=
  .getD fun _ h => .firstStop (by
    simp only [List.forall_mem_cons]
    exact ⟨fun _ => .stopIf, fun _ => .mrdCheck rfl, nofun⟩) h

end

theorem formStop_spec (i : Instr) (b : Bank) : FormStop b (illegalStop i) (formStop i b) := by
  unfold formStop
  dsimp only
  split
  · exact .inl rfl
  · split
    · exact .mmaEarly _ _
    · exact .mmaEarly _ _
    · exact .rankEarly _
    · exact .mrdEarly _
    · exact .inl rfl

theorem formStop_of_not_late {i : Instr} (h : lateChecked i = none) (b : Bank) : formStop i b = illegalStop i := by
  simp [formStop, h]

/-- The stop of an ill-formed word is an illegal instruction, with its word or the number of a bank of a reserved format in EVAL. -/
theorem formStop_eval (i : Instr) (b : Bank) : ∃ e, formStop i b = stopTrap 0x01 e ∧
    (lateChecked i = none → e = (wordOf i).extractLsb' 0 32) ∧
    (e = (wordOf i).extractLsb' 0 32 ∨ ∃ k, (bfOf (b.bfmt k)).reserved = true ∧ e = BitVec.ofNat 32 k) := by
  rcases formStop_spec i b with hill | ⟨k, hk, hst⟩
  · exact ⟨_, hill, fun _ => rfl, .inl rfl⟩
  · refine ⟨_, hst, fun hl => ?_, .inr ⟨k, hk, rfl⟩⟩
    have hill := hst.symm.trans (formStop_of_not_late hl b)
    exact (Stop.trap.inj hill).2.1

end Sys2Proof.Machine
end

section
/-! OBLIGATION O8. -/

namespace Sys2Proof.Machine

/-- Settles O8: the word takes the stop of its form, which is a trap of cause 0x01, and a trap leaves what `trapBank` and `TrapFrame` say. -/
theorem illegalInstructionTraps : Obligations.IllegalInstructionTraps := by
  intro i s hi hwf hmode
  obtain ⟨e, hstop, hword, heval⟩ := formStop_eval i s.cur
  have hexec := exec_of_illFormed (s := s) hi hwf
  rw [hstop, stopTrap] at hexec
  obtain ⟨hmem, hheap, hsched, hres, hplat, hbanks⟩ := takeStop_trap_frame 0x01 e 0 false false hmode
  have hcur := takeStop_trap_cur 0x01 e 0 false false hmode
  refine ⟨_, hexec, ?_⟩
  rw [hcur, trapBank_mode, trapBank_epc, trapBank_ecause, trapBank_eval, trapBank_pc, trapBank_saved, trapBank_loops,
    TrapInfo.ecause_code]
  exact ⟨rfl, rfl, rfl, hword, heval, rfl, rfl, fun k _ => inactive_active _ k, rfl, rfl, hmem, hheap, hsched, hres, hplat, hbanks⟩

end Sys2Proof.Machine
end

section
/-! SUPPORT. The fields of a black-box record, what results that land do not look at, and what a double fault leaves (R234, R237). -/

namespace Sys2Proof.Machine

/-! ### A record's fields -/

theorem crockBits_fields (r : CrockRec) (time seq : Nat) :
    let x := crockBits r time seq
    x.extractLsb' 8 1 = BitVec.ofNat 1 r.bank ∧ x.extractLsb' 9 5 = BitVec.ofNat 5 r.core ∧
      x.extractLsb' 16 16 = BitVec.ofNat 16 r.node ∧ x.extractLsb' 48 8 = BitVec.ofNat 8 r.code ∧
      x.extractLsb' 56 8 = BitVec.ofNat 8 r.kind ∧ x.extractLsb' 64 32 = BitVec.ofNat 32 r.epc ∧
      x.extractLsb' 96 32 = BitVec.ofNat 32 r.info ∧ x.extractLsb' 192 64 = BitVec.ofNat 64 time := by
  simp (disch := decide) only [crockBits, Laws.extract_high, Laws.extract_low, Laws.extract_all, Nat.reduceSub, and_self]

/-! ### Landing beside the engines and the wait -/

/-- A bank with other engines and another wait. -/
def Bank.withWait (e : Engines) (w : Wait) (b : Bank) : Bank := { b with eng := e, pipe := { b.pipe with wait := w } }

section
variable (e : Engines) (w : Wait)

@[simp] theorem Bank.withWait_tr (b : Bank) : (b.withWait e w).tr = b.tr := rfl
@[simp] theorem Bank.withWait_wait (b : Bank) : (b.withWait e w).pipe.wait = w := rfl
@[simp] theorem Bank.withWait_eng (b : Bank) : (b.withWait e w).eng = e := rfl

theorem setSysLoops_withWait (b : Bank) (l : Loops) : (b.withWait e w).setSysLoops l = (b.setSysLoops l).withWait e w := by
  simp only [Bank.setSysLoops, apply_ite (Bank.withWait e w)]
  rfl

/-- What a write makes of a bank does not depend on its engines or its wait. -/
theorem landWrite_withWait (b : Bank) (x : RegWrite) : landWrite (b.withWait e w) x = (landWrite b x).withWait e w := by
  cases x with
  | s n v m =>
    simp only [landWrite, apply_ite (Bank.withWait e w)]
    rfl
  | v n v m => rfl
  | p n v m =>
    simp only [landWrite, apply_ite (Bank.withWait e w)]
    rfl
  | k n v => rfl
  | sys n v =>
    simp only [landWrite, sysWrite]
    split
    case h_6 => exact setSysLoops_withWait e w b _
    case h_7 => exact setSysLoops_withWait e w b _
    case h_14 =>
      split
      · rfl
      · split
        · exact setSysLoops_withWait e w b _
        · rfl
    all_goals rfl

theorem landDue_withWait (b : Bank) (t : Nat) : landDue (b.withWait e w) t = (landDue b t).withWait e w :=
  List.foldl_hom (Bank.withWait e w) (g₁ := fun b (x : Inflight) => (landWrite b x.w).orAf x.af)
    (g₂ := fun b (x : Inflight) => (landWrite b x.w).orAf x.af)
    (init := { b with pipe := { b.pipe with inflight := b.pipe.inflight.filter fun x => decide (t < x.due) } })
    fun b x => congrArg (fun y : Bank => y.orAf x.af) (landWrite_withWait e w b x.w)

theorem landLock_withWait (b : Bank) (l : Lock) : landLock (b.withWait e w) l = (landLock b l).withWait e w :=
  congrArg (fun y : Bank => y.orAf l.af) (List.foldl_hom (Bank.withWait e w)
    (init := { b with pipe := { b.pipe with locks := b.pipe.locks.filter fun x => x.id != l.id } })
    fun b x => landWrite_withWait e w b x)

theorem drain_withWait (b : Bank) : drain (b.withWait e w) = (drain b).withWait e w := by
  unfold drain
  generalize List.range 14 = ks
  have hdue := List.foldl_hom (Bank.withWait e w) (l := ks) (init := b) (g₁ := fun a k => landDue a (a.pipe.cyc + k))
    (g₂ := fun a k => landDue a (a.pipe.cyc + k)) fun a k => landDue_withWait e w a _
  dsimp only
  rw [hdue]
  exact List.foldl_hom (Bank.withWait e w) fun a l => landLock_withWait e w a l

end

/-! ### Double faults -/

/-- The bank of a double fault in monitor mode: its results have landed, its faults are gone, and it waits for its end. -/
theorem doubleFault_bank_monitor {c : Ctx} {s : State} (h : (s.bank c).tr.mode = true) (k : Nat) (wd tv : Bool) :
    (doubleFault c k wd tv s).bank c =
      (drain (s.bank c)).withWait { cancelStopped (s.bank c).eng with faults := [] } .texit := by
  have hstart : doubleFaultBank (s.bank c) = (s.bank c).withWait { cancelStopped (s.bank c).eng with faults := [] } .texit := by
    simp only [doubleFaultBank, Bank.withWait, ← h]
  rw [doubleFault_bank, hstart, drain_withWait]

/-- The record of a double fault that a synchronous cause raises: kind 2, the second cause, and the low byte of the first. -/
def secondRec (c : Ctx) (code : BitVec 8) (s : State) : CrockRec :=
  crockThread s c 2 code.toNat ((s.bank c).tr.ecause.toNat % 256 + 0 + 0)

/-- A double fault leaves everything but its bank, the platform block and its core's helper. -/
theorem doubleFault_frame (c : Ctx) (code : BitVec 8) (s : State) : doubleFault c code.toNat false false s =
    { s with banks := (doubleFault c code.toNat false false s).banks
             cores := (doubleFault c code.toNat false false s).cores
             plat := (raiseEvent 7 (crock (secondRec c code s) s)).plat } := by
  unfold doubleFault
  rw [endHelper_frame]
  rfl

/-- The synchronous cause that a stop takes: none of one that waits. -/
def Stop.cause : Stop → BitVec 8
  | .trap code _ _ _ _ => code
  | .page cause _ _ _ => cause
  | .cold _ => 0x0C#8
  | _ => 0

/-- In monitor mode every stop but a wait is a double fault (R234). -/
theorem takeStop_monitor {st : Stop} {s : State} (hst : st ≠ .stall) (hsv : ∀ q n, st ≠ .starved q n) (h : s.cur.tr.mode = true) :
    takeStop st s = ((doubleFault s.iss.ctx st.cause.toNat false false s).raised st.cause).verdict .diverted := by
  cases st with
  | trap code eval vah fetch next => rw [takeStop_trap_eq, trapEntry_monitor _ _ _ h]; rfl
  | page cause va src cf => simp [takeStop, h, Stop.cause]
  | cold oti => simp [takeStop, h, Stop.cause]
  | stall => exact absurd rfl hst
  | starved q n => exact absurd rfl (hsv q n)

theorem takeStop_monitor_cur {st : Stop} {s : State} (hst : st ≠ .stall) (hsv : ∀ q n, st ≠ .starved q n)
    (h : s.cur.tr.mode = true) :
    (takeStop st s).cur = (drain s.cur).withWait { cancelStopped s.cur.eng with faults := [] } .texit := by
  have hbank := doubleFault_bank_monitor h st.cause.toNat false false
  rw [doubleFault_frame] at hbank
  rw [takeStop_monitor hst hsv h, State.cur_verdict, doubleFault_frame]
  exact hbank

/-- The low byte of a cause register. -/
theorem ofNat_mod_256 (x : Word) : BitVec.ofNat 32 (x.toNat % 256 + 0 + 0) = x &&& 0xFF#32 := by
  apply BitVec.eq_of_toNat_eq
  have hmask : x.toNat &&& 255 = x.toNat % 256 := Nat.and_two_pow_sub_one_eq_mod x.toNat 8
  simp only [BitVec.toNat_ofNat, BitVec.toNat_and, Nat.reducePow, Nat.reduceMod, Nat.add_zero, hmask]
  omega

end Sys2Proof.Machine
end

section
/-! OBLIGATION O10. -/

namespace Sys2Proof.Machine

/-- Settles O10: in monitor mode a stop is the double fault of its cause, which keeps the trap registers and writes one record. -/
theorem doubleFaultLaw : Obligations.DoubleFault := by
  refine ⟨fun st s hst hsv hm => ?_, fun i s hi hwf => exec_of_illFormed hi hwf, fun h o s hr => word_stops hr rfl⟩
  have hcur := takeStop_monitor_cur hst hsv hm
  have hstate := takeStop_monitor hst hsv hm
  rw [doubleFault_frame] at hstate
  have hplat : (takeStop st s).plat = (raiseEvent 7 (crock (secondRec s.iss.ctx st.cause s) s)).plat := by rw [hstate]; rfl
  dsimp only
  rw [hcur, hplat, Bank.withWait_tr, Bank.withWait_wait, Bank.withWait_eng]
  refine ⟨by rw [hstate]; rfl, rfl, rfl, rfl, (drain_mode _).trans hm, rfl, rfl, ⟨_, rfl, ?_⟩, rfl, rfl,
    raiseEvent_evtst (by decide) _, by rw [hstate]; rfl, by rw [hstate]; rfl, by rw [hstate]; rfl⟩
  obtain ⟨hbank, hcore, hnode, hcode, hkind, hepc, hinfo, htime⟩ :=
    crockBits_fields (secondRec s.iss.ctx st.cause s) s.aon s.plat.crkSeq.toNat
  exact ⟨hkind, hcode.trans (BitVec.ofNat_toNat _ _), hinfo.trans (ofNat_mod_256 _), hepc.trans (BitVec.ofNat_toNat _ _),
    hnode, hcore, hbank, htime⟩

end Sys2Proof.Machine
end

section
/-! SUPPORT. What each system register reads after a write of it (R80): one law per group of registers. -/

namespace Sys2Proof.Machine

/-! ### Fields of a word -/

/-- The low part of a word, zero-extended, is the word under a mask of its low ones. -/
theorem setWidth_extract_low {k : Nat} (h : k ≤ 32) (v : Word) : (v.extractLsb' 0 k).setWidth 32 = v &&& BitVec.ofNat 32 (2 ^ k - 1) := by
  apply BitVec.eq_of_toNat_eq
  have hk : 2 ^ k ≤ 2 ^ 32 := Nat.pow_le_pow_right (by decide) h
  have hmod : v.toNat % 2 ^ k < 2 ^ 32 := (Nat.mod_lt _ (by positivity)).trans_le hk
  rw [BitVec.toNat_setWidth, BitVec.extractLsb'_toNat, Nat.shiftRight_zero, Nat.mod_eq_of_lt hmod, BitVec.toNat_and, BitVec.toNat_ofNat,
    Nat.mod_eq_of_lt (by omega : 2 ^ k - 1 < 2 ^ 32), Nat.and_two_pow_sub_one_eq_mod]

/-- A word as the fields of STATUS (R226): MODE to bit 27, XFER, reserved bits, AF. -/
theorem status_fields (v : Word) :
    v = v.extractLsb' 27 5 ++ v.extractLsb' 18 9 ++ v.extractLsb' 6 12 ++ v.extractLsb' 0 6 := by
  rw [BitVec.extractLsb'_append_extractLsb'_eq_extractLsb' (by decide), BitVec.extractLsb'_append_extractLsb'_eq_extractLsb' (by decide),
    BitVec.extractLsb'_append_extractLsb'_eq_extractLsb' (by decide)]
  exact (Laws.extract_all v).symm

/-- A write of STATUS keeps the fields above XFER and takes XFER and AF from the word. -/
theorem status_merge (hi : BitVec 5) (x : BitVec 9) (a : BitVec 6) (v : Word) :
    hi ++ v.extractLsb' 18 9 ++ 0#12 ++ v.extractLsb' 0 6 = ((hi ++ x ++ 0#12 ++ a) &&& 0xF8000000#32) ||| (v &&& 0x07FC003F#32) := by
  have hkept : 0xF8000000#32 = BitVec.allOnes 5 ++ 0#9 ++ 0#12 ++ 0#6 := by decide
  have htaken : 0x07FC003F#32 = 0#5 ++ BitVec.allOnes 9 ++ 0#12 ++ BitVec.allOnes 6 := by decide
  have hfields (h' : BitVec 5) (x' : BitVec 9) (r : BitVec 12) (a' : BitVec 6) :
      ((hi ++ x ++ 0#12 ++ a) &&& (BitVec.allOnes 5 ++ 0#9 ++ 0#12 ++ 0#6)) |||
        ((h' ++ x' ++ r ++ a') &&& (0#5 ++ BitVec.allOnes 9 ++ 0#12 ++ BitVec.allOnes 6)) = hi ++ x' ++ 0#12 ++ a' := by
    simp only [BitVec.and_append, BitVec.or_append, BitVec.and_allOnes, BitVec.and_zero, BitVec.or_zero, BitVec.zero_or]
  conv_rhs => rw [status_fields v, hkept, htaken]
  exact (hfields _ _ _ _).symm

/-! ### Loop state -/

theorem sysLoops_setSysLoops (b : Bank) (l : Loops) : (b.setSysLoops l).sysLoops = l := by
  cases h : b.tr.mode <;> simp [Bank.sysLoops, Bank.setSysLoops, h]

theorem Loops.get_set {k : Nat} (h : k < 4) (l : Loops) (x : LoopReg) : (l.set k x).get k = x := by
  obtain rfl | rfl | rfl | rfl : k = 0 ∨ k = 1 ∨ k = 2 ∨ k = 3 := by omega
  all_goals rfl

/-- Each half of a loop register reads back: LS and LE in 32 and 16 bits, LC whole, ACT in one bit (R80). -/
theorem loopSysRead_loopSysWrite (x : LoopReg) {f : Nat} (h : f < 6) (v : Word) : loopSysRead (loopSysWrite x f v) f =
    if f = 1 ∨ f = 3 then v &&& 0xFFFF#32 else if f = 5 then v &&& 1#32 else v := by
  have hlow (u : BitVec 16) : (u ++ v).extractLsb' 0 32 = v := BitVec.extractLsb'_append_eq_right
  have hhigh (u : BitVec 32) : ((v.extractLsb' 0 16 ++ u).extractLsb' 32 16).setWidth 32 = v &&& 0xFFFF#32 := by
    rw [BitVec.extractLsb'_append_eq_left]
    exact setWidth_extract_low (by decide) v
  have hact : (bit1 (v.getLsbD 0)).setWidth 32 = v &&& 1#32 := by
    have hbit : bit1 (v.getLsbD 0) = v.extractLsb' 0 1 := by
      apply BitVec.eq_of_getLsbD_eq
      intro i hi
      obtain rfl : i = 0 := by omega
      simp [bit1]
    rw [hbit]
    exact setWidth_extract_low (by decide) v
  obtain rfl | rfl | rfl | rfl | rfl | rfl : f = 0 ∨ f = 1 ∨ f = 2 ∨ f = 3 ∨ f = 4 ∨ f = 5 := by omega
  · exact hlow _
  · exact hhigh _
  · exact hlow _
  · exact hhigh _
  · rfl
  · exact hact

/-! ### Bank formats and loop registers by number -/

section
variable (b : Bank) (v : Word) (s : State) (c : Ctx)

theorem sysWrite_bfmt {k : Nat} (h : k < 16) : sysWrite b (0x030 + k) v =
    { b with sys := { b.sys with bfmt := tabSet b.sys.bfmt k (v &&& 0x7FEF#32) } } := by
  unfold sysWrite
  split
  case h_14 => rw [if_pos (by omega), Nat.add_sub_cancel_left]
  all_goals omega

theorem sysRead_bfmt {k : Nat} (h : k < 16) : sysRead s c b (0x030 + k) = b.bfmt k := by
  unfold sysRead
  split
  case h_25 => rw [if_pos (by omega), Nat.add_sub_cancel_left]
  all_goals omega

theorem sysWrite_loop {l f : Nat} (hl : l < 4) (hf : f < 6) : sysWrite b (0x040 + 8 * l + f) v =
    b.setSysLoops (b.sysLoops.set l (loopSysWrite (b.sysLoops.get l) f v)) := by
  have hix : (0x040 + 8 * l + f - 0x040) / 8 = l := by omega
  have hfield : (0x040 + 8 * l + f) % 8 = f := by omega
  unfold sysWrite
  split
  case h_14 =>
    rw [if_neg (by omega), if_pos (by omega)]
    dsimp only
    rw [hix, hfield]
  all_goals omega

theorem sysRead_loop {l f : Nat} (hl : l < 4) (hf : f < 6) : sysRead s c b (0x040 + 8 * l + f) =
    loopSysRead (b.sysLoops.get l) f := by
  have hix : (0x040 + 8 * l + f - 0x040) / 8 = l := by omega
  have hfield : (0x040 + 8 * l + f) % 8 = f := by omega
  unfold sysRead
  split
  case h_25 => rw [if_neg (by omega), if_pos (by omega), hix, hfield]
  all_goals omega

end

end Sys2Proof.Machine
end

section
/-! OBLIGATION O27. -/

namespace Sys2Proof.Machine

/-- Settles O27: a register outside STATUS, the bank formats and the loop state reads the value that its write left, under its mask. -/
theorem systemRegisterReadBack : Obligations.SystemRegisterReadBack := by
  intro s c b v
  have hrot : sysRead s c (sysWrite b 0x016 v) 0x016 = v := congrArg Loops.rot (sysLoops_setSysLoops b _)
  have hprot : sysRead s c (sysWrite b 0x017 v) 0x017 = v := congrArg Loops.prot (sysLoops_setSysLoops b _)
  refine ⟨rfl, rfl, rfl, rfl, hrot, hprot, rfl, rfl, rfl, rfl, rfl, rfl, fun k hk => ?_, fun l f hl hf => ?_, ?_⟩
  · rw [sysRead_bfmt _ _ _ hk, sysWrite_bfmt _ _ hk]
    exact tabGet_tabSet_same _ _ _ _
  · rw [sysRead_loop _ _ _ hl hf, sysWrite_loop _ _ hl hf, sysLoops_setSysLoops, Loops.get_set hl, loopSysRead_loopSysWrite _ hf]
  · exact status_merge _ _ _ _

end Sys2Proof.Machine
end

section
/-! SUPPORT. Misaligned memory words: the alignment is tested before all else (R231, R320, R346). -/

namespace Sys2Proof.Machine

theorem aligned_of_not_dvd {va a : Nat} (s : State) (h : va % a ≠ 0) : aligned s va a = .error (stopAddr 0x04 va, s) := if_neg h

section
variable {s : State} {o : MOps}

/-! ### The effect of each word -/

theorem loadEffect_misaligned (h : mVa s.cur o % szAlign o.sz ≠ 0) : loadEffect o s = .error (stopAddr 0x04 (mVa s.cur o), s) := by
  simp only [loadEffect, aligned_of_not_dvd s h]

theorem ldvEffect_misaligned (h : mVa s.cur o % szAlign o.sz ≠ 0) : ldvEffect o s = .error (stopAddr 0x04 (mVa s.cur o), s) := by
  simp only [ldvEffect, aligned_of_not_dvd s h]

theorem storeEffect_misaligned (h : mVa s.cur o % szAlign o.sz ≠ 0) : storeEffect o s = .error (stopAddr 0x04 (mVa s.cur o), s) := by
  simp only [storeEffect, aligned_of_not_dvd s h]

theorem stvEffect_misaligned (h : mVa s.cur o % szAlign o.sz ≠ 0) : stvEffect o s = .error (stopAddr 0x04 (mVa s.cur o), s) := by
  simp only [stvEffect, aligned_of_not_dvd s h]

theorem ldmEffect_misaligned (h : rangeVa s.cur o 0 % 64 ≠ 0) : ldmEffect o s = .error (stopAddr 0x04 (rangeVa s.cur o 0), s) := by
  simp only [ldmEffect, aligned_of_not_dvd s h]

theorem stmEffect_misaligned (h : rangeVa s.cur o 0 % 64 ≠ 0) : stmEffect o s = .error (stopAddr 0x04 (rangeVa s.cur o 0), s) := by
  simp only [stmEffect, aligned_of_not_dvd s h]

theorem atomicEffect_misaligned {off : Word} (h : mAddr s.cur (s.cur.sreg o.bs.toNat) off % szBytes o.sz ≠ 0)
    (new : Nat → Option Nat) : atomicEffect o off new s = .error (stopAddr 0x04 (mAddr s.cur (s.cur.sreg o.bs.toNat) off), s) := by
  simp only [atomicEffect, aligned_of_not_dvd s h]

/-- ACQ and REL name a pair of 8 bytes. -/
theorem execAcq_misaligned {h : Hdr} (hr : Runs (.acq h o) s) (ha : mVa s.cur o % 8 ≠ 0) :
    exec (.acq h o) s = .next (takeStop (stopAddr 0x04 (mVa s.cur o)) s) :=
  word_stops hr (by simp only [aligned_of_not_dvd s ha])

theorem execRel_misaligned {h : Hdr} (hr : Runs (.rel h o) s) (ha : mVa s.cur o % 8 ≠ 0) :
    exec (.rel h o) s = .next (takeStop (stopAddr 0x04 (mVa s.cur o)) s) :=
  word_stops hr (by simp only [aligned_of_not_dvd s ha])

end

/-! ### What the trap leaves -/

/-- No trap of a word changes memory, in task mode or in monitor mode. -/
theorem takeStop_trap_mem (code : BitVec 8) (eval : Word) (vah : BitVec 16) (fetch next : Bool) (s : State) :
    (takeStop (.trap code eval vah fetch next) s).mem = s.mem := by
  cases hm : s.cur.tr.mode with
  | false => exact (takeStop_trap_frame code eval vah fetch next hm).mem
  | true => rw [takeStop_monitor (st := .trap code eval vah fetch next) nofun (fun _ _ => nofun) hm, doubleFault_frame]; rfl

/-- A trap at an address, taken in task mode: its cause, the address in EVAL, and the bundle's own address in EPC (R228, R230). -/
theorem takeStop_stopAddr_task (code : BitVec 8) (va : Nat) {s : State} (hm : s.cur.tr.mode = false) :
    let t := takeStop (stopAddr code va) s
    t.cur.tr.mode = true ∧ t.cur.tr.ecause.extractLsb' 0 8 = code ∧ t.cur.tr.eval = BitVec.ofNat 32 va ∧
      t.cur.tr.epc = s.iss.pc.extractLsb' 3 32 := by
  dsimp only
  rw [stopAddr, takeStop_trap_cur _ _ _ _ _ hm, trapBank_mode, trapBank_epc, trapBank_ecause, trapBank_eval, TrapInfo.ecause_code]
  exact ⟨rfl, rfl, rfl, rfl⟩

end Sys2Proof.Machine
end

section
/-! OBLIGATION O37. -/

namespace Sys2Proof.Machine

/-- Settles O37: each word tests its alignment before all else, and the trap at its address leaves memory as it was. -/
theorem misalignedTraps : Obligations.MisalignedTraps := by
  intro i s va hr hcase
  refine ⟨?_, takeStop_trap_mem _ _ _ _ _ s, takeStop_stopAddr_task 0x04 va⟩
  rcases hcase with ⟨h, o, hi, rfl, ha⟩ | ⟨h, o, hi, rfl, ha⟩ | ⟨h, o, rfl, rfl, ha⟩ | ⟨h, o, rfl, rfl, ha⟩ | ⟨h, o, hi, rfl, ha⟩
  · rcases hi with rfl | rfl | rfl | rfl
    · exact word_stops hr (loadEffect_misaligned ha)
    · exact word_stops hr (ldvEffect_misaligned ha)
    · exact word_stops hr (storeEffect_misaligned ha)
    · exact word_stops hr (stvEffect_misaligned ha)
  · rcases hi with rfl | rfl
    · exact word_stops hr (ldmEffect_misaligned ha)
    · exact word_stops hr (stmEffect_misaligned ha)
  · exact word_stops hr (atomicEffect_misaligned ha _)
  · exact word_stops hr (atomicEffect_misaligned ha _)
  · rcases hi with rfl | rfl
    · exact execAcq_misaligned hr ha
    · exact execRel_misaligned hr ha

end Sys2Proof.Machine
end

section
/-! OBLIGATION O30. -/

namespace Sys2Proof.Machine

/-- Settles O30: the return takes the loops from the copies that the trap saved and the address from its EPC. -/
theorem trapThenReturn : Obligations.TrapThenReturn := by
  intro c t s h
  rw [trapReturn_bank, trapEntry_bank c t s h]
  simp only [trapBank, Bank.epcAddr, epcOf]

end Sys2Proof.Machine
end

section
/-! SUPPORT. The length of the re-sync record, and what a move leaves of a device without power (R264, R266, R404, log 46): everything but
the always-on side's registers and time, and the 4 KiB of a record that was asked for. -/

namespace Sys2Proof.Machine

/-! ### The record of 4 KiB (R266) -/

@[simp] theorem padTo_length (n : Nat) (b : List Byte) : (padTo n b).length = n := by simp [padTo]

theorem sha3_length_le (m : List Byte) : (sha3 m).length ≤ 32 := by
  simp only [sha3, List.length_flatMap, natLe_length, List.map_const', List.length_take, List.sum_replicate, smul_eq_mul]
  omega

theorem resyncRecord_length_le (s : State) : (resyncRecord s).length ≤ 4096 := by
  rw [resyncRecord, List.length_append, padTo_length]
  exact Nat.add_le_add_left (sha3_length_le _) 0xFE0

/-! ### A device without power -/

/-- The NPU domain is neither awake nor asleep: before its boot, off, or stopped by a fatal error. -/
def State.dark (s : State) : Prop := s.plat.power = .booting ∨ s.plat.power = .off ∨ s.plat.power = .dead

theorem State.dark.not_on {s : State} (h : s.dark) : s.plat.power ≠ .on := by rcases h with h | h | h <;> simp [h]
theorem State.dark.not_asleep {s : State} (h : s.dark) : s.plat.power ≠ .asleep := by rcases h with h | h | h <;> simp [h]
theorem State.dark.not_waking {s : State} (h : s.dark) : s.plat.power ≠ .waking := by rcases h with h | h | h <;> simp [h]

theorem State.awake_of_not_on {s : State} (h : s.plat.power ≠ .on) : s.awake = false := beq_false_of_ne h

/-- The NPU domain and the memories, and the list of moves. -/
def npuParts (s : State) : Tab Bank × Tab Core × MemBlk × Heap × Sched × Resid × List Move :=
  (s.banks, s.cores, s.mem, s.heap, s.sched, s.res, s.agenda)

/-- The power state and the NPU domain stay. -/
structure DarkKeeps (s t : State) : Prop where
  power : t.plat.power = s.plat.power
  npu   : npuParts t = npuParts s

namespace DarkKeeps

variable {s t u : State}

theorem refl (s : State) : DarkKeeps s s := ⟨rfl, rfl⟩

theorem trans (h : DarkKeeps s t) (h' : DarkKeeps t u) : DarkKeeps s u := ⟨h'.power.trans h.power, h'.npu.trans h.npu⟩

theorem of_ite {c : Prop} [Decidable c] (ht : DarkKeeps s t) (hu : DarkKeeps s u) : DarkKeeps s (if c then t else u) := by
  split
  · exact ht
  · exact hu

end DarkKeeps

/-! ### The events that need no power -/

theorem resyncGo_keeps (s : State) : DarkKeeps s (resyncGo s) := .of_ite (.refl s) ⟨rfl, rfl⟩

/-- A command that needs the NPU domain does not start without its power (R254). -/
theorem ifAwake_keeps {s t : State} (h : DarkKeeps s t) (hp : s.plat.power ≠ .on) (go : Bool) (f : State → State) :
    DarkKeeps s (ifAwake t go f) := by
  have hawake : t.awake = false := State.awake_of_not_on (h.power ▸ hp)
  simpa [ifAwake, hawake] using h

theorem rsctlWrite_keeps (s : State) (v : BitVec 64) : DarkKeeps s (rsctlWrite s v) := by
  have hgo {t : State} (h : DarkKeeps s t) : DarkKeeps s (after (execResync t) t) := h.trans (.of_ite (resyncGo_keeps t) (.refl t))
  exact .of_ite (hgo (by exact ⟨rfl, rfl⟩)) ⟨rfl, rfl⟩

theorem platWrite_keeps {s : State} (hp : s.plat.power ≠ .on) (off : Nat) (v : BitVec 64) : DarkKeeps s (platWrite s off v) := by
  unfold platWrite
  dsimp only
  split
  · exact ⟨rfl, rfl⟩
  split
  · exact ⟨rfl, rfl⟩
  split
  -- SLPCTL, KEYCTL and ATTCTL ask for the domain's power; RSCTL does not
  case h_3 => exact ifAwake_keeps (by exact ⟨rfl, rfl⟩) hp _ _
  case h_4 => exact ifAwake_keeps (by exact ⟨rfl, rfl⟩) hp _ _
  case h_7 => exact ifAwake_keeps (by exact ⟨rfl, rfl⟩) hp _ _
  case h_9 => exact rsctlWrite_keeps s v
  all_goals exact ⟨rfl, rfl⟩

theorem ctlWrite_keeps {s : State} (hp : s.plat.power ≠ .on) (off : Nat) (v : BitVec 64) : DarkKeeps s (ctlWrite s off v) := by
  unfold ctlWrite
  dsimp only
  split
  · exact .of_ite (.refl s) (platWrite_keeps hp _ _)
  · rw [State.awake_of_not_on hp]
    exact .refl s

theorem wakeUp_keeps {s : State} (h : s.dark) (src : BitVec 4) : DarkKeeps s (wakeUp s src) := by
  rw [wakeUp, State.awake_of_not_on h.not_on, Bool.false_and, if_neg Bool.false_ne_true, if_pos h.not_asleep]
  exact .refl s

theorem answer_keeps (s : State) (b : List Byte) : DarkKeeps s (answer s b) := ⟨rfl, rfl⟩
theorem nextResync_keeps (s : State) : DarkKeeps s (nextResync s) := ⟨rfl, rfl⟩

/-- What a re-sync in progress writes: nothing, or at most 4 KiB at the place that it was asked for. -/
def ResyncWrites (s t : State) : Prop :=
  t = s ∨ s.plat.rs.busy = true ∧ ∃ b : List Byte, b.length ≤ 4096 ∧ t = sysPut s s.plat.rsRun.toNat b

/-- The state with the record in its place, where that can be written, and the state once the re-sync has ended. -/
def resyncWritten (s : State) : State :=
  if unitFault s s.plat.rsRun.toNat 4096 .wr then s else sysPut s s.plat.rsRun.toNat (resyncRecord s)
def resyncEnded (s : State) : State :=
  raiseEvent 12 { nextResync s with plat := { (nextResync s).plat with rs := { (nextResync s).plat.rs with busy := false, done := true } } }

theorem execResyncDone_eq (s : State) : execResyncDone s =
    .next (if !s.plat.rs.busy || unitWait s s.plat.rsRun.toNat 4096 .wr then s else resyncEnded (resyncWritten s)) := rfl

theorem resyncEnded_keeps (s : State) : DarkKeeps s (resyncEnded s) := ⟨rfl, rfl⟩

theorem execResyncDone_dark (s : State) : ∃ t u, execResyncDone s = .next t ∧ ResyncWrites s u ∧ DarkKeeps u t := by
  rw [execResyncDone_eq]
  split
  · exact ⟨_, s, rfl, .inl rfl, .refl s⟩
  next h =>
    have hbusy : s.plat.rs.busy = true ∧ unitWait s s.plat.rsRun.toNat 4096 .wr = false := by simpa using h
    refine ⟨_, resyncWritten s, rfl, ?_, resyncEnded_keeps _⟩
    unfold resyncWritten
    split
    · exact .inl rfl
    · exact .inr ⟨hbusy.1, resyncRecord s, resyncRecord_length_le s, rfl⟩

/-- An event that needs no power, other than a boot and a loss of supply. -/
theorem exec_powerless_dark {i : Instr} {s : State} (h : s.dark) (hi : powerless i = true) (hr : Move.revives (.event i) = false) :
    ∃ t u, exec i s = .next t ∧ ResyncWrites s u ∧ DarkKeeps u t := by
  have hquiet {t : State} (he : exec i s = .next t) (hk : DarkKeeps s t) : ∃ t u, exec i s = .next t ∧ ResyncWrites s u ∧ DarkKeeps u t :=
    ⟨t, s, he, .inl rfl, hk⟩
  cases i
  case registerWrite off val => exact hquiet rfl (ctlWrite_keeps h.not_on _ _)
  case resync => exact hquiet rfl (.of_ite (resyncGo_keeps s) (.refl s))
  case resyncDone => exact execResyncDone_dark s
  case linkChange l => exact hquiet rfl (.of_ite (.refl s) ⟨rfl, rfl⟩)
  case wake src => exact hquiet rfl (wakeUp_keeps h _)
  case mgmtWake => exact hquiet rfl (wakeUp_keeps h _)
  case wakeComplete => exact hquiet (congrArg Host.Outcome.next (if_neg h.not_waking)) (.refl s)
  case mgmtStatus => exact hquiet rfl (.of_ite (answer_keeps s _) (.refl s))
  case mgmtReadCrock start count => exact hquiet rfl (.of_ite (answer_keeps s _) (.refl s))
  case mgmtResync => exact hquiet rfl (.of_ite ((answer_keeps s _).trans (nextResync_keeps _)) (.refl s))
  case boot b => cases hr
  case powerLoss aon => cases hr
  -- every other row needs power
  all_goals cases hi

/-! ### Moves -/

theorem makeMove_issue_of_not_on {s : State} (core : Fin 32) (h : s.plat.power ≠ .on) : makeMove (.issue core) s = .fault .noPower :=
  if_neg h

theorem tick_keeps {s : State} (hp : s.plat.power ≠ .on) : DarkKeeps s (tick s) := by
  rw [tick, if_pos (by exact hp)]
  exact ⟨rfl, rfl⟩

theorem elapse_keeps {s : State} (hp : s.plat.power ≠ .on) (n : Nat) : DarkKeeps s (elapse n s) := by
  induction n generalizing s with
  | zero => exact .refl s
  | succ n ih => exact (tick_keeps hp).trans (ih ((tick_keeps hp).power ▸ hp))

theorem sleepDone_of_not_on {s : State} (hp : s.plat.power ≠ .on) : sleepDone s = s := by
  simp [sleepDone, State.awake_of_not_on hp]

/-- What a move leaves: the record of a re-sync, and the NPU domain as it was. -/
theorem makeMove_dark {m : Move} {s t : State} (h : s.dark) (hr : m.revives = false) (hm : makeMove m s = .next t) :
    ∃ u, ResyncWrites s u ∧ DarkKeeps u t := by
  have hoff := h.not_on
  have hsame (ht : Host.Outcome.next s = (.next t : Host.Outcome State Fault Refusal)) : ∃ u, ResyncWrites s u ∧ DarkKeeps u t := by
    obtain rfl := Host.Outcome.next.inj ht
    exact ⟨s, .inl rfl, .refl s⟩
  cases m with
  | issue core => rw [makeMove_issue_of_not_on core hoff] at hm; cases hm
  | event i =>
    rw [makeMove] at hm
    split at hm
    next hc =>
      simp only [Bool.and_eq_true, Bool.or_eq_true, beq_iff_eq] at hc
      obtain ⟨⟨-, hpower⟩, -⟩ := hc
      have hi : powerless i = true := hpower.resolve_left hoff
      obtain ⟨t', u, he, hu⟩ := exec_powerless_dark h hi hr
      obtain rfl := Host.Outcome.next.inj (he.symm.trans hm)
      exact ⟨u, hu⟩
    next => exact hsame hm
  | elapse n =>
    obtain rfl := Host.Outcome.next.inj hm
    exact ⟨s, .inl rfl, elapse_keeps hoff n⟩
  | sleepDone => exact hsame ((congrArg _ (sleepDone_of_not_on hoff)).symm.trans hm)
  | crossingDone a b =>
    obtain rfl := Host.Outcome.next.inj hm
    exact ⟨s, .inl rfl, rfl, rfl⟩
  -- the other moves ask for power themselves
  | _ => exact hsame (by simpa [makeMove, hoff] using hm)

/-! ### What lands where no bank changes -/

theorem landedWrites_self (b : Bank) : landedWrites b b = [] := by
  have hlocks : b.pipe.locks.filter (fun l => !(b.pipe.locks.any fun m => m.id == l.id && m.ws.length == l.ws.length)) = [] :=
    List.filter_eq_nil_iff.mpr fun l hl => by simpa using ⟨l, hl, rfl, rfl⟩
  simp [landedWrites, hlocks]

theorem healLanded_of_same_banks {s t : State} (h : t.banks = s.banks) : healLanded s t = t := by
  have hbank (c : Ctx) : t.bank c = s.bank c := by rw [State.bank, h, State.bank]
  simp [healLanded, hbank, landedWrites_self]

end Sys2Proof.Machine
end

section
/-! OBLIGATION O60. -/

namespace Sys2Proof.Machine

/-- A round of a dark device lists the end of a re-sync and the passage of time. -/
theorem roundMoves_dark {s : State} (h : s.dark) : (roundMoves s).all (fun m => !m.revives) = true := by
  rcases h with h | h | h <;> cases hb : s.plat.rs.busy <;> simp [roundMoves, h, hb, Move.revives]

/-- The moves that are left after a step. -/
def nextAgenda (s : State) : List Move := if s.agenda.isEmpty then roundMoves s else s.agenda.tail

/-- A step of a dark device: its move is taken from the agenda, which is listed anew where it is empty. -/
theorem step_dark {s t : State} (h : DarkInv s) (hs : step s = .next t) : (nextAgenda s).all (fun m => !m.revives) = true ∧
    ∃ u, ResyncWrites { s with agenda := nextAgenda s } u ∧ DarkKeeps u t := by
  obtain ⟨hdark, hall⟩ := h
  simp only [step, nextMove] at hs
  split at hs
  next m r ha =>
    rw [ha, List.all_cons, Bool.and_eq_true] at hall
    obtain ⟨hm, hr⟩ := hall
    have hnext : nextAgenda s = r := by simp [nextAgenda, ha]
    rw [hnext]
    refine ⟨hr, ?_⟩
    cases ho : makeMove m { s with agenda := r } with
    | next t' =>
      obtain ⟨u, hu, hk⟩ := makeMove_dark (s := { s with agenda := r }) hdark (by simpa using hm) ho
      have hbanks : t'.banks = s.banks := by
        have hput : u.banks = s.banks := by rcases hu with rfl | ⟨-, b, -, rfl⟩ <;> rfl
        exact (congrArg Prod.fst hk.npu).trans hput
      rw [ho] at hs
      obtain rfl := Host.Outcome.next.inj hs
      rw [healLanded_of_same_banks hbanks]
      exact ⟨u, hu, hk⟩
    | fault f => rw [ho] at hs; cases hs
    | refused f => rw [ho] at hs; cases hs
  next ha =>
    obtain rfl := Host.Outcome.next.inj hs
    have hnext : nextAgenda s = roundMoves s := by simp [nextAgenda, ha]
    rw [hnext]
    exact ⟨roundMoves_dark hdark, _, .inl rfl, .refl _⟩

/-- The bytes of main memory outside the 4 KiB of a record stay. -/
theorem ResyncWrites.mainByte {s u : State} (h : ResyncWrites s u) {a : Nat}
    (ha : a < s.plat.rsRun.toNat ∨ s.plat.rsRun.toNat + 4096 ≤ a) : u.mainByte a = s.mainByte a := by
  rcases h with rfl | ⟨-, b, hb, rfl⟩
  · rfl
  · exact memByte_memSetBytes_other _ _ _ _ (ha.imp_right (Nat.add_le_add_left hb _).trans)

/-- Settles O60: a step of a dark device writes at most the record of a re-sync, and otherwise touches the always-on side alone. -/
theorem nothingRunsWithoutPower : Obligations.NothingRunsWithoutPower := by
  refine ⟨fun s t h hs => ?_, fun c s h => ⟨.inr (.inr rfl), h⟩⟩
  obtain ⟨hall, u, hu, hpower, hnpu⟩ := step_dark h hs
  simp only [npuParts, Prod.mk.injEq] at hnpu
  obtain ⟨hbanks, hcores, hmem, hheap, hsched, hres, hagenda⟩ := hnpu
  have hbyte (a : Nat) (ha : a < s.plat.rsRun.toNat ∨ s.plat.rsRun.toNat + 4096 ≤ a) : t.mainByte a = s.mainByte a := by
    rw [State.mainByte, hmem]
    exact hu.mainByte ha
  rcases hu with rfl | ⟨hbusy, b, -, rfl⟩
  · refine ⟨⟨?_, hagenda ▸ hall⟩, hpower, hbanks, hcores, hheap, hsched, hres, fun _ => hmem, ?_, hbyte⟩
    · rw [hpower]; exact h.1
    · rw [hmem]
  · refine ⟨⟨?_, hagenda ▸ hall⟩, hpower, hbanks, hcores, hheap, hsched, hres, fun hidle => ?_, ?_, hbyte⟩
    · rw [hpower]; exact h.1
    · exact absurd hbusy (by simp [hidle])
    · rw [hmem]; rfl

end Sys2Proof.Machine
end

section
/-! OBLIGATION O59. -/

namespace Sys2Proof.Machine

theorem loops_get_reset (k : Nat) : Loops.reset.get k = .reset := by
  unfold Loops.get
  split <;> rfl

/-- No predicate is rotated. -/
theorem physP_reset {n : Nat} (h : n < 16) : Bank.reset.physP n = n := by
  have hrot : Bank.reset.protv = 0 := rfl
  rw [Bank.physP, hrot]
  split <;> omega

/-- Settles O59: every table is empty, so that a register of any number reads its default. -/
theorem resetState : Obligations.ResetState := by
  refine ⟨rfl, fun _ => rfl, rfl, rfl, rfl, rfl, rfl, rfl, rfl, rfl, fun n => ⟨ite_self _, rfl, rfl⟩, fun n => rfl, fun n h => ?_,
    fun n => ⟨rfl, rfl, rfl, rfl, rfl, rfl⟩, loops_get_reset, rfl, rfl, rfl, rfl, rfl, rfl, ⟨.inl rfl, rfl⟩,
    fun core s => makeMove_issue_of_not_on core⟩
  rw [Bank.preg, physP_reset h]
  rfl

end Sys2Proof.Machine
end

section
/-! SUPPORT. An access of memory changes the banks, the cores, the memory block and the platform block alone (R118, R139, R241). -/

namespace Sys2Proof.Machine

/-- The device but for what an access of memory may change. -/
def besideAccess (s : State) : State := { s with banks := [], cores := [], mem := .reset, plat := .reset }

/-! ### Lines -/

theorem foundUe_beside (s : State) (w : Option Ctx) (strc key : Nat) : besideAccess (foundUe s w strc key) = besideAccess s := by
  have hcount : besideAccess (countUe s w strc key) = besideAccess s := rfl
  have hdrop (t : State) : besideAccess (t.dropBad strc key) = besideAccess t := rfl
  have hcore (t : State) (k : Fin 32) (x : Core) : besideAccess (t.setCore k x) = besideAccess t := rfl
  have hfam (t : State) (f : Nat) (on off : Byte) : besideAccess (t.famSet f on off) = besideAccess t := rfl
  have hfatal (t : State) : besideAccess (fatalError 3 t) = besideAccess t := rfl
  simp only [foundUe, apply_ite besideAccess, hfatal, hfam, hcore, hdrop, hcount, ite_self]

theorem flushLine_beside (s : State) (ln : Nat) (l : Line) : besideAccess (s.flushLine ln l) = besideAccess s := by
  unfold State.flushLine
  split <;> rfl

theorem writeBack_beside (s : State) (k : Fin 32) (ln : Nat) (tag : Option (BitVec 2)) :
    besideAccess (writeBack s k ln tag) = besideAccess s := by
  unfold writeBack
  split
  · rfl
  · split
    · exact foundUe_beside _ _ _ _
    · exact flushLine_beside _ _ _

theorem evictLine_beside (s : State) (k : Fin 32) (ln : Nat) : besideAccess (evictLine s k ln) = besideAccess s := by
  unfold evictLine
  split
  · rfl
  · split
    · split
      · exact foundUe_beside _ _ _ _
      · rfl
    · exact flushLine_beside _ _ _

theorem invLines_beside (s : State) (k : Fin 32) (p : Nat → Bool) : besideAccess (invLines s k p) = besideAccess s := by
  refine foldl_keeps besideAccess (fun t x => ?_) _ _
  split
  · exact evictLine_beside _ _ _
  · rfl

theorem wbAll_beside (s : State) (k : Fin 32) (sc : BitVec 2) : besideAccess (wbAll s k sc) = besideAccess s := by
  unfold wbAll
  split
  · rfl
  · refine foldl_keeps besideAccess (fun t x => ?_) _ _
    split
    · exact writeBack_beside _ _ _ _
    · rfl

theorem invAll_beside (s : State) (k : Fin 32) (sc : BitVec 2) : besideAccess (invAll s k sc) = besideAccess s := by
  unfold invAll
  split
  · rfl
  · exact invLines_beside _ _ _

theorem fillLine_beside (s : State) (k : Fin 32) (ln : Nat) : besideAccess (fillLine s k ln).1 = besideAccess s := by
  unfold fillLine
  split <;> rfl

theorem syncRead_beside (s : State) (pa n : Nat) : besideAccess (s.syncRead pa n) = besideAccess s := by
  refine foldl_keeps besideAccess (fun t w => ?_) _ _
  dsimp only
  split
  · rfl
  · exact foldl_keeps besideAccess (op := fun s k => wbAll s k 3) (fun u k => wbAll_beside u k 3) _ t

theorem syncStore_beside (s : State) (pa n : Nat) : besideAccess (s.syncStore pa n) = besideAccess s :=
  foldl_keeps besideAccess (op := fun s w => s.setSync w { s.syncWord w with rels := [], full := true }) (fun _ _ => rfl) _ _

theorem cacheRead_beside (s : State) (k : Fin 32) (pa n : Nat) (l1 : Bool) : besideAccess (cacheRead s k pa n l1).1 = besideAccess s := by
  unfold cacheRead
  split
  · exact fillLine_beside _ _ _
  · exact writeBack_beside _ _ _ _

theorem cacheWrite_beside (s : State) (k : Fin 32) (pa : Nat) (b : List Byte) (l1 : Bool) (sc : BitVec 2) :
    besideAccess (cacheWrite s k pa b l1 sc) = besideAccess s := by
  unfold cacheWrite
  dsimp only
  split
  · exact fillLine_beside _ _ _
  · split
    · exact syncStore_beside _ _ _
    · exact (syncStore_beside _ _ _).trans (flushLine_beside _ _ _)

/-! ### The steps of a thread -/

theorem noEarly_beside (s : State) (c : Ctx) : besideAccess (s.noEarly c) = besideAccess s := by
  unfold State.noEarly
  split <;> rfl

theorem storeOver_beside (s : State) (c : Ctx) (pa n : Nat) : besideAccess (s.storeOver c pa n) = besideAccess s := by
  unfold State.storeOver
  split <;> rfl

theorem readLoc_beside (s : State) (c : Ctx) (loc : Loc) (n : Nat) (l1 : Bool) : besideAccess (readLoc s c loc n l1).1 = besideAccess s := by
  have hread (t : State) (a : Nat) : besideAccess (cacheRead (if l1 then t else t.syncRead a n) c.core a n l1).1 = besideAccess t := by
    rw [cacheRead_beside, apply_ite besideAccess, syncRead_beside, ite_self]
  unfold readLoc
  split
  · rfl
  · split
    · exact hread s _
    · dsimp only
      split
      · rfl
      · exact hread _ _

theorem writeLoc_beside (s : State) (c : Ctx) (loc : Loc) (b : List Byte) (l1 : Bool) (sc : BitVec 2) :
    besideAccess (writeLoc s c loc b l1 sc) = besideAccess s := by
  unfold writeLoc
  split
  · rfl
  · exact (cacheWrite_beside _ _ _ _ _ _).trans (storeOver_beside _ _ _ _)

theorem performStep_beside (s : State) (c : Ctx) (m : MemStep) : besideAccess (performStep s c m) = besideAccess s := by
  unfold performStep
  split
  · exact writeLoc_beside _ _ _ _ _ _
  · have hread := readLoc_beside s c m.loc 64 m.l1
    dsimp only
    split
    · rw [afterAcquire, if_pos rfl, noEarly_beside, invAll_beside]
      exact hread
    · exact hread

theorem nextStep_beside (s : State) (c : Ctx) : besideAccess (nextStep s c) = besideAccess s := by
  unfold nextStep
  dsimp only
  split
  · rfl
  · exact performStep_beside _ _ _

end Sys2Proof.Machine
end

section
/-! SUPPORT. The always-on time is no part of any unit of the NPU domain: no cycle of a core, a cluster or a bucket changes it (R241 to R249,
R404). -/

namespace Sys2Proof.Machine

/-- A fold whose steps keep the always-on time keeps it. -/
theorem foldl_aon {β : Type} {op : State → β → State} (h : ∀ s b, (op s b).aon = s.aon) (l : List β) (s : State) :
    (l.foldl op s).aon = s.aon := foldl_keeps State.aon h l s

theorem setBucket_aon (s : State) (k : Nat) (b : Bucket) : (s.setBucket k b).aon = s.aon := rfl
theorem setClk_aon (s : State) (k : Nat) (x : Clocking) : (s.setClk k x).aon = s.aon := rfl

/-! ### Cores -/

theorem bankCycle_aon (c : Ctx) (s : State) : (bankCycle c s).aon = s.aon := by
  unfold bankCycle
  dsimp only
  split
  · rfl
  · split <;> rfl
  · rfl

theorem stallCycle_aon (core : Fin 32) (s : State) : (stallCycle core s).aon = s.aon := by
  unfold stallCycle
  dsimp only
  split
  · rfl
  · split <;> rfl
  · rfl

theorem coreCycle_aon (core : Fin 32) (s : State) : (coreCycle core s).aon = s.aon := by
  have hbanks : (bankCycle { core := core, bank := 1 } (bankCycle { core := core, bank := 0 } s)).aon = s.aon :=
    (bankCycle_aon _ _).trans (bankCycle_aon _ _)
  unfold coreCycle
  dsimp only
  split
  · rfl
  · split
    · exact hbanks
    · exact (stallCycle_aon _ _).trans hbanks

/-! ### Requests for charge (R241) -/

theorem askedBy_aon (cl : Nat) (s t : State) : (askedBy cl s t).aon = s.aon := by
  unfold askedBy
  dsimp only
  split <;> rfl

theorem askBundle_aon (core : Fin 32) (s : State) : (askBundle core s).aon = s.aon := by
  unfold askBundle
  split
  · rfl
  · dsimp only
    split
    · exact askedBy_aon _ _ _
    · rfl

theorem askEngines_aon (c : Ctx) (s : State) : (askEngines c s).aon = s.aon := by
  unfold askEngines
  split
  · rfl
  · refine foldl_aon (fun t f => ?_) _ s
    exact askedBy_aon _ _ _

theorem askStep_aon (c : Ctx) (s : State) : (askStep c s).aon = s.aon := by
  unfold askStep
  dsimp only
  split <;> rfl

theorem askCore_aon (core : Fin 32) (s : State) : (askCore core s).aon = s.aon := by
  simp only [askCore, askEngines_aon, askStep_aon, askBundle_aon]

theorem askCluster_aon (cl : Fin 8) (s : State) : (askCluster cl s).aon = s.aon := by
  have hcores (t : State) : ([0, 1, 2, 3].foldl (fun s i => askCore (clusterCore cl i) s) t).aon = t.aon :=
    foldl_aon (fun u i => askCore_aon (clusterCore cl i) u) _ t
  simp only [askCluster, setBucket_aon, askedBy_aon, hcores]

/-! ### Clusters -/

theorem nextStep_aon (s : State) (c : Ctx) : (nextStep s c).aon = s.aon := by
  simpa only [besideAccess] using congrArg State.aon (nextStep_beside s c)

theorem takeSteps_aon (s : State) (cl : Nat) : (takeSteps s cl).aon = s.aon := by
  unfold takeSteps
  refine (foldl_aon (fun t r => ?_) _ _).trans (setBucket_aon s cl _)
  exact nextStep_aon _ _

theorem clusterCycle_aon (cl : Fin 8) (s : State) : (clusterCycle cl s).aon = s.aon := by
  have hcores (t : State) : ([0, 1, 2, 3].foldl (fun s i => coreCycle (clusterCore cl i) s) t).aon = t.aon :=
    foldl_aon (fun u i => coreCycle_aon (clusterCore cl i) u) _ t
  simp only [clusterCycle, execBucketCycle_eq, nextOr, takeSteps_aon, setBucket_aon, askCluster_aon, hcores]

theorem clusterPeriod_aon (cl : Fin 8) (s : State) : (clusterPeriod cl s).aon = s.aon := by
  unfold clusterPeriod
  dsimp only
  split
  · rfl
  · split
    · rfl
    · rw [setClk_aon, clusterCycle_aon, State.setCluster_aon]

theorem nextOr_execRefillTick_aon (cl : Fin 8) (s : State) : (nextOr s (execRefillTick cl s)).aon = s.aon := by
  rw [execRefillTick, nextOr]
  split <;> rfl

/-- A reference period moves the always-on time by the nanoseconds that it makes, where that domain has power (R404). -/
theorem tick_aon (s : State) : (tick s).aon = if s.plat.aonUp then s.aon + (nanos (s.time + 1) - nanos s.time) else s.aon := by
  have hperiods (t : State) : (allClusters.foldl (fun s cl => clusterPeriod cl s) t).aon = t.aon :=
    foldl_aon (fun u cl => clusterPeriod_aon cl u) _ t
  have hrefills (t : State) : (allClusters.foldl (fun s cl => nextOr s (execRefillTick cl s)) t).aon = t.aon :=
    foldl_aon (fun u cl => nextOr_execRefillTick_aon cl u) _ t
  have hunits (t : State) : (allClusters.foldl (fun s cl => unitsTick cl s) t).aon = t.aon := 
    foldl_aon (op := fun s cl => unitsTick cl s) (fun _ _ => rfl) _ t
  simp only [tick, apply_ite State.aon, hunits, hrefills, hperiods, ite_self]

end Sys2Proof.Machine
end

section
/-! OBLIGATION O57, the clauses of links, sleep and wake (R258, R260 to R262). -/

namespace Sys2Proof.Machine

/-! ### Links -/

/-- LNKID's fields (R254) read back: the reach, and the bit of a port. -/
theorem lnkid_reach (r : BitVec 4) (p : BitVec 2) (l : BitVec 4) : (r ++ (0 : BitVec 2) ++ p ++ l).extractLsb' 8 4 = r := by
  rw [Laws.extract_high _ _ _ _ (by decide), Laws.extract_high _ _ _ _ (by decide), Laws.extract_high _ _ _ _ (by decide)]
  exact BitVec.extractLsb'_eq_self

theorem lnkid_port (r : BitVec 4) (p : BitVec 2) (l : BitVec 4) (k : Fin 2) :
    (r ++ (0 : BitVec 2) ++ p ++ l).getLsbD (4 + k.val) = p.getLsbD k.val := by
  rw [BitVec.getLsbD_append, if_neg (by omega), BitVec.getLsbD_append, if_pos (by omega), Nat.add_sub_cancel_left]

/-- The bit of a port after its change. -/
theorem port_changed (p : BitVec 2) (k : Fin 2) (up : Bool) :
    (if up then p ||| 1#2 <<< k.val else p &&& ~~~(1#2 <<< k.val)).getLsbD k.val = up := by
  cases up with
  | false => simp
  | true => simp [Nat.le_of_lt_succ k.isLt]

/-- A link change in LNKID, as an event and as a record (R258). -/
theorem execLinkChange_spec (l : LinkChange) (s : State) (hp : s.plat.power ≠ .off) : ∃ t, execLinkChange l s = .next t ∧
    t.plat.evtst.getLsbD 10 = true ∧ t.plat.crkN = s.plat.crkN + 1 ∧
    t.plat.lnkid.extractLsb' 8 4 = l.reach ||| 1#4 <<< s.devNo.toNat ∧ t.plat.lnkid.getLsbD (4 + l.port.val) = l.up ∧ t.mem = s.mem :=
  ⟨_, congrArg Host.Outcome.next (if_neg hp), raiseEvent_evtst (by decide) _, rfl, lnkid_reach _ _ _,
    (lnkid_port _ _ _ _).trans (port_changed _ _ _), rfl⟩

/-! ### Sleep -/

theorem execSleepEnter_of_on {s : State} (hp : s.plat.power = .on) : execSleepEnter s = .next (sleepEnter s) :=
  congrArg Host.Outcome.next (if_pos (State.awake_of_on hp))

/-- Sleep that is refused leaves its code (R260). -/
theorem sleepEnter_of_refused {s : State} {code : BitVec 4} (hb : s.plat.slp.busy = false) (hr : sleepRefused s = some code) :
    sleepEnter s = { s with plat := { s.plat with slp := { s.plat.slp with err := true, ecode := code } } } := by
  simp [sleepEnter, hb, hr]

/-- Sleep that is granted begins its entry. -/
theorem sleepEnter_of_granted {s : State} (hb : s.plat.slp.busy = false) (hr : sleepRefused s = none) :
    sleepEnter s = { s with plat := { s.plat with slp := { s.plat.slp with busy := true }, wdRun := false }
                            sched := { s.sched with sel := [], resv := none } } := by
  simp [sleepEnter, hb, hr]

theorem sleepEnter_of_busy {s : State} (hb : s.plat.slp.busy = true) : sleepEnter s = s := by simp [sleepEnter, hb]

theorem sleepDone_of_waits {s : State} (hw : sleepWaits s = true) : sleepDone s = s := by simp [sleepDone, hw]

theorem breakPower_holds (s : State) : (breakPower s).heap.holds = [] := congrArg Heap.holds (breakHolds_all_heap s false)

theorem invLines_heap (s : State) (k : Fin 32) (p : Nat → Bool) : (invLines s k p).heap = s.heap := by
  simpa only [besideAccess] using congrArg State.heap (invLines_beside s k p)

theorem darken_heap (s : State) : (darken s).heap = s.heap := by
  have hlines : ((List.range 32).foldl (fun s k => invLines s (Fin.ofNat 32 k) fun _ => true) s).heap = s.heap :=
    foldl_keeps State.heap (fun t k => invLines_heap t (Fin.ofNat 32 k) _) _ s
  simp only [darken, hlines]

/-- The state in which a sleep entry ends: the tables saved, the holds broken, the power gone (R260, R261). -/
def enteredSleep (s : State) : State :=
  let s1 := crock (crockBase 12 0) (darken (breakPower (sleepResid (sleepHeap s))))
  { s1 with plat := { s1.plat with power := .asleep, sleptAt := s1.time, rsSaved := domainPart s, slp := { s1.plat.slp with busy := false }
                                   wakeHeld := none } }

theorem sleepDone_of_ready {s : State} (hp : s.plat.power = .on) (hb : s.plat.slp.busy = true) (hw : sleepWaits s = false)
    (hh : s.plat.wakeHeld = none) : sleepDone s = enteredSleep s := by
  have hopen : (!s.awake || !s.plat.slp.busy || sleepWaits s) = false := by rw [State.awake_of_on hp, hb, hw]; rfl
  refine (if_neg (Bool.eq_false_iff.mp hopen)).trans ?_
  rw [hh]
  rfl

theorem enteredSleep_holds (s : State) : (enteredSleep s).heap.holds = [] := by
  simp only [enteredSleep, crock, darken_heap, breakPower_holds]

theorem wakeUp_of_entry {s : State} (hp : s.plat.power = .on) (hb : s.plat.slp.busy = true) (hh : s.plat.wakeHeld = none) (src : BitVec 4) :
    wakeUp s src = { s with plat := { s.plat with wakeHeld := some src } } := by
  simp [wakeUp, State.awake_of_on hp, hb, hh]

/-- A request for sleep, its entry, and its end (R260, R261). -/
theorem sleepEvents (s : State) (hp : s.plat.power = .on) :
    (s.plat.slp.busy = false → ∀ code, sleepRefused s = some code → ∃ t, exec .sleepEnter s = .next t ∧ t.plat.slp.err = true ∧
      t.plat.slp.ecode = code ∧ t.plat.slp.busy = false ∧ t.plat.power = .on ∧ t.mem = s.mem ∧ t.banks = s.banks) ∧
    (s.plat.slp.busy = false → sleepRefused s = none → ∃ t, exec .sleepEnter s = .next t ∧ t.plat.slp.busy = true ∧ t.plat.wdRun = false ∧
      t.plat.power = .on ∧ t.mem = s.mem ∧ t.heap = s.heap ∧ t.sched.nodes = s.sched.nodes) ∧
    (s.plat.slp.busy = true → exec .sleepEnter s = .next s ∧ (sleepWaits s = true → makeMove .sleepDone s = .next s) ∧
      (sleepWaits s = false → s.plat.wakeHeld = none → ∃ t, makeMove .sleepDone s = .next t ∧ t.plat.power = .asleep ∧
        t.plat.slp.busy = false ∧ t.plat.sleptAt = t.time ∧ t.heap.holds = []) ∧
      (∀ src, s.plat.wakeHeld = none → exec (.wake src) s = .next { s with plat := { s.plat with wakeHeld := some (wakeCode src) } })) := by
  have henter : exec .sleepEnter s = .next (sleepEnter s) := execSleepEnter_of_on hp
  refine ⟨fun hb code hr => ⟨_, henter, ?_⟩, fun hb hr => ⟨_, henter, ?_⟩, fun hb => ⟨?_, fun hw => ?_, fun hw hh => ?_, fun src hh => ?_⟩⟩
  · rw [sleepEnter_of_refused hb hr]
    exact ⟨rfl, rfl, hb, hp, rfl, rfl⟩
  · rw [sleepEnter_of_granted hb hr]
    exact ⟨rfl, rfl, hp, rfl, rfl, rfl⟩
  · rw [henter, sleepEnter_of_busy hb]
  · exact congrArg Host.Outcome.next (sleepDone_of_waits hw)
  · exact ⟨_, congrArg Host.Outcome.next (sleepDone_of_ready hp hb hw hh), rfl, rfl, rfl, enteredSleep_holds s⟩
  · exact congrArg Host.Outcome.next (wakeUp_of_entry hp hb hh (wakeCode src))

/-! ### Wake -/

/-- A wake request outside sleep and its entry is ignored (R262). -/
theorem wakeUp_ignored {s : State} (hp : s.plat.power ≠ .asleep) (hb : s.plat.power = .on → s.plat.slp.busy = false) (src : BitVec 4) :
    wakeUp s src = s := by
  have hentry : (s.awake && s.plat.slp.busy) = false := by
    cases ha : s.awake with
    | false => rfl
    | true => exact hb (eq_of_beq ha)
  simp [wakeUp, hentry, hp]

/-- A wake request that is taken, as it is recorded, and what comes of it. -/
def wakeRecorded (s : State) (src : BitVec 4) : State :=
  crock { crockBase 13 0 with info := src.toNat } { s with plat := { s.plat with wakesrc := src } }
def wakeTo (s : State) (src : BitVec 4) : State :=
  let s1 := wakeRecorded s src
  let s2 := crock { crockBase 11 0 with info := 1 } s1
  if firmwareIntact s1 then { s1 with plat := { s1.plat with power := .waking } } else { s2 with plat := { s2.plat with power := .dead } }

/-- A wake request in sleep, by whether the firmware's image is intact. -/
theorem wakeUp_of_asleep {s : State} (hp : s.plat.power = .asleep) (src : BitVec 4) :
    (firmwareIntact s = true → (wakeUp s src).plat.power = .waking ∧ (wakeUp s src).plat.wakesrc = src ∧ (wakeUp s src).mem = s.mem) ∧
    (firmwareIntact s = false → (wakeUp s src).plat.power = .dead) := by
  have hentry : (s.awake && s.plat.slp.busy) = false := by rw [State.awake_of_not_on (by simp [hp]), Bool.false_and]
  have hwake : wakeUp s src = wakeTo s src := (if_neg (Bool.eq_false_iff.mp hentry)).trans (if_neg (not_not.mpr hp))
  have hsame : firmwareIntact (wakeRecorded s src) = firmwareIntact s := rfl
  refine ⟨fun hi => ?_, fun hi => ?_⟩ <;> rw [hwake, wakeTo, hsame, hi]
  · exact ⟨rfl, rfl, rfl⟩
  · rfl

/-- Wake requests of the four sources (R262). -/
theorem wakeEvents (src : WakeSource) (s : State) :
    (s.plat.power ≠ .asleep → (s.plat.power = .on → s.plat.slp.busy = false) →
      exec (.wake src) s = .next s ∧ exec .mgmtWake s = .next s) ∧
    (s.plat.power = .asleep → firmwareIntact s = true → ∃ t, exec (.wake src) s = .next t ∧ t.plat.power = .waking ∧
      t.plat.wakesrc = wakeCode src ∧ t.mem = s.mem) ∧
    (s.plat.power = .asleep → firmwareIntact s = true → ∃ t, exec .mgmtWake s = .next t ∧ t.plat.power = .waking ∧ t.plat.wakesrc = 2) ∧
    (s.plat.power = .asleep → firmwareIntact s = false → ∃ t, exec (.wake src) s = .next t ∧ t.plat.power = .dead) := by
  refine ⟨fun hp hb => ⟨congrArg Host.Outcome.next (wakeUp_ignored hp hb _), congrArg Host.Outcome.next (wakeUp_ignored hp hb _)⟩,
    fun hp hi => ⟨_, rfl, (wakeUp_of_asleep hp _).1 hi⟩, fun hp hi => ?_, fun hp hi => ⟨_, rfl, (wakeUp_of_asleep hp _).2 hi⟩⟩
  obtain ⟨hw, hsrc, -⟩ := (wakeUp_of_asleep hp 2).1 hi
  exact ⟨_, rfl, hw, hsrc⟩

/-- The end of a wake: the domain has power, the watchdog runs from now, and event 11 is raised (R261, R262). -/
theorem wakeCompletes (s : State) (hp : s.plat.power = .waking) (hw : s.res.warmEn = false) : ∃ t, exec .wakeComplete s = .next t ∧
    t.plat.power = .on ∧ t.plat.wdRun = true ∧ t.plat.wdLast = s.aon ∧ t.plat.evtst.getLsbD 11 = true ∧ t.mem = s.mem := by
  have hnofill {t : State} (h : t.res = s.res) : warmFill t = t := if_neg (by simp [h, hw])
  refine ⟨_, congrArg Host.Outcome.next ((if_pos hp).trans (hnofill rfl)), rfl, rfl, rfl, raiseEvent_evtst (by decide) _, rfl⟩

end Sys2Proof.Machine
end

section
/-! OBLIGATION O57, the clauses of keys, attestation, re-sync, the management port and the watchdog (R263 to R266, R268, R269). -/

namespace Sys2Proof.Machine

/-! ### What starts -/

theorem keyLoad_of_free {s : State} (h : s.plat.key.busy = false) : keyLoad s =
    { s with plat := { s.plat with key := { s.plat.key with busy := true }, keyRun := (s.plat.keySlot, s.plat.keyaddr) } } :=
  if_neg (by simp [h])

theorem attGo_of_free {s : State} (h : s.plat.att.busy = false) : attGo s =
    { s with plat := { s.plat with att := { s.plat.att with busy := true }, attRun := s.plat.attaddr } } :=
  if_neg (by simp [h])

theorem resyncGo_of_free {s : State} (h : s.plat.rs.busy = false) : resyncGo s =
    { s with plat := { s.plat with rs := { s.plat.rs with busy := true }, rsRun := s.plat.rsaddr } } :=
  if_neg (by simp [h])

theorem State.alive_of_not_off {s : State} (h : s.plat.power ≠ .off) : s.alive = true := bne_iff_ne.mpr h

/-- The commands that need the NPU domain, the heartbeat, and the watchdog's expiry (R265, R268, R269). -/
theorem commandsStart (s : State) (hp : s.plat.power = .on) :
    (s.plat.key.busy = false → exec .keyLoad s =
      .next { s with plat := { s.plat with key := { s.plat.key with busy := true }, keyRun := (s.plat.keySlot, s.plat.keyaddr) } }) ∧
    (s.plat.att.busy = false → exec .attestation s =
      .next { s with plat := { s.plat with att := { s.plat.att with busy := true }, attRun := s.plat.attaddr } }) ∧
    exec .heartbeat s = .next { s with plat := { s.plat with wdLast := s.aon } } ∧
    (s.plat.wdRun = true → s.plat.wdLast + 1000000 * s.plat.wdPer < s.aon → exec .watchdogExpiry s = .next (fatalError 4 s) ∧
      (fatalError 4 s).plat.power = .dead) :=
  ⟨fun h => congrArg Host.Outcome.next ((if_pos (State.awake_of_on hp)).trans (keyLoad_of_free h)),
    fun h => congrArg Host.Outcome.next ((if_pos (State.awake_of_on hp)).trans (attGo_of_free h)),
    congrArg Host.Outcome.next (if_pos hp),
    fun hrun hlate => ⟨congrArg Host.Outcome.next (if_pos ⟨hp, hrun, hlate⟩), rfl⟩⟩

theorem resyncStarts (s : State) (hp : s.plat.power ≠ .off) (h : s.plat.rs.busy = false) : exec .resync s =
    .next { s with plat := { s.plat with rs := { s.plat.rs with busy := true }, rsRun := s.plat.rsaddr } } :=
  congrArg Host.Outcome.next ((if_pos (State.alive_of_not_off hp)).trans (resyncGo_of_free h))

/-! ### Key loads -/

/-- An access that neither waits nor faults meets nothing. -/
theorem unitUe_of_reached {s : State} {pa n : Nat} {acc : Acc} (hw : unitWait s pa n acc = false) (hf : unitFault s pa n acc = false) :
    unitUe s pa n acc = s := by
  have hnone : unitErrs s pa n acc = [] := List.eq_nil_iff_forall_not_mem.mpr fun e he => by
    have hmig : e = .mig := by simpa using List.any_eq_false.mp hf e he
    exact absurd (List.elem_eq_true_of_mem (hmig ▸ he)) (Bool.eq_false_iff.mp hw)
  rw [unitUe, hnone, List.foldl_nil]

/-- A key load ends with the key in its slot, or with the code of what failed (R268). -/
theorem keyLoadEnds (s : State) (hb : s.plat.key.busy = true) (hw : unitWait s s.plat.keyRun.2.toNat 1152 .rd = false) :
    match keyResult s with
    | .ok k => ∃ t, exec .keyLoadDone s = .next t ∧ (t.xslot s.plat.keyRun.1.toNat).key = some k ∧ t.plat.key.busy = false ∧
        t.plat.key.done = true ∧ t.plat.evtst.getLsbD 12 = true
    | .error code => ∃ t, exec .keyLoadDone s = .next t ∧ t.res = s.res ∧ t.plat.key.busy = false ∧ t.plat.key.err = true ∧
        t.plat.key.ecode = code ∧ t.plat.evtst.getLsbD 12 = true ∧
        (unitFault s s.plat.keyRun.2.toNat 1152 .rd = false → t.plat.crkN = s.plat.crkN + 1) := by
  have hopen : ¬ (!s.plat.key.busy || unitWait s s.plat.keyRun.2.toNat 1152 .rd) = true := by simp [hb, hw]
  have hres : (unitUe s s.plat.keyRun.2.toNat 1152 .rd).res = s.res := congrArg Prod.snd (unitUe_heapRes _ _ _ _)
  cases hk : keyResult s with
  | ok k =>
    refine ⟨_, congrArg Host.Outcome.next ((if_neg hopen).trans (by rw [hk])), ?_⟩
    exact ⟨congrArg Slot.key (State.xslot_setXslot _ _ _), rfl, rfl, raiseEvent_evtst (by decide) _⟩
  | error code =>
    refine ⟨_, congrArg Host.Outcome.next ((if_neg hopen).trans (by rw [hk])), ?_⟩
    refine ⟨hres, rfl, rfl, rfl, raiseEvent_evtst (by decide) _, fun hf => ?_⟩
    rw [unitUe_of_reached hw hf]
    rfl

/-! ### Attestation -/

/-- An attestation ends with its report in place where nothing that it reads or writes is out of reach (R269). -/
theorem attestationEnds (s : State) (hb : s.plat.att.busy = true) (hi : ∀ e ∈ s.res.slots, e.2.inst = false) :
    let a := s.plat.attRun.toNat
    unitWait s a 4096 .wr = false → ((reportReads s).any fun r => unitWait s r.1 r.2 .rd) = false → ∃ t, exec .attestationDone s = .next t ∧
    t.plat.att.busy = false ∧ t.plat.evtst.getLsbD 12 = true ∧
    (unitFault s a 4096 .rd = false → unitFault s a 4096 .wr = false →
      ((reportReads s).any fun r => unitMeetsUe s r.1 r.2 .rd) = false → t.plat.att.done = true ∧
      t.mem.main = memSetBytes s.mem.main a (attReport s (sysBytes s a 32))) := by
  intro a hw hr
  have hinst : (s.res.slots.any fun e => e.2.inst) = false := List.any_eq_false.mpr fun e he => by simp [hi e he]
  have hopen : ¬ (!s.plat.att.busy || (s.res.slots.any fun e => e.2.inst) || unitWait s a 4096 .wr ||
      (reportReads s).any fun r => unitWait s r.1 r.2 .rd) = true := by simp [hb, hinst, hw, hr]
  by_cases hf : (unitFault s a 4096 .rd || unitFault s a 4096 .wr || (reportReads s).any fun r => unitMeetsUe s r.1 r.2 .rd) = true
  · refine ⟨_, congrArg Host.Outcome.next ((if_neg hopen).trans (if_pos hf)), rfl, raiseEvent_evtst (by decide) _, fun h1 h2 h3 => ?_⟩
    simp [h1, h2, h3] at hf
  · exact ⟨_, congrArg Host.Outcome.next ((if_neg hopen).trans (if_neg hf)), rfl, raiseEvent_evtst (by decide) _, fun _ _ _ => ⟨rfl, rfl⟩⟩

/-! ### Re-sync -/

theorem resyncEnded_spec (s : State) : (resyncEnded s).plat.rs.busy = false ∧ (resyncEnded s).plat.rs.done = true ∧
    (resyncEnded s).plat.rsSeq = s.plat.rsSeq + 1 ∧ (resyncEnded s).plat.evtst.getLsbD 12 = true ∧ (resyncEnded s).mem = s.mem :=
  ⟨rfl, rfl, rfl, raiseEvent_evtst (by decide) _, rfl⟩

theorem resyncWritten_plat (s : State) : (resyncWritten s).plat = s.plat := by
  unfold resyncWritten
  split
  · rfl
  · exact sysPut_plat _ _ _

theorem resyncWritten_main {s : State} (h : unitFault s s.plat.rsRun.toNat 4096 .wr = false) :
    (resyncWritten s).mem.main = memSetBytes s.mem.main s.plat.rsRun.toNat (resyncRecord s) := by
  rw [resyncWritten, h, if_neg Bool.false_ne_true, sysPut_main]

/-- A re-sync ends with its record in place where that can be written (R266). -/
theorem resyncEnds (s : State) (hb : s.plat.rs.busy = true) (hw : unitWait s s.plat.rsRun.toNat 4096 .wr = false) :
    ∃ t, exec .resyncDone s = .next t ∧ t.plat.rs.busy = false ∧ t.plat.rs.done = true ∧
    t.plat.rsSeq = s.plat.rsSeq + 1 ∧ t.plat.evtst.getLsbD 12 = true ∧
    (unitFault s s.plat.rsRun.toNat 4096 .wr = false →
      t.mem.main = memSetBytes s.mem.main s.plat.rsRun.toNat (resyncRecord s)) := by
  have hopen : ¬ (!s.plat.rs.busy || unitWait s s.plat.rsRun.toNat 4096 .wr) = true := by simp [hb, hw]
  obtain ⟨hbusy, hdone, hseq, hevent, hmem⟩ := resyncEnded_spec (resyncWritten s)
  rw [resyncWritten_plat] at hseq
  refine ⟨resyncEnded (resyncWritten s), (execResyncDone_eq s).trans (congrArg _ (if_neg hopen)), hbusy, hdone, hseq, hevent, fun hf => ?_⟩
  rw [hmem, resyncWritten_main hf]

/-! ### The management port -/

theorem crockBytes_length (l : List (BitVec 256)) : (l.flatMap fun r => natLe 32 r.toNat).length = 32 * l.length := by
  simp [List.length_flatMap, Nat.mul_comm]

/-- A record that is answered counts as taken, and stands nowhere else. -/
theorem recorded_spec (s : State) (b : List Byte) : (nextResync (answer s b)).plat.mgmt = b ∧
    (nextResync (answer s b)).plat.rsSeq = s.plat.rsSeq + 1 ∧ (nextResync (answer s b)).mem = s.mem := ⟨rfl, rfl, rfl⟩

/-- What the management port answers (R263). -/
theorem managementPort (s : State) (hp : s.plat.power ≠ .off) :
    (∃ t, exec .mgmtStatus s = .next t ∧ t.plat.mgmt.length = 16 ∧ t.mem = s.mem ∧ t.plat.power = s.plat.power) ∧
    (∀ a n, ∃ t, exec (.mgmtReadCrock a n) s = .next t ∧ t.plat.mgmt.length ≤ 2048 ∧ t.plat.crock = s.plat.crock ∧ t.mem = s.mem) ∧
    (∃ t, exec .mgmtResync s = .next t ∧ t.plat.mgmt = resyncRecord s ∧ t.plat.rsSeq = s.plat.rsSeq + 1 ∧ t.mem = s.mem) := by
  have halive := State.alive_of_not_off hp
  refine ⟨⟨_, congrArg Host.Outcome.next (if_pos halive), ?_, rfl, rfl⟩,
    fun a n => ⟨_, congrArg Host.Outcome.next (if_pos halive), ?_, rfl, rfl⟩,
    ⟨nextResync (answer s (resyncRecord s)), congrArg Host.Outcome.next (if_pos halive), (recorded_spec s _).1, (recorded_spec s _).2⟩⟩
  · simp [answer]
  · have hcount := List.length_filterMap_le (fun i => tabGet? s.plat.crock ((a.toNat + i) % 4096)) (List.range (min 64 n.toNat))
    rw [List.length_range] at hcount
    rw [answer, crockBytes_length]
    omega

end Sys2Proof.Machine
end

section
/-! OBLIGATION O57, the clauses of boot and of the supply (R254, R262, R267, R404), and the whole. -/

namespace Sys2Proof.Machine

/-! ### Boot -/

/-- The device's own bit of LNKID, for each of the four numbers of R254: it is no reserved bit, and no bit of the number. -/
theorem lnkid_ownBit (n : Fin 4) : 0x100#12 <<< n.val &&& 0x0CC#12 = 0 ∧ (0x100#12 <<< n.val).extractLsb' 0 2 = 0 ∧
    (0x100#12 <<< n.val).getLsbD (8 + n.val) = true := by
  revert n
  decide

/-- The straps leave the reserved bits 0 and set the device's own bit. -/
theorem strapId_spec (x : BitVec 12) : strapId x &&& 0x0CC#12 = 0 ∧
    (strapId x).getLsbD (8 + ((strapId x).extractLsb' 0 2).toNat) = true := by
  obtain ⟨hres, hnum, hbit⟩ := lnkid_ownBit (x.extractLsb' 0 2).toFin
  rw [BitVec.val_toFin] at hres hnum hbit
  have hkept : x &&& 0xF33#12 &&& 0x0CC#12 = 0 := by rw [BitVec.and_assoc]; exact BitVec.and_zero
  have hown : (strapId x).extractLsb' 0 2 = x.extractLsb' 0 2 := by
    rw [strapId, BitVec.extractLsb'_or, BitVec.extractLsb'_and, hnum]
    exact BitVec.or_zero.trans BitVec.and_allOnes
  rw [hown, strapId, BitVec.and_or_distrib_right, hkept, hres, BitVec.getLsbD_or, hbit]
  exact ⟨rfl, Bool.or_true _⟩

/-- A stage that fails, or is missing: it never runs, and without the always-on firmware nothing answers (R267). -/
def bootFailed (s : State) (j : Nat) : State :=
  { s with plat := { s.plat with power := if j = 0 then .off else .dead, bootOk := BitVec.ofNat 8 (j + 1) } }

section
variable {b : BootImage} {s : State}

theorem execBoot_of_verified (hr : (bootStages (afterReset s) 0 b.stages).2 = none) (hn : 3 ≤ b.stages.length) :
    execBoot b s = .next (startFirmware (bootStages (afterReset s) 0 b.stages).1 b) := by
  have hshort : ¬ b.stages.length < stagesNeeded := Nat.not_lt.mpr hn
  generalize hx : bootStages (afterReset s) 0 b.stages = r at hr
  obtain ⟨u, v⟩ := r
  obtain rfl : v = none := hr
  simp only [execBoot, hx, hshort, decide_false, Bool.and_false, Bool.false_eq_true, if_false]

theorem execBoot_of_short (hr : (bootStages (afterReset s) 0 b.stages).2 = none) (hn : b.stages.length < 3) :
    execBoot b s = .next (bootFailed (crock { crockBase 11 0 with info := b.stages.length } (bootStages (afterReset s) 0 b.stages).1)
      b.stages.length) := by
  have hshort : b.stages.length < stagesNeeded := hn
  simp only [execBoot, hr, hshort, Option.isNone_none, decide_true, Bool.and_true, if_true]
  rfl

theorem execBoot_of_failed {j : Nat} (hr : (bootStages (afterReset s) 0 b.stages).2 = some j) :
    execBoot b s = .next (bootFailed (bootStages (afterReset s) 0 b.stages).1 j) := by
  generalize hx : bootStages (afterReset s) 0 b.stages = r at hr
  obtain ⟨u, v⟩ := r
  obtain rfl : v = some j := hr
  simp only [execBoot, hx, Option.isNone_some, Bool.false_and, Bool.false_eq_true, if_false]
  rfl

end

theorem startFirmware_spec (s : State) (b : BootImage) :
    (startFirmware s b).plat.power = .on ∧ (startFirmware s b).plat.wdRun = true ∧ (startFirmware s b).plat.lnkid = strapId b.cfg.lnkid :=
  ⟨rfl, rfl, rfl⟩

/-- A boot by what became of its stages (R267). -/
theorem bootEvents (b : BootImage) (s : State) :
    let n := b.stages.length
    let r := bootStages (afterReset s) 0 b.stages
    (r.2 = none → 3 ≤ n → exec (.boot b) s = .next (startFirmware r.1 b) ∧ (startFirmware r.1 b).plat.power = .on ∧
      (startFirmware r.1 b).plat.wdRun = true) ∧
    (r.2 = none → n < 3 → ∃ t, exec (.boot b) s = .next t ∧ t.plat.power = (if n = 0 then .off else .dead) ∧
      t.plat.bootOk = BitVec.ofNat 8 (n + 1) ∧ t.plat.crkN = r.1.plat.crkN + 1) ∧
    (∀ j, r.2 = some j → ∃ t, exec (.boot b) s = .next t ∧ t.plat.power = (if j = 0 then .off else .dead) ∧
      t.plat.bootOk = BitVec.ofNat 8 (j + 1)) := by
  intro n r
  obtain ⟨hpower, hwd, -⟩ := startFirmware_spec r.1 b
  exact ⟨fun hr hn => ⟨execBoot_of_verified hr hn, hpower, hwd⟩, fun hr hn => ⟨_, execBoot_of_short hr hn, rfl, rfl, rfl⟩,
    fun j hr => ⟨_, execBoot_of_failed hr, rfl, rfl⟩⟩

theorem firmwareLnkid (b : BootImage) (s : State) :
    let x := (startFirmware s b).plat.lnkid
    x &&& 0x0CC#12 = 0 ∧ x.getLsbD (8 + (x.extractLsb' 0 2).toNat) = true := by
  dsimp only
  rw [(startFirmware_spec s b).2.2]
  exact strapId_spec b.cfg.lnkid

/-! ### The supply -/

/-- What a loss of supply clears, and what outlasts it (R262). -/
theorem powerLossEvents (aon : Bool) (s : State) : ∃ t, exec (.powerLoss aon) s = .next t ∧ t.mem.main = [] ∧ t.mem.far = s.mem.far ∧
    t.banks = [] ∧ t.plat.flash = s.plat.flash ∧
    (aon = true → t.plat.power = .off ∧ t.aon = 0 ∧ t.plat.aonUp = false) ∧
    (aon = false → t.plat.power = .dead ∧ t.plat.crock = s.plat.crock ∧ t.aon = s.aon) := by
  refine ⟨_, rfl, rfl, rfl, rfl, ?_, ?_, ?_⟩ <;> cases aon <;> simp

theorem aonTime (s : State) : (s.plat.aonUp = true → (tick s).aon = s.aon + (nanos (s.time + 1) - nanos s.time)) ∧
    (s.plat.aonUp = false → (tick s).aon = s.aon) :=
  ⟨fun h => (tick_aon s).trans (if_pos h), fun h => (tick_aon s).trans (if_neg (Bool.eq_false_iff.mp h))⟩

/-- Settles O57: each clause is the law above of the function that the event runs. -/
theorem platformEvents : Obligations.PlatformEvents :=
  ⟨execLinkChange_spec, sleepEvents, wakeEvents, wakeCompletes, commandsStart, resyncStarts, keyLoadEnds, attestationEnds, resyncEnds,
    managementPort, bootEvents, firmwareLnkid, powerLossEvents, aonTime⟩

end Sys2Proof.Machine
end

section
/-! SUPPORT. The encoding read the other way (R270, R273 to R282): the fields of a payload and of a word are the whole of it, every row of the
decoder's tables is a row of the encoder's, and a word's bytes give the word back. -/

namespace Sys2Proof

/-! ### The fields of a payload and of a word -/

theorem bit1_getLsbD {w : Nat} (x : BitVec w) (i : Nat) : bit1 (x.getLsbD i) = x.extractLsb' i 1 := by
  ext j hj
  obtain rfl : j = 0 := by omega
  simp [bit1]

@[simp] theorem SrOps.bits_ofBits (p : BitVec 43) : (SrOps.ofBits p).bits = p := by
  simp only [SrOps.bits, SrOps.ofBits, BitVec.extractLsb'_append_extractLsb'_eq_extractLsb', BitVec.extractLsb'_eq_self]

@[simp] theorem SiOps.bits_ofBits (p : BitVec 43) : (SiOps.ofBits p).bits = p := by
  simp only [SiOps.bits, SiOps.ofBits, BitVec.extractLsb'_append_extractLsb'_eq_extractLsb', BitVec.extractLsb'_eq_self]

@[simp] theorem VrOps.bits_ofBits (p : BitVec 43) : (VrOps.ofBits p).bits = p := by
  simp only [VrOps.bits, VrOps.ofBits, bit1_getLsbD, BitVec.extractLsb'_append_extractLsb'_eq_extractLsb',
    BitVec.extractLsb'_eq_self]

@[simp] theorem VsOps.bits_ofBits (p : BitVec 43) : (VsOps.ofBits p).bits = p := by
  simp only [VsOps.bits, VsOps.ofBits, bit1_getLsbD, BitVec.extractLsb'_append_extractLsb'_eq_extractLsb',
    BitVec.extractLsb'_eq_self]

@[simp] theorem MOps.bits_ofBits (p : BitVec 43) : (MOps.ofBits p).bits = p := by
  simp only [MOps.bits, MOps.ofBits, BitVec.extractLsb'_append_extractLsb'_eq_extractLsb', BitVec.extractLsb'_eq_self]

@[simp] theorem KOps.bits_ofBits (p : BitVec 43) : (KOps.ofBits p).bits = p := by
  simp only [KOps.bits, KOps.ofBits, BitVec.extractLsb'_append_extractLsb'_eq_extractLsb', BitVec.extractLsb'_eq_self]

@[simp] theorem EOps.bits_ofBits (p : BitVec 43) : (EOps.ofBits p).bits = p := by
  simp only [EOps.bits, EOps.ofBits, BitVec.extractLsb'_append_extractLsb'_eq_extractLsb', BitVec.extractLsb'_eq_self]

@[simp] theorem BOps.bits_ofBits (p : BitVec 43) : (BOps.ofBits p).bits = p := by
  simp only [BOps.bits, BOps.ofBits, BitVec.extractLsb'_append_extractLsb'_eq_extractLsb', BitVec.extractLsb'_eq_self]

@[simp] theorem XOps.bits_ofBits (p : BitVec 43) : (XOps.ofBits p).bits = p := by
  simp only [XOps.bits, XOps.ofBits, BitVec.extractLsb'_append_extractLsb'_eq_extractLsb', BitVec.extractLsb'_eq_self]

@[simp] theorem YOps.bits_ofBits (p : BitVec 43) : (YOps.ofBits p).bits = p := by
  simp only [YOps.bits, YOps.ofBits, BitVec.extractLsb'_append_extractLsb'_eq_extractLsb', BitVec.extractLsb'_eq_self]

/-- Header, major, function code and payload are every bit of a word (R273). -/
theorem assemble_fields (w : DWord) :
    assemble (.ofWord w) (w.extractLsb' 56 7) (w.extractLsb' 43 8) (w.extractLsb' 0 43) = w := by
  simp only [assemble, Hdr.ofWord, bit1_getLsbD, BitVec.extractLsb'_append_extractLsb'_eq_extractLsb', BitVec.extractLsb'_eq_self]

/-! ### The tables -/

/-- Every row of the decoder's tables is a row of the encoder's: what is read under a major and a function code is written under them. The
first split is by major, the second by function code; a row of two forms is read and written under one code whichever form it is. -/
theorem parts_of_decodeMajor {maj fn : Nat} {h : Hdr} {p : BitVec 43} {i : Instr} (hi : decodeMajor maj fn h p = some (some i)) :
    i.parts = some (h, BitVec.ofNat 7 maj, BitVec.ofNat 8 fn, p) := by
  unfold decodeMajor at hi
  split at hi
  -- major 0x1B, and the majors of no slot
  case h_21 => cases hi
  case h_22 => cases hi
  all_goals
    have hrow := Option.some.inj hi
    simp only [decodeMaj00, decodeMaj01, decodeMaj02, decodeMaj03, decodeMaj04, decodeMaj05, decodeMaj08, decodeMaj09, decodeMaj0A,
      decodeMaj0B, decodeMaj0C, decodeMaj0D, decodeMaj10, decodeMaj11, decodeMaj12, decodeMaj13, decodeMaj18, decodeMaj19, decodeMaj1A,
      decodeMaj1C] at hrow
    split at hrow <;> cases hrow <;> simp [↓apply_ite Instr.parts, Instr.parts]

theorem decodeWord_eq_ok_iff {w : DWord} {i : Instr} : decodeWord w = .ok i ↔
    decodeMajor (w.extractLsb' 56 7).toNat (w.extractLsb' 43 8).toNat (.ofWord w) (w.extractLsb' 0 43) = some (some i) := by
  unfold decodeWord
  dsimp only
  split <;> simp_all

/-- The parts of what a word decodes to are the word's own. -/
theorem parts_of_decodeWord {w : DWord} {i : Instr} (h : decodeWord w = .ok i) :
    i.parts = some (.ofWord w, w.extractLsb' 56 7, w.extractLsb' 43 8, w.extractLsb' 0 43) := by
  simpa only [BitVec.ofNat_toNat, BitVec.setWidth_eq] using parts_of_decodeMajor (decodeWord_eq_ok_iff.mp h)

theorem decodeMajor_of_no_slot {w : DWord} (h : slotOf w = none) (fn : Nat) (g : Hdr) (p : BitVec 43) :
    decodeMajor (w.extractLsb' 56 7).toNat fn g p = none := by
  unfold slotOf at h
  split at h
  -- the majors that `slotOf` does not name
  case h_22 => simp_all only [decodeMajor]
  all_goals cases h

end Sys2Proof

namespace Sys2Proof.Laws

open Machine (natLe)

/-! ### The bytes of a word -/

/-- The little-endian bytes of a number make the word of its low bits. -/
theorem wordOfBytes_natLe (n x : Nat) : wordOfBytes (natLe n x) = BitVec.ofNat 64 (x % 2 ^ (8 * n)) := by
  induction n generalizing x with
  | zero => simp [natLe, wordOfBytes, Nat.mod_one]
  | succ n ih =>
    have hstep : wordOfBytes (natLe (n + 1) x) = wordOfBytes (natLe n (x / 2 ^ 8)) <<< 8 ||| (BitVec.ofNat 8 x).setWidth 64 := rfl
    rw [hstep, ih]
    apply BitVec.eq_of_getLsbD_eq
    intro j hj
    by_cases hlow : j < 8
    · have hin : j < 8 * (n + 1) := by omega
      simp [hj, hlow, hin, BitVec.getLsbD_ofNat, Nat.testBit_mod_two_pow, -BitVec.getLsbD_eq_getElem]
    · have hsum : j - 8 + 8 = j := by omega
      have hj8 : j - 8 < 64 := by omega
      have hin : j - 8 < 8 * n ↔ j < 8 * (n + 1) := by omega
      simp [hj, hlow, hin, hsum, hj8, BitVec.getLsbD_ofNat, Nat.testBit_mod_two_pow, Nat.testBit_div_two_pow,
        -BitVec.getLsbD_eq_getElem, -Nat.reducePow]

theorem wordOfBytes_natLe_toNat (w : DWord) : wordOfBytes (natLe 8 w.toNat) = w := by
  rw [wordOfBytes_natLe, Nat.mod_eq_of_lt w.isLt, BitVec.ofNat_toNat, BitVec.setWidth_eq]

/-- The bytes of a word that decodes are read as its instruction, and no byte after them is. -/
theorem decodeBytes_natLe_append {w : DWord} {i : Instr} (h : decodeWord w = .ok i) (rest : List Byte) :
    decodeBytes (natLe 8 w.toNat ++ rest) = .ok (i, rest) := by
  have hlen : (natLe 8 w.toNat).length = 8 := Machine.natLe_length 8 _
  simp [decodeBytes, List.take_left' hlen, List.drop_left' hlen, wordOfBytes_natLe_toNat, h]

end Sys2Proof.Laws

namespace Sys2Proof.Laws.RoundTrip

/-! ### Every instruction -/

/-- An event row has no word, so that nothing is asked of it. -/
theorem statement_of_isEvent {i : Instr} (h : i.isEvent = true) : Statement i := by
  intro _ w hw
  simp [encode, Option.isNone_iff_eq_none.mp h] at hw

/-- The laws of the constructors, one for each instruction word in their order; the event rows follow them. -/
theorem statement_all : ∀ i, Statement i := by
  apply @Instr.rec Statement
    nop sysr sysw trap rte idle evsig halt sadd saddSi ssub ssubSi smul smulSi smulh smulhSi sdiv sdivSi srem sremSi sand sandSi
    sor sorSi sxor sxorSi sshl sshlSi sshr sshrSi ssra ssraSi smin sminSi smax smaxSi ssel sselSi smov smovSi slui sclz spop sext
    sextSi sins sinsSi slea sleaSi scmp plog br brc bri call callIndirect ret loop loopx region slice tnode tlaunch tyield texit
    tkw ld ldv ldm pref st stv stm amo cas fence acq rel bara barw dsync kld kldObject kst kstObject kget kput knew kpin kunpin
    keq hopen hrel hld hst vadd vaddVs vsub vsubVs vmul vmulVs vfma vfmaVs vmin vminVs vmax vmaxVs vabs vand vandVs vor vorVs vxor
    vxorVs vshl vshlVs vshr vshrVs vcmp vcmpVs vsel vselVs vmov vmovVs vcvt vwmul vwmulVs vwadd vwaddVs vdot4 vdot4Vs vexp2 vlog2
    vrcp vrsq vtanh vrsum vrmax vrmin vmaxi vmini vscan vperm vcomp vhist vhmerge vrng vchain mlease mfree mma mmas mrank mrd
    mzero cpy qbind rinit radv epop estat merge hacc xroute xclose xcloseFinal xfetch xpin xunpin xpred xqry xsnap xrepl
  all_goals intros; exact statement_of_isEvent rfl

end Sys2Proof.Laws.RoundTrip
end

section
/-! SUPPORT. A word under a false guard: it does nothing (R272), and RTE and TEXIT, which carry no guard, never stand under one. -/

namespace Sys2Proof.Machine

theorem runWord_of_disabled {i : Instr} {s : State} (hp : precheck i s.cur = none) (hl : interlocked i s.cur s.iss.fresh = false)
    (hv : isVector i = false) (hg : s.cur.enabled i.hdr = false) (eff : State → Res) : runWord i s eff = .ok s := by
  simp [runWord, hp, hl, hv, hg]

/-- TYIELD that does nothing does not give its bank away, so that it is done. -/
theorem exec_tyield_of_disabled {h : Hdr} {o : YOps} {s : State} (hp : precheck (.tyield h o) s.cur = none)
    (hl : interlocked (.tyield h o) s.cur s.iss.fresh = false) (hg : s.cur.enabled h = false) :
    exec (.tyield h o) s = .next (s.verdict .done) := by
  change execTyield h o s = _
  simp [execTyield, runWord_of_disabled hp hl rfl hg, State.cur]

theorem wf_of_precheck {i : Instr} {b : Bank} (h : precheck i b = none) : i.wf = true := by
  cases hw : i.wf with
  | true => rfl
  | false => simp [precheck, hw] at h

/-- A word without a guard is governed by p0, which is all ones (R75). -/
theorem enabled_of_noGuard {h : Hdr} (hg : noGuard h = true) (b : Bank) : b.enabled h = true := by
  simp only [noGuard, Bool.and_eq_true, beq_iff_eq, Bool.not_eq_true'] at hg
  obtain ⟨hpg, hpn⟩ := hg
  simp [Bank.enabled, Bank.guard, Bank.preg, Bank.physP, Bank.pphys, hpg, hpn, allOnesP]

/-- The fields of RTE and TEXIT, which are the same (R340, R350). -/
theorem noGuard_of_wf {i : Instr} {h : Hdr} {o : YOps} (hi : i = .rte h o ∨ i = .texit h o) (hw : i.wf = true) : noGuard h = true := by
  have hfields : (noGuard h && o.sd == 0 && o.sa == 0 && o.srn == 0 && o.imm == 0) = true := by
    rcases hi with rfl | rfl <;> exact hw
  simp only [Bool.and_eq_true] at hfields
  obtain ⟨⟨⟨⟨hguard, -⟩, -⟩, -⟩, -⟩ := hfields
  exact hguard

end Sys2Proof.Machine
end

section
/-! OBLIGATIONS O1, O2, O4, O5 and O6. -/

namespace Sys2Proof.Machine

/-- Settles O1: the word of each instruction decodes to it, and the bytes of a word give the word back. -/
theorem decodeEncode : Obligations.DecodeEncode := fun i w rest hwf henc =>
  Laws.decodeBytes_natLe_append (Laws.RoundTrip.statement_all i hwf w henc) rest

/-- Settles O2: what a word decodes to has the word's own header, codes and payload, which are all its bits. -/
theorem encodeDecode : Obligations.EncodeDecode := by
  intro w i h
  have hparts := parts_of_decodeWord h
  exact ⟨by simp only [encode, hparts, Option.map_some, assemble_fields], by simp [Instr.isEvent, hparts]⟩

/-- Settles O4: a major of no slot has no table, and the table of major 0x1B is empty. -/
theorem reservedMajors : Obligations.ReservedMajors := by
  refine fun w => ⟨fun h => ?_, fun h => ?_⟩
  · simp only [decodeWord, decodeMajor_of_no_slot h]
  · simp [decodeWord, decodeMajor, h]

/-- Settles O5: the checks of a word come before its guard is read. -/
theorem checksPrecedeTheGuard : Obligations.ChecksPrecedeTheGuard := fun _ _ _ => exec_of_checked

/-- Settles O6: RTE and TEXIT have no guard that could be false, TYIELD keeps its bank, and any other word is done as it stands. -/
theorem falseGuardDoesNothing : Obligations.FalseGuardDoesNothing := by
  intro i s hi hv hp hl hg
  have hw := wf_of_precheck hp
  cases i
  case rte h o => exact absurd (enabled_of_noGuard (noGuard_of_wf (.inl rfl) hw) s.cur) (Bool.eq_false_iff.mp hg)
  case texit h o => exact absurd (enabled_of_noGuard (noGuard_of_wf (.inr rfl) hw) s.cur) (Bool.eq_false_iff.mp hg)
  case tyield h o => exact exec_tyield_of_disabled hp hl hg
  any_goals exact word_skipped hp hl hv hg
  -- what is left are the event rows
  all_goals exact nomatch hi

end Sys2Proof.Machine
end

section
/-! SUPPORT. A number's bytes read back (R7), the pool where an atomic puts a number (R117, R297), and what an access of the window leaves
alone (log 8). -/

namespace Sys2Proof.Machine

/-! ### Numbers and the pool -/

theorem leNat_natLe (n x : Nat) : leNat (natLe n x) = x % 256 ^ n := by
  induction n generalizing x with
  | zero => exact (Nat.mod_one x).symm
  | succ n ih =>
    rw [natLe, leNat_cons, ih, BitVec.toNat_ofNat, pow_succ' 256 n, Nat.mod_mul]
    ring

theorem leNat_lt (x : List Byte) : leNat x < 256 ^ x.length := by
  have h : leNat x = leNat x % 256 ^ x.length := by rw [← leNat_natLe, natLe_leNat]
  rw [h]
  exact Nat.mod_lt _ (by positivity)

theorem pow_256 (n : Nat) : 256 ^ n = 2 ^ (8 * n) := (pow_mul 2 8 n).symm

@[simp] theorem scrBytes_length (b : Bank) (o n : Nat) : (b.scrBytes o n).length = n := by simp [Bank.scrBytes]

/-- What is written to the pool reads back. -/
theorem scrBytes_scrWrite (b : Bank) (o : Nat) (x : List Byte) : (b.scrWrite o x).scrBytes o x.length = x := by
  refine List.ext_getElem (scrBytes_length _ _ _) fun k _ hk => ?_
  simp only [Bank.scrBytes, List.getElem_map, List.getElem_range, scrByte_scrWrite b o hk, List.getD_eq_getElem _ _ hk]

/-- The pool of a bank where a number of `n` bytes is put at an offset, if one is. -/
def Bank.putNum (b : Bank) (off n : Nat) : Option Nat → Bank
  | some v => b.scrWrite off (natLe n v)
  | none => b

theorem leNat_putNum (b : Bank) (off n : Nat) (v : Option Nat) :
    leNat ((b.putNum off n v).scrBytes off n) = v.getD (leNat (b.scrBytes off n)) % 2 ^ (8 * n) := by
  rw [← pow_256]
  cases v with
  | none =>
    have hlt := leNat_lt (b.scrBytes off n)
    rw [scrBytes_length] at hlt
    exact (Nat.mod_eq_of_lt hlt).symm
  | some v =>
    have hread := scrBytes_scrWrite b off (natLe n v)
    rw [natLe_length] at hread
    rw [Bank.putNum, hread, leNat_natLe, Option.getD_some]

theorem scrByte_putNum_other (b : Bank) {off n a : Nat} (v : Option Nat) (h : a < off ∨ off + n ≤ a) :
    (b.putNum off n v).scrByte a = b.scrByte a := by
  cases v with
  | none => rfl
  | some v => exact scrByte_scrWrite_other b _ (by rwa [natLe_length])

/-- A number put into the pool changes nothing else of the bank. -/
theorem putNum_frame (b : Bank) (off n : Nat) (v : Option Nat) : b.putNum off n v = { b with scr := (b.putNum off n v).scr } := by
  cases v <;> rfl

/-! ### The frame of an access of the window -/

/-- `t` is `s` but for bank `c`, which is `b` apart from what it has read ahead, and for the marks of bad pool words. -/
structure WindowFrame (c : Ctx) (s t : State) (b : Bank) : Prop where
  bank : ∃ l, t.bank c = b.withEarly l
  main : t.mem.main = s.mem.main
  others : OnlyBank c s t
  ctx : t.iss.ctx = s.iss.ctx

namespace WindowFrame

theorem refl (c : Ctx) (s : State) : WindowFrame c s s (s.bank c) := ⟨⟨_, rfl⟩, rfl, fun _ _ => rfl, rfl⟩

variable {c : Ctx} {s t : State} {b : Bank}

theorem noEarly (h : WindowFrame c s t b) : WindowFrame c s (t.noEarly c) b := by
  obtain ⟨⟨l, hbank⟩, hmain, hothers, hctx⟩ := h
  obtain ⟨-, honly, hiss⟩ := t.noEarly_frame c
  exact ⟨⟨[], by rw [State.noEarly_bank, hbank]; rfl⟩, by rw [State.noEarly_mem, hmain], hothers.trans honly,
    (congrArg Iss.ctx hiss).trans hctx⟩

theorem noStrong (h : WindowFrame c s t b) : WindowFrame c s (t.noStrong c) b := by
  obtain ⟨⟨l, hbank⟩, hmain, hothers, hctx⟩ := h
  obtain ⟨-, honly, hiss⟩ := t.noStrong_frame c
  exact ⟨⟨l.filter fun e => !e.strong, by rw [State.noStrong_bank, hbank]; rfl⟩, by rw [State.noStrong_mem, hmain],
    hothers.trans honly, (congrArg Iss.ctx hiss).trans hctx⟩

/-- A result that the access locks. -/
theorem lockWrites (h : WindowFrame c s t b) (ws : List RegWrite) (af : BitVec 6) (r : Bool) :
    WindowFrame c s (t.setBank c ((t.bank c).lockWrites ws af r)) (b.lockWrites ws af r) := by
  obtain ⟨⟨l, hbank⟩, hmain, hothers, hctx⟩ := h
  exact ⟨⟨l, by rw [State.bank_setBank, hbank]; rfl⟩, hmain, hothers.trans (onlyBank_setBank _ _ _), hctx⟩

/-- A number that it writes. -/
theorem writeLoc (h : WindowFrame c s t b) (off n v : Nat) (l1 : Bool) (sc : BitVec 2) :
    WindowFrame c s (Machine.writeLoc t c (.sp off) (natLe n v) l1 sc) (b.putNum off n (some v)) := by
  obtain ⟨⟨l, hbank⟩, hmain, hothers, hctx⟩ := h
  have hwrite : (Machine.writeLoc t c (.sp off) (natLe n v) l1 sc).bank c = (t.bank c).scrWrite off (natLe n v) :=
    State.bank_setBank t c _
  exact ⟨⟨l, by rw [hwrite, hbank]; rfl⟩, hmain, hothers.trans (onlyBank_setBank c t _), hctx⟩

theorem verdict (h : WindowFrame c s t b) (v : Verdict) : WindowFrame c s (t.verdict v) b := ⟨h.bank, h.main, h.others, h.ctx⟩

end WindowFrame

end Sys2Proof.Machine
end

section
/-! SUPPORT. The atomics by their shared access (R297). -/

namespace Sys2Proof.Machine

theorem atomicEffect_of_access {s s1 : State} {o : MOps} {off : Word} {va old : Nat} {new : Nat → Option Nat}
    (hva : mAddr s.cur (s.cur.sreg o.bs.toNat) off = va) (ha : va % szBytes o.sz = 0)
    (hat : atomicVa s s.iss.ctx va (szBytes o.sz) (o.ord == 2 || o.ord == 3) (scopeAt s.cur va o.sc) new = .ok (s1, old)) :
    atomicEffect o off new s = .ok (afterAcquire (s1.setBank s.iss.ctx ((s1.bank s.iss.ctx).lockWrites
      (dataWrites s.cur o.sz o.dr.toNat (natLe (szBytes o.sz) old)) 0 true)) s.iss.ctx (o.ord == 1 || o.ord == 3)
      (scopeAt s.cur va o.sc)) := by
  unfold atomicEffect
  simp only [hva, aligned_of_dvd s ha, hat]

/-- What AMO makes of an old value, and CAS, which writes only over the value that it expects. -/
def amoValue (o : MOps) (b : Bank) (old : Nat) : Option Nat :=
  some (amoNew (o.off.extractLsb' 16 4).toNat (8 * szBytes o.sz) old (atomicArg b o.sz o.dr.toNat))
def casValue (o : MOps) (b : Bank) (old : Nat) : Option Nat :=
  if old = atomicArg b o.sz o.dr.toNat then some (atomicArg b o.sz (o.dr.toNat + (if o.sz = 3 then 2 else 1))) else none

section
variable {h : Hdr} {o : MOps} {s t : State}

theorem exec_amo_of_effect (hr : Runs (.amo h o) s)
    (he : atomicEffect o ((o.off.extractLsb' 0 16).signExtend 32) (amoValue o s.cur) s = .ok t) :
    exec (.amo h o) s = .next (t.verdict .done) := word_runs hr he

theorem exec_cas_of_effect (hr : Runs (.cas h o) s) (he : atomicEffect o (o.off.signExtend 32) (casValue o s.cur) s = .ok t) :
    exec (.cas h o) s = .next (t.verdict .done) := by
  refine word_runs hr ?_
  simp only [beq_iff_eq]
  exact he

end

end Sys2Proof.Machine
end

section
/-! OBLIGATION O43. An atomic of the scratchpad window (R117, R296, R297). -/

namespace Sys2Proof.Machine

/-- The atomic access reads the old value and puts the new one, if there is one; at core scope no cache operation goes with it (R151). -/
theorem atomicVa_window {s : State} {c : Ctx} {va n : Nat} (rel : Bool) (new : Nat → Option Nat) (hm : (s.bank c).tr.mode = false)
    (hw : inWindow va = true) (hn : va - windowBase + n ≤ (s.bank c).spTotal) (hb : badPool s c (va - windowBase) n = none) :
    let old := leNat ((s.bank c).scrBytes (va - windowBase) n)
    ∃ t, atomicVa s c va n rel 0 new = .ok (t, old) ∧ WindowFrame c s t ((s.bank c).putNum (va - windowBase) n (new old)) := by
  intro old
  have hframe : WindowFrame c s (s.noStrong c) (s.bank c) := (WindowFrame.refl c s).noStrong
  have hold : leNat (((s.noStrong c).bank c).scrBytes (va - windowBase) n) = old := by rw [State.noStrong_bank]; rfl
  unfold atomicVa
  simp only [reachWord_window (acc := .am) hm hw hn (.inr hb), beforeRelease_core, hold]
  cases hnew : new old with
  | none => exact ⟨_, rfl, hframe⟩
  | some v => exact ⟨_, rfl, hframe.writeLoc _ n v true 0⟩

/-- A size of 4 or 8 bytes. -/
theorem atomic_sizes {sz : BitVec 3} (h : sz = 2 ∨ sz = 3) : sz.toNat ≤ 5 := by
  rcases h with rfl | rfl <;> decide

theorem amo_size {h : Hdr} {o : MOps} {s : State} (hr : Runs (.amo h o) s) : o.sz = 2 ∨ o.sz = 3 := by
  have hw := wf_of_runs hr
  simp only [Instr.wf, Bool.and_eq_true, Bool.or_eq_true, beq_iff_eq] at hw
  obtain ⟨⟨⟨hsz, -⟩, -⟩, -⟩ := hw
  exact hsz

theorem cas_size {h : Hdr} {o : MOps} {s : State} (hr : Runs (.cas h o) s) : o.sz = 2 ∨ o.sz = 3 := by
  have hw := wf_of_runs hr
  simp only [Instr.wf, Bool.and_eq_true, Bool.or_eq_true, beq_iff_eq] at hw
  obtain ⟨⟨hsz, -⟩, -⟩ := hw
  exact hsz.imp And.left And.left

/-- The result of an atomic: its old value, in its register or pair. -/
def atomicWrites (o : MOps) (old : Nat) : List RegWrite :=
  if o.sz = 3 then pairD o.dr.toNat (BitVec.ofNat 64 old) else oneS o.dr.toNat (BitVec.ofNat 32 old)

theorem dataWrites_atomic {o : MOps} (hsz : o.sz = 2 ∨ o.sz = 3) (b : Bank) {old : Nat} (hold : old < 256 ^ szBytes o.sz) :
    dataWrites b o.sz o.dr.toNat (natLe (szBytes o.sz) old) = atomicWrites o old := by
  rw [dataWrites_scalar (atomic_sizes hsz), leNat_natLe, Nat.mod_eq_of_lt hold]
  rcases hsz with e | e <;> simp [loadedWrites, atomicWrites, e]

theorem atomicEffect_window {s : State} {o : MOps} {off : Word} {va : Nat} (new : Nat → Option Nat)
    (hva : mAddr s.cur (s.cur.sreg o.bs.toNat) off = va) (hsz : o.sz = 2 ∨ o.sz = 3) (hm : s.cur.tr.mode = false)
    (hw : inWindow va = true) (ha : va % szBytes o.sz = 0) (hn : va - windowBase + szBytes o.sz ≤ s.cur.spTotal)
    (hb : badPool s s.iss.ctx (va - windowBase) (szBytes o.sz) = none) :
    let old := leNat (s.cur.scrBytes (va - windowBase) (szBytes o.sz))
    ∃ t, atomicEffect o off new s = .ok t ∧ WindowFrame s.iss.ctx s t
      ((s.cur.putNum (va - windowBase) (szBytes o.sz) (new old)).lockWrites (atomicWrites o old) 0 true) := by
  intro old
  obtain ⟨t, (hatomic : _ = Except.ok (t, old)), hframe⟩ := atomicVa_window (o.ord == 2 || o.ord == 3) new hm hw hn hb
  have hold : old < 256 ^ szBytes o.sz := by simpa using leNat_lt (s.cur.scrBytes (va - windowBase) (szBytes o.sz))
  have hlocked := hframe.lockWrites (atomicWrites o old) 0 true
  have hscope := scopeAt_window hm hw o.sc
  rw [atomicEffect_of_access hva ha (hscope ▸ hatomic), hscope, afterAcquire_core, dataWrites_atomic hsz s.cur hold]
  split
  · exact ⟨_, rfl, hlocked.noEarly⟩
  · exact ⟨_, rfl, hlocked⟩

/-- What an atomic of the window leaves: the new value, the pool's other bytes, and the result. -/
theorem atomic_result {s t : State} {o : MOps} {off old : Nat} {v : Option Nat}
    (hold : old = leNat (s.cur.scrBytes off (szBytes o.sz)))
    (h : WindowFrame s.iss.ctx s t ((s.cur.putNum off (szBytes o.sz) v).lockWrites (atomicWrites o old) 0 true)) :
    leNat (t.cur.scrBytes off (szBytes o.sz)) = v.getD old % 2 ^ (8 * szBytes o.sz) ∧
    (∀ a, a < off ∨ off + szBytes o.sz ≤ a → t.cur.scrByte a = s.cur.scrByte a) ∧
    t.cur.pipe.locks = s.cur.pipe.locks ++ [{ id := s.cur.lockId, ws := atomicWrites o old, af := 0, ready := true }] ∧
    t.cur.regs = s.cur.regs ∧ t.mem.main = s.mem.main ∧ OnlyBank s.iss.ctx s t := by
  obtain ⟨⟨l, hbank⟩, hmain, hothers, hctx⟩ := h
  have hcur : t.cur = ((s.cur.putNum off (szBytes o.sz) v).lockWrites (atomicWrites o old) 0 true).withEarly l := by
    rw [State.cur, hctx, hbank]
  have hput := putNum_frame s.cur off (szBytes o.sz) v
  rw [hcur, hold]
  refine ⟨leNat_putNum _ _ _ _, fun a ha => scrByte_putNum_other s.cur v ha, ?_, ?_, hmain, hothers⟩ <;> rw [hput] <;> rfl

/-- Settles O43: both words are atomic accesses of the window, whose old value and whose put are the model's. -/
theorem scratchpadAtomics : Obligations.ScratchpadAtomics := by
  unfold Obligations.ScratchpadAtomics
  intro place result
  constructor <;> intro h o s hr va hp <;> obtain ⟨hm, hw, ha, hn, hb⟩ := hp
  · obtain ⟨t, heff, hframe⟩ := atomicEffect_window (amoValue o s.cur) rfl (amo_size hr) hm hw ha hn hb
    exact ⟨_, exec_amo_of_effect hr heff, rfl, atomic_result rfl (hframe.verdict .done)⟩
  · obtain ⟨t, heff, hframe⟩ := atomicEffect_window (casValue o s.cur) rfl (cas_size hr) hm hw ha hn hb
    exact ⟨_, exec_cas_of_effect hr heff, rfl, atomic_result rfl (hframe.verdict .done)⟩

end Sys2Proof.Machine
end

section
/-! OBLIGATION O44. FENCE, ACQ, REL, AMO and CAS with their cache operations (R148, R150, R151, R295, R297, R308, R337). -/

namespace Sys2Proof.Machine

/-- A word that runs ends as its effect does. -/
theorem word_of_runs {i : Instr} {s : State} (hr : Runs i s) (eff : State → Res) : word i s eff = finish (eff s) := by
  cases heff : eff s with
  | ok t => exact word_runs hr heff
  | error e => exact word_stops hr heff

/-! ### FENCE (R308) and the early reads -/

/-- At core scope a fence performs no cache operation (R151). -/
theorem fenceOps_core (s : State) (c : Ctx) (kind : Nat) : fenceOps s c kind 0 = if kind = 1 ∨ kind = 3 then s.noEarly c else s := by
  simp [fenceOps, wbAll, invAll]

/-- The kinds of a fence that acquires, as its field. -/
theorem acquiring_kinds (ord : BitVec 2) : (ord.toNat = 1 ∨ ord.toNat = 3) ↔ (ord = 1 ∨ ord = 3) := by
  revert ord
  decide

theorem State.noEarly_verdict (s : State) (c : Ctx) (v : Verdict) : (s.noEarly c).verdict v = (s.verdict v).noEarly c := by
  unfold State.noEarly
  rw [State.bank_verdict]
  split <;> rfl

/-! ### ACQ (R295) -/

section
variable {h : Hdr} {o : MOps} {s : State}

/-- The scope of an ACQ or REL: its own, or that of the ranges bound to its address, where the access lands. -/
def boundScope (s : State) (o : MOps) : BitVec 2 :=
  scopeAt s.cur (mVa s.cur o) (widestScope o.sc (boundTo s s.iss.ctx (mVa s.cur o)))

theorem boundScope_window (hm : s.cur.tr.mode = false) (hw : inWindow (mVa s.cur o) = true) : boundScope s o = 0 :=
  scopeAt_window hm hw _

/-- The state `s1` that an ACQ has read in, with its result, and nothing read ahead. -/
def acquired (s s1 : State) (o : MOps) (x : List Byte) : State :=
  (s1.setBank s.iss.ctx ((s1.bank s.iss.ctx).lockWrites (dataWrites s.cur 3 o.dr.toNat x) 0 true)).noEarly s.iss.ctx

theorem exec_acq_of_read (hr : Runs (.acq h o) s) (ha : mVa s.cur o % 8 = 0) {s1 : State} {x : List Byte} {full : Bool}
    (hread : acqRead s s.iss.ctx (mVa s.cur o) (boundScope s o) = .ok (s1, x, full)) : exec (.acq h o) s =
      finish (if boundScope s o = 0 then .ok (acquired s s1 o x)
        else if full then .ok (invAll (acquired s s1 o x) s.iss.ctx.core (boundScope s o))
        else if boundWaits s1 s.iss.ctx (boundTo s s.iss.ctx (mVa s.cur o)) then .error (.stall, s)
        else .ok (invLines (acquired s s1 o x) s.iss.ctx.core
          (boundLine (acquired s s1 o x) s.iss.ctx (boundTo s s.iss.ctx (mVa s.cur o))))) := by
  rw [boundScope] at hread
  refine (word_of_runs hr _).trans (congrArg finish ?_)
  simp only [aligned_of_dvd s ha, hread]
  rfl

section
variable (hr : Runs (.acq h o) s) (ha : mVa s.cur o % 8 = 0) {s1 : State} {x : List Byte} {full : Bool}
  (hread : acqRead s s.iss.ctx (mVa s.cur o) (boundScope s o) = .ok (s1, x, full))
include hr ha hread

theorem exec_acq_core (hs : boundScope s o = 0) : exec (.acq h o) s = .next ((acquired s s1 o x).verdict .done) := by
  rw [exec_acq_of_read hr ha hread, if_pos hs]
  rfl

theorem exec_acq_full (hs : boundScope s o ≠ 0) (hf : full = true) :
    exec (.acq h o) s = .next ((invAll (acquired s s1 o x) s.iss.ctx.core (boundScope s o)).verdict .done) := by
  rw [exec_acq_of_read hr ha hread, if_neg hs, if_pos hf]
  rfl

theorem exec_acq_bound (hs : boundScope s o ≠ 0) (hf : full = false)
    (hw : boundWaits s1 s.iss.ctx (boundTo s s.iss.ctx (mVa s.cur o)) = false) :
    exec (.acq h o) s = .next ((invLines (acquired s s1 o x) s.iss.ctx.core
      (boundLine (acquired s s1 o x) s.iss.ctx (boundTo s s.iss.ctx (mVa s.cur o)))).verdict .done) := by
  rw [exec_acq_of_read hr ha hread, if_neg hs, if_neg (Bool.eq_false_iff.mp hf), if_neg (Bool.eq_false_iff.mp hw)]
  rfl

theorem exec_acq_waits (hs : boundScope s o ≠ 0) (hf : full = false)
    (hw : boundWaits s1 s.iss.ctx (boundTo s s.iss.ctx (mVa s.cur o)) = true) :
    exec (.acq h o) s = .next (s.verdict .stalled) := by
  rw [exec_acq_of_read hr ha hread, if_neg hs, if_neg (Bool.eq_false_iff.mp hf), if_pos hw]
  rfl

end

/-- In the window ACQ reads the pool (R117). -/
theorem acqRead_window {va : Nat} (sc : BitVec 2) (hm : s.cur.tr.mode = false) (hw : inWindow va = true)
    (hn : va - windowBase + 8 ≤ s.cur.spTotal) (hb : badPool s s.iss.ctx (va - windowBase) 8 = none) :
    acqRead s s.iss.ctx va sc = .ok (s, s.cur.scrBytes (va - windowBase) 8, false) := by
  simp only [acqRead, reachWord_window (acc := .rd) hm hw hn (.inr hb)]
  rfl

theorem dataWrites_pair (o : MOps) (b : Bank) (x : List Byte) :
    dataWrites b 3 o.dr.toNat x = pairD o.dr.toNat (BitVec.ofNat 64 (leNat x)) :=
  dataWrites_scalar (o := { o with sz := 3 }) (show (3 : BitVec 3).toNat ≤ 5 by decide) b x

/-! ### REL (R337) -/

/-- What REL writes, and the note of it where it may be read from another core (R148). -/
def released (s s2 : State) (o : MOps) (l : Loc) : State :=
  let s3 := writeLoc s2 s.iss.ctx l (natLe 8 (s.cur.dreg o.dr.toNat).toNat) (viaL1 true (boundScope s o)) (boundScope s o)
  match l with
  | .pa a => if boundScope s o = 0 then s3 else s3.syncRel s.iss.ctx.core a
  | .sp _ => s3

theorem exec_rel_of_reach (hr : Runs (.rel h o) s) (ha : mVa s.cur o % 8 = 0) {s1 : State} {l : Loc}
    (hreach : reachWord s s.iss.ctx (mVa s.cur o) 8 .wr = .ok (s1, l)) : exec (.rel h o) s =
      finish (if boundScope s o ≠ 0 ∧ boundWaits s1 s.iss.ctx (boundTo s s.iss.ctx (mVa s.cur o)) then .error (.stall, s)
        else .ok (released s (if boundScope s o = 0 then s1 else wbLines s1 s.iss.ctx.core (boundScope s o)
          (boundLine s1 s.iss.ctx (boundTo s s.iss.ctx (mVa s.cur o)))) o l)) := by
  refine (word_of_runs hr _).trans (congrArg finish ?_)
  simp only [aligned_of_dvd s ha, hreach]
  rfl

theorem released_of_core (hs : boundScope s o = 0) (s2 : State) (l : Loc) : released s s2 o l =
    writeLoc s2 s.iss.ctx l (natLe 8 (s.cur.dreg o.dr.toNat).toNat) (viaL1 true (boundScope s o)) (boundScope s o) := by
  cases l with
  | sp _ => rfl
  | pa a => exact if_pos hs

theorem released_of_wide (hs : boundScope s o ≠ 0) (s2 : State) (a : Nat) : released s s2 o (.pa a) =
    (writeLoc s2 s.iss.ctx (.pa a) (natLe 8 (s.cur.dreg o.dr.toNat).toNat) (viaL1 true (boundScope s o)) (boundScope s o)).syncRel
      s.iss.ctx.core a := if_neg hs

section
variable (hr : Runs (.rel h o) s) (ha : mVa s.cur o % 8 = 0) {s1 : State} {l : Loc}
  (hreach : reachWord s s.iss.ctx (mVa s.cur o) 8 .wr = .ok (s1, l))
include hr ha hreach

theorem exec_rel_core (hs : boundScope s o = 0) : exec (.rel h o) s =
    .next ((writeLoc s1 s.iss.ctx l (natLe 8 (s.cur.dreg o.dr.toNat).toNat) (viaL1 true (boundScope s o)) (boundScope s o)).verdict
      .done) := by
  rw [exec_rel_of_reach hr ha hreach, if_neg (fun hx => hx.1 hs), if_pos hs, released_of_core hs]
  rfl

theorem exec_rel_bound (hs : boundScope s o ≠ 0) (hw : boundWaits s1 s.iss.ctx (boundTo s s.iss.ctx (mVa s.cur o)) = false)
    (a : Nat) (hl : l = .pa a) : exec (.rel h o) s =
      .next (((writeLoc (wbLines s1 s.iss.ctx.core (boundScope s o) (boundLine s1 s.iss.ctx (boundTo s s.iss.ctx (mVa s.cur o))))
        s.iss.ctx l (natLe 8 (s.cur.dreg o.dr.toNat).toNat) (viaL1 true (boundScope s o)) (boundScope s o)).syncRel
        s.iss.ctx.core a).verdict .done) := by
  subst hl
  rw [exec_rel_of_reach hr ha hreach, if_neg (fun hx => Bool.eq_false_iff.mp hw hx.2), if_neg hs, released_of_wide hs]
  rfl

theorem exec_rel_waits (hs : boundScope s o ≠ 0) (hw : boundWaits s1 s.iss.ctx (boundTo s s.iss.ctx (mVa s.cur o)) = true) :
    exec (.rel h o) s = .next (s.verdict .stalled) := by
  rw [exec_rel_of_reach hr ha hreach, if_pos ⟨hs, hw⟩]
  rfl

end

/-- A REL of the window writes its pair to the pool and nothing else (R117). -/
theorem exec_rel_window (hr : Runs (.rel h o) s) (hm : s.cur.tr.mode = false) (hw : inWindow (mVa s.cur o) = true)
    (ha : mVa s.cur o % 8 = 0) (hn : mVa s.cur o - windowBase + 8 ≤ s.cur.spTotal) :
    ∃ t, exec (.rel h o) s = .next (t.verdict .done) ∧ t.iss.ctx = s.iss.ctx ∧ t.mem.main = s.mem.main ∧ OnlyBank s.iss.ctx s t ∧
      t.bank s.iss.ctx = s.cur.putNum (mVa s.cur o - windowBase) 8 (some (s.cur.dreg o.dr.toNat).toNat) := by
  have hs := boundScope_window hm hw (o := o)
  have hexec := exec_rel_core hr ha (reachWord_window (acc := .wr) hm hw hn (.inl rfl)) hs
  exact ⟨_, hexec, rfl, rfl, onlyBank_setBank _ s _, State.bank_setBank s s.iss.ctx _⟩

end

/-! ### The clauses of O44 -/

theorem noEarly_law (s : State) (c : Ctx) : ((s.bank c).pipe.early = [] → s.noEarly c = s) ∧
    ((s.noEarly c).bank c = { s.bank c with pipe := { (s.bank c).pipe with early := [] } } ∧ SameDevice s (s.noEarly c) ∧
      OnlyBank c s (s.noEarly c)) := by
  obtain ⟨hdev, honly, -⟩ := s.noEarly_frame c
  exact ⟨State.noEarly_nil s c, s.noEarly_bank c, hdev, honly⟩

/-- Settles O44: each word runs its effect, whose branches are the scope, a full edge, and the wait for a migration. -/
theorem orderingWords : Obligations.OrderingWords := by
  refine ⟨fun h o s hr => word_runs hr rfl, fun h o s hr hs => ?_, noEarly_law, fun h o s hr hm hw ha hn hb => ?_,
    fun h o s hr hm hw ha hn => ?_,
    fun h o s hr ha s1 x full hread => ⟨exec_acq_core hr ha hread, exec_acq_full hr ha hread, exec_acq_bound hr ha hread,
      exec_acq_waits hr ha hread⟩,
    fun h o s hr ha s1 l hreach => ⟨exec_rel_core hr ha hreach, exec_rel_bound hr ha hreach, exec_rel_waits hr ha hreach⟩,
    fun h o s hr ha s1 old hat => exec_amo_of_effect hr (atomicEffect_of_access rfl ha hat),
    fun h o s hr ha s1 old hat => exec_cas_of_effect hr (atomicEffect_of_access rfl ha hat)⟩
  · have hfence := fenceOps_core s s.iss.ctx o.ord.toNat
    simp only [acquiring_kinds] at hfence
    rw [← hfence, ← hs]
    exact word_runs hr rfl
  · rw [exec_acq_core hr ha (acqRead_window _ hm hw hn hb) (boundScope_window hm hw), acquired, dataWrites_pair]
    exact congrArg Host.Outcome.next (State.noEarly_verdict _ _ _)
  · obtain ⟨t, hexec, hctx, hmain, honly, hbank⟩ := exec_rel_window hr hm hw ha hn
    have hcur : (t.verdict .done).cur = _ := (congrArg t.bank hctx).trans hbank
    refine ⟨_, hexec, rfl, ?_⟩
    rw [hcur]
    refine ⟨?_, fun a hout => scrByte_putNum_other s.cur _ hout, putNum_frame _ _ _ _, hmain, honly⟩
    exact (leNat_putNum _ _ _ _).trans (Nat.mod_eq_of_lt (s.cur.dreg o.dr.toNat).isLt)

end Sys2Proof.Machine
end

section
/-! OBLIGATION O23. Branches, calls and returns (R300, R301, R338). -/

namespace Sys2Proof.Machine

/-! ### The comparison and its codes (R300) -/

theorem brc_code {h : Hdr} {o : BOps} {s : State} (hr : Runs (.brc h o) s) : o.bf.toNat ≤ 5 := by
  have hw := wf_of_runs hr
  simp only [Instr.wf, Bool.and_eq_true, decide_eq_true_eq] at hw
  exact hw.1

theorem toInt_eq_zero_iff (v : Word) : v.toInt = 0 ↔ v = 0 := BitVec.toInt_inj (y := (0 : Word))

theorem brcHolds_iff {bf : BitVec 3} (hbf : bf.toNat ≤ 5) (v : Word) : brcHolds bf.toNat v = true ↔
    (bf = 0 ∧ v.toInt = 0) ∨ (bf = 1 ∧ v.toInt ≠ 0) ∨ (bf = 2 ∧ v.toInt < 0) ∨ (bf = 3 ∧ 0 ≤ v.toInt) ∨ (bf = 4 ∧ 0 < v.toInt) ∨
      (bf = 5 ∧ v.toInt ≤ 0) := by
  have hcodes : bf = 0 ∨ bf = 1 ∨ bf = 2 ∨ bf = 3 ∨ bf = 4 ∨ bf = 5 := by
    revert hbf; revert bf; decide
  rw [ne_eq, toInt_eq_zero_iff]
  rcases hcodes with rfl | rfl | rfl | rfl | rfl | rfl <;> simp [brcHolds]

theorem exec_brc {h : Hdr} {o : BOps} {s : State} (hr : Runs (.brc h o) s) : exec (.brc h o) s =
    .next ((if brcHolds o.bf.toNat (s.cur.sreg o.sa.toNat) then s.take (bTarget s o) else s).verdict .done) := word_runs hr rfl

/-! ### The link and the code range (R227, R300) -/

/-- Where the last write in flight is due, it lands last. -/
theorem landDue_concat {b : Bank} {l : List Inflight} {x : Inflight} {t : Nat} (h : b.pipe.inflight = l ++ [x]) (hx : x.due ≤ t) :
    ∃ b', landDue b t = (landWrite b' x.w).orAf x.af := by
  have hdue : (b.pipe.inflight.filter fun x => decide (x.due ≤ t)) = (l.filter fun x => decide (x.due ≤ t)) ++ [x] := by
    simp [h, hx]
  exact ⟨_, by simp only [landDue, hdue, List.foldl_append]; rfl⟩

/-- The next bundle reads a scalar that the bundle before it wrote with latency 1 (R84). -/
theorem afterCycle_later_sreg (b : Bank) {n : Nat} (hn : n ≠ 0) (v : Word) (af : BitVec 6) :
    (afterCycle (b.later 1 (.s n v (BitVec.allOnes 32)) af)).sreg n = v := by
  obtain ⟨b', hland⟩ := landDue_concat (t := b.pipe.cyc + 1)
    (b := { b.later 1 (.s n v (BitVec.allOnes 32)) af with
      pipe := { (b.later 1 (.s n v (BitVec.allOnes 32)) af).pipe with
        cyc := b.pipe.cyc + 1, mon := if b.tr.mode then b.pipe.mon + 1 else 0 } })
    (later_inflight b 1 _ af) le_rfl
  have hwrite := landWrite_sreg b' n v
  rw [if_neg hn] at hwrite
  exact (congrArg (fun y : Bank => y.sreg n) hland).trans hwrite

/-- The address that a scalar holds lies in the 32 GiB range of the thread's ENTRY. -/
theorem codeRange_epcAddr {b : Bank} (h : b.tr.mode = false) (v : Word) : codeRange b (b.epcAddr v) = true := by
  have hfield : (b.epcAddr v).extractLsb' 35 13 = b.th.entry.extractLsb' 35 13 := by
    rw [Bank.epcAddr, Laws.extract_high _ _ _ _ (by decide), Laws.extract_high _ _ _ _ (by decide), Laws.extract_all]
  simp [codeRange, h, hfield]

/-- No word is fetched from outside the code range. -/
theorem fetchBundle_of_outside {s : State} {c : Ctx} {a : Addr} (h : codeRange (s.bank c) a = false) (n : Nat) :
    fetchBundle s c a (n + 1) = .error (.trap 0x08 (a.extractLsb' 0 32) (a.extractLsb' 32 16) true false, s) := by
  simp [fetchBundle, fetchWord, h]

/-! ### Reserved forms (R300, R338) -/

theorem exec_of_illegal {i : Instr} {s : State} (hi : i.isEvent = false) (hl : lateChecked i = none) (hwf : i.wf = false) :
    exec i s = .next (takeStop (illegalStop i) s) := by
  rw [exec_of_illFormed hi hwf, formStop_of_not_late hl]

section
variable (h : Hdr) {o : BOps}

theorem brc_wf_of_reserved (hbf : o.bf = 6 ∨ o.bf = 7) : (Instr.brc h o).wf = false := by
  rcases hbf with e | e <;> simp [Instr.wf, e]

theorem call_wf_of_reserved (hbf : o.bf.extractLsb' 1 2 ≠ 0) : (Instr.call h o).wf = false ∧ (Instr.callIndirect h o).wf = false := by
  have hzero : (o.bf == 0) = false := beq_eq_false_iff_ne.mpr fun e => hbf (e ▸ by decide)
  have hone : (o.bf == 1) = false := beq_eq_false_iff_ne.mpr fun e => hbf (e ▸ by decide)
  simp only [Instr.wf, hzero, hone, Bool.false_and, and_self]

theorem ret_wf_of_reserved (hf : o.bf ≠ 0 ∨ o.li ≠ 0 ∨ o.off ≠ 0) : (Instr.ret h o).wf = false := by
  simp only [Instr.wf, Bool.and_eq_false_iff, beq_eq_false_iff_ne]
  tauto

end

/-- Settles O23: a taken branch is a run of its word, the link lands before the next bundle, and the reserved forms are ill-formed. -/
theorem branchTargets : Obligations.BranchTargets := by
  refine ⟨fun h o s hr => word_runs hr rfl, fun h o s hr => ?_, fun h o s hr => word_runs hr rfl, fun h o s hr => word_runs hr rfl,
    fun h o s hr => word_runs hr rfl, fun h o s hr => word_runs hr rfl,
    fun b v => ⟨afterCycle_later_sreg b (by decide) v 0, fun hm => codeRange_epcAddr hm v⟩,
    fun s c a n hout => fetchBundle_of_outside hout n, fun h o s => ⟨?_, ?_, ?_, rfl⟩⟩
  · have hcmp := brcHolds_iff (brc_code hr) (s.cur.sreg o.sa.toNat)
    refine ⟨fun hh => (exec_brc hr).trans ?_, fun hh => (exec_brc hr).trans ?_⟩
    · rw [if_pos (hcmp.mpr hh)]
      rfl
    · rw [if_neg (mt hcmp.mp hh)]
  · exact fun hbf => exec_of_illegal rfl rfl (brc_wf_of_reserved h hbf)
  · intro hbf
    obtain ⟨hcall, hindirect⟩ := call_wf_of_reserved h hbf
    exact ⟨exec_of_illegal rfl rfl hcall, exec_of_illegal rfl rfl hindirect⟩
  · exact fun hf => exec_of_illegal rfl rfl (ret_wf_of_reserved h hf)

end Sys2Proof.Machine
end

section
/-! OBLIGATION O31. HALT, EVSIG and IDLE (R264, R307, R310, R314). -/

namespace Sys2Proof.Machine

/-! ### EVSIG -/

/-- The signal register holds the value, and its top bit is set (R307). -/
theorem sigWord_fields (old : DWord) (bank node : Nat) (v : Word) :
    (sigWord old bank node v).extractLsb' 0 32 = v ∧ (sigWord old bank node v).getLsbD 63 = true := by
  constructor
  · rw [sigWord, Laws.extract_low _ _ _ _ (by decide), Laws.extract_all]
  · refine Laws.getLsbD_extract _ 63 true ?_
    simp (disch := decide) only [sigWord, Laws.extract_high, Laws.extract_all, Nat.reduceSub]
    rfl

/-- EVSIG writes its core's signal register and raises event 8. -/
theorem exec_evsig_spec {h : Hdr} {o : YOps} {s : State} (hr : Runs (.evsig h o) s) :
    ∃ t, exec (.evsig h o) s = .next t ∧ t.plat.evtst.getLsbD 8 = true ∧
      ((tabGet t.plat.sigv s.iss.ctx.core.val 0).extractLsb' 0 32 = s.cur.sreg o.sa.toNat + o.imm.signExtend 32) ∧
      (tabGet t.plat.sigv s.iss.ctx.core.val 0).getLsbD 63 = true ∧ t.banks = s.banks ∧ t.mem = s.mem ∧ t.sched = s.sched := by
  obtain ⟨hvalue, htop⟩ := sigWord_fields (tabGet s.plat.sigv s.iss.ctx.core.val 0) s.iss.ctx.bank.val s.cur.th.node
    (s.cur.sreg o.sa.toNat + o.imm.signExtend 32)
  refine ⟨_, word_runs hr rfl, raiseEvent_evtst (by decide) _, ?_, ?_, rfl, rfl, rfl⟩
  · exact (congrArg (BitVec.extractLsb' 0 32) (tabGet_tabSet_same _ _ _ _)).trans hvalue
  · exact (congrArg (BitVec.getLsbD · 63) (tabGet_tabSet_same _ _ _ _)).trans htop

/-! ### HALT and the fatal error -/

/-- HALT is a word of monitor mode, and names no register. -/
theorem precheck_halt_task {h : Hdr} {o : YOps} {b : Bank} (hwf : (Instr.halt h o).wf = true) (hm : b.tr.mode = false) :
    precheck (.halt h o) b = some (stopTrap 0x03 ((wordOf (.halt h o)).extractLsb' 0 32)) := by
  have hregs : regsExist (.halt h o) b = true := rfl
  have hpriv : privileged (.halt h o) b.tr.mode = true := by rw [hm]; rfl
  simp only [precheck, hwf, hregs, hpriv, Bool.not_true, Bool.or_self, Bool.false_eq_true, if_false, if_true]
  rfl

/-- The record of a fatal error (R237, R264). -/
theorem fatalError_record (cause : Nat) (s : State) :
    ∃ x : BitVec 256, (fatalError cause s).plat.crock = tabSet s.plat.crock s.plat.crkHead.toNat x ∧ x.extractLsb' 56 8 = 14 ∧
      x.extractLsb' 96 32 = BitVec.ofNat 32 cause := by
  obtain ⟨-, -, -, -, hkind, -, hinfo, -⟩ := crockBits_fields { crockBase 14 0 with info := cause } s.aon s.plat.crkSeq.toNat
  exact ⟨_, rfl, hkind, hinfo⟩

theorem makeMove_issue_dead {s : State} (h : s.plat.power = .dead) (core : Fin 32) : makeMove (.issue core) s = .fault .noPower := by
  simp [makeMove, h]

/-! ### IDLE -/

/-- The state in which an IDLE's wait has begun. -/
def idleWaits (o : YOps) (s : State) : State :=
  s.setCur { s.cur with pipe := { s.cur.pipe with wait := .idle o.sd (s.now s.iss.ctx.core) o.imm.toNat } }

theorem exec_idle {h : Hdr} {o : YOps} {s : State} (hr : Runs (.idle h o) s) :
    exec (.idle h o) s = .next ((settleIdle s.iss.ctx (idleWaits o s)).verdict .done) := word_runs hr rfl

theorem idleWaits_bank (o : YOps) (s : State) : (idleWaits o s).bank s.iss.ctx =
    { s.cur with pipe := { s.cur.pipe with wait := .idle o.sd (s.now s.iss.ctx.core) o.imm.toNat } } := State.bank_setBank _ _ _

/-- The code with which an IDLE ends as it issues: no time has passed for its limit (R314). -/
theorem idleCode_at_issue (b : Bank) (now imm : Nat) :
    idleCode b now now imm = if b.eng.faults ≠ [] then some 2 else if b.eng.idle then some 0 else none := by
  have htime : ¬ (imm ≠ 0 ∧ now + 64 * imm ≤ now) := by omega
  unfold idleCode
  rw [if_neg htime]
  simp

/-- An IDLE whose condition holds ends with its code. -/
theorem settleIdle_of_code {s : State} {c : Ctx} {sd : BitVec 6} {since imm : Nat} {v : Word}
    (hw : (s.bank c).pipe.wait = .idle sd since imm) (hc : idleCode (s.bank c) (s.now c.core) since imm = some v)
    (hf : (s.core c.core).freeze = 0) : settleIdle c s =
      s.setBank c ({ s.bank c with pipe := { (s.bank c).pipe with wait := .none } }.lockS sd.toNat v) := by
  simp [settleIdle, hw, hc, hf]

theorem settleIdle_of_no_code {s : State} {c : Ctx} {sd : BitVec 6} {since imm : Nat}
    (hw : (s.bank c).pipe.wait = .idle sd since imm) (hc : idleCode (s.bank c) (s.now c.core) since imm = none) :
    settleIdle c s = s := by
  simp [settleIdle, hw, hc]

/-- An IDLE that ends as it issues leaves its code as an interlocked result, and no wait. -/
theorem exec_idle_of_code {h : Hdr} {o : YOps} {s : State} {v : Word} (hr : Runs (.idle h o) s)
    (hf : (s.core s.iss.ctx.core).freeze = 0)
    (hc : idleCode s.cur (s.now s.iss.ctx.core) (s.now s.iss.ctx.core) o.imm.toNat = some v) :
    ∃ t, exec (.idle h o) s = .next t ∧ t.iss.verdict = .done ∧ t.cur.pipe.wait = .none ∧
      t.cur.pipe.locks = s.cur.pipe.locks ++ [{ id := s.cur.lockId, ws := oneS o.sd.toNat v, af := 0, ready := true }] ∧
      t.cur.regs = s.cur.regs ∧ t.mem = s.mem := by
  have hbank := idleWaits_bank o s
  have hsettle := settleIdle_of_code (s := idleWaits o s) (by rw [hbank]) (by rw [hbank]; exact hc) hf
  have hcur : ((settleIdle s.iss.ctx (idleWaits o s)).verdict .done).cur =
      { s.cur with pipe := { s.cur.pipe with wait := .none } }.lockS o.sd.toNat v := by
    rw [hsettle, hbank]
    exact State.bank_setBank _ _ _
  refine ⟨_, exec_idle hr, rfl, ?_⟩
  rw [hcur, hsettle]
  exact ⟨rfl, rfl, rfl, rfl⟩

/-- One that does not leaves the wait. -/
theorem exec_idle_of_no_code {h : Hdr} {o : YOps} {s : State} (hr : Runs (.idle h o) s)
    (hc : idleCode s.cur (s.now s.iss.ctx.core) (s.now s.iss.ctx.core) o.imm.toNat = none) :
    ∃ t, exec (.idle h o) s = .next t ∧ t.iss.verdict = .done ∧ t.cur.regs = s.cur.regs ∧ t.mem = s.mem ∧
      t.cur.pipe.wait = .idle o.sd (s.now s.iss.ctx.core) o.imm.toNat := by
  have hbank := idleWaits_bank o s
  have hsettle := settleIdle_of_no_code (s := idleWaits o s) (by rw [hbank]) (by rw [hbank]; exact hc)
  have hcur : ((idleWaits o s).verdict .done).cur = _ := hbank
  refine ⟨_, exec_idle hr, rfl, ?_⟩
  rw [hsettle, hcur]
  exact ⟨rfl, rfl, rfl⟩

/-- Settles O31: EVSIG and HALT run their effects, the fatal error leaves a dead device, and IDLE ends or waits by its code at issue. -/
theorem signalHaltIdle : Obligations.SignalHaltIdle := by
  refine ⟨fun h o s => exec_evsig_spec, fun h o s hr => ⟨word_runs hr rfl, fatalError_dead 2 s, rfl, rfl⟩,
    fun h o s hwf hm => exec_of_checked rfl (precheck_halt_task hwf hm),
    fun s => ⟨fatalError_record 2 s, rfl, rfl, makeMove_issue_dead (fatalError_dead 2 s)⟩,
    fun h o s hr hf hc => exec_idle_of_code hr hf ?_, fun h o s hr hfaults hidle => exec_idle_of_no_code hr ?_⟩ <;>
    rw [idleCode_at_issue]
  · by_cases hfaults : s.cur.eng.faults = []
    · simp [hfaults, hc.resolve_left (not_not.mpr hfaults)]
    · simp [hfaults]
  · simp [hfaults, hidle]

end Sys2Proof.Machine
end

section
/-! OBLIGATION O36. Barriers and the phase barrier (R24, R26, R298, R299, R304). -/

namespace Sys2Proof.Machine

/-! ### Arrivals (R298, R299) -/

section
variable {s : State} {c : Ctx} {b : Nat}

/-- A barrier that another node has open at a member makes the arrival wait. -/
theorem barArrive_of_other {m : Ctx} {x : Barrier} (hm : m ∈ s.members c) (hx : barOf s m.core b = some x)
    (hn : x.node ≠ (s.bank c).sys.nodeh) : barArrive s c b = .error (.stall, s) := by
  unfold barArrive
  rw [if_pos (List.any_eq_true.mpr ⟨m, hm, by simpa [hx] using hn⟩)]

/-- A second arrival at a barrier that is the node's own at every member is a misuse. -/
theorem barArrive_of_again {x : Barrier} (hx : barOf s c.core b = some x) (ha : x.mask.getLsbD c.core.val = true)
    (hall : ∀ m ∈ s.members c, ∀ y, barOf s m.core b = some y → y.node = (s.bank c).sys.nodeh) :
    barArrive s c b = .error (stopTrap 0x0F (BitVec.ofNat 32 b), s) := by
  unfold barArrive
  rw [if_neg]
  · simp [hx, ha]
  · rw [List.any_eq_true]
    rintro ⟨m, hm, hne⟩
    cases hy : barOf s m.core b with
    | none => simp [hy] at hne
    | some y => simp [hy, hall m hm y hy] at hne

end

section
variable {h : Hdr} {o : MOps} {s : State}

theorem exec_bara_of_arrival (hr : Runs (.bara h o) s) (hb : barNo s o < 1024) {s1 : State}
    (ha : barArrive s s.iss.ctx (barNo s o) = .ok s1) : exec (.bara h o) s =
      .next ((barCheck (wbAll s1 s.iss.ctx.core (domScope s.cur)) s.iss.ctx (barNo s o)).verdict .done) :=
  word_runs hr (by simp only [if_neg (Nat.not_le.mpr hb), ha])

theorem exec_barw_of_arrival (hr : Runs (.barw h o) s) (hb : barNo s o < 1024) {s1 : State}
    (ha : barArrive s s.iss.ctx (barNo s o) = .ok s1) : exec (.barw h o) s =
      .next ((barCheck (s1.setBank s.iss.ctx { s1.bank s.iss.ctx with
        pipe := { (s1.bank s.iss.ctx).pipe with wait := .barw (barNo s o) } }) s.iss.ctx (barNo s o)).verdict .done) :=
  word_runs hr (by simp only [if_neg (Nat.not_le.mpr hb), ha])

theorem exec_bara_of_stop (hr : Runs (.bara h o) s) (hb : barNo s o < 1024) {e : Stop × State}
    (ha : barArrive s s.iss.ctx (barNo s o) = .error e) : exec (.bara h o) s = .next (takeStop e.1 e.2) :=
  word_stops hr (by simp only [if_neg (Nat.not_le.mpr hb), ha])

theorem exec_barw_of_stop (hr : Runs (.barw h o) s) (hb : barNo s o < 1024) {e : Stop × State}
    (ha : barArrive s s.iss.ctx (barNo s o) = .error e) : exec (.barw h o) s = .next (takeStop e.1 e.2) :=
  word_stops hr (by simp only [if_neg (Nat.not_le.mpr hb), ha])

/-! ### DSYNC (R24, R26, R304) -/

/-- DSYNC at an open barrier of its own is a misuse. -/
theorem exec_dsync_at_barrier (hr : Runs (.dsync h o) s) (hb : atBarrier s s.iss.ctx = true) :
    exec (.dsync h o) s = .next (takeStop (stopTrap 0x0F 0x400) s) :=
  word_stops hr (by simp only [hb, if_true])

/-- It waits for the peer copies, with its helper ended. -/
theorem exec_dsync_with_copies (hr : Runs (.dsync h o) s) (hb : atBarrier s s.iss.ctx = false) (hp : peerCopies s.cur.eng = true) :
    exec (.dsync h o) s = .next ((endHelper s.iss.ctx s).verdict .stalled) :=
  word_stops (st := .stall) hr (by simp only [hb, hp, Bool.false_eq_true, if_false, if_true])

/-- What DSYNC does where nothing holds it up: the fence, then its own boundary, the release of the members, or the wait. -/
theorem exec_dsync_of_free (hr : Runs (.dsync h o) s) (hb : atBarrier s s.iss.ctx = false) (hp : peerCopies s.cur.eng = false) :
    let s1 := endHelper s.iss.ctx (fenceOps s s.iss.ctx 3 (domScope s.cur))
    let n := s1.node s.cur.th.node
    let n1 := { n with dsync := n.dsync ||| (1#32 <<< s.cur.th.rank) }
    let s2 := s1.setNode s.cur.th.node n1
    exec (.dsync h o) s = .next ((if s.cur.sys.level = 0 then dsyncOwn s1 n
      else if dsyncFull n1 then dsyncRelease (dsyncOwn s2 n1) s.cur.th.node
      else s2.setCur { s2.cur with pipe := { s2.cur.pipe with wait := .dsync } }).verdict .done) := by
  refine word_runs hr ?_
  simp only [hb, hp, Bool.false_eq_true, if_false]
  split
  · rfl
  · split <;> rfl

end

/-- Settles O36: each word runs its arrival, and DSYNC its fence and its boundary. -/
theorem barrierWords : Obligations.BarrierWords := by
  refine ⟨fun h o s hr hb => ⟨fun s1 => exec_bara_of_arrival hr hb, fun e => exec_bara_of_stop hr hb⟩,
    fun h o s hr hb => ⟨fun s1 => exec_barw_of_arrival hr hb, fun e => exec_barw_of_stop hr hb⟩,
    fun h o s hb => ⟨fun hr => word_stops hr (if_pos hb), fun hr => word_stops hr (if_pos hb)⟩,
    fun s c b => ⟨fun m hm x => barArrive_of_other hm, fun x hx _ ha hall => barArrive_of_again hx ha hall⟩,
    fun h o s hr => ⟨exec_dsync_at_barrier hr, exec_dsync_with_copies hr, fun hb hp => ?_⟩⟩
  have hexec := exec_dsync_of_free hr hb hp
  refine ⟨fun hl => hexec.trans ?_, fun hl hfull => hexec.trans ?_, fun hl hopen => hexec.trans ?_⟩
  · rw [if_pos hl]
  · rw [if_neg hl, if_pos hfull]
  · rw [if_neg hl, if_neg (Bool.eq_false_iff.mp hopen)]

end Sys2Proof.Machine
end

section
/-! OBLIGATIONS O11, O12 and O13. The scalar words of latency 1 (R84, R341 to R343): the lane results of the register forms and the 32-bit
results of the immediate forms. -/

namespace Sys2Proof.Machine

/-! ### The two shapes -/

/-- Lane functions that agree on lanes of the word's width say the same of its write. -/
theorem WritesLanes.congr {b : Bank} {w : RegWrite} {o : SrOps} {f g : Nat → Nat → Nat → Nat → Nat} (h : WritesLanes b w o f)
    (hfg : ∀ k, k = 32 / lanesOfSize (modSize o.md) → ∀ x y d, x < 2 ^ k → y < 2 ^ k → d < 2 ^ k → f k x y d = g k x y d) :
    WritesLanes b w o g := by
  obtain ⟨hlanes, hzero, hother, hframe⟩ := h
  refine ⟨fun j hj hd => ?_, hzero, hother, hframe⟩
  rw [hlanes j hj hd, hfg _ rfl _ _ _ (elemOf_lt _ _ _) (elemOf_lt _ _ _) (elemOf_lt _ _ _)]

/-- The register forms: their lane results below 2^W, at the widths of a scalar register's lanes. -/
theorem scalarLaw_of {i : Hdr → SrOps → Instr} {f : Nat → Nat → Nat → Nat → Flagged} {g : Nat → Nat → Nat → Nat → Nat}
    (hexec : ∀ h o s, exec (i h o) s = word (i h o) s (srFixed o f))
    (hval : ∀ w x y d, 0 < w → x < 2 ^ w → y < 2 ^ w → d < 2 ^ w → (f w x y d).val % 2 ^ w = g w x y d) : ScalarLaw i g :=
  fun h o s hr => ⟨_, (hexec h o s).trans (word_runs hr rfl), writesLanes_srWrite o _ hval⟩

/-- The register forms that take no modifier work at 32 bits (R341). -/
theorem scalarLaw_plain {i : Hdr → SrOps → Instr} {f : Nat → Nat → Nat → Nat → Flagged} {g : Nat → Nat → Nat → Nat → Nat}
    (hexec : ∀ h o s, exec (i h o) s = word (i h o) s (srFixed o f)) (hplain : ∀ h o, (i h o).wf = true → srPlainOk o = true)
    (hval : ∀ x y d, x < 2 ^ 32 → y < 2 ^ 32 → d < 2 ^ 32 → (f 32 x y d).val % 2 ^ 32 = g 32 x y d) : ScalarLaw i g := by
  intro h o s hr
  have hmd : o.md = 0 := by
    have hwf := hplain h o (wf_of_runs hr)
    simp only [srPlainOk, Bool.and_eq_true, beq_iff_eq] at hwf
    exact hwf.2
  refine ⟨_, (hexec h o s).trans (word_runs hr rfl),
    (writesLanes_srWrite o s.cur fun _ _ _ _ _ _ _ _ => rfl).congr fun k hk x y d hx hy hd => ?_⟩
  obtain rfl : k = 32 := by rw [hk, hmd]; rfl
  exact hval x y d hx hy hd

/-- The immediate forms: the low 32 bits of the lane result of a and b = sext(IMM, 32) (R341). -/
theorem immediateLaw_of {i : Hdr → SiOps → Instr} {f : Nat → Nat → Nat → Nat → Flagged} {g : Word → Word → Word → Word}
    (hexec : ∀ h o s, exec (i h o) s = word (i h o) s (siFixed o f))
    (hval : ∀ a b d : Word, BitVec.ofNat 32 (f 32 a.toNat b.toNat d.toNat).val = g a b d) : ImmediateLaw i g := by
  intro h o s hr
  refine ⟨_, (hexec h o s).trans (word_runs hr rfl), ?_⟩
  rw [← hval]
  exact writesScalar_whole s.cur _ _

/-! ### Lane results -/

theorem laneSub_val {w a b : Nat} (d : Nat) (hb : b < 2 ^ w) : (laneSub w a b d).val % 2 ^ w = (a + (2 ^ w - b)) % 2 ^ w := by
  rw [laneSub, lane, Nat.mod_mod, Nat.mod_eq_of_lt hb, Nat.add_sub_assoc hb.le]

/-- The high half of a product, floor-divided as an integer, is the high half of its pattern. -/
theorem laneMulh_val (w a b d : Nat) :
    (laneMulh w a b d).val % 2 ^ w = bits (wrapInt (2 * w) (signed w a * signed w b)) w w := by
  rw [laneMulh, lane, Nat.mod_eq_of_lt (wrapInt_lt w _)]
  have hpos : ((2 ^ w : Nat) : Int) ≠ 0 := by positivity
  have hhigh (m x : Int) (hm : m ≠ 0) : x % (m * m) / m % m = x / m % m := by
    rw [Int.emod_def x, mul_assoc, sub_eq_add_neg, ← mul_neg, Int.add_mul_ediv_left _ _ hm, ← mul_neg, Int.add_mul_emod_self_left]
  zify
  rw [← Nat.cast_ofNat (n := 2), ← Nat.cast_pow, bits, Int.natCast_mod, Int.natCast_div, coe_wrapInt, coe_wrapInt, two_mul, pow_add, Nat.cast_mul, hhigh _ _ hpos]

theorem laneShr_val {w a : Nat} (b d : Nat) (ha : a < 2 ^ w) : (laneShr w a b d).val % 2 ^ w = a >>> (b % w) := by
  rw [laneShr, lane, Nat.mod_eq_of_lt ((Nat.div_le_self _ _).trans_lt ha), Nat.shiftRight_eq_div_pow]

theorem laneMin_val {w a b : Nat} (d : Nat) (ha : a < 2 ^ w) (hb : b < 2 ^ w) :
    (laneMin w a b d).val % 2 ^ w = if signed w a ≤ signed w b then a else b := by
  simp only [laneMin, lane, ← not_le, ite_not]
  split
  · exact Nat.mod_eq_of_lt ha
  · exact Nat.mod_eq_of_lt hb

theorem laneMax_val {w a b : Nat} (d : Nat) (ha : a < 2 ^ w) (hb : b < 2 ^ w) :
    (laneMax w a b d).val % 2 ^ w = if signed w b ≤ signed w a then a else b := by
  simp only [laneMax, lane, ← not_le, ite_not]
  split
  · exact Nat.mod_eq_of_lt ha
  · exact Nat.mod_eq_of_lt hb

theorem laneSel_val {w b d : Nat} (a : Nat) (hb : b < 2 ^ w) (hd : d < 2 ^ w) :
    (laneSel w a b d).val % 2 ^ w = if a ≠ 0 then b else d := by
  unfold laneSel lane
  dsimp only
  split
  · exact Nat.mod_eq_of_lt hb
  · exact Nat.mod_eq_of_lt hd

theorem laneClz_val {w : Nat} (a b d : Nat) : (laneClz w a b d).val % 2 ^ w = if a = 0 then w else w - 1 - Nat.log2 a := by
  have hle : (if a = 0 then w else w - 1 - Nat.log2 a) ≤ w := by split <;> omega
  exact Nat.mod_eq_of_lt (hle.trans_lt Nat.lt_two_pow_self)

/-- The one bits among the low `w` of a number, counted from its lowest bit on. -/
theorem popLane_eq (w a : Nat) : popLane w a = ((List.range w).filter fun k => a.testBit k).length := by
  induction w generalizing a with
  | zero => rfl
  | succ w ih =>
    rw [popLane, ih, List.range_succ_eq_map, List.filter_cons, List.filter_map, Nat.testBit_zero]
    have htail : (fun k => (a / 2).testBit k) = (fun k => a.testBit k) ∘ Nat.succ := by
      funext k
      exact (Nat.testBit_add_one a k).symm
    rw [htail]
    by_cases h : a % 2 = 1
    · simp [h, Nat.add_comm]
    · simp [h]
      omega

theorem lanePop_val (w a b d : Nat) : (lanePop w a b d).val % 2 ^ w = ((List.range w).filter fun k => a.testBit k).length := by
  have hle : popLane w a ≤ w := by
    rw [popLane_eq]
    exact (List.length_filter_le _ _).trans_eq List.length_range
  rw [← popLane_eq]
  exact Nat.mod_eq_of_lt (hle.trans_lt Nat.lt_two_pow_self)

theorem bitOf_eq_testBit (x i : Nat) : bitOf x i = x.testBit i := by
  rw [Nat.testBit_eq_decide_div_mod_eq, bitOf, Bool.beq_eq_decide_eq]

/-! ### Results at 32 bits -/

theorem signed_toNat (x : Word) : signed 32 x.toNat = x.toInt := by
  rw [signed, Nat.mod_eq_of_lt x.isLt, BitVec.toInt_eq_toNat_cond]

theorem ofNat_wrapInt (x : Int) : BitVec.ofNat 32 (wrapInt 32 x) = BitVec.ofInt 32 x := by
  apply BitVec.eq_of_toNat_eq
  rw [BitVec.toNat_ofNat, Nat.mod_eq_of_lt (wrapInt_lt 32 x), wrapInt, BitVec.toNat_ofInt]

theorem ofNat_laneSub (a b d : Word) : BitVec.ofNat 32 (laneSub 32 a.toNat b.toNat d.toNat).val = a - b := by
  simp only [laneSub, lane]
  bv_omega

theorem ofNat_laneMulh (a b d : Word) : BitVec.ofNat 32 (laneMulh 32 a.toNat b.toNat d.toNat).val =
    (a.signExtend 64 * b.signExtend 64).extractLsb' 32 32 := by
  have hprod : a.signExtend 64 * b.signExtend 64 = BitVec.ofInt 64 (a.toInt * b.toInt) := by
    rw [BitVec.signExtend, BitVec.signExtend, BitVec.ofInt_mul]
  apply BitVec.eq_of_toNat_eq
  rw [BitVec.toNat_ofNat, laneMulh_val, signed_toNat, signed_toNat, hprod, BitVec.extractLsb'_toNat, BitVec.toNat_ofInt,
    Nat.shiftRight_eq_div_pow, bits, wrapInt]

theorem ofNat_laneShl (a b d : Word) : BitVec.ofNat 32 (laneShl 32 a.toNat b.toNat d.toNat).val = a <<< (b.toNat % 32) := by
  apply BitVec.eq_of_toNat_eq
  rw [BitVec.toNat_ofNat, BitVec.toNat_shiftLeft, laneShl, lane, Nat.mod_mod, Nat.shiftLeft_eq]

theorem ofNat_laneShr (a b d : Word) : BitVec.ofNat 32 (laneShr 32 a.toNat b.toNat d.toNat).val = a >>> (b.toNat % 32) := by
  apply BitVec.eq_of_toNat_eq
  rw [BitVec.toNat_ofNat, BitVec.toNat_ushiftRight, laneShr_val _ _ a.isLt]

theorem ofNat_laneSra (a b d : Word) : BitVec.ofNat 32 (laneSra 32 a.toNat b.toNat d.toNat).val = a.sshiftRight (b.toNat % 32) := by
  rw [laneSra, lane, ofNat_wrapInt, signed_toNat, BitVec.sshiftRight, Int.shiftRight_eq_div_pow]

theorem ofNat_laneMin (a b d : Word) : BitVec.ofNat 32 (laneMin 32 a.toNat b.toNat d.toNat).val = if a.sle b then a else b := by
  simp only [laneMin, lane, signed_toNat, BitVec.sle, ← not_le, ite_not, decide_eq_true_eq]
  split <;> simp

theorem ofNat_laneMax (a b d : Word) : BitVec.ofNat 32 (laneMax 32 a.toNat b.toNat d.toNat).val = if b.sle a then a else b := by
  simp only [laneMax, lane, signed_toNat, BitVec.sle, ← not_le, ite_not, decide_eq_true_eq]
  split <;> simp

theorem ofNat_laneSel (a b d : Word) : BitVec.ofNat 32 (laneSel 32 a.toNat b.toNat d.toNat).val = if a ≠ 0 then b else d := by
  have hzero : a.toNat ≠ 0 ↔ a ≠ 0 := not_congr (BitVec.toNat_inj (y := 0#32))
  simp only [laneSel, lane, hzero]
  split <;> simp

/-- SLUI: the immediate's low half above a's. -/
theorem ofNat_laneLui (a b d : Word) :
    BitVec.ofNat 32 (laneLui 32 a.toNat b.toNat d.toNat).val = b <<< 16 ||| (a &&& 0xFFFF#32) := by
  have hlow : (a &&& 0xFFFF#32).toNat = a.toNat % 2 ^ 16 := by
    rw [BitVec.toNat_and]
    exact Nat.and_two_pow_sub_one_eq_mod _ 16
  have hhigh : (b <<< 16).toNat = b.toNat % 2 ^ 16 * 2 ^ 16 := by
    rw [BitVec.toNat_shiftLeft, Nat.shiftLeft_eq]
    omega
  apply BitVec.eq_of_toNat_eq
  rw [BitVec.toNat_ofNat, BitVec.toNat_or, hlow, hhigh, laneLui, lane, Nat.mul_comm (b.toNat % 2 ^ 16),
    Nat.two_pow_add_eq_or_of_lt (Nat.mod_lt _ (Nat.two_pow_pos 16)), Nat.mod_eq_of_lt]
  rw [← Nat.two_pow_add_eq_or_of_lt (Nat.mod_lt _ (Nat.two_pow_pos 16))]
  dsimp only
  omega

theorem ofNat_laneLea (a b d : Word) : BitVec.ofNat 32 (laneLea 32 a.toNat b.toNat d.toNat).val =
    0xFFE00000#32 + BitVec.ofNat 32 ((a.toNat + b.toNat) % 2 ^ 21) := by
  rw [laneLea, lane, BitVec.ofNat_add]

/-- An address of the scratchpad window is a 32-bit value. -/
theorem laneLea_lt (w a b d : Nat) : (laneLea w a b d).val < 2 ^ 32 := by
  have hoff := Nat.mod_lt (a + b) (Nat.two_pow_pos 21)
  simp only [laneLea, lane]
  omega

/-! ### Fields (R343) -/

theorem laneExt_eq (w a b d : Nat) : (laneExt w a b d).val =
    (let p := b % 32
     let l := min (b / 32 % 32 + 1) (32 - p)
     let f := a / 2 ^ p % 2 ^ l
     if b.testBit 10 && f.testBit (l - 1) then f + (2 ^ 32 - 2 ^ l) else f) := by
  simp only [laneExt, lane, fieldLen, bitOf_eq_testBit, bits, pow_zero, Nat.div_one]
  rfl

theorem laneIns_eq (w a b d : Nat) : (laneIns w a b d).val =
    (let p := b % 32
     let l := min (b / 32 % 32 + 1) (32 - p)
     d % 2 ^ p + a % 2 ^ l * 2 ^ p + d / 2 ^ (p + l) * 2 ^ (p + l)) := by
  simp only [laneIns, lane, fieldLen, bits, pow_zero, Nat.div_one]
  rfl

/-- A field of at most 32 bits, sign-extended or not, is a 32-bit value. -/
theorem laneExt_lt (w a b d : Nat) : (laneExt w a b d).val < 2 ^ 32 := by
  have hlen : fieldLen b ≤ 32 := (min_le_right _ _).trans (Nat.sub_le _ _)
  have hpow : 2 ^ fieldLen b ≤ 2 ^ 32 := Nat.pow_le_pow_right (by decide) hlen
  have hfield : bits a (bits b 0 5) (fieldLen b) < 2 ^ fieldLen b := Nat.mod_lt _ (Nat.two_pow_pos _)
  unfold laneExt lane
  dsimp only
  split <;> omega

/-- A field put into a 32-bit value leaves a 32-bit value. -/
theorem laneIns_lt {d : Nat} (w a b : Nat) (hd : d < 2 ^ 32) : (laneIns w a b d).val < 2 ^ 32 := by
  have hfit : bits b 0 5 + fieldLen b ≤ 32 := by
    have hp : bits b 0 5 < 2 ^ 5 := Nat.mod_lt _ (by decide)
    have hl : fieldLen b ≤ 32 - bits b 0 5 := min_le_right _ _
    omega
  generalize hp : bits b 0 5 = p at hfit
  generalize hl : fieldLen b = l at hfit
  have hval : (laneIns w a b d).val = d % 2 ^ p + a % 2 ^ l * 2 ^ p + d / 2 ^ (p + l) * 2 ^ (p + l) := by
    simp only [laneIns, lane, hp, hl]
  have hlow : d % 2 ^ p + a % 2 ^ l * 2 ^ p < 2 ^ (p + l) := by
    have h1 : d % 2 ^ p < 2 ^ p := Nat.mod_lt _ (Nat.two_pow_pos p)
    have h2 : a % 2 ^ l < 2 ^ l := Nat.mod_lt _ (Nat.two_pow_pos l)
    calc d % 2 ^ p + a % 2 ^ l * 2 ^ p < (a % 2 ^ l + 1) * 2 ^ p := by rw [Nat.succ_mul]; omega
      _ ≤ 2 ^ l * 2 ^ p := Nat.mul_le_mul_right _ h2
      _ = 2 ^ (p + l) := by rw [← pow_add, Nat.add_comm]
  have hsplit : 2 ^ 32 = 2 ^ (32 - (p + l)) * 2 ^ (p + l) := by rw [← pow_add, Nat.sub_add_cancel hfit]
  have hhigh : d / 2 ^ (p + l) < 2 ^ (32 - (p + l)) := by
    rw [Nat.div_lt_iff_lt_mul (Nat.two_pow_pos _), ← hsplit]
    exact hd
  calc (laneIns w a b d).val < (d / 2 ^ (p + l) + 1) * 2 ^ (p + l) := by rw [hval, Nat.succ_mul]; omega
    _ ≤ 2 ^ (32 - (p + l)) * 2 ^ (p + l) := Nat.mul_le_mul_right _ hhigh
    _ = 2 ^ 32 := hsplit.symm

/-! ### The statements -/

/-- Settles O11: each word writes the lanes of its lane function, whose results lie below 2^W. -/
theorem scalarRegisterForms : Obligations.ScalarRegisterForms :=
  ⟨scalarLaw_of (f := laneAdd) (fun _ _ _ => rfl) fun _ _ _ _ _ _ _ _ => Nat.mod_mod _ _,
   scalarLaw_of (f := laneSub) (fun _ _ _ => rfl) fun _ _ _ d _ _ hy _ => laneSub_val d hy,
   scalarLaw_of (f := laneMul) (fun _ _ _ => rfl) fun _ _ _ _ _ _ _ _ => Nat.mod_mod _ _,
   scalarLaw_of (f := laneMulh) (fun _ _ _ => rfl) fun w x y d _ _ _ _ => laneMulh_val w x y d,
   scalarLaw_of (f := laneAnd) (fun _ _ _ => rfl) fun _ x _ _ _ _ hy _ => Nat.mod_eq_of_lt (Nat.and_lt_two_pow x hy),
   scalarLaw_of (f := laneOr) (fun _ _ _ => rfl) fun _ _ _ _ _ hx hy _ => Nat.mod_eq_of_lt (Nat.or_lt_two_pow hx hy),
   scalarLaw_of (f := laneXor) (fun _ _ _ => rfl) fun _ _ _ _ _ hx hy _ => Nat.mod_eq_of_lt (Nat.xor_lt_two_pow hx hy),
   scalarLaw_of (f := laneShl) (fun _ _ _ => rfl) fun w x y _ _ _ _ _ => by rw [laneShl, lane, Nat.mod_mod, Nat.shiftLeft_eq],
   scalarLaw_of (f := laneShr) (fun _ _ _ => rfl) fun _ _ y d _ hx _ _ => laneShr_val y d hx,
   scalarLaw_of (f := laneSra) (fun _ _ _ => rfl) fun w _ _ _ _ _ _ _ => Nat.mod_eq_of_lt (wrapInt_lt w _),
   scalarLaw_of (f := laneMin) (fun _ _ _ => rfl) fun _ _ _ d _ hx hy _ => laneMin_val d hx hy,
   scalarLaw_of (f := laneMax) (fun _ _ _ => rfl) fun _ _ _ d _ hx hy _ => laneMax_val d hx hy,
   scalarLaw_of (f := laneSel) (fun _ _ _ => rfl) fun _ x _ _ _ _ hy hd => laneSel_val x hy hd,
   scalarLaw_of (f := laneMov) (fun _ _ _ => rfl) fun _ _ _ _ _ hx _ _ => Nat.mod_eq_of_lt hx⟩

/-- Settles O12: the counts at every width, and the fields at 32 bits, where SEXT, SINS and SLEA alone work. -/
theorem scalarFieldForms : Obligations.ScalarFieldForms :=
  ⟨scalarLaw_of (f := laneClz) (fun _ _ _ => rfl) fun _ x y d _ _ _ _ => laneClz_val x y d,
   scalarLaw_of (f := lanePop) (fun _ _ _ => rfl) fun w x y d _ _ _ _ => lanePop_val w x y d,
   scalarLaw_plain (f := laneLea) (fun _ _ _ => rfl) (fun _ _ h => h) fun x y d _ _ _ => Nat.mod_eq_of_lt (laneLea_lt 32 x y d),
   scalarLaw_plain (f := laneExt) (fun _ _ _ => rfl) (fun _ _ h => h) fun x y d _ _ _ =>
     (Nat.mod_eq_of_lt (laneExt_lt 32 x y d)).trans (laneExt_eq 32 x y d),
   scalarLaw_plain (f := laneIns) (fun _ _ _ => rfl) (fun _ _ h => h) fun x y d _ _ hd =>
     (Nat.mod_eq_of_lt (laneIns_lt 32 x y hd)).trans (laneIns_eq 32 x y d)⟩

/-- Settles O13: each word writes the low 32 bits of its lane function at 32 bits. -/
theorem scalarImmediateForms : Obligations.ScalarImmediateForms :=
  ⟨immediateLaw_of (f := laneAdd) (fun _ _ _ => rfl) fun a b _ => BitVec.eq_of_toNat_eq (by simp [laneAdd, lane]),
   immediateLaw_of (f := laneSub) (fun _ _ _ => rfl) ofNat_laneSub,
   immediateLaw_of (f := laneMul) (fun _ _ _ => rfl) fun a b _ => BitVec.eq_of_toNat_eq (by simp [laneMul, lane]),
   immediateLaw_of (f := laneMulh) (fun _ _ _ => rfl) ofNat_laneMulh,
   immediateLaw_of (f := laneAnd) (fun _ _ _ => rfl) fun a b _ => by simp [laneAnd, lane, ← BitVec.toNat_and],
   immediateLaw_of (f := laneOr) (fun _ _ _ => rfl) fun a b _ => by simp [laneOr, lane, ← BitVec.toNat_or],
   immediateLaw_of (f := laneXor) (fun _ _ _ => rfl) fun a b _ => by simp [laneXor, lane, ← BitVec.toNat_xor],
   immediateLaw_of (f := laneShl) (fun _ _ _ => rfl) ofNat_laneShl,
   immediateLaw_of (f := laneShr) (fun _ _ _ => rfl) ofNat_laneShr,
   immediateLaw_of (f := laneSra) (fun _ _ _ => rfl) ofNat_laneSra,
   immediateLaw_of (f := laneMin) (fun _ _ _ => rfl) ofNat_laneMin,
   immediateLaw_of (f := laneMax) (fun _ _ _ => rfl) ofNat_laneMax,
   immediateLaw_of (f := laneSel) (fun _ _ _ => rfl) ofNat_laneSel,
   immediateLaw_of (f := laneMovb) (fun _ _ _ => rfl) fun _ b _ => by simp [laneMovb, lane],
   immediateLaw_of (f := laneLui) (fun _ _ _ => rfl) ofNat_laneLui,
   immediateLaw_of (f := laneLea) (fun _ _ _ => rfl) ofNat_laneLea,
   immediateLaw_of (f := laneExt) (fun _ _ _ => rfl) fun a b d => by rw [laneExt_eq]; rfl,
   immediateLaw_of (f := laneIns) (fun _ _ _ => rfl) fun a b d => by rw [laneIns_eq]⟩

end Sys2Proof.Machine
end

section
/-! OBLIGATION O15. SCMP and PLOG (R330, R344). -/

namespace Sys2Proof.Machine

/-! ### Predicate registers (R72, R75) -/

theorem physP_ne_zero {b : Bank} {n : Nat} (h : n ≠ 0) : b.physP n ≠ 0 := by
  unfold Bank.physP
  split <;> omega

@[simp] theorem physP_zero (b : Bank) : b.physP 0 = 0 := rfl

/-- A write to p0 is discarded. -/
theorem landWrite_p0 (b : Bank) (v m : PReg) : landWrite b (.p 0 v m) = b := by
  simp [landWrite]

/-- A predicate write changes its own register and nothing else. -/
theorem landWrite_predicate_frame (b : Bank) (n : Nat) (v m : PReg) :
    landWrite b (.p n v m) = { b with regs := { b.regs with p := (landWrite b (.p n v m)).regs.p } } := by
  unfold landWrite
  dsimp only
  split <;> rfl

theorem landWrite_preg_same {b : Bank} {n : Nat} (h : n ≠ 0) (v m : PReg) :
    (landWrite b (.p (b.physP n) v m)).preg n = mergeBits (b.preg n) v m := by
  have hreg : (landWrite b (.p (b.physP n) v m)).preg n = (landWrite b (.p (b.physP n) v m)).pphys (b.physP n) := by
    rw [landWrite_predicate_frame]
    rfl
  rw [hreg]
  simp [landWrite, Bank.pphys, Bank.preg, physP_ne_zero h]

/-- A field whose mask is all ones takes the new value. -/
theorem mergeBits_allOnes {n : Nat} (old val : BitVec n) : mergeBits old val (BitVec.allOnes n) = val := by
  simp [mergeBits]

/-! ### SCMP (R344) -/

/-- A bit of packed truth values. -/
theorem getLsbD_packLanes_one {n e : Nat} (f : Nat → Bool) (hn : n ≤ 1024) :
    (BitVec.ofNat 1024 (packLanes 1 ((List.range n).map fun j => b2n (f j)))).getLsbD e = (decide (e < n) && f e) := by
  have hlen : ((List.range n).map fun j => b2n (f j)).length = n := by simp
  by_cases he : e < n
  · have hbit := toNat_extract_ofNat_packLanes (n := 1024) (w := 1) (l := (List.range n).map fun j => b2n (f j))
      (by rw [hlen, Nat.one_mul]; exact hn) (by rw [hlen]; exact he)
    rw [Nat.one_mul, List.getElem_map, List.getElem_range] at hbit
    rw [Laws.getLsbD_extract _ e (f e) (BitVec.eq_of_toNat_eq (by rw [hbit]; cases f e <;> rfl))]
    simp [he]
  · have hlt := packLanes_lt 1 ((List.range n).map fun j => b2n (f j))
    rw [hlen, Nat.one_mul] at hlt
    have hzero : (packLanes 1 ((List.range n).map fun j => b2n (f j))).testBit e = false :=
      Nat.testBit_lt_two_pow (hlt.trans_le (Nat.pow_le_pow_right (by decide) (Nat.le_of_not_lt he)))
    simp [BitVec.getLsbD_ofNat, hzero, he]

/-- Bit e of SCMP's result is lane e's comparison, and every bit above the lanes is 0. -/
theorem scmpBits_getLsbD (o : SrOps) (b : Bank) (e : Nat) :
    let n := lanesOfSize (modSize o.md)
    (scmpBits o b).getLsbD e = (decide (e < n) && scmpHolds (o.sd.extractLsb' 4 2).toNat (32 / n)
      (elemOf (b.sreg o.sa.toNat).toNat (32 / n) (srcLane o.ma n e)) (elemOf (b.sreg o.sb.toNat).toNat (32 / n) (srcLane o.mb n e))) := by
  obtain ⟨-, -, hfill⟩ := lane_widths o.md
  have hn : lanesOfSize (modSize o.md) ≤ 1024 := (Nat.le_of_dvd (by decide) (Dvd.intro_left _ hfill)).trans (by decide)
  dsimp only
  rw [scmpBits, srLanes, List.map_map]
  exact getLsbD_packLanes_one (fun j => scmpHolds (o.sd.extractLsb' 4 2).toNat _
    (elemOf _ _ (srcLane o.ma _ j)) (elemOf _ _ (srcLane o.mb _ j))) hn

/-- A packed SCMP whose destination is not the plain one is ill-formed (R344). -/
theorem scmp_wf_of_select {o : SrOps} (h : Hdr) (hn : lanesOfSize (modSize o.md) ≠ 1) (hm : modSw o.md = false ∨ modIx o.md ≠ 0) :
    (Instr.scmp h o).wf = false := by
  have hsize : (modSize o.md == 0) = false := beq_eq_false_iff_ne.mpr fun e => hn (e ▸ by decide)
  have hplain : (modSw o.md && modIx o.md == 0) = false := by
    rcases hm with e | e <;> simp [e]
  simp only [Instr.wf, scmpOk, hsize, Bool.false_eq_true, if_false, hplain, Bool.and_false]

/-! ### PLOG (R330) -/

/-- Bit i of the combination is the truth table's entry for bit i of each operand. -/
theorem plogBits_getLsbD {i : Nat} (h : i < 1024) (tt : BitVec 4) (a b : PReg) :
    (plogBits tt a b).getLsbD i = tt.getLsbD (2 * b2n (a.getLsbD i) + b2n (b.getLsbD i)) := by
  have hpick (k : Nat) : (if tt.getLsbD k then allOnesP else (0 : PReg)).getLsbD i = tt.getLsbD k := by
    cases tt.getLsbD k
    · simp
    · simp only [if_true, allOnesP, BitVec.getLsbD_allOnes, h, decide_true]
  simp only [plogBits, BitVec.getLsbD_or, BitVec.getLsbD_and, BitVec.getLsbD_not, hpick, h, decide_true, Bool.true_and]
  cases a.getLsbD i <;> cases b.getLsbD i <;> simp [b2n]

theorem plog_wf_of_field {o : SrOps} (h : Hdr) (hf : o.ma ≠ 0 ∨ o.mb ≠ 0 ∨ o.md ≠ 0 ∨ o.sb.extractLsb' 4 2 ≠ 0) :
    (Instr.plog h o).wf = false := by
  simp only [Instr.wf, srPlainOk, Bool.and_eq_false_iff, beq_eq_false_iff_ne]
  tauto

/-- Settles O15: the bits of each result, the reserved forms, the false guard, and what a whole write of a predicate leaves. -/
theorem predicateWords : Obligations.PredicateWords := by
  refine ⟨fun h o s hr => ⟨scmpBits o s.cur, word_runs hr rfl, fun e _ => ?_⟩,
    fun h o s hr => ⟨plogResult o s.cur, word_runs hr rfl, fun i hi => plogBits_getLsbD hi _ _ _⟩,
    fun h o s hn hm => exec_of_illegal rfl rfl (scmp_wf_of_select h hn hm),
    fun h o s hf => exec_of_illegal rfl rfl (plog_wf_of_field h hf),
    fun h o s i hi hp hl hg => ?_,
    fun b v => ⟨landWrite_p0 b v _, fun n hn _ => (landWrite_preg_same hn v _).trans (mergeBits_allOnes _ v)⟩, fun h o => rfl⟩
  · exact scmpBits_getLsbD o s.cur e
  · rcases List.mem_pair.mp hi with rfl | rfl <;> exact word_skipped hp hl rfl hg

end Sys2Proof.Machine
end

section
/-! OBLIGATIONS O24 and O25. Loops: their counts, their set-up, their end and their closings (R72, R322 to R324). -/

namespace Sys2Proof.Machine

/-! ### Loop registers by number -/

theorem Loops.get_set_other {k j : Nat} (hk : k < 4) (hj : j < 4) (h : j ≠ k) (l : Loops) (x : LoopReg) :
    (l.set k x).get j = l.get j := by
  interval_cases k <;> interval_cases j <;> simp [Loops.set, Loops.get] at h ⊢

@[simp] theorem Loops.set_rot (l : Loops) (k : Nat) (x : LoopReg) : (l.set k x).rot = l.rot := by
  unfold Loops.set
  split <;> rfl

@[simp] theorem Loops.set_prot (l : Loops) (k : Nat) (x : LoopReg) : (l.set k x).prot = l.prot := by
  unfold Loops.set
  split <;> rfl

theorem bundleNo_eq (a : Addr) : bundleNo a = (a.extractLsb' 3 45).toNat := by
  rw [BitVec.extractLsb'_toNat, Nat.shiftRight_eq_div_pow, bundleNo]
  have := a.isLt
  omega

/-! ### Predicate writes that land (R72, R84) -/

theorem landWrite_pphys {b : Bank} {n : Nat} (hn : n ≠ 0) (v : PReg) (q : Nat) :
    (landWrite b (.p n v allOnesP)).pphys q = if q = n then v else b.pphys q := by
  unfold landWrite Bank.pphys
  simp only [hn, if_false]
  by_cases h : q = n
  · subst h
    have hwhole (old : PReg) : mergeBits old v allOnesP = v := mergeBits_allOnes old v
    simp [hn, hwhole]
  · rw [if_neg h]
    split
    · rfl
    · exact tabGet_tabSet_other _ _ _ _ _ h

/-- Writes of distinct predicates that land in turn: each register has its own value. -/
theorem foldl_landWrite_pphys {n : Nat → Nat} {k : Nat} (v : Nat → PReg) (hinj : ∀ i, i < k → ∀ j, j < k → n i = n j → i = j)
    (hpos : ∀ i, n i ≠ 0) (b : Bank) {j : Nat} (hj : j < k) :
    ((List.range k).foldl (fun b i => (landWrite b (.p (n i) (v i) allOnesP)).orAf 0) b).pphys (n j) = v j := by
  have hflags (a : Bank) (q : Nat) : (a.orAf 0).pphys q = a.pphys q := rfl
  induction k with
  | zero => omega
  | succ k ih =>
    rw [List.range_succ, List.foldl_append, List.foldl_cons, List.foldl_nil, hflags, landWrite_pphys (hpos k)]
    by_cases h : j = k
    · rw [if_pos (by rw [h]), h]
    · rw [if_neg fun e => h (hinj j hj k (Nat.lt_succ_self k) e)]
      exact ih (fun i hi j hj => hinj i (by omega) j (by omega)) (by omega)

theorem physP_high_inj {b : Bank} {i j : Nat} (hi : i < 8) (hj : j < 8) (h : b.physP (8 + i) = b.physP (8 + j)) : i = j := by
  unfold Bank.physP at h
  rw [if_neg (by omega), if_neg (by omega)] at h
  omega

/-! ### LOOP (R322) -/

section
variable {o : BOps} {s : State}

theorem loopCount_immediate (h : o.bf = 0) : loopCount o s = .ok (s, o.sa.toNat, 0) := by
  unfold loopCount
  rw [h]
  rfl

theorem loopCount_scalar (h : o.bf = 2) : loopCount o s = .ok (s, (s.cur.sreg o.sa.toNat).toNat, 0) := by
  unfold loopCount
  rw [h]
  rfl

theorem loopCount_rotating (h : o.bf = 3) :
    loopCount o s = .ok (s, (s.cur.sreg o.sa.toNat).toNat % 2 ^ 29, (s.cur.sreg o.sa.toNat).toNat / 2 ^ 29) := by
  unfold loopCount
  rw [h]
  rfl

/-- The state after the two pops of a count from a stream. -/
def poppedTwice (s : State) (q : Nat) (st : Stream) : State :=
  { s.setCur { s.cur with q := tabSet s.cur.q q st } with freeCtr := s.freeCtr + 2 }

theorem loopCount_stream (h : o.bf = 4) {x y : Word} {g1 g2 : Stream}
    (h1 : popNext s o.sa.toNat 1 (s.cur.stream o.sa.toNat) = .ok (.elem x, g1)) (h2 : popNext s o.sa.toNat 2 g1 = .ok (.elem y, g2)) :
    loopCount o s = .ok (poppedTwice s o.sa.toNat g2, if (y - x).toInt ≤ 0 then 0 else (y - x).toNat, 0) := by
  unfold loopCount
  rw [h]
  simp only [h1, h2]
  rfl

/-- A count leaves everything but the streams of its bank and the count of free values. -/
structure CountFrame (s t : State) : Prop where
  iss : t.iss = s.iss
  cur : t.cur = { s.cur with q := t.cur.q }
  only : OnlyBank s.iss.ctx s t

theorem loopCount_frame {s1 : State} {c d : Nat} (h : loopCount o s = .ok (s1, c, d)) : CountFrame s s1 := by
  have hsame : CountFrame s s := ⟨rfl, rfl, fun _ _ => rfl⟩
  have hpop (st : Stream) : CountFrame s (poppedTwice s o.sa.toNat st) := by
    have hcur : (poppedTwice s o.sa.toNat st).cur = { s.cur with q := tabSet s.cur.q o.sa.toNat st } := State.cur_setCur s _
    exact ⟨rfl, by rw [hcur], onlyBank_setBank s.iss.ctx s _⟩
  unfold loopCount at h
  dsimp only at h
  split at h
  · cases h
    exact hsame
  · split at h
    all_goals
      cases h
      exact hsame
  · split at h
    · cases h
    · split at h
      · cases h
      · cases h
        exact hpop _

/-- The loop register that a LOOP of count `c` and depth `d + 1` sets up. -/
def setUpLoop (s : State) (o : BOps) (c d : Nat) : LoopReg :=
  { ls := s.iss.fall ||| (if o.bf = 3 then 1 else 0), le := (s.iss.pc + o.off.signExtend 48 * 8) ||| BitVec.ofNat 48 d,
    lc := BitVec.ofNat 32 (c + d), active := true }

/-- Only a LOOP of count source 1 has .rot. -/
theorem loop_rot_iff {h : Hdr} (hw : (Instr.loop h o).wf = true) : o.bf.getLsbD 0 = decide (o.bf = 3) := by
  simp only [Instr.wf, Bool.and_eq_true] at hw
  obtain ⟨⟨hsrc, hrot⟩, -⟩ := hw
  revert hsrc hrot
  generalize o.bf = bf
  revert bf
  decide

/-- Writes of latency 1, started in turn, stand in flight in their order. -/
theorem laterAllW_eq (b : Bank) (ws : List RegWrite) : execLoop.laterAllW b ws =
    { b with pipe := { b.pipe with inflight := b.pipe.inflight ++ ws.map fun w => { w := w, af := 0, due := b.pipe.cyc + 1 } } } := by
  induction ws generalizing b with
  | nil => simp [execLoop.laterAllW]
  | cons w r ih =>
    rw [execLoop.laterAllW, ih]
    simp [Bank.later]

/-- Writes in flight that are due land after those before them. -/
theorem landDue_append {b : Bank} {old new : List Inflight} {t : Nat} (h : b.pipe.inflight = old ++ new) (hnew : ∀ x ∈ new, x.due ≤ t) :
    ∃ b', landDue b t = new.foldl (fun b x => (landWrite b x.w).orAf x.af) b' := by
  have hdue : (b.pipe.inflight.filter fun x => decide (x.due ≤ t)) = (old.filter fun x => decide (x.due ≤ t)) ++ new := by
    rw [h, List.filter_append, List.filter_eq_self.mpr fun x hx => decide_eq_true (hnew x hx)]
  exact ⟨_, by simp only [landDue, hdue, List.foldl_append]; rfl⟩

/-- The predicates that LOOP.rot sets, as the next bundle reads them: p8 all ones, p9 to p15 clear. -/
theorem afterCycle_rotPreds (b : Bank) (l : Loops) {i : Nat} (hi : i < 8) :
    (afterCycle (execLoop.laterAllW { b with loops := l } (rotPreds b))).pphys (b.physP (8 + i)) = if i = 0 then allOnesP else 0 := by
  obtain ⟨y, hy⟩ := landDue_append (t := b.pipe.cyc + 1)
    (b := { b with loops := l, pipe := { b.pipe with
      cyc := b.pipe.cyc + 1, mon := if b.tr.mode then b.pipe.mon + 1 else 0,
      inflight := b.pipe.inflight ++ (rotPreds b).map fun w => { w := w, af := 0, due := b.pipe.cyc + 1 } } })
    rfl (List.forall_mem_map.mpr fun _ _ => le_rfl)
  rw [laterAllW_eq, afterCycle]
  dsimp only
  rw [hy, rotPreds, List.map_map, List.foldl_map]
  exact foldl_landWrite_pphys (fun i => if i = 0 then allOnesP else 0) (fun i hi j hj => physP_high_inj hi hj)
    (fun i => physP_ne_zero (by omega)) y hi

/-- The bank after a LOOP with a count. -/
def loopSetUp (s s1 : State) (o : BOps) (c d : Nat) : Bank :=
  let b := { s1.cur with loops := s.cur.loops.set o.li.toNat (setUpLoop s o c d) }
  if o.bf = 3 then execLoop.laterAllW b (rotPreds s1.cur) else b

theorem loopSetUp_loops (s s1 : State) (o : BOps) (c d : Nat) :
    (loopSetUp s s1 o c d).loops = s.cur.loops.set o.li.toNat (setUpLoop s o c d) := by
  unfold loopSetUp
  split
  · rw [laterAllW_eq]
  · rfl

theorem loopSetUp_regs (s s1 : State) (o : BOps) (c d : Nat) : (loopSetUp s s1 o c d).regs = s1.cur.regs := by
  unfold loopSetUp
  split
  · rw [laterAllW_eq]
  · rfl

theorem exec_loop_counted {h : Hdr} {s1 : State} {c d : Nat} (hr : Runs (.loop h o) s) (hcount : loopCount o s = .ok (s1, c, d))
    (hc : c ≠ 0) : exec (.loop h o) s = .next ((s1.setCur (loopSetUp s s1 o c d)).verdict .done) := by
  have hframe := loopCount_frame hcount
  have hloops : s1.cur.loops = s.cur.loops := by rw [hframe.cur]
  refine word_runs hr ?_
  simp only [hcount, if_neg hc, loop_rot_iff (wf_of_runs hr), decide_eq_true_eq, hframe.iss, hloops]
  rfl

theorem exec_loop_zero {h : Hdr} {s1 s2 : State} {d : Nat} {ws : List DWord} (hr : Runs (.loop h o) s)
    (hcount : loopCount o s = .ok (s1, 0, d))
    (hfetch : fetchBundle s1 s.iss.ctx (s.iss.pc + o.off.signExtend 48 * 8) 4 = .ok (s2, ws)) : exec (.loop h o) s =
      .next ((s2.take ((s.iss.pc + o.off.signExtend 48 * 8) + BitVec.ofNat 48 (8 * ws.length))).verdict .done) := by
  refine word_runs hr ?_
  have hafter : afterBundle s1 s1.iss.ctx (bTarget s o) =
      .ok (s2, (s.iss.pc + o.off.signExtend 48 * 8) + BitVec.ofNat 48 (8 * ws.length)) := by
    rw [(loopCount_frame hcount).iss, afterBundle, bTarget, hfetch]
  simp only [hcount, if_true, hafter]

end

/-! ### LOOPX (R324) -/

/-- LOOPX makes its loop and the active loops nested in it inactive, where its loop is active. -/
theorem loopExit_get (l : Loops) {i m : Nat} (hm : m < 4) : (loopExit l i).get m =
    if (l.get i).active = true ∧ (m = i ∨ nestsIn (l.get m) (l.get i) = true) then { l.get m with active := false } else l.get m := by
  have hstep (r : Loops) (k : Nat) (hk : k < 4) : ((if k = i ∨ nestsIn (l.get k) (l.get i) = true
      then r.set k { l.get k with active := false } else r).get m) =
      if k = m ∧ (k = i ∨ nestsIn (l.get k) (l.get i) = true) then { l.get m with active := false } else r.get m := by
    by_cases hkm : k = m
    · subst hkm
      by_cases hk' : k = i ∨ nestsIn (l.get k) (l.get i) = true
      · simp only [hk', if_true, and_self, Loops.get_set hk]
      · simp only [hk', if_false, and_false]
    · by_cases hk' : k = i ∨ nestsIn (l.get k) (l.get i) = true
      · simp only [hk', if_true, hkm, false_and, if_false, Loops.get_set_other hk hm (Ne.symm hkm)]
      · simp only [hk', if_false, and_false]
  unfold loopExit
  dsimp only
  split
  next ha =>
    simp only [List.foldl_cons, List.foldl_nil]
    rw [hstep _ 3 (by decide), hstep _ 2 (by decide), hstep _ 1 (by decide), hstep _ 0 (by decide)]
    obtain rfl | rfl | rfl | rfl : m = 0 ∨ m = 1 ∨ m = 2 ∨ m = 3 := by omega
    all_goals simp [ha]
  next ha => simp [ha]

theorem loopExit_rot (l : Loops) (i : Nat) : (loopExit l i).rot = l.rot ∧ (loopExit l i).prot = l.prot := by
  unfold loopExit
  dsimp only
  split
  · refine ⟨foldl_keeps Loops.rot (fun r m => ?_) _ _, foldl_keeps Loops.prot (fun r m => ?_) _ _⟩
    all_goals split <;> simp
  · exact ⟨rfl, rfl⟩

/-- Settles O24: the count sources, the set-up, the branch past the body, and LOOPX with the loops nested in its own. -/
theorem loopSetup : Obligations.LoopSetup := by
  refine ⟨fun o s => ⟨loopCount_immediate, loopCount_scalar, loopCount_rotating, fun x y g1 g2 hbf h1 h2 =>
      ⟨_, loopCount_stream hbf h1 h2, State.cur_setCur s _, rfl, rfl, onlyBank_setBank s.iss.ctx s _⟩⟩,
    fun h o s s1 c d hr hcount => ⟨fun hc => ?_, fun hc s2 ws hfetch => ?_⟩, fun h o s hr => ⟨_, word_runs hr rfl, rfl, rfl, ?_⟩,
    fun h o s hp hl hg => word_skipped hp hl rfl hg, fun s ht => ?_⟩
  · have hframe := loopCount_frame hcount
    have hcur : ((s1.setCur (loopSetUp s s1 o c d)).verdict .done).cur = loopSetUp s s1 o c d := State.cur_setCur s1 _
    refine ⟨_, exec_loop_counted hr hcount hc, rfl, (congrArg Iss.target hframe.iss :), ?_, fun hbf => ?_, ?_,
      sameDevice_setBank s1.iss.ctx s1 (loopSetUp s s1 o c d), ?_⟩
    · rw [hcur]
      exact loopSetUp_loops s s1 o c d
    · have hphys (n : Nat) : s1.cur.physP n = s.cur.physP n := by rw [hframe.cur]; rfl
      have hpred {i : Nat} (hi : i < 8) : (afterCycle (loopSetUp s s1 o c d)).pphys (s.cur.physP (8 + i)) =
          if i = 0 then allOnesP else 0 := by
        rw [loopSetUp, if_pos hbf, ← hphys]
        exact afterCycle_rotPreds s1.cur _ hi
      rw [hcur]
      refine ⟨hpred (i := 0) (by decide), fun k hk hk' => ?_⟩
      obtain ⟨i, rfl⟩ : ∃ i, k = 8 + i := ⟨k - 8, by omega⟩
      rw [hpred (by omega), if_neg (by omega)]
    · rw [hcur, loopSetUp_regs, hframe.cur]
    · refine hframe.only.trans ?_
      rw [← hframe.iss]
      exact onlyBank_setBank s1.iss.ctx s1 _
  · subst hc
    exact exec_loop_zero hr hcount hfetch
  · have hcur : (((s.setCur { s.cur with loops := loopExit s.cur.loops o.li.toNat }).take (bTarget s o)).verdict .done).cur =
        { s.cur with loops := loopExit s.cur.loops o.li.toNat } := State.cur_setCur s _
    rw [hcur]
    refine ⟨fun m hm => ?_, (loopExit_rot _ _).1, (loopExit_rot _ _).2, rfl,
      sameDevice_setBank s.iss.ctx s { s.cur with loops := loopExit s.cur.loops o.li.toNat },
      onlyBank_setBank s.iss.ctx s _⟩
    rw [loopExit_get _ hm]
    simp only [nestsIn, Bool.and_eq_true, decide_eq_true_eq, bundleNo_eq, and_assoc]
  · obtain ⟨a, ha⟩ := Option.ne_none_iff_exists'.mp ht
    simp [endBundle, ha]

/-! ### Closings (R72, R323) -/

section
variable (b : Bank) (i : Nat)

/-- A loop counted down once (R323). -/
def LoopReg.closed (x : LoopReg) : LoopReg := { x with lc := x.lc - 1, active := x.lc - 1 != 0 }

/-- The loop state after a closing: under .rot, ROT and PROT have gone one on (R72). -/
theorem closeOne_loops :
    let x := b.loops.get i
    let l := b.loops.set i x.closed
    (closeOne b i).1.loops = if x.ls.getLsbD 0 = true then
      { l with rot := if b.rotSize = 0 then 0 else BitVec.ofNat 32 ((b.loops.rot.toNat + b.rotSize - 1) % b.rotSize)
               prot := BitVec.ofNat 32 ((b.loops.prot.toNat + 7) % 8) } else l := by
  unfold closeOne
  dsimp only
  split
  · split
    · rw [landWrite_predicate_frame]
      simp only [rotate, Loops.set_rot, Loops.set_prot]
      rfl
    · simp only [rotate, Loops.set_rot, Loops.set_prot]
      rfl
  · rfl

theorem closeOne_next : (closeOne b i).2 =
    if (b.loops.get i).lc = 1 then none else some ((b.loops.get i).ls.extractLsb' 3 45 ++ (0 : BitVec 3)) := by
  have hzero : (b.loops.get i).lc - 1 = 0 ↔ (b.loops.get i).lc = 1 := by
    constructor <;> intro h <;> bv_omega
  have haddr (a : Addr) : BitVec.ofNat 48 (8 * bundleNo a) = a.extractLsb' 3 45 ++ (0 : BitVec 3) := by
    apply BitVec.eq_of_toNat_eq
    have hlt := (a.extractLsb' 3 45).isLt
    rw [bundleNo_eq, BitVec.toNat_append, BitVec.toNat_ofNat, Nat.mod_eq_of_lt (by omega), Nat.shiftLeft_eq]
    simp [Nat.mul_comm]
  simp only [closeOne, bne_iff_ne, ne_eq, hzero, haddr, ite_not]

/-- A closing without .rot leaves the registers; one under .rot leaves all but the predicates. -/
theorem closeOne_regs : ((b.loops.get i).ls.getLsbD 0 = false → (closeOne b i).1.regs = b.regs) ∧
    ((b.loops.get i).lc = 1 → (closeOne b i).1.regs = b.regs) ∧
    (closeOne b i).1.regs = { b.regs with p := (closeOne b i).1.regs.p } := by
  unfold closeOne
  dsimp only
  split
  next hrot =>
    refine ⟨fun h => absurd hrot (Bool.eq_false_iff.mp h), fun h => ?_, ?_⟩
    · rw [h]
      rfl
    · split
      · rw [landWrite_predicate_frame]
        rfl
      · rfl
  next => exact ⟨fun _ => rfl, fun _ => rfl, rfl⟩

/-- A rotating loop that repeats says in p8 whether its count has reached the depth. -/
theorem closeOne_p8 (hrot : (b.loops.get i).ls.getLsbD 0 = true) (hlc : (b.loops.get i).lc ≠ 1) : (closeOne b i).1.preg 8 =
    if (b.loops.get i).le.toNat % 8 + 1 ≤ ((b.loops.get i).lc - 1).toNat then allOnesP else 0 := by
  have hne : ((b.loops.get i).lc - 1 != 0) = true := bne_iff_ne.mpr fun h => hlc (by bv_omega)
  unfold closeOne
  simp only [hrot, hne, if_true]
  exact (landWrite_preg_same (by decide) _ _).trans (mergeBits_allOnes _ _)

end

/-- Settles O25: the loop state, the next bundle and the registers after one closing, each by its own law. -/
theorem loopCloses : Obligations.LoopCloses := by
  intro b i hi
  have hloops := closeOne_loops b i
  obtain ⟨hplain, hlast, hframe⟩ := closeOne_regs b i
  have hget (k : Nat) : (closeOne b i).1.loops.get k = (b.loops.set i (b.loops.get i).closed).get k := by
    rw [hloops]
    split
    · unfold Loops.get
      split <;> rfl
    · rfl
  have hone : (b.loops.get i).lc - 1 ≠ 0 ↔ (b.loops.get i).lc ≠ 1 := not_congr (by constructor <;> intro h <;> bv_omega)
  have hnext := closeOne_next b i
  refine ⟨?_, ?_, fun h => ?_, fun h => ?_, fun k hk hne => ?_, fun h => ⟨hplain h, ?_, ?_⟩,
    fun h => ⟨?_, ?_, ?_, ?_, ?_, fun hlc => by rw [hlast hlc], fun hlc => closeOne_p8 b i h hlc⟩⟩
  · rw [hget, Loops.get_set hi]
    rfl
  · rw [hget, Loops.get_set hi]
    exact bne_iff_ne.trans hone
  · rw [hnext, if_neg h]
  · rw [hnext, if_pos h]
  · rw [hget, Loops.get_set_other hi hk hne]
  · simp [hloops, -BitVec.getLsbD_eq_getElem, h]
  · simp [hloops, -BitVec.getLsbD_eq_getElem, h]
  · simp only [hloops, h, if_true]
    rfl
  · simp only [hloops, h, if_true]
  · rw [hframe]
  · rw [hframe]
  · rw [hframe]

end Sys2Proof.Machine
end

section
/-! OBLIGATION O26. NOP, SYSR and SYSW (R81, R313, R348). -/

namespace Sys2Proof.Machine

/-- Settles O26: each word runs its effect. -/
theorem systemRegisterWords : Obligations.SystemRegisterWords :=
  ⟨fun _ _ _ hr => word_runs hr rfl, fun _ _ _ hr => word_runs hr rfl, fun _ _ _ hr => word_runs hr rfl⟩

end Sys2Proof.Machine
end

section
/-! OBLIGATIONS O9, O28, O29 and O34. Privilege, TRAP, RTE and the codes of TKW (R38, R80, R81, R228, R340, R351, R355). -/

namespace Sys2Proof.Machine

/-- A word that runs runs its effect. -/
theorem runWord_of_runs {i : Instr} {s : State} (h : Runs i s) (eff : State → Res) : runWord i s eff = eff s := by
  obtain ⟨hcheck, hlock, hguard⟩ := h
  have hg : (!isVector i && !s.cur.enabled i.hdr) = false := by
    rcases hguard with hv | hen
    · simp [hv]
    · simp [hen]
  simp [runWord, hcheck, hlock, hg]

/-! ### Privilege (R80, R81, R340) -/

section
variable {i : Instr} {b : Bank} (hw : i.wf = true) (hregs : regsExist i b = true)
include hw hregs

/-- What is left of the checks of a well-formed word whose registers exist. -/
theorem precheck_of_formed : precheck i b = if privileged i b.tr.mode = true then some (stopTrap 0x03 (privEval i)) else none := by
  simp [precheck, hw, hregs]

theorem precheck_of_privileged (hp : privileged i b.tr.mode = true) : precheck i b = some (stopTrap 0x03 (privEval i)) := by
  rw [precheck_of_formed hw hregs, if_pos hp]

theorem precheck_of_allowed (hp : privileged i b.tr.mode = false) : precheck i b = none := by
  rw [precheck_of_formed hw hregs, if_neg (by simp [hp])]

end

theorem sysTaskNone_iff (n : Nat) : sysTaskNone n = true ↔ 1 ≤ n ∧ n ≤ 4 := by
  simp [sysTaskNone]

/-- The registers that a task may not write: those it may not touch and those that are read-only to it (R80). -/
theorem sysTaskWrite_iff (n : Nat) : (sysTaskNone n || sysTaskRo n) = true ↔
    n ≤ 4 ∨ (0x010 ≤ n ∧ n ≤ 0x015) ∨ n = 0x01B ∨ n = 0x01C ∨ (0x020 ≤ n ∧ n ≤ 0x022) ∨ (0x024 ≤ n ∧ n ≤ 0x026) := by
  simp only [sysTaskNone, sysTaskRo, sysAlwaysRo, Bool.or_eq_true, Bool.and_eq_true, decide_eq_true_eq, beq_iff_eq]
  omega

/-- Settles O9: the privilege check is what is left of a well-formed word's checks, and it reads the mode and the register's number. -/
theorem privilegeChecks : Obligations.PrivilegeChecks := by
  intro i b hw hregs
  refine ⟨fun hi hm => ?_, fun hi hm => ?_, fun h o hi => ?_, fun h o hi => ?_⟩
  · rcases hi with ⟨h, o, rfl⟩ | ⟨h, o, rfl⟩ <;> exact precheck_of_privileged hw hregs (by rw [hm]; rfl)
  · rcases hi with ⟨h, o, rfl⟩ | ⟨h, o, rfl⟩ | ⟨h, o, rfl⟩ | ⟨h, o, rfl⟩ | ⟨h, o, rfl⟩ | ⟨h, o, rfl⟩ | ⟨h, o, rfl⟩ | ⟨h, o, rfl⟩ |
      ⟨h, o, rfl⟩ | ⟨h, o, rfl⟩ | ⟨h, o, rfl⟩ | ⟨h, o, rfl⟩ | ⟨h, o, rfl⟩ | ⟨h, o, rfl⟩ | ⟨h, o, rfl⟩ | ⟨h, o, rfl⟩ <;>
      exact precheck_of_privileged hw hregs (by rw [hm]; rfl)
  · subst hi
    have hpriv : privileged (.sysr h o) b.tr.mode = (!b.tr.mode && sysTaskNone o.srn.toNat) := rfl
    refine ⟨fun hm h1 h4 => precheck_of_privileged hw hregs ?_, fun hfree => precheck_of_allowed hw hregs ?_⟩
    · rw [hpriv, hm, (sysTaskNone_iff _).mpr ⟨h1, h4⟩]
      rfl
    · rw [hpriv]
      rcases hfree with hm | h0 | h4
      · rw [hm]
        rfl
      · rw [h0, show sysTaskNone (0 : BitVec 12).toNat = false from rfl, Bool.and_false]
      · rw [Bool.eq_false_iff.mpr fun hn => Nat.not_le.mpr h4 ((sysTaskNone_iff _).mp hn).2, Bool.and_false]
  · subst hi
    have hpriv : privileged (.sysw h o) b.tr.mode = (!b.tr.mode && (sysTaskNone o.srn.toNat || sysTaskRo o.srn.toNat)) := rfl
    refine ⟨fun hm hro => precheck_of_privileged hw hregs ?_, fun hfree => precheck_of_allowed hw hregs ?_⟩
    · rw [hpriv, hm, (sysTaskWrite_iff _).mpr hro]
      rfl
    · rw [hpriv]
      rcases hfree with hm | hro
      · rw [hm]
        rfl
      · rw [Bool.eq_false_iff.mpr fun hn => hro ((sysTaskWrite_iff _).mp hn), Bool.and_false]

/-! ### TRAP (R228, R355) -/

/-- ECAUSE of the software trap: its slot and its code (R228). -/
theorem ecause_of_software (slot : BitVec 2) (eval : Word) (epc : Addr) :
    TrapInfo.ecause { code := 0x10, eval := eval, vah := 0, slot := slot, fetch := false, eng := 0, epc := epc } =
      slot.setWidth 32 <<< 12 ||| 0x10#32 := by
  have hfields : ∀ k : BitVec 2, (0 : BitVec 16) ++ (0 : BitVec 2) ++ k ++ bit1 false ++ (0 : BitVec 3) ++ (0x10 : BitVec 8) =
      k.setWidth 32 <<< 12 ||| 0x10#32 := by decide
  exact hfields slot

theorem trapBank_tvec (t : TrapInfo) (b : Bank) : (trapBank t b).tr.tvec = (drain b).tr.tvec := by simp only [trapBank]
theorem trapBank_regs (t : TrapInfo) (b : Bank) : (trapBank t b).regs = (drain b).regs := by simp only [trapBank]

/-- Settles O28: the word takes the software trap, which leaves its bank as every trap in task mode does. -/
theorem trapEnters : Obligations.TrapEnters := by
  intro h o s hr hm
  have hcur := takeStop_trap_cur 0x10 (o.imm.setWidth 32) 0 false true hm
  obtain ⟨hmem, hheap, hsched, -, -, honly⟩ := takeStop_trap_frame 0x10 (o.imm.setWidth 32) 0 false true hm
  refine ⟨_, word_stops hr rfl, rfl, ?_⟩
  rw [hcur]
  rw [trapBank_loops]
  exact ⟨trapBank_mode _ _, trapBank_epc _ _, ecause_of_software _ _ _, trapBank_eval _ _, trapBank_tvec _ _, trapBank_pc _ _,
    trapBank_saved _ _, fun k _ => inactive_active _ k, rfl, rfl, trapBank_regs _ _, hmem, hheap, hsched, honly⟩

/-! ### RTE (R38, R340) -/

theorem exec_rte {h : Hdr} {o : YOps} {s : State} (hr : Runs (.rte h o) s) :
    exec (.rte h o) s = .next ((settleDiscard s.iss.ctx (trapReturn s.iss.ctx s)).verdict .diverted) := by
  change execRte h o s = _
  rw [execRte, runWord_of_runs hr]

/-- Settles O29: the return of R232, and the discard that waited for it. -/
theorem rteReturns : Obligations.RteReturns := by
  refine ⟨fun h o s hr hd => ?_, fun h o s hr hd hp => ⟨fun hn => ?_, fun hn => ?_⟩⟩
  all_goals
    have hbank := trapReturn_bank s.iss.ctx s
    rw [exec_rte hr]
    have hdisc : ((trapReturn s.iss.ctx s).bank s.iss.ctx).discard = s.cur.discard := by rw [hbank]; rfl
    have hphase : ((trapReturn s.iss.ctx s).bank s.iss.ctx).phase = s.cur.phase := by rw [hbank]; rfl
    have hnode : ((trapReturn s.iss.ctx s).bank s.iss.ctx).th.node = s.cur.th.node := by rw [hbank]; rfl
  · have hstay : settleDiscard s.iss.ctx (trapReturn s.iss.ctx s) = trapReturn s.iss.ctx s := by
      simp [settleDiscard, hdisc, hd]
    rw [hstay]
    have hcur : ((trapReturn s.iss.ctx s).verdict .diverted).cur = _ := hbank
    refine ⟨_, rfl, rfl, ?_⟩
    rw [hcur]
    have hdev : SameDevice s (trapReturn s.iss.ctx s) := sameDevice_setBank s.iss.ctx s _
    have honly : OnlyBank s.iss.ctx s (trapReturn s.iss.ctx s) := onlyBank_setBank s.iss.ctx s _
    exact ⟨rfl, rfl, rfl, rfl, rfl, rfl, rfl, hdev, honly⟩
  · simp [settleDiscard, hdisc, hd, hphase, hp, hnode, hn]
  · simp [settleDiscard, hnode, hn]

/-! ### The codes of TKW (R351) -/

/-- Settles O34: the code is that of the first state in the order of R351 that holds. -/
theorem waitCodes : Obligations.WaitCodes := by
  intro s c a x
  refine ⟨fun h => if_pos h, fun h0 hgen => ⟨fun ha => ?_, fun ha => ⟨fun hst hf => ?_, fun hst hf => ?_, fun hst => ?_, fun h1 h2 => ?_⟩⟩⟩
  all_goals
    unfold tkwCode
    dsimp only
    rw [if_neg (not_or.mpr ⟨h0, not_not.mpr hgen⟩)]
  · rw [if_pos ha]
  · rw [if_neg ha, if_pos ⟨hst, hf⟩]
  · rw [if_neg ha, if_neg (by simp [hf]), if_pos (.inl hst)]
  · rw [if_neg ha, if_neg (by simp [hst]), if_pos (.inr hst)]
  · rw [if_neg ha, if_neg (by simp [h1]), if_neg (by simp [h1, h2])]

end Sys2Proof.Machine
end

section
/-! SUPPORT. What the commits of slots leave alone (R36, R193, R194, R199): every bank, every node and the word that is being run. -/

namespace Sys2Proof.Machine

/-- The banks, the nodes and the word being run. -/
def threadsKept (s : State) : Tab Bank × Tab Node × Iss := (s.banks, s.sched.nodes, s.iss)

/-! ### Recorded errors and the residency unit's writes -/

theorem foundUe_threads (s : State) (w : Option Ctx) (strc key : Nat) : threadsKept (foundUe s w strc key) = threadsKept s := by
  have hcount : threadsKept (countUe s w strc key) = threadsKept s := rfl
  have hdrop (t : State) : threadsKept (t.dropBad strc key) = threadsKept t := rfl
  have hcore (t : State) (k : Fin 32) (x : Core) : threadsKept (t.setCore k x) = threadsKept t := rfl
  have hfam (t : State) (f : Nat) (on off : Byte) : threadsKept (t.famSet f on off) = threadsKept t := rfl
  have hfatal (t : State) : threadsKept (fatalError 3 t) = threadsKept t := rfl
  simp only [foundUe, apply_ite threadsKept, hfatal, hfam, hcore, hdrop, hcount, ite_self]

theorem unitUe_threads (s : State) (pa n : Nat) (acc : Acc) : threadsKept (unitUe s pa n acc) = threadsKept s :=
  foldl_keeps threadsKept (fun t e => by
    split
    · split
      · exact foundUe_threads _ _ _ _
      · rfl
    · rfl) _ s

theorem unitPut_threads (s : State) (a : Nat) (l : List Byte) : threadsKept (unitPut s a l) = threadsKept s := by
  unfold unitPut
  split <;> rfl

theorem putRows_threads (s : State) (base : Nat) (l : List (Nat × Word)) : threadsKept (putRows s base l) = threadsKept s := by
  induction l generalizing s with
  | nil => rfl
  | cons x r ih =>
    rw [putRows, ih]
    split
    · rfl
    · exact unitPut_threads _ _ _

/-! ### Fills (R188, R191) -/

theorem freeVictims_threads {s t : State} {n : Nat} {l : List Victim} (h : freeVictims s n l = some t) : threadsKept t = threadsKept s := by
  induction l generalizing s with
  | nil =>
    simp only [freeVictims] at h
    split at h
    · cases h
      rfl
    · cases h
  | cons v r ih =>
    simp only [freeVictims] at h
    split at h
    · cases h
      rfl
    · exact (ih h).trans rfl

theorem takeFrames_threads {s t : State} {pref : Bool} {n : Nat} {l : List Nat} (h : takeFrames s pref n = some (t, l)) :
    threadsKept t = threadsKept s := by
  simp only [takeFrames, Option.map_eq_some_iff, Prod.mk.injEq] at h
  obtain ⟨u, hu, rfl, -⟩ := h
  exact freeVictims_threads hu

theorem startFill_threads (s : State) (tix : Nat) (b : Bool) (cls : Nat) : threadsKept (startFill s tix b cls).1 = threadsKept s := by
  unfold startFill
  dsimp only
  split
  · split
    · rfl
    · split
      · rfl
      next s1 fs h =>
        have hkept : threadsKept s1 = threadsKept s := takeFrames_threads h
        exact hkept
  · rfl
  · rfl

theorem retryFills_threads (s : State) : threadsKept (retryFills s) = threadsKept s := by
  refine foldl_keeps threadsKept (fun t x => ?_) _ s
  have hfill := startFill_threads t x.1 x.2 2
  dsimp only
  split
  · exact hfill
  · exact hfill

theorem afterFree_threads (l : List Nat) (s : State) : threadsKept (afterFree l s) = threadsKept s := by
  unfold afterFree
  split
  · rfl
  · exact retryFills_threads s

theorem settleTag_threads (s : State) (tix : Nat) : threadsKept (settleTag s tix) = threadsKept s := by
  unfold settleTag
  dsimp only
  split
  · rfl
  · exact retryFills_threads _

/-! ### Batches (R194) -/

theorem finCheck_threads (s : State) (m l : Nat) : threadsKept (finCheck s m l) = threadsKept s := by
  unfold finCheck
  dsimp only
  split
  · rfl
  · exact foldl_keeps threadsKept (op := fun s i => s.setTag i { s.tag i with fin := false, pred := false }) (fun _ _ => rfl) _ s

theorem batchComplete_threads (s : State) (tix q id : Nat) : threadsKept (batchComplete s tix q id) = threadsKept s := by
  unfold batchComplete
  dsimp only
  split
  · rfl
  · rw [finCheck_threads, afterFree_threads, settleTag_threads]
    rfl

theorem batchDrop_threads (s : State) (tix q : Nat) (b : Batch) : threadsKept (batchDrop s tix q b) = threadsKept s :=
  batchComplete_threads _ _ _ _

theorem emitBatch_threads (s : State) (tix q : Nat) (x : Batch) : threadsKept (emitBatch s tix q x) = threadsKept s := by
  unfold emitBatch
  split
  · rfl
  · exact (unitUe_threads _ _ _ _).trans (unitUe_threads _ _ _ _)

theorem closeQueue_threads (s : State) (tix q : Nat) (final : Bool) : threadsKept (closeQueue s tix q final) = threadsKept s := by
  have hput (t : State) (base n : Nat) (l : List (Nat × Word)) :
      threadsKept { putRows t base l with res := { (putRows t base l).res with seq := n } } = threadsKept t := putRows_threads t base l
  have hmap (t : State) (tix q id : Nat) (f : Batch → Batch) : threadsKept (mapBatch t tix q id f) = threadsKept t := rfl
  unfold closeQueue
  dsimp only
  split
  · split
    · exact afterFree_threads _ _
    · rfl
  · split
    · split
      · rw [batchDrop_threads, hput]
        rfl
      · split
        · rw [emitBatch_threads, hmap, hput]
          rfl
        · rw [hput]
          rfl
    · rw [emitBatch_threads, hput]
      rfl

theorem commitSlot_threads (s : State) (r : SlotRec) : threadsKept (commitSlot s r) = threadsKept s := by
  unfold commitSlot
  dsimp only
  split
  · rfl
  · split
    · rfl
    · split
      · exact closeQueue_threads _ _ _ _
      · rfl

end Sys2Proof.Machine
end

section
/-! SUPPORT. Region boundaries (R30, R32, R33, R36): the member record of the thread, what a boundary leaves in it, in its bank and beside
them. -/

namespace Sys2Proof.Machine

/-! ### Member records -/

theorem State.bank_setMember (s : State) (c d : Ctx) (m : MemberRec) : (s.setMember c m).bank d = s.bank d := rfl

@[simp] theorem State.member_setMember (s : State) (c : Ctx) (m : MemberRec) : (s.setMember c m).member c = m := by
  rw [State.member, State.bank_setMember, State.setMember, State.node_setNode]
  exact tabGet_tabSet_same _ _ _ _

/-- The record lies in the thread's node, under its rank. -/
theorem member_of_same {s t : State} {c : Ctx} (hnodes : t.sched.nodes = s.sched.nodes) (hth : (t.bank c).th = (s.bank c).th) :
    t.member c = s.member c := by
  simp only [State.member, State.node, hnodes, hth]

theorem member_of_threads {s t : State} (h : threadsKept t = threadsKept s) (c : Ctx) : t.member c = s.member c := by
  simp only [threadsKept, Prod.mk.injEq] at h
  obtain ⟨hbanks, hnodes, -⟩ := h
  exact member_of_same hnodes (by rw [State.bank, hbanks]; rfl)

theorem iss_of_threads {s t : State} (h : threadsKept t = threadsKept s) : t.iss = s.iss := by
  simp only [threadsKept, Prod.mk.injEq] at h
  exact h.2.2

/-! ### What a boundary leaves -/

/-- The pins that a boundary releases leave the threads and the memory as they are. -/
theorem decPins_frame (l : List PinEntry) (s : State) : let t := l.foldl (fun s p => decPins s p.oti) s
    threadsKept t = threadsKept s ∧ t.mem = s.mem :=
  ⟨foldl_keeps threadsKept (op := fun s (p : PinEntry) => decPins s p.oti) (fun _ _ => rfl) l s,
    foldl_keeps State.mem (op := fun s (p : PinEntry) => decPins s p.oti) (fun _ _ => rfl) l s⟩

/-- What a boundary does to the thread that forms it (R33, R36): its pin log and its slot log are empty, its banks as they were. -/
structure BoundaryOf (s t : State) (c : Ctx) (m : MemberRec) : Prop where
  banks  : t.banks = s.banks
  iss    : t.iss = s.iss
  member : ∃ pins, t.member c = { m with pins := pins, slots := [] }
  mem    : m.slots = [] → t.mem = s.mem

theorem commitSlots_pinsBoundary (s : State) (c : Ctx) : BoundaryOf s (commitSlots (pinsBoundary s c) c) c (s.member c) := by
  let s1 := ((s.member c).pins.filter fun p => p.releasing).foldl (fun s p => decPins s p.oti) s
  obtain ⟨hthreads, hmem⟩ := decPins_frame ((s.member c).pins.filter fun p => p.releasing) s
  have hpins : (pinsBoundary s c).member c =
      { s.member c with pins := ((s.member c).pins.filter fun p => !p.releasing).map fun p => { p with logged := false } } :=
    State.member_setMember s1 c _
  have hcommit : threadsKept (commitSlots (pinsBoundary s c) c) =
      threadsKept ((pinsBoundary s c).setMember c { (pinsBoundary s c).member c with slots := [] }) :=
    foldl_keeps threadsKept commitSlot_threads _ _
  have hmember := member_of_threads hcommit c
  rw [State.member_setMember, hpins] at hmember
  refine ⟨?_, ?_, ⟨_, hmember⟩, fun hslots => ?_⟩
  · exact (congrArg Prod.fst hcommit).trans (congrArg Prod.fst hthreads)
  · have hiss := iss_of_threads hthreads
    exact (iss_of_threads hcommit).trans hiss
  · rw [commitSlots]
    simp only [hpins, hslots, List.foldl_nil]
    exact hmem

/-- After the end of a bank's helper no helper of its core that it owns runs. -/
theorem endHelper_off (c : Ctx) (s : State) :
    ((endHelper c s).core c.core).helper.owner = c.bank → ((endHelper c s).core c.core).helper.on = false := by
  unfold endHelper
  dsimp only
  split
  next h =>
    intro _
    rw [State.core_setCore]
  next h =>
    intro howner
    simpa [howner] using h

/-- The parts of a state after the boundary of a thread, whose slots and pins have been settled in `s2`. -/
theorem endBoundary_frame {s1 s2 : State} {c : Ctx} {m : MemberRec} (h : BoundaryOf s1 s2 c m) :
    let t := endHelper c (s2.setBank c (clearStatus (s2.bank c)))
    t.bank c = clearStatus (s1.bank c) ∧ OnlyBank c s1 t ∧ t.iss = s1.iss ∧ (m.slots = [] → t.mem = s1.mem) ∧
      ∃ pins, t.member c = { m with pins := pins, slots := [] } := by
  obtain ⟨hbanks, hiss, ⟨pins, hmember⟩, hmem⟩ := h
  have hbank (d : Ctx) : s2.bank d = s1.bank d := by rw [State.bank, hbanks]; rfl
  have hcur : (endHelper c (s2.setBank c (clearStatus (s2.bank c)))).bank c = clearStatus (s2.bank c) := by
    rw [State.bank, endHelper_banks]
    exact State.bank_setBank _ _ _
  refine ⟨by rw [hcur, hbank], fun d hd => ?_, ?_, fun hslots => ?_, pins, ?_⟩
  · rw [State.bank, endHelper_banks]
    exact (State.bank_setBank_other _ _ _ _ hd).trans (hbank d)
  · rw [endHelper_iss]
    exact hiss
  · rw [endHelper_mem]
    exact hmem hslots
  · rw [← hmember]
    refine member_of_same ?_ ?_
    · rw [endHelper_frame]
      rfl
    · rw [hcur]
      rfl

/-- The parts of a state after the boundary of a thread. -/
theorem boundary_frame (s : State) (c : Ctx) (seen : Bank) (rpc : Addr) (loops : Loops) :
    let t := boundary s c seen rpc loops
    let m := s.member c
    t.bank c = clearStatus (s.bank c) ∧ OnlyBank c s t ∧ t.iss = s.iss ∧ (m.slots = [] → t.mem = s.mem) ∧
      ∃ pins, t.member c = { m with restart := some (restartOf seen (maskRegs m.maskSa m.mask) rpc loops), pins := pins, slots := [] } := by
  have hcommit := commitSlots_pinsBoundary
    (s.setMember c { s.member c with restart := some (restartOf seen (maskRegs (s.member c).maskSa (s.member c).mask) rpc loops) }) c
  rw [State.member_setMember] at hcommit
  exact endBoundary_frame hcommit

theorem boundary_helper_off (s : State) (c : Ctx) (seen : Bank) (rpc : Addr) (loops : Loops) :
    let t := boundary s c seen rpc loops
    (t.core c.core).helper.owner = c.bank → (t.core c.core).helper.on = false := by
  dsimp only
  rw [boundary]
  exact endHelper_off c _

/-- The parts of a state after the boundary that the running word forms. -/
theorem boundaryNow_frame (s : State) :
    let t := boundaryNow s
    let m := s.member s.iss.ctx
    let n := nextAfter s (maskedRegs s s.iss.ctx)
    t.cur = clearStatus s.cur ∧ OnlyBank s.iss.ctx s t ∧ t.iss = s.iss ∧ (m.slots = [] → t.mem = s.mem) ∧
      ∃ pins, t.member s.iss.ctx =
        { m with restart := some (restartOf n.1 (maskedRegs s s.iss.ctx) n.2.1 n.2.2), pins := pins, slots := [] } := by
  dsimp only
  rw [show boundaryNow s = boundary s s.iss.ctx (nextAfter s (maskedRegs s s.iss.ctx)).1 (nextAfter s (maskedRegs s s.iss.ctx)).2.1
    (nextAfter s (maskedRegs s s.iss.ctx)).2.2 from rfl, maskedRegs]
  generalize nextAfter s _ = n
  obtain ⟨hbank, honly, hiss, hmem, hmember⟩ := boundary_frame s s.iss.ctx n.1 n.2.1 n.2.2
  refine ⟨?_, honly, hiss, hmem, hmember⟩
  rw [State.cur, hiss]
  exact hbank

end Sys2Proof.Machine
end

section
/-! OBLIGATION O32. REGION and SLICE (R28, R30 to R33, R36, R336, R345). -/

namespace Sys2Proof.Machine

/-! ### Results that land early (R270, R336) -/

/-- What no result that lands changes: the scratchpad, the domain level and the count of issue cycles. -/
def landBeside (b : Bank) : Tab Byte × BitVec 2 × Nat := (b.scr, b.sys.level, b.pipe.cyc)

theorem landWrite_beside (b : Bank) (w : RegWrite) : landBeside (landWrite b w) = landBeside b := by
  have hset (l : Loops) : landBeside (b.setSysLoops l) = landBeside b := by
    unfold Bank.setSysLoops
    split <;> rfl
  by_cases hsys : ∃ n v, w = .sys n v
  · obtain ⟨n, v, rfl⟩ := hsys
    change landBeside (sysWrite b n v) = _
    unfold sysWrite
    repeat' split
    any_goals exact hset _
    all_goals rfl
  · rw [landWrite_frame b w fun n v hw => hsys ⟨n, v, hw⟩]
    rfl

theorem landLock_beside (b : Bank) (l : Lock) : landBeside (landLock b l) = landBeside b :=
  foldl_keeps landBeside (op := landWrite) landWrite_beside l.ws _

/-- The results of earlier bundles have landed: the thread, its node and every other bank stay. -/
theorem landEarlier_frame (s : State) (regs : List Nat) :
    let t := landEarlier s regs
    landBeside t.cur = landBeside s.cur ∧ t.cur.th = s.cur.th ∧ OnlyBank s.iss.ctx s t ∧ SameDevice s t ∧ t.iss = s.iss := by
  have hcur := State.cur_setCur s
    (((locksOn s.cur regs).filter fun k => s.iss.fresh.all fun n => decide (k.id < n)).foldl landLock s.cur)
  refine ⟨?_, ?_, onlyBank_setBank _ s _, sameDevice_setBank _ s _, rfl⟩
  · exact (congrArg landBeside hcur).trans (foldl_keeps landBeside landLock_beside _ _)
  · exact (congrArg Bank.th hcur).trans (landSame_of_landKept (foldl_keeps landKept landLock_kept _ _)).th

/-! ### Bits set one by one -/

/-- A word whose bits are set one by one: those of the selected numbers. -/
theorem getLsbD_foldl_setBit {w i : Nat} (hi : i < w) (p : Nat → Bool) (l : List Nat) (m : BitVec w) :
    (l.foldl (fun m n => if p n then m ||| (1#w <<< n) else m) m).getLsbD i = (m.getLsbD i || (decide (i ∈ l) && p i)) := by
  have hbit (n : Nat) : (1#w <<< n).getLsbD i = decide (i = n) := by
    rw [BitVec.getLsbD_shiftLeft, BitVec.getLsbD_one]
    by_cases h : i = n
    · subst h
      simp [hi]
      omega
    · by_cases hlt : i < n
      · simp [hlt, h]
      · have : i - n ≠ 0 := by omega
        simp [this, h]
  induction l generalizing m with
  | nil => simp
  | cons n r ih =>
    rw [List.foldl_cons, ih]
    by_cases h : i = n
    · subst h
      cases hp : p i <;> simp [hbit]
    · cases hp : p n <;> simp [hbit, h]

/-! ### The restart (R32) -/

/-- The words of a restart are the checkpointed scalars as the next bundle reads them, and its mask names them. -/
theorem restartOf_words (b : Bank) (l : List Nat) (rpc : Addr) (loops : Loops) {k : Nat} (hk : k < l.length) :
    (restartOf b l rpc loops).words.getD k 0 = b.sreg (l.getD k 0) := by
  have hmap : k < (l.map b.sreg).length := by rwa [List.length_map]
  simp only [restartOf, List.getD]
  rw [List.getElem?_append_left hmap]
  simp [hk]

theorem restartOf_mask (b : Bank) (l : List Nat) (rpc : Addr) (loops : Loops) {n : Nat} (hn : n < 64) :
    (restartOf b l rpc loops).mask.getLsbD n = decide (n ∈ l) := by
  have hbits := getLsbD_foldl_setBit hn (fun _ => true) l 0
  simpa [restartOf] using hbits

/-! ### REGION (R336) -/

/-- REGION's mask is set once the results of earlier bundles have landed. -/
def regionSet (s : State) (o : YOps) : State :=
  let s1 := landEarlier s (maskRegs o.sa.toNat (o.imm.extractLsb' 0 16))
  s1.setMember s.iss.ctx { s1.member s.iss.ctx with maskSa := o.sa.toNat, mask := o.imm.extractLsb' 0 16 }

/-- The end of a REGION: its boundary at domain level 0, and elsewhere the end of the helper and the cleared flags alone. -/
def regionEnd (s : State) : State :=
  if s.cur.sys.level = 0 then boundaryNow s else endHelper s.iss.ctx (s.setCur (clearStatus s.cur))

/-- The cycles without issue that follow a REGION. -/
def regionHold (s : State) (regs : List Nat) : State :=
  s.setCur { s.cur with pipe := { s.cur.pipe with wait := if regs.isEmpty then .none else .hold (regs.length + 1) } }

section
variable {h : Hdr} {o : YOps} {s : State}

theorem exec_region_waits (hr : Runs (.region h o) s)
    (hw : ((locksOn s.cur (maskRegs o.sa.toNat (o.imm.extractLsb' 0 16))).any fun k => !k.ready) = true) :
    exec (.region h o) s = .next ((endHelper s.iss.ctx s).verdict .stalled) :=
  word_stops (st := .stall) hr (if_pos hw)

theorem exec_region_ends (hr : Runs (.region h o) s)
    (hw : ((locksOn s.cur (maskRegs o.sa.toNat (o.imm.extractLsb' 0 16))).any fun k => !k.ready) = false) : exec (.region h o) s =
      .next ((regionHold (regionEnd (regionSet s o)) (maskRegs o.sa.toNat (o.imm.extractLsb' 0 16))).verdict .done) :=
  word_runs hr (if_neg (Bool.eq_false_iff.mp hw))

end

theorem regionSet_member (s : State) (o : YOps) : (regionSet s o).member s.iss.ctx =
    { s.member s.iss.ctx with maskSa := o.sa.toNat, mask := o.imm.extractLsb' 0 16 } := by
  obtain ⟨-, hth, -, ⟨-, -, hsched, -⟩, -⟩ := landEarlier_frame s (maskRegs o.sa.toNat (o.imm.extractLsb' 0 16))
  have hkeep : (landEarlier s (maskRegs o.sa.toNat (o.imm.extractLsb' 0 16))).member s.iss.ctx = s.member s.iss.ctx :=
    member_of_same (congrArg Sched.nodes hsched) hth
  rw [regionSet, State.member_setMember, hkeep]

/-- The end of a REGION outside domain level 0 changes its bank and the helper alone. -/
theorem helperBoundary_frame (s : State) : let t := endHelper s.iss.ctx (s.setCur (clearStatus s.cur))
    t.cur = clearStatus s.cur ∧ OnlyBank s.iss.ctx s t ∧ t.iss = s.iss ∧ t.mem = s.mem ∧ t.member s.iss.ctx = s.member s.iss.ctx := by
  have hcur : (endHelper s.iss.ctx (s.setCur (clearStatus s.cur))).bank s.iss.ctx = clearStatus s.cur := by
    rw [State.bank, endHelper_banks]
    exact State.bank_setBank _ _ _
  refine ⟨?_, fun d hd => ?_, endHelper_iss _ _, endHelper_mem _ _, member_of_same ?_ ?_⟩
  · rw [State.cur, endHelper_iss]
    exact hcur
  · rw [State.bank, endHelper_banks]
    exact State.bank_setBank_other _ _ _ _ hd
  · rw [endHelper_frame]
    rfl
  · rw [hcur]
    rfl

/-- What the two ends of a REGION have in common. -/
theorem regionEnd_frame (s : State) : let t := regionEnd s
    t.cur = clearStatus s.cur ∧ OnlyBank s.iss.ctx s t ∧ t.iss = s.iss ∧ ((s.member s.iss.ctx).slots = [] → t.mem = s.mem) ∧
      (t.member s.iss.ctx).maskSa = (s.member s.iss.ctx).maskSa ∧ (t.member s.iss.ctx).mask = (s.member s.iss.ctx).mask ∧
      ((t.core s.iss.ctx.core).helper.owner = s.iss.ctx.bank → (t.core s.iss.ctx.core).helper.on = false) := by
  unfold regionEnd
  split
  next hl =>
    obtain ⟨hbank, honly, hiss, hmem, pins, hmember⟩ := boundaryNow_frame s
    refine ⟨hbank, honly, hiss, hmem, by rw [hmember], by rw [hmember], ?_⟩
    rw [boundaryNow]
    exact boundary_helper_off s _ _ _ _
  next hl =>
    obtain ⟨hcur, honly, hiss, hmem, hmember⟩ := helperBoundary_frame s
    exact ⟨hcur, honly, hiss, fun _ => hmem, by rw [hmember], by rw [hmember], endHelper_off _ _⟩

/-- Outside domain level 0 a REGION leaves the restart. -/
theorem regionEnd_restart {s : State} (hl : s.cur.sys.level ≠ 0) :
    ((regionEnd s).member s.iss.ctx).restart = (s.member s.iss.ctx).restart := by
  obtain ⟨-, -, -, -, hmember⟩ := helperBoundary_frame s
  rw [regionEnd, if_neg hl, hmember]

/-- At domain level 0 a REGION forms the boundary of its thread. -/
theorem regionEnd_boundary {s : State} (hl : s.cur.sys.level = 0) :
    let n := nextAfter s (maskedRegs s s.iss.ctx)
    ((regionEnd s).member s.iss.ctx).slots = [] ∧
      ((regionEnd s).member s.iss.ctx).restart = some (restartOf n.1 (maskedRegs s s.iss.ctx) n.2.1 n.2.2) := by
  obtain ⟨-, -, -, -, pins, hmember⟩ := boundaryNow_frame s
  rw [regionEnd, if_pos hl, hmember]
  exact ⟨rfl, rfl⟩

/-- The bank, address and loop state that the next bundle begins with, by the branch that the running bundle takes. -/
theorem nextAfter_eq (s : State) (l : List Nat) :
    let seen := landDue (landOn s.cur l) (s.cur.pipe.cyc + 1)
    (nextAfter s l).1 = seen ∧ (∀ a, s.iss.target = some a → (nextAfter s l).2 = (a, seen.loops)) ∧
      (s.iss.target = none → (nextAfter s l).2 = ((loopClosing seen s.iss.pc).2.getD s.iss.fall, (loopClosing seen s.iss.pc).1.loops)) := by
  simp only [nextAfter]
  cases s.iss.target with
  | none => simp
  | some b => simp

/-- The hold that follows a REGION changes the wait of its bank alone. -/
theorem regionHold_frame (s : State) (regs : List Nat) : let t := regionHold s regs
    t.cur.tr = s.cur.tr ∧ t.cur.regs = s.cur.regs ∧ t.cur.scr = s.cur.scr ∧
      t.cur.pipe.wait = (if regs = [] then .none else .hold (regs.length + 1)) ∧ OnlyBank s.iss.ctx s t ∧
      t.member s.iss.ctx = s.member s.iss.ctx := by
  have hcur : (regionHold s regs).cur =
      { s.cur with pipe := { s.cur.pipe with wait := if regs.isEmpty then .none else .hold (regs.length + 1) } } := State.cur_setCur s _
  have hth : (regionHold s regs).cur.th = s.cur.th := by rw [hcur]
  have hmember : (regionHold s regs).member s.iss.ctx = s.member s.iss.ctx := member_of_same rfl hth
  dsimp only
  rw [hcur]
  refine ⟨rfl, rfl, rfl, ?_, onlyBank_setBank _ s _, hmember⟩
  cases regs <;> rfl

/-- What REGION's mask and the results that land before it leave alone, and the mask itself. -/
theorem regionSet_frame (s : State) (o : YOps) : let u := regionSet s o
    u.cur = (landEarlier s (maskRegs o.sa.toNat (o.imm.extractLsb' 0 16))).cur ∧ landBeside u.cur = landBeside s.cur ∧
      OnlyBank s.iss.ctx s u ∧ u.mem = s.mem ∧ u.iss = s.iss := by
  obtain ⟨hbeside, -, honly, ⟨-, -, -, hmem, -⟩, hiss⟩ := landEarlier_frame s (maskRegs o.sa.toNat (o.imm.extractLsb' 0 16))
  exact ⟨rfl, hbeside, honly, hmem, hiss⟩

/-! ### SLICE (R345) -/

section
variable {h : Hdr} {o : YOps} {s : State}

/-- SLICE has nothing to do. -/
def sliceIdle (s : State) (o : YOps) : Prop :=
  s.cur.sys.helpd.extractLsb' 0 8 = 0 ∨
    ((s.core s.iss.ctx.core).helper.on = true ∧ (s.core s.iss.ctx.core).helper.owner ≠ s.iss.ctx.bank) ∨
    codeRange s.cur (s.iss.pc + o.imm.signExtend 48 * 8) = false

theorem exec_slice_idle (hr : Runs (.slice h o) s) (hi : sliceIdle s o) : exec (.slice h o) s = .next (s.verdict .done) := by
  refine word_runs hr (if_pos ?_)
  simpa [sliceIdle] using hi

theorem exec_slice_starts (hr : Runs (.slice h o) s) (hi : ¬sliceIdle s o) : exec (.slice h o) s =
    .next (((s.setCur { s.cur with pipe := { s.cur.pipe with closings := [] } }).setCore s.iss.ctx.core
      { s.core s.iss.ctx.core with helper := helperOf s.cur s.iss.ctx.bank (s.iss.pc + o.imm.signExtend 48 * 8) }).verdict .done) := by
  refine word_runs hr (if_neg fun hidle => hi ?_)
  simpa [sliceIdle] using hidle

/-- The helper's predicates are the low bits of the bank's. -/
theorem helperOf_p (b : Bank) (k : Fin 2) (entry : Addr) {n : Nat} (hn : n < 16) :
    (helperOf b k entry).p.getLsbD n = (b.preg n).getLsbD 0 := by
  have hbits := getLsbD_foldl_setBit hn (fun n => (b.preg n).getLsbD 0) (List.range 16) 0
  simpa [helperOf, hn] using hbits

end

/-- Settles O32: REGION's two ends and its hold, the restart of its boundary, and the helper that SLICE starts. -/
theorem regionAndSlice : Obligations.RegionAndSlice := by
  refine ⟨fun h o s hr => ⟨exec_region_waits hr, fun hw => ?_⟩, fun h o s hr => ⟨fun hi => ?_, fun hd hown hcode => ?_⟩⟩
  · obtain ⟨hset, hbeside, honly, hmem, hiss⟩ := regionSet_frame s o
    have hmember := regionSet_member s o
    have hexec := exec_region_ends hr hw
    generalize hregs : maskRegs o.sa.toNat (o.imm.extractLsb' 0 16) = regs at hexec hset ⊢
    generalize regionSet s o = s1 at *
    simp only [landBeside, Prod.mk.injEq] at hbeside
    obtain ⟨hscr, hlevel, hcyc⟩ := hbeside
    obtain ⟨hcur2, honly2, hiss2, hmem2, hsa2, hmask2, hhelper2⟩ := regionEnd_frame s1
    have hmasked : maskedRegs s1 s1.iss.ctx = regs := by rw [maskedRegs, hiss, hmember, hregs]
    obtain ⟨hseen, htarget, hfall⟩ := nextAfter_eq s1 regs
    have hrestart := regionEnd_restart (s := s1)
    have hboundary := regionEnd_boundary (s := s1)
    obtain ⟨htr3, hregs3, hscr3, hwait3, honly3, hmember3⟩ := regionHold_frame (regionEnd s1) regs
    rw [hiss] at honly2 hmem2 hsa2 hmask2 hhelper2 hrestart
    rw [hmasked, hiss] at hboundary
    rw [hiss] at htarget hfall
    rw [hiss2, hiss] at honly3 hmember3
    rw [hlevel] at hrestart hboundary
    rw [hcyc, hset] at hseen htarget hfall
    rw [hmember] at hmem2 hsa2 hmask2 hrestart
    have hmember4 : ((regionHold (regionEnd s1) regs).verdict .done).member s.iss.ctx = (regionEnd s1).member s.iss.ctx := hmember3
    have hcur4 : ((regionHold (regionEnd s1) regs).verdict .done).cur = (regionHold (regionEnd s1) regs).cur := rfl
    refine ⟨_, hexec, rfl, ?_, ?_, hwait3, ?_, ?_, fun hslots => (hmem2 hslots).trans hmem, (honly.trans honly2).trans honly3, ?_, ?_,
      hhelper2, fun hl => ?_, fun hl => ?_⟩
    · rw [hcur4, htr3, hcur2]
      rfl
    · rw [hcur4, htr3, hcur2]
      rfl
    · rw [hcur4, hregs3, hcur2, ← hset]
      rfl
    · rw [hcur4, hscr3, hcur2]
      exact hscr
    · rw [hmember4, hsa2]
    · rw [hmember4, hmask2]
    · rw [hmember4, hrestart hl]
    · rw [hmember4]
      obtain ⟨hslots, hr⟩ := hboundary hl
      refine ⟨hslots, _, hr, fun k hk => ?_, fun n hn => restartOf_mask _ _ _ _ hn, fun a ha => ?_, fun hnone => ?_⟩
      · rw [hseen]
        exact restartOf_words _ _ _ _ hk
      · exact Prod.mk.inj (htarget a ha)
      · exact Prod.mk.inj (hfall hnone)
  · refine exec_slice_idle hr (hi.imp_right (Or.imp_left fun hk => ?_))
    exact hk
  · refine ⟨_, exec_slice_starts hr ?_, rfl, onlyBank_setBank _ s _, rfl, rfl, State.cur_setCur s _, ?_⟩
    · rintro (h0 | ⟨hon, hne⟩ | hc)
      · exact hd h0
      · rcases hown with h1 | h1
        · exact absurd hon (by simp [h1])
        · exact hne h1
      · exact absurd hc (by rw [hcode]; decide)
    · have hcore : (((s.setCur { s.cur with pipe := { s.cur.pipe with closings := [] } }).setCore s.iss.ctx.core
          { s.core s.iss.ctx.core with helper := helperOf s.cur s.iss.ctx.bank (s.iss.pc + o.imm.signExtend 48 * 8) }).verdict .done).core
            s.iss.ctx.core =
          { s.core s.iss.ctx.core with helper := helperOf s.cur s.iss.ctx.bank (s.iss.pc + o.imm.signExtend 48 * 8) } :=
        State.core_setCore _ _ _
      rw [hcore]
      exact ⟨rfl, rfl, rfl, rfl, rfl, rfl, rfl, fun n hn => helperOf_p _ _ _ hn⟩

end Sys2Proof.Machine
end

section
/-! OBLIGATION O33. TKW's acquire: a load that has read ahead (R146, R351). -/

namespace Sys2Proof.Machine

/-- Node 5 has completed; the thread of another node waits for it, with a load that has read ahead of its turn (R146). -/
def stReadAhead : State :=
  let e : Early := { pa := 0, n := 1, strong := false, row := false, skip := 0, data := [0] }
  let b : Bank := { Bank.reset with regs := { Bank.reset.regs with s := [(1, 0x10005)] }, pipe := { Bank.reset.pipe with early := [e] } }
  { State.reset with banks := [(0, b)], sched := { Sched.reset with nodes := [(5, { Node.reset with st := .done })] } }

/-- The TKW of that thread: its header and its operands. -/
def plainHdr : Hdr := { last := true, pg := 0, pn := false }
def waitOps : YOps := { sd := 2, sa := 1, srn := 0, imm := 0 }

/-- How many loads have read ahead in the first bank after a move. -/
def readAhead (x : Host.Outcome State Fault Refusal) : Option Nat :=
  match x with
  | .next t => some (t.bank { core := 0, bank := 0 }).pipe.early.length
  | _ => none

/-- Refutes O33: a TKW that ends with code 0 acquires, and an acquire discards the loads that have read ahead (R146), here the one of
`stReadAhead`; the statement's INV(all) alone keeps it. -/
theorem not_submitLaunchWait : ¬ Obligations.SubmitLaunchWait := by
  rintro ⟨-, -, htkw⟩
  have hruns : Runs (.tkw plainHdr waitOps) stReadAhead := by
    unfold Runs
    decide +kernel
  obtain ⟨hends, -⟩ := htkw plainHdr waitOps stReadAhead hruns
  have hkept := congrArg readAhead (hends 0 (by decide +kernel))
  exact absurd hkept (by decide +kernel)

end Sys2Proof.Machine
end

section
/-! OBLIGATION O35. TEXIT and TYIELD (R233, R350, R356). -/

namespace Sys2Proof.Machine

/-! ### TEXIT (R233, R350) -/

/-- The wait of a TEXIT begins: the helper has ended and the bank waits. -/
def exitBegun (s : State) : State := endHelper s.iss.ctx (s.setCur { s.cur with pipe := { s.cur.pipe with wait := .texit } })

theorem exitBegun_iss (s : State) : (exitBegun s).iss = s.iss := by
  rw [exitBegun, endHelper_iss]
  rfl

theorem exitBegun_cur (s : State) : (exitBegun s).cur = { s.cur with pipe := { s.cur.pipe with wait := .texit } } := by
  rw [State.cur, exitBegun_iss, State.bank, exitBegun, endHelper_banks]
  exact State.bank_setBank _ _ _

theorem settleTexit_task {s : State} (hwait : s.cur.pipe.wait = .texit) (hmode : s.cur.tr.mode = false) :
    settleTexit s.iss.ctx s = if quiet s s.iss.ctx then retireThread s s.iss.ctx else s := by
  rw [settleTexit, ← State.cur, if_pos hwait]
  simp only [hmode, Bool.false_eq_true, if_false]

theorem settleTexit_monitor {s : State} (hwait : s.cur.pipe.wait = .texit) (hmode : s.cur.tr.mode = true) :
    let t := s.setCur { s.cur with eng := cancelStopped s.cur.eng }
    settleTexit s.iss.ctx s = if quiet t s.iss.ctx then retireThread t s.iss.ctx else t := by
  rw [settleTexit, ← State.cur, if_pos hwait]
  simp only [hmode, if_true]
  rfl

/-- The bundle has issued and the thread goes elsewhere. -/
def diverted (s : State) : Host.Outcome State Fault Refusal := .next (s.verdict .diverted)

section
variable {h : Hdr} {o : YOps} {s : State}

theorem exec_texit (hr : Runs (.texit h o) s) : exec (.texit h o) s = .next ((settleTexit s.iss.ctx (exitBegun
    (if s.cur.tr.mode then crock (crockThread s s.iss.ctx 3 (s.cur.tr.ecause.toNat % 256) s.cur.tr.eval.toNat) s else s))).verdict
      .diverted) := by
  change execTexit h o s = _
  rw [execTexit, runWord_of_runs hr]
  dsimp only
  cases s.cur.tr.mode <;> rfl

theorem exec_texit_task (hr : Runs (.texit h o) s) (hmode : s.cur.tr.mode = false) : exec (.texit h o) s =
    .next ((if quiet (exitBegun s) s.iss.ctx then retireThread (exitBegun s) s.iss.ctx else exitBegun s).verdict .diverted) := by
  have hsettle := settleTexit_task (s := exitBegun s) (by rw [exitBegun_cur]) (by rw [exitBegun_cur]; exact hmode)
  rw [exitBegun_iss] at hsettle
  rw [exec_texit hr, hmode, if_neg Bool.false_ne_true, hsettle]

/-- A monitor's TEXIT has written its record, and its wait has begun with the commands cancelled that a fault has stopped. -/
def exitCancelled (s : State) : State :=
  let s1 := exitBegun (crock (crockThread s s.iss.ctx 3 (s.cur.tr.ecause.toNat % 256) s.cur.tr.eval.toNat) s)
  s1.setCur { s1.cur with eng := cancelStopped s.cur.eng }

theorem exec_texit_monitor (hr : Runs (.texit h o) s) (hmode : s.cur.tr.mode = true) : exec (.texit h o) s =
    .next ((if quiet (exitCancelled s) s.iss.ctx then retireThread (exitCancelled s) s.iss.ctx else exitCancelled s).verdict .diverted) := by
  rw [exec_texit hr, if_pos hmode, exitCancelled]
  generalize hs0 : crock (crockThread s s.iss.ctx 3 (s.cur.tr.ecause.toNat % 256) s.cur.tr.eval.toNat) s = s0
  have hiss : s0.iss = s.iss := by rw [← hs0]; rfl
  have hcur : s0.cur = s.cur := by rw [← hs0]; rfl
  have hbegun := exitBegun_cur s0
  rw [hcur] at hbegun
  have hsettle := settleTexit_monitor (s := exitBegun s0) (by rw [hbegun]) (by rw [hbegun]; exact hmode)
  have heng : (exitBegun s0).cur.eng = s.cur.eng := by rw [hbegun]
  rw [exitBegun_iss, hiss, heng] at hsettle
  rw [hsettle]

/-! ### TYIELD (R356) -/

theorem exec_tyield_wide (hr : Runs (.tyield h o) s) (hl : s.cur.sys.level ≠ 0) : exec (.tyield h o) s = .next (s.verdict .done) := by
  have hphase : ¬(s.cur.phase = .free ∧ s.cur.phase ≠ .free) := fun ⟨hfree, hnot⟩ => hnot hfree
  change execTyield h o s = _
  rw [execTyield, runWord_of_runs hr]
  simp only [hl, ne_eq, not_false_eq_true, if_true]
  rw [← State.cur, if_neg hphase]

theorem exec_tyield_waits (hr : Runs (.tyield h o) s) (hl : s.cur.sys.level = 0)
    (hw : quiet s s.iss.ctx = false ∨ ((locksOn s.cur (maskedRegs s s.iss.ctx)).any fun k => !k.ready) = true) :
    exec (.tyield h o) s = .next (s.verdict .stalled) := by
  have hwait : (!quiet s s.iss.ctx || (locksOn s.cur (maskedRegs s s.iss.ctx)).any fun k => !k.ready) = true := by
    rcases hw with hw | hw <;> simp [hw]
  change execTyield h o s = _
  rw [execTyield, runWord_of_runs hr]
  simp only [hl, ne_eq, not_true_eq_false, if_false, hwait, if_true]
  rfl

theorem exec_tyield_ends (hr : Runs (.tyield h o) s) (hl : s.cur.sys.level = 0) (hq : quiet s s.iss.ctx = true)
    (hw : ((locksOn s.cur (maskedRegs s s.iss.ctx)).any fun k => !k.ready) = false) :
    let t := if yieldTo (boundaryNow s) s.iss.ctx then discardNode (boundaryNow s) s.cur.th.node else boundaryNow s
    exec (.tyield h o) s = .next (t.verdict (if (t.bank s.iss.ctx).phase = .free ∧ s.cur.phase ≠ .free then .diverted else .done)) := by
  have hgo : (!quiet s s.iss.ctx || (locksOn s.cur (maskedRegs s s.iss.ctx)).any fun k => !k.ready) = false := by simp [hq, hw]
  change execTyield h o s = _
  rw [execTyield, runWord_of_runs hr]
  simp only [hl, ne_eq, not_true_eq_false, if_false, hgo, Bool.false_eq_true]

end

/-- A boundary leaves its bank's phase. -/
theorem boundaryNow_phase (s : State) : ((boundaryNow s).bank s.iss.ctx).phase = s.cur.phase := by
  obtain ⟨hcur, -, hiss, -⟩ := boundaryNow_frame s
  rw [State.cur, hiss] at hcur
  rw [hcur]
  rfl

/-- Settles O35: TEXIT by mode and by what is outstanding, TYIELD by the level and by what is outstanding. -/
theorem exitAndYield : Obligations.ExitAndYield := by
  refine ⟨fun h o s hr hm => ⟨fun hq => ?_, fun hq => ?_⟩, fun h o s hr hm => ⟨fun hq => ?_, fun hq => ?_⟩,
    fun h o s hr hl => exec_tyield_wide hr hl, fun h o s hr hl => ⟨exec_tyield_waits hr hl, fun hq hw => ⟨fun hy => ?_, fun hy => ?_⟩⟩⟩
  · exact (exec_texit_task hr hm).trans (congrArg diverted (if_pos hq))
  · exact (exec_texit_task hr hm).trans (congrArg diverted (if_neg (Bool.eq_false_iff.mp hq)))
  · exact (exec_texit_monitor hr hm).trans (congrArg diverted (if_pos hq))
  · exact (exec_texit_monitor hr hm).trans (congrArg diverted (if_neg (Bool.eq_false_iff.mp hq)))
  · exact (exec_tyield_ends hr hl hq hw).trans (by rw [if_pos hy])
  · have hphase : ¬(((boundaryNow s).bank s.iss.ctx).phase = .free ∧ s.cur.phase ≠ .free) := by
      rw [boundaryNow_phase]
      exact fun ⟨hfree, hnot⟩ => hnot hfree
    exact (exec_tyield_ends hr hl hq hw).trans (by rw [if_neg (Bool.eq_false_iff.mp hy), if_neg hphase])

end Sys2Proof.Machine
end

section
/-! SUPPORT. A value rounded into a type fits the type's width (R94, R102). -/

namespace Sys2Proof.Machine

/-- The magnitude m x 2^e lies below 2^n. -/
def belowPow (m : Nat) (e n : Int) : Prop := (Nat.log2 m : Int) + e < n

/-- A magnitude that is not above another of `p` bits lies below its power. -/
theorem belowPow_of_not_magGt {m n p : Nat} {e f : Int} (hm : m ≠ 0) (hn : n < 2 ^ p) (h : magGt m e n f = false) :
    belowPow m e (p + f) := by
  unfold belowPow
  simp only [magGt] at h
  split at h
  next hef =>
    have hle : m ≤ n * 2 ^ (f - e).toNat := Nat.not_lt.mp (of_decide_eq_false h)
    have hlt : m < 2 ^ (p + (f - e).toNat) := by
      rw [pow_add]
      exact hle.trans_lt (Nat.mul_lt_mul_of_pos_right hn (Nat.two_pow_pos _))
    have hlog := (Nat.log2_lt hm).mpr hlt
    omega
  next hef =>
    have hle : m * 2 ^ (e - f).toNat ≤ n := Nat.not_lt.mp (of_decide_eq_false h)
    have hlt : 2 ^ (Nat.log2 m + (e - f).toNat) < 2 ^ p := by
      rw [pow_add]
      exact ((Nat.mul_le_mul_right _ (Nat.log2_self_le hm)).trans hle).trans_lt hn
    have hlog := (Nat.pow_lt_pow_iff_right (by decide)).mp hlt
    omega

/-- A rounded value is zero, special, or below the power that follows the format's greatest value. -/
theorem round_below (f : Fmt) (rm : Rm) (x : Num) (hmax : f.maxM < 2 ^ f.p) {sg : Bool} {m : Nat} {e : Int}
    (hr : (round f rm x).1 = .fin sg m e) (hm : m ≠ 0) : belowPow m e (f.p + f.maxE) := by
  unfold round at hr
  split at hr
  · cases hr
  · cases hr
  next n m0 e0 =>
    dsimp only at hr
    split at hr
    · obtain ⟨-, rfl, -⟩ := Num.fin.inj hr
      exact absurd rfl hm
    · split at hr
      · dsimp only at hr
        rcases ite_eq_iff.mp hr with ⟨-, h⟩ | ⟨-, h⟩
        · cases h
        · obtain ⟨-, rfl, rfl⟩ := Num.fin.inj h
          have hlog := (Nat.log2_lt hm).mpr hmax
          unfold belowPow
          omega
      next hgt =>
        obtain ⟨-, rfl, rfl⟩ := Num.fin.inj hr
        exact belowPow_of_not_magGt hm hmax (Bool.eq_false_iff.mpr hgt)

/-- The significand of a value on the grid of its own binade has `p` bits, and one fewer below the smallest normal exponent. -/
theorem ieeeSignificand_lt {m : Nat} {e q : Int} {r : Nat} (hm : m ≠ 0) (hq : (Nat.log2 m : Int) + e - q < r) :
    (if q ≤ e then m * pow2 (e - q) else m / pow2 (q - e)) < 2 ^ r := by
  split
  next h =>
    have hlt : m < 2 ^ (Nat.log2 m + 1) := Nat.lt_log2_self
    calc m * pow2 (e - q) < 2 ^ (Nat.log2 m + 1) * pow2 (e - q) := Nat.mul_lt_mul_of_pos_right hlt (Nat.two_pow_pos _)
      _ = 2 ^ (Nat.log2 m + 1 + (e - q).toNat) := (pow_add _ _ _).symm
      _ ≤ 2 ^ r := Nat.pow_le_pow_right (by decide) (by omega)
  next h =>
    refine Nat.div_lt_of_lt_mul ?_
    rw [pow2, ← pow_add]
    exact (Nat.log2_lt hm).mp (by omega)

/-- The pattern of a value below the greatest power fits its format: a sign, `eb` exponent bits and `p` - 1 fraction bits. -/
theorem encodeIeee_lt {p eb : Nat} (hp : 2 ≤ p) (heb : 2 ≤ eb) (x : Num)
    (hx : ∀ sg m e, x = .fin sg m e → m ≠ 0 → belowPow m e (2 ^ (eb - 1) : Nat)) : encodeIeee p eb x < 2 ^ (p + eb) := by
  have hsgn (n : Bool) : (if n then 2 ^ (p - 1 + eb) else 0) ≤ 2 ^ (p - 1 + eb) := by split <;> simp
  have htop : 2 ^ (p + eb) = 2 ^ (p - 1 + eb) + 2 ^ (p - 1 + eb) := by
    rw [← Nat.two_mul, ← pow_succ']
    congr 1
    omega
  have hmant : 2 ^ (p - 1 + eb) = 2 ^ eb * 2 ^ (p - 1) := by rw [pow_add, Nat.mul_comm]
  have hexp : 2 ^ eb = 2 * 2 ^ (eb - 1) := by rw [← pow_succ']; congr 1; omega
  have hexp2 : 2 ≤ 2 ^ (eb - 1) := by
    have := Nat.pow_le_pow_right (n := 2) (by decide) (show 1 ≤ eb - 1 by omega)
    simpa using this
  have hfrac : 2 ^ (p - 2) < 2 ^ (p - 1) := Nat.pow_lt_pow_right (by decide) (by omega)
  have hpp : 2 ^ p = 2 * 2 ^ (p - 1) := by rw [← pow_succ']; congr 1; omega
  have hspecial : (2 ^ eb - 1) * 2 ^ (p - 1) + 2 ^ (p - 1) = 2 ^ eb * 2 ^ (p - 1) := by
    rw [Nat.sub_mul, Nat.one_mul]
    exact Nat.sub_add_cancel (Nat.le_mul_of_pos_left _ (Nat.two_pow_pos _))
  unfold encodeIeee
  dsimp only
  split
  · omega
  next n =>
    have hn := hsgn n
    have := Nat.two_pow_pos (p - 1)
    omega
  next n m e =>
    have hn := hsgn n
    have hpos := Nat.two_pow_pos (p - 1 + eb)
    split
    · omega
    next hm =>
      have hbelow := hx n m e rfl hm
      unfold belowPow at hbelow
      set E := 2 ^ (eb - 1) with hE
      set q : Int := max ((Nat.log2 m : Int) + e - p + 1) (2 - (E : Nat) - p + 1) with hq
      split
      next hsub =>
        have hk := ieeeSignificand_lt (e := e) (q := q) (r := p - 1) hm (by omega)
        have hle : 2 ^ (p - 1) ≤ 2 ^ (p - 1 + eb) := Nat.pow_le_pow_right (by decide) (by omega)
        omega
      next hnorm =>
        have hk := ieeeSignificand_lt (e := e) (q := q) (r := p) hm (by omega)
        have hb : ((Nat.log2 m : Int) + e - (2 - (E : Nat)) + 1).toNat + 1 ≤ 2 ^ eb := by omega
        have hmul := Nat.mul_le_mul_right (2 ^ (p - 1)) hb
        rw [Nat.add_mul, Nat.one_mul] at hmul
        omega

theorem ETy.roundTo_lt (t : ETy) (rm : Rm) (x : Num) : (t.roundTo rm x).val < 2 ^ t.width := by
  cases t with
  | int sg w => exact wrapInt_lt w _
  | bf16 => exact encodeIeee_lt (p := 8) (eb := 8) (by decide) (by decide) _ fun sg m e hx hm =>
      round_below fmtB16 rm x (by decide) hx hm
  | f32 => exact encodeIeee_lt (p := 24) (eb := 8) (by decide) (by decide) _ fun sg m e hx hm =>
      round_below fmtF32 rm x (by decide) hx hm

end Sys2Proof.Machine
end

section
/-! OBLIGATIONS O16, O17 and O18. Element-wise vector words (R75, R84, R283, R360, R361, R364, R365, R369, R373). -/

namespace Sys2Proof.Machine

/-! ### Flags of the enabled elements (R89) -/

/-- A flag of a fold is set where it stood, or where a selected result raises it. -/
theorem getLsbD_foldl_orFlags {β : Type} (p : β → Bool) (af : β → BitVec 6) (l : List β) (a : BitVec 6) (k : Nat) :
    (l.foldl (fun a x => if p x then a ||| af x else a) a).getLsbD k = true ↔
      a.getLsbD k = true ∨ ∃ x ∈ l, p x = true ∧ (af x).getLsbD k = true := by
  induction l generalizing a with
  | nil => simp
  | cons x r ih =>
    rw [List.foldl_cons, ih]
    cases hp : p x <;> simp [hp, or_assoc]

theorem enabledFlags_range (g : PReg) (n : Nat) (f : Nat → Flagged) (k : Nat) :
    (enabledFlags g ((List.range n).map f)).getLsbD k = true ↔
      ∃ j, j < n ∧ g.getLsbD j = true ∧ (f j).af.getLsbD k = true := by
  have hfold : enabledFlags g ((List.range n).map f) =
      (List.range n).foldl (fun a j => if g.getLsbD j then a ||| (f j).af else a) 0 := by
    rw [enabledFlags, List.length_map, List.length_range, zip_range_map, List.foldl_map]
  rw [hfold, getLsbD_foldl_orFlags]
  simp

/-! ### The law of an element-wise word -/

section
variable {α : Type} {i : Hdr → α → Instr} {lat : Nat} {vd width : α → Nat} {f : α → Bank → Nat → Flagged}

/-- A word that starts a guarded write of its element results follows the vector law. -/
theorem vectorLaw_of {eff : Hdr → α → State → Res} (hexec : ∀ h o s, exec (i h o) s = word (i h o) s (eff h o))
    (heff : ∀ h o s, eff h o s = vFixed s h lat (vd o) (width o) ((List.range (elemCount (width o))).map (f o s.cur))) :
    VectorLaw i lat vd width f := by
  intro h o s hr
  refine ⟨_, _, (hexec h o s).trans (word_runs hr (heff h o s)), ?_, fun k => enabledFlags_range _ _ _ _⟩
  have hwrites := writesElems_masked s.cur (vd o) (width o) (fun j => (s.cur.guard h).getLsbD j) (fun j => (f o s.cur j).val)
  rw [List.map_map]
  exact hwrites

end

theorem vMap1_eq (w : Nat) (a : VReg) (f : Nat → Flagged) :
    vMap1 w a f = (List.range (elemCount w)).map fun j => f (vElem a w j) := by
  rw [vMap1, vElems, List.map_map]
  rfl

/-! ### The broadcast operand (R283) -/

theorem vElem_vPack {w : Nat} (f : Nat → Nat) {j : Nat} (hj : j < elemCount w) :
    vElem (vPack w ((List.range (elemCount w)).map f)) w j = f j % 2 ^ w := extract_vPack f hj

theorem vsElem_lt (o : VsOps) (b : Bank) : vsElem o b < 2 ^ (etyOf o.ty).width := by
  unfold vsElem
  dsimp only
  split
  · exact Nat.mod_lt _ (Nat.two_pow_pos _)
  · split
    next h =>
      rw [h]
      exact wrapInt_lt _ _
    next h => exact ETy.roundTo_lt _ _ _

/-- Every element of the broadcast register is the broadcast element. -/
theorem vElem_vsReg (o : VsOps) (b : Bank) {j : Nat} (hj : j < elemCount (etyOf o.ty).width) :
    vElem (vsReg o b) (etyOf o.ty).width j = vsElem o b := by
  have hrep : List.replicate (elemCount (etyOf o.ty).width) (vsElem o b) =
      (List.range (elemCount (etyOf o.ty).width)).map fun _ => vsElem o b := by simp
  have hpack := vElem_vPack (fun _ => vsElem o b) hj
  rw [vsReg, hrep, hpack]
  exact Nat.mod_eq_of_lt (vsElem_lt o b)

/-- Element results that read the broadcast register read the broadcast element. -/
theorem map_vsReg {β : Type} (o : VsOps) (b : Bank) (f : Nat → Nat → β) :
    ((List.range (elemCount (etyOf o.ty).width)).map fun j => f j (vElem (vsReg o b) (etyOf o.ty).width j)) =
      (List.range (elemCount (etyOf o.ty).width)).map fun j => f j (vsElem o b) :=
  List.map_congr_left fun j hj => by rw [vElem_vsReg o b (List.mem_range.mp hj)]

/-- A broadcast word of two operands. -/
theorem vectorLaw_vs2 {i : Hdr → VsOps → Instr} {lat : Nat} {f : ETy → Rm → Bool → Nat → Nat → Flagged}
    (hexec : ∀ h o s, exec (i h o) s = word (i h o) s (vs2 h o lat f)) :
    VectorLaw i lat (fun o => o.vd.toNat) (fun o => (etyOf o.ty).width)
      fun o b j => f (etyOf o.ty) (rmOf o.rm) o.sat (vsSrcElem o b j) (vsElem o b) :=
  vectorLaw_of hexec fun h o s => congrArg (vFixed s h lat o.vd.toNat (etyOf o.ty).width)
    (map_vsReg o s.cur fun j x => f (etyOf o.ty) (rmOf o.rm) o.sat (vsSrcElem o s.cur j) x)

/-! ### The three families -/

/-- Settles O16: each word starts the guarded write of its element results. -/
theorem vectorRegisterForms : Obligations.VectorRegisterForms := by
  refine ⟨?_, ?_, ?_, ?_, ?_, ?_, ?_, ?_, ?_, ?_, ?_, ?_⟩
  all_goals exact vectorLaw_of (fun _ _ _ => rfl) fun _ _ _ => rfl

/-- Settles O17: the broadcast register holds the broadcast element in every place. -/
theorem vectorBroadcastForms : Obligations.VectorBroadcastForms := by
  refine ⟨vectorLaw_vs2 fun _ _ _ => rfl, vectorLaw_vs2 fun _ _ _ => rfl, vectorLaw_vs2 fun _ _ _ => rfl,
    vectorLaw_vs2 fun _ _ _ => rfl, vectorLaw_vs2 fun _ _ _ => rfl, vectorLaw_vs2 fun _ _ _ => rfl,
    vectorLaw_vs2 fun _ _ _ => rfl, vectorLaw_vs2 fun _ _ _ => rfl, vectorLaw_vs2 fun _ _ _ => rfl,
    vectorLaw_vs2 fun _ _ _ => rfl, ?_, ?_, vectorLaw_of (fun _ _ _ => rfl) fun _ _ _ => rfl⟩
  · exact vectorLaw_of (fun _ _ _ => rfl) fun h o s => congrArg (vFixed s h 6 o.vd.toNat (etyOf o.ty).width)
      (map_vsReg o s.cur fun j x => elFma (etyOf o.ty) (rmOf o.rm) o.sat (vsSrcElem o s.cur j) x
        (vElem (s.cur.vreg o.vd.toNat) (etyOf o.ty).width j))
  · exact vectorLaw_of (fun _ _ _ => rfl) fun h o s => congrArg (vFixed s h 4 o.vd.toNat (etyOf o.ty).width)
      ((vMap1_eq _ _ _).trans (map_vsReg o s.cur fun _ x => Flagged.mk x 0))

/-- A word of one source. -/
theorem vectorLaw_one {i : Hdr → VrOps → Instr} {lat : Nat} {f : VrOps → Nat → Flagged}
    (hexec : ∀ h o s, exec (i h o) s = word (i h o) s fun s =>
      vFixed s h lat o.vd.toNat (etyOf o.ty).width (vMap1 (etyOf o.ty).width (s.cur.vreg o.va.toNat) (f o))) :
    VectorLaw i lat (fun o => o.vd.toNat) (fun o => (etyOf o.ty).width) fun o b j => f o (vrElem o b o.va.toNat j) :=
  vectorLaw_of hexec fun h o s => congrArg (vFixed s h lat o.vd.toNat (etyOf o.ty).width) (vMap1_eq _ _ _)

/-- Settles O18: each word starts the guarded write of its element results. -/
theorem vectorSingleForms : Obligations.VectorSingleForms := by
  refine ⟨?_, ?_, ?_, ?_, ?_, ?_, ?_, ?_, ?_, ?_⟩
  · exact vectorLaw_one (f := fun o a => elAbs (etyOf o.ty) o.sat a) fun _ _ _ => rfl
  · exact vectorLaw_one (f := fun _ a => { val := a, af := 0 }) fun _ _ _ => rfl
  · exact vectorLaw_one (f := fun o a => fSpecial (etyOf o.ty) .exp2 a) fun _ _ _ => rfl
  · exact vectorLaw_one (f := fun o a => fSpecial (etyOf o.ty) .log2 a) fun _ _ _ => rfl
  · exact vectorLaw_one (f := fun o a => fSpecial (etyOf o.ty) .rcp a) fun _ _ _ => rfl
  · exact vectorLaw_one (f := fun o a => fSpecial (etyOf o.ty) .rsq a) fun _ _ _ => rfl
  · exact vectorLaw_one (f := fun o a => fSpecial (etyOf o.ty) .tanh a) fun _ _ _ => rfl
  · exact vectorLaw_of (fun _ _ _ => rfl) fun _ _ _ => rfl
  · exact vectorLaw_of (fun _ _ _ => rfl) fun _ _ _ => rfl
  · exact vectorLaw_of (fun _ _ _ => rfl) fun _ _ _ => rfl

end Sys2Proof.Machine
end
section
/-! OBLIGATIONS O20 and O21. VCMP, the broadcast VSEL, and the words that write groups of registers (R74, R361 to R363, R370). -/

namespace Sys2Proof.Machine

/-! ### VCMP and VSEL (R361) -/

theorem elemCount_etyOf (ty : BitVec 4) : elemCount (etyOf ty).width ≤ 1024 ∧ elemCount (etyOf ty).width % 2 = 0 := by
  revert ty
  decide

/-- A bit of a merged register comes from the new value where the mask is 1. -/
theorem getLsbD_mergeBits {n i : Nat} (hi : i < n) (old val mask : BitVec n) :
    (mergeBits old val mask).getLsbD i = if mask.getLsbD i then val.getLsbD i else old.getLsbD i := by
  simp only [mergeBits, BitVec.getLsbD_or, BitVec.getLsbD_and, BitVec.getLsbD_not, hi, decide_true, Bool.true_and]
  cases mask.getLsbD i <;> simp

/-- VCMP's mask: the guard below the element count, every bit above it. -/
theorem vcmpMask_getLsbD (g : PReg) (n : Nat) {i : Nat} (hi : i < 1024) :
    ((g &&& BitVec.ofNat 1024 (2 ^ n - 1)) ||| ~~~BitVec.ofNat 1024 (2 ^ n - 1)).getLsbD i = (!decide (i < n) || g.getLsbD i) := by
  simp only [BitVec.getLsbD_or, BitVec.getLsbD_and, BitVec.getLsbD_not, BitVec.getLsbD_ofNat, hi, decide_true, Bool.true_and,
    Nat.testBit_two_pow_sub_one]
  cases decide (i < n) <;> simp

/-- A predicate write leaves every other predicate register. -/
theorem landWrite_pphys_other {n p : Nat} (b : Bank) (v m : PReg) (hp : p ≠ n) : (landWrite b (.p n v m)).pphys p = b.pphys p := by
  by_cases hn : n = 0
  · rw [hn, landWrite_p0]
  · rw [landWrite_predicate_frame, Bank.pphys, Bank.pphys, landWrite, if_neg hn, tabGet_tabSet_other _ _ _ _ _ hp]

/-- VCMP's write (R361): its condition below the element count under the guard, zeros above, and no other register. -/
theorem vcmpWrite_spec (b : Bank) (h : Hdr) (vd : BitVec 8) {w : Nat} (hn : elemCount w ≤ 1024) (f : Nat → Bool) :
    let x := vcmpWrite b h vd w ((List.range (elemCount w)).map f)
    let d := (vd.extractLsb' 0 4).toNat
    (d = 0 → landWrite b x = b) ∧
    (d ≠ 0 → ∀ i, i < 1024 → ((landWrite b x).preg d).getLsbD i =
      if i < elemCount w then (if (b.guard h).getLsbD i then f i else (b.preg d).getLsbD i) else false) ∧
    (∀ p, p ≠ b.physP d → (landWrite b x).pphys p = b.pphys p) ∧
    landWrite b x = { b with regs := { b.regs with p := (landWrite b x).regs.p } } := by
  refine ⟨fun hd => ?_, fun hd i hi => ?_, fun p hp => ?_, landWrite_predicate_frame _ _ _ _⟩
  · rw [vcmpWrite, hd, physP_zero]
    exact landWrite_p0 _ _ _
  · rw [vcmpWrite, landWrite_preg_same hd, getLsbD_mergeBits hi, vcmpMask_getLsbD _ _ hi, List.map_map]
    have hbits := getLsbD_packLanes_one (e := i) f hn
    dsimp only [Function.comp_def]
    rw [hbits]
    by_cases hlt : i < elemCount w <;> simp [hlt]
  · exact landWrite_pphys_other _ _ _ hp

/-- VCMP's results, as conditions on the elements. -/
theorem vcmpEffect_eq (h : Hdr) (vd : BitVec 8) (t : ETy) (c : Nat) (x y : VReg) (s : State) : vcmpEffect h vd t c x y s =
    .ok (s.setCur (s.cur.later 4 (vcmpWrite s.cur h vd t.width
      ((List.range (elemCount t.width)).map fun i => vcmpHolds t c (vElem x t.width i) (vElem y t.width i))) 0)) := by
  have hb2n (p : Bool) : (b2n p == 1) = p := by cases p <;> rfl
  rw [vcmpEffect, vMap2, List.map_map]
  simp only [Function.comp_def, hb2n]

/-- An unmasked write of a vector register writes every element. -/
theorem writesElems_whole (b : Bank) (vd w : Nat) (f : Nat → Nat) :
    WritesElems b (.v (b.physV vd) (vPack w ((List.range (elemCount w)).map f)) allOnesV) vd w (fun _ => true) f := by
  refine ⟨fun i hi => ?_, fun p hp => tabGet_tabSet_other _ _ _ _ _ hp, rfl⟩
  have hreg (val mask : VReg) : (landWrite b (.v (b.physV vd) val mask)).vreg vd = mergeBits (b.vreg vd) val mask :=
    tabGet_tabSet_same _ _ _ _
  rw [hreg, allOnesV, mergeBits_allOnes, if_pos rfl]
  exact vElem_vPack f hi

/-- Settles O20: VCMP's write bit by bit, and the broadcast VSEL's whole register. -/
theorem vectorCompareAndSelect : Obligations.VectorCompareAndSelect := by
  refine ⟨fun h o s hr => ⟨_, word_runs hr (vcmpEffect_eq _ _ _ _ _ _ _), ?_⟩,
    fun h o s hr => ⟨_, word_runs hr (vcmpEffect_eq _ _ _ _ _ _ _), ?_⟩, fun h o s hr => ⟨_, word_runs hr rfl, ?_⟩⟩
  · exact vcmpWrite_spec s.cur h o.vd (elemCount_etyOf o.ty).1 _
  · exact vcmpWrite_spec s.cur h o.vd (elemCount_etyOf o.ty).1 _
  · have hwrites := writesElems_whole s.cur o.vd.toNat (etyOf o.ty).width
      (fun i => if (s.cur.guard h).getLsbD i then vsSrcElem o s.cur i else vsElem o s.cur)
    have hsel := map_vsReg o s.cur fun i x => if (s.cur.guard h).getLsbD i then vsSrcElem o s.cur i else x
    rw [← hsel] at hwrites
    rw [selElems, List.map_map]
    exact hwrites

/-! ### Groups of registers (R74) -/

/-- The registers of an aligned pair are two. -/
theorem physV_succ_ne (b : Bank) {n : Nat} (hn : n % 2 = 0) : b.physV (n + 1) ≠ b.physV n := by
  unfold Bank.physV
  dsimp only
  by_cases hsz : 32 * (b.rf - 1) = 0
  · simp [hsz]
  · by_cases hlow : n < 32
    · have hlow' : n + 1 < 32 := by omega
      simp [hlow, hlow']
    · have hlow' : ¬n + 1 < 32 := by omega
      have hadd : n + 1 - 32 + b.rotv = n - 32 + b.rotv + 1 := by omega
      simp only [hlow, hlow', hsz, or_self, if_false, hadd]
      intro heq
      have hmod : n - 32 + b.rotv + 1 ≡ n - 32 + b.rotv + 0 [MOD 32 * (b.rf - 1)] := Nat.add_left_cancel heq
      have hdvd := (Nat.modEq_zero_iff_dvd).mp (Nat.ModEq.add_left_cancel' _ hmod)
      have hone := Nat.dvd_one.mp hdvd
      omega

/-- The writes of an aligned pair: result i goes to element i / 2 of register i mod 2, under guard bit i. -/
theorem groupWrites_pair (b : Bank) (h : Hdr) {vd w : Nat} (hvd : vd % 2 = 0) (rs : List Flagged) {i : Nat} (hi : i / 2 < elemCount w) :
    vElem (((groupWrites b h vd 2 w rs).foldl landWrite b).vreg (vd + i % 2)) w (i / 2) =
      if (b.guard h).getLsbD i then (rs.getD i { val := 0, af := 0 }).val % 2 ^ w else vElem (b.vreg (vd + i % 2)) w (i / 2) := by
  have hwrites (c : Bank) (k : Nat) := writesElems_masked c (vd + k) w (fun e => (b.guard h).getLsbD (e * 2 + k))
    (fun e => (rs.getD (e * 2 + k) { val := 0, af := 0 }).val)
  obtain ⟨hfirst, hother, -⟩ := hwrites b 0
  let w0 := RegWrite.v (b.physV (vd + 0)) (vPack w ((List.range (elemCount w)).map fun e => (rs.getD (e * 2 + 0) { val := 0, af := 0 }).val))
    (vPack w ((List.range (elemCount w)).map fun e => if (b.guard h).getLsbD (e * 2 + 0) then 2 ^ w - 1 else 0))
  obtain ⟨hsecond, hother1, -⟩ := hwrites (landWrite b w0) 1
  have hne := physV_succ_ne b hvd
  rcases Nat.mod_two_eq_zero_or_one i with hpar | hpar
  · have hix : i / 2 * 2 + 0 = i := by omega
    have h0 := hfirst (i / 2) hi
    simp only [hix] at h0
    rw [hpar]
    refine Eq.trans ?_ h0
    exact congrArg (fun x => vElem x w (i / 2)) (hother1 _ hne.symm)
  · have hix : i / 2 * 2 + 1 = i := by omega
    have h1 := hsecond (i / 2) hi
    simp only [hix] at h1
    rw [hpar]
    refine h1.trans ?_
    have hkeep : (landWrite b w0).vreg (vd + 1) = b.vreg (vd + 1) := hother _ hne
    rw [hkeep]

theorem getD_vMap2 {w i : Nat} (x y : VReg) (f : Nat → Nat → Flagged) (hi : i < elemCount w) :
    (vMap2 w x y f).getD i { val := 0, af := 0 } = f (vElem x w i) (vElem y w i) := by
  simp [vMap2, hi]

/-- A widening word's writes, element by element. -/
theorem widen_writes (b : Bank) (h : Hdr) {vd : BitVec 8} (hvd : vd.getLsbD 0 = false) (ty : BitVec 4) (x y : VReg)
    (f : Nat → Nat → Flagged) {i : Nat} (hi : i < elemCount (etyOf ty).width) :
    let w := (etyOf ty).width
    vElem (((groupWrites b h vd.toNat 2 (2 * w) (vMap2 w x y f)).foldl landWrite b).vreg (vd.toNat + i % 2)) (2 * w) (i / 2) =
      if (b.guard h).getLsbD i then (f (vElem x w i) (vElem y w i)).val % 2 ^ (2 * w)
      else vElem (b.vreg (vd.toNat + i % 2)) (2 * w) (i / 2) := by
  have heven : vd.toNat % 2 = 0 := by
    have hbit : vd.toNat.testBit 0 = false := hvd
    rw [Nat.testBit_zero] at hbit
    simpa using hbit
  have hhalf : i / 2 < elemCount (2 * (etyOf ty).width) := by
    have hpar := (elemCount_etyOf ty).2
    have hdiv : elemCount (2 * (etyOf ty).width) = elemCount (etyOf ty).width / 2 := by
      rw [elemCount, elemCount, Nat.mul_comm, Nat.div_div_eq_div_mul]
    omega
  dsimp only
  rw [groupWrites_pair b h heven _ hhalf, getD_vMap2 _ _ _ hi]

/-- The last check of a word of pairs: its destination is aligned. -/
theorem aligned_of_wf {p : Bool} {v : BitVec 8} (h : (p && even8 v) = true) : v.getLsbD 0 = false := by
  simpa [even8] using (Bool.and_eq_true_iff.mp h).2

/-- VCOMP's pair is aligned and its other operands are 0 (R281, R370). -/
theorem vcomp_reserved (h : Hdr) (o : VrOps) (s : State) (hf : o.vd.getLsbD 0 = true ∨ o.vb ≠ 0 ∨ o.vc ≠ 0) :
    exec (.vcomp h o) s = .next (takeStop (illegalStop (.vcomp h o)) s) := by
  have hwf : (Instr.vcomp h o).wf = false := by
    rw [← Bool.not_eq_true]
    intro hw
    have hvd := aligned_of_wf hw
    simp only [Instr.wf, vr1Plain, vr1, Bool.and_eq_true] at hw
    obtain ⟨⟨⟨⟨⟨⟨-, hvb⟩, -⟩, hvc⟩, -⟩, -⟩, -⟩ := hw
    rcases hf with hf | hf | hf
    · exact Bool.false_ne_true (hvd.symm.trans hf)
    · exact hf (beq_iff_eq.mp hvb)
    · exact hf (beq_iff_eq.mp hvc)
  exact word_checked (by simp [precheck, hwf]; rfl)

/-- Settles O21: the pair that a widening word writes, and the groups that VCVT and VCOMP start. -/
theorem vectorGroupForms : Obligations.VectorGroupForms :=
  ⟨fun _ _ _ hr => ⟨_, _, word_runs hr rfl, fun _ hi => widen_writes _ _ (aligned_of_wf (wf_of_runs hr)) _ _ _ _ hi⟩,
    fun _ _ _ hr => ⟨_, _, word_runs hr rfl, fun _ hi => widen_writes _ _ (aligned_of_wf (wf_of_runs hr)) _ _ _ _ hi⟩,
    fun _ _ _ hr => ⟨_, _, word_runs hr rfl, fun _ hi => widen_writes _ _ (aligned_of_wf (wf_of_runs hr)) _ _ _ _ hi⟩,
    fun _ _ _ hr => ⟨_, _, word_runs hr rfl, fun _ hi => widen_writes _ _ (aligned_of_wf (wf_of_runs hr)) _ _ _ _ hi⟩,
    fun _ _ _ hr => word_runs hr rfl, fun _ _ _ hr => word_runs hr rfl, vcomp_reserved⟩

end Sys2Proof.Machine
end

section
/-! OBLIGATION O50. QBIND, RINIT, RADV, EPOP and ESTAT (R134, R152, R305, R306, R332, R335, R339). -/

namespace Sys2Proof.Machine

/-! ### QBIND (R332) -/

section
variable {h : Hdr} {o : EOps} {s : State}

theorem exec_qbind_plain (hr : Runs (.qbind h o) s) {x : Stream} (hx : o.eimm.extractLsb' 4 2 = 0 ∧ x = .unbound ∨
    o.eimm.extractLsb' 4 2 = 1 ∧ x = .waiting false ∨ o.eimm.extractLsb' 4 2 = 2 ∧ x = .waiting true) :
    exec (.qbind h o) s = .next ((setStream s s.iss.ctx (o.eimm.extractLsb' 0 4).toNat x).verdict .done) := by
  refine word_runs hr ?_
  rcases hx with ⟨hk, rfl⟩ | ⟨hk, rfl⟩ | ⟨hk, rfl⟩ <;> rw [hk] <;> rfl

theorem exec_qbind_generator (hr : Runs (.qbind h o) s) (hk : o.eimm.extractLsb' 4 2 = 3) {s1 : State} {d : Nat} {g : GenDesc}
    (hd : readDesc s (descVa s.cur (s.cur.sreg o.sx.toNat)) 32 = .ok (s1, d)) (hg : genOf s1.cur d = some g) :
    exec (.qbind h o) s = .next ((setStream s1 s.iss.ctx (o.eimm.extractLsb' 0 4).toNat (.gen g 0)).verdict .done) := by
  refine word_runs hr ?_
  rw [hk, hd]
  simp only [hg]
  rfl

/-! ### RINIT (R339) -/

/-- An empty ring of a place, a slot size, a count and a span. -/
def emptyRing (base ssz cnt span : Nat) : Ring :=
  { base := base, ssz := ssz, cnt := cnt, head := 0, tail := 0, tags := (List.range cnt).map fun i => (i, BitVec.ofNat 16 span) }

theorem tabGet?_map_key {α : Type} (v : α) {l : List Nat} {k : Nat} (hk : k ∈ l) : tabGet? (l.map fun i => (i, v)) k = some v := by
  induction l with
  | nil => cases hk
  | cons a r ih =>
    rw [List.map_cons, tabGet?]
    split
    · rfl
    next hne => exact ih ((List.mem_cons.mp hk).resolve_left fun h => hne h.symm)

theorem emptyRing_tag (base ssz : Nat) {cnt i : Nat} (span : Nat) (hi : i < cnt) :
    (emptyRing base ssz cnt span).tag i = BitVec.ofNat 16 span := by
  rw [Ring.tag, tabGet]
  exact congrArg (Option.getD · 0) (tabGet?_map_key _ (List.mem_range.mpr hi))

theorem emptyRing_occ (base ssz cnt span : Nat) : (emptyRing base ssz cnt span).occ = 0 := by
  simp [Ring.occ, emptyRing]

/-- A ring that is set is the ring of its name, and the other rings and parts of its bank stay. -/
theorem cur_setRing (s : State) (n : Nat) (r : Ring) : (setRing s s.iss.ctx n r).cur = { s.cur with n := tabSet s.cur.n n r } :=
  State.cur_setCur s _

theorem exec_rinit (hr : Runs (.rinit h o) s) (hfree : ∀ k ∈ s.cur.eng.cmds, o.ra.toNat ∉ k.rings) {cnt span : Nat}
    (hz : (s.cur.sreg o.sz.toNat).toNat = cnt + 2 ^ 16 * span) (hcnt : 1 ≤ cnt) (hcnt' : cnt ≤ 256) (hspan : span < 8)
    (hx : (s.cur.sreg o.sx.toNat).toNat < 2 ^ 22) (hy : (s.cur.sreg o.sy.toNat).toNat < 2 ^ 20)
    (hx64 : (s.cur.sreg o.sx.toNat).toNat % 64 = 0) (hy64 : (s.cur.sreg o.sy.toNat).toNat % 64 = 0)
    (hy0 : (s.cur.sreg o.sy.toNat).toNat ≠ 0) (hspans : (s.cur.sreg o.sy.toNat).toNat % (16 * 2 ^ span) = 0)
    (hfits : (s.cur.sreg o.sx.toNat).toNat + cnt * (s.cur.sreg o.sy.toNat).toNat ≤ s.cur.spTotal)
    (hwhole : (wholeBank s.cur (s.cur.sreg o.sx.toNat).toNat (cnt * (s.cur.sreg o.sy.toNat).toNat)).isSome) :
    exec (.rinit h o) s = .next ((setRing s s.iss.ctx o.ra.toNat
      (emptyRing (s.cur.sreg o.sx.toNat).toNat (s.cur.sreg o.sy.toNat).toNat cnt span)).verdict .done) := by
  have hcntBits : (cnt + 2 ^ 16 * span) % 2 ^ 9 = cnt := by omega
  have hspanBits : bits (cnt + 2 ^ 16 * span) 16 3 = span := by
    rw [bits]
    omega
  have hidle : (s.cur.eng.cmds.any fun k => k.rings.contains o.ra.toNat) = false := by
    rw [List.any_eq_false]
    exact fun k hk hc => hfree k hk (List.contains_iff_mem.mp hc)
  have hnone : (wholeBank s.cur (s.cur.sreg o.sx.toNat).toNat (cnt * (s.cur.sreg o.sy.toNat).toNat)).isNone = false := by
    rw [Option.isNone_eq_false_iff]
    exact hwhole
  refine word_runs hr ?_
  dsimp only
  rw [hz, hcntBits, hspanBits, hidle, hnone, if_neg Bool.false_ne_true, if_neg (by omega), if_neg (Nat.not_lt.mpr hfits),
    if_neg Bool.false_ne_true]
  rfl

/-! ### RADV (R335) -/

theorem exec_radv (hr : Runs (.radv h o) s) : let r := s.cur.ring o.ra.toNat
    let n := (o.eimm.extractLsb' 0 8).toNat + 1
    n ≤ r.cnt →
    (o.eimm.extractLsb' 11 2 = 0 → n ≤ r.occ → exec (.radv h o) s = .next (s.verdict .done)) ∧
    (o.eimm.extractLsb' 11 2 = 0 → r.occ < n → exec (.radv h o) s = .next (s.verdict .stalled)) ∧
    (o.eimm.extractLsb' 11 2 = 1 → n ≤ r.occ → exec (.radv h o) s = .next ((setRing s s.iss.ctx o.ra.toNat (r.adv n)).verdict .done)) ∧
    (o.eimm.extractLsb' 11 2 = 2 → n ≤ r.free → exec (.radv h o) s = .next (s.verdict .done)) ∧
    (o.eimm.extractLsb' 11 2 = 2 → r.free < n → exec (.radv h o) s = .next (s.verdict .stalled)) ∧
    (o.eimm.extractLsb' 11 2 = 3 → n ≤ r.free → exec (.radv h o) s =
      .next ((setRing s s.iss.ctx o.ra.toNat (r.fill n (o.eimm.extractLsb' 8 3).toNat)).verdict .done)) := by
  intro r n hn
  have hok : ¬(r.cnt = 0 ∨ r.cnt < n) := by omega
  refine ⟨fun hk hle => word_runs hr ?_, fun hk hlt => word_stops (st := .stall) hr ?_, fun hk hle => word_runs hr ?_,
    fun hk hle => word_runs hr ?_, fun hk hlt => word_stops (st := .stall) hr ?_, fun hk hle => word_runs hr ?_⟩
  all_goals refine (if_neg hok).trans ?_
  all_goals rw [hk]
  · exact if_neg (Nat.not_lt.mpr hle)
  · exact if_pos hlt
  · exact if_neg (Nat.not_lt.mpr hle)
  · exact if_neg (Nat.not_lt.mpr hle)
  · exact if_pos hlt
  · exact if_neg (Nat.not_lt.mpr hle)

end

/-! ### EPOP (R134, R152, R305) -/

/-- A walk of the page tables reads no bank. -/
theorem walkFrom_setBank (s : State) (c : Ctx) (b : Bank) (va lvl table : Nat) :
    walkFrom (s.setBank c b) va lvl table = walkFrom s va lvl table := by
  induction lvl generalizing table with
  | zero =>
    rw [walkFrom, walkFrom]
    rfl
  | succ k ih =>
    rw [walkFrom, walkFrom]
    simp only [ih]
    rfl

theorem rangePa_setBank (s : State) (c : Ctx) (b : Bank) (k : Fin 32) (satp : DWord) (va : Nat) :
    rangePa (s.setBank c b) k satp va = rangePa s k satp va := by
  unfold rangePa
  simp only [walkFrom_setBank]
  rfl

/-- What an engine holds does not matter to the wait for a range whose tables migrate, nor to a command's destination. -/
theorem rangeWaits_setEng (s : State) (c : Ctx) (e : Engines) (start size : Nat) :
    rangeWaits (s.setEng c e) c start size = rangeWaits s c start size := by
  unfold rangeWaits
  rw [State.setEng_bank, State.setEng]
  simp only [rangePa_setBank]

theorem destRanges_setEng (s : State) (c : Ctx) (e : Engines) (x : Cmd) : destRanges (s.setEng c e) c x = destRanges s c x := by
  unfold destRanges
  rw [State.setEng_bank]
  rfl

section
variable {h : Hdr} {o : EOps} {s : State}

theorem exec_epop_taken (hr : Runs (.epop h o) s) {w : Word} {x : Cmd} {r : List (Word × Cmd)} :
    let f := epopFifo (o.eimm.extractLsb' 0 2).toNat
    let q := s.cur.eng.fifo f
    let s1 := s.setEng s.iss.ctx (s.cur.eng.setFifo f { q with comp := r, unpopped := q.unpopped - 1 })
    let waits := !x.mon && (destRanges s1 s.iss.ctx x).any fun r => rangeWaits s1 s.iss.ctx r.1 r.2
    q.unpopped ≠ 0 → q.comp = (w, x) :: r →
      (waits = true → exec (.epop h o) s = .next (s.verdict .stalled)) ∧
      (waits = false → exec (.epop h o) s = .next (((invDest s1 s.iss.ctx x).noEarly s.iss.ctx).locked (oneS o.sx.toNat w) 0)) := by
  intro f q s1 waits hne hcomp
  have hwaits : waits = (!x.mon && (destRanges s s.iss.ctx x).any fun r => rangeWaits s s.iss.ctx r.1 r.2) := by
    simp only [waits, s1, destRanges_setEng, rangeWaits_setEng]
  refine ⟨fun hw => word_stops (st := .stall) hr ?_, fun hw => word_runs hr ?_⟩
  · refine (if_neg hne).trans ?_
    rw [hcomp]
    exact if_pos (hwaits.symm.trans hw)
  · refine (if_neg hne).trans ?_
    rw [hcomp]
    exact if_neg (Bool.eq_false_iff.mp (hwaits.symm.trans hw))

end

/-- Settles O50: the five words, case by case. -/
theorem ringAndStreamWords : Obligations.RingAndStreamWords := by
  refine ⟨fun h o s hr x hx => exec_qbind_plain hr hx, fun h o s hr hk s1 d g hd hg => exec_qbind_generator hr hk hd hg,
    fun h o s hr hfree cnt span hz hcnt hcnt' hspan hx hy hx64 hy64 hy0 hspans hfits hwhole => ?_,
    fun h o s hr => exec_radv hr, fun h o s hr => ⟨fun h0 => word_runs hr (if_pos h0), fun hne hc => word_stops (st := .stall) hr ?_,
      fun w x r hne hc => exec_epop_taken hr hne hc⟩, fun h o s hr => word_runs hr rfl⟩
  · refine ⟨_, exec_rinit hr hfree hz hcnt hcnt' hspan hx hy hx64 hy64 hy0 hspans hfits hwhole, rfl, ?_⟩
    generalize (s.cur.sreg o.sx.toNat).toNat = x
    generalize (s.cur.sreg o.sy.toNat).toNat = y
    have hcur := cur_setRing s o.ra.toNat (emptyRing x y cnt span)
    have hregs := congrArg Bank.regs hcur
    have hscr := congrArg Bank.scr hcur
    have hring (k : Nat) : ((setRing s s.iss.ctx o.ra.toNat (emptyRing x y cnt span)).verdict .done).cur.ring k =
        tabGet (tabSet s.cur.n o.ra.toNat (emptyRing x y cnt span)) k .reset := congrArg (Bank.ring · k) hcur
    have hown := (hring o.ra.toNat).trans (tabGet_tabSet_same _ _ _ _)
    rw [hown]
    exact ⟨emptyRing_occ _ _ _ _, rfl, rfl, rfl, fun i hi => emptyRing_tag _ _ _ hi,
      fun k hk => (hring k).trans (tabGet_tabSet_other _ _ _ _ _ hk), hregs, hscr⟩
  · refine (if_neg hne).trans ?_
    rw [hc]

end Sys2Proof.Machine
end

section
/-! OBLIGATION O51. The expert words (R377 to R389). -/

namespace Sys2Proof.Machine

/-! ### Lanes of a result that pairs fill (R386) -/

/-- A word shifted to lane `k` is in that lane alone. -/
theorem lane32_shifted {j k : Nat} (hj : j < 128) (w : Word) :
    lane32 (BitVec.ofNat 4096 w.toNat <<< (32 * k)) j = if j = k then w else 0 := by
  apply BitVec.eq_of_getLsbD_eq
  intro i hi
  have hpos : 32 * j + i < 4096 := by omega
  rw [lane32, BitVec.getLsbD_extractLsb', BitVec.getLsbD_shiftLeft, BitVec.getLsbD_ofNat, BitVec.testBit_toNat]
  simp only [hi, hpos, decide_true, Bool.true_and]
  rcases lt_trichotomy j k with hlt | rfl | hlt
  · have hbelow : 32 * j + i < 32 * k := by omega
    simp [hbelow, hlt.ne]
  · have hge : ¬32 * j + i < 32 * j := by omega
    have hbound : i < 4096 := by omega
    simp [hbound]
  · have hge : ¬32 * j + i < 32 * k := by omega
    have habove : w.getLsbD (32 * j + i - 32 * k) = false := BitVec.getLsbD_of_ge _ _ (by omega)
    simp [habove, hlt.ne']

/-- A word that a pair puts into lane `k` leaves every other lane. -/
theorem lane32_fill {j k : Nat} (hj : j < 128) (v : VReg) (w : Word) :
    lane32 (v ||| (BitVec.ofNat 4096 (leNat (natLe 4 w.toNat)) <<< (8 * (4 * k)))) j =
      if j = k then lane32 v k ||| w else lane32 v j := by
  have hword : leNat (natLe 4 w.toNat) = w.toNat := by
    rw [leNat_natLe]
    exact Nat.mod_eq_of_lt w.isLt
  have hpos : 8 * (4 * k) = 32 * k := by omega
  have hor (u x : VReg) : lane32 (u ||| x) j = lane32 u j ||| lane32 x j := BitVec.extractLsb'_or ..
  rw [hword, hpos, hor, lane32_shifted hj]
  split
  next h => rw [h]
  · simp

/-- The two result registers of an XROUTE: bytes of the first, and bytes of the second. -/
theorem fillWrites_pair {n1 n2 off : Nat} (v1 v2 m1 m2 : VReg) (x : List Byte) (h : off < 512) :
    fillWrites [.v n1 v1 m1, .v n2 v2 m2] off x = [.v n1 (v1 ||| (BitVec.ofNat 4096 (leNat x) <<< (8 * off))) m1, .v n2 v2 m2] ∧
    fillWrites [.v n1 v1 m1, .v n2 v2 m2] (512 + off) x =
      [.v n1 v1 m1, .v n2 (v2 ||| (BitVec.ofNat 4096 (leNat x) <<< (8 * off))) m2] := by
  have hoff : 512 + off - 512 = off := by omega
  constructor
  · rw [fillWrites, if_pos h]
  · rw [fillWrites, if_neg (by omega), fillWrites, hoff, if_pos h]

/-! ### XROUTE -/

/-- A release leaves every bank, and every block but the cores', the memory's and the platform's. -/
theorem release_frame (s : State) (k : Fin 32) (sc : BitVec 2) (p : Prop) [Decidable p] : let t := if p then s else wbAll s k sc
    (∀ c, t.bank c = s.bank c) ∧ t.iss = s.iss ∧ t.res = s.res ∧ t.sched = s.sched := by
  dsimp only
  split
  · exact ⟨fun _ => rfl, rfl, rfl, rfl⟩
  · have hbeside := wbAll_beside s k sc
    have hres := congrArg State.res hbeside
    have hsched := congrArg State.sched hbeside
    exact ⟨fun c => wbAll_bank s k sc c, wbAll_iss s k sc, hres, hsched⟩

theorem routeSteps_getElem? (b : Bank) (o : XOps) {n k : Nat} (lock : Nat) (hk : k < n) :
    ∃ x, (routeSteps b o n lock)[k]? = some x ∧ x.row = lane32 (b.vreg o.va.toNat) k ∧ x.xid = lane32 (b.vreg o.vb.toNat) k ∧
      x.lane = k ∧ x.xpol = b.sys.xpol ∧ (x.last = true ↔ k + 1 = n) := by
  refine ⟨{ row := lane32 (b.vreg o.va.toNat) k, xid := lane32 (b.vreg o.vb.toNat) k, xpol := b.sys.xpol, lock := lock, lane := k,
            last := k + 1 == n }, ?_, rfl, rfl, rfl, rfl, beq_iff_eq⟩
  simp [routeSteps, hk]

/-- The bank after an XROUTE: its result is outstanding, and its pairs wait. -/
def routedBank (b : Bank) (o : XOps) (n : Nat) : Bank :=
  { b with pipe := { b.pipe with
      locks := b.pipe.locks ++ [{ id := b.lockId, af := 0, ready := n == 0,
                                  ws := [.v (b.physV o.vd.toNat) 0 allOnesV, .v (b.physV (o.vd.toNat + 1)) 0 allOnesV] }]
      routes := b.pipe.routes ++ routeSteps b o n b.lockId } }

section
variable {h : Hdr} {o : XOps} {s : State}

theorem exec_xroute (hr : Runs (.xroute h o) s) (hn : (s.cur.sreg o.sa.toNat).toNat ≤ 128)
    (hslots : (s.cur.sreg o.sa.toNat).toNat + (s.member s.iss.ctx).slots.length ≤ 2048) :
    let n := (s.cur.sreg o.sa.toNat).toNat
    let s1 := if n = 0 then s else wbAll s s.iss.ctx.core 2
    exec (.xroute h o) s = .next ((s1.setBank s.iss.ctx (routedBank s.cur o n)).verdict .done) := by
  intro n s1
  obtain ⟨hbank, -⟩ := release_frame s s.iss.ctx.core 2 (n = 0)
  refine word_runs hr ((if_neg (by omega)).trans ?_)
  have hcur : s1.bank s.iss.ctx = s.cur := hbank s.iss.ctx
  change Except.ok (s1.setBank s.iss.ctx { (s1.bank s.iss.ctx).lockWrites _ 0 (n == 0) with pipe := _ }) = _
  rw [hcur]
  rfl

/-! ### XCLOSE, XFETCH, XPIN and XUNPIN (R379 to R382) -/

theorem exec_xclose (hr : Runs (.xclose h o) s) : let s1 := commitSlots (wbAll s s.iss.ctx.core 2) s.iss.ctx
    (s1.tagIx? (s.cur.sreg o.sa.toNat) = none → exec (.xclose h o) s = .next (s1.verdict .done)) ∧
    (∀ i, s1.tagIx? (s.cur.sreg o.sa.toNat) = some i → (s1.tag i).fin = false →
      exec (.xclose h o) s = .next ((closeExpert s1 i false).verdict .done)) := by
  intro s1
  refine ⟨fun hi => word_runs hr ?_, fun i hi hf => word_runs hr ?_⟩
  · change (match s1.tagIx? _ with | none => Except.ok s1 | some i => _) = _
    rw [hi]
  · change (match s1.tagIx? _ with | none => Except.ok s1 | some i => Except.ok (if (s1.tag i).fin then s1 else closeExpert s1 i false)) = _
    rw [hi]
    exact congrArg Except.ok (if_neg (Bool.eq_false_iff.mp hf))

theorem exec_xcloseFinal (hr : Runs (.xcloseFinal h o) s) : let s1 := commitSlots (wbAll s s.iss.ctx.core 2) s.iss.ctx
    let x := s.cur.sreg o.sa.toNat
    exec (.xcloseFinal h o) s = .next ((if (s1.xslot (xidSlot x)).v && decide (xidLayer x < (s1.xslot (xidSlot x)).layN)
      then finalStart s1 (xidSlot x) (xidLayer x) else s1).verdict .done) :=
  word_runs hr rfl

end

/-- A fill that is not granted leaves the device. -/
theorem requestFill_refused {s : State} {i cls : Nat} {b : Bool} (hst : ((s.tag i).copy b).st = .absent)
    (h : (requestFill s i b cls).2 = false) : (requestFill s i b cls).1 = s := by
  simp only [requestFill] at h ⊢
  rw [h, if_neg Bool.false_ne_true]
  simp only [startFill, hst] at h ⊢
  split
  · rfl
  next hpsn =>
    rw [if_neg hpsn] at h
    split at h
    · rfl
    · cases h

theorem xfetchOf_cases (s : State) (xid : Word) (b : Bool) :
    (s.tagIx? xid = none → xfetchOf s xid b = (s, 5)) ∧
    (∀ i, s.tagIx? xid = some i →
      ((s.tag i).psn = true → xfetchOf s xid b = (s, 6)) ∧
      ((s.tag i).psn = false →
        (((s.tag i).copy b).st = .resident → xfetchOf s xid b = (s, 1)) ∧
        (((s.tag i).copy b).st = .filling → xfetchOf s xid b = (s, 2)) ∧
        (((s.tag i).copy b).st = .none → xfetchOf s xid b = (s, 4)) ∧
        (((s.tag i).copy b).st = .absent → xfetchOf s xid b =
          ((requestFill s i b 4).1, if (requestFill s i b 4).2 then 0 else 3)))) := by
  refine ⟨fun hi => by simp [xfetchOf, hi], fun i hi => ⟨fun hp => by simp [xfetchOf, hi, hp], fun hp =>
    ⟨fun hst => by simp [xfetchOf, hi, hp, hst], fun hst => by simp [xfetchOf, hi, hp, hst], fun hst => by simp [xfetchOf, hi, hp, hst],
      fun hst => ?_⟩⟩⟩
  simp only [xfetchOf, hi, hp, hst, Bool.false_eq_true, if_false]
  cases hok : (requestFill s i b 4).2 with
  | true => rfl
  | false => rw [requestFill_refused hst hok]; rfl

section
variable {h : Hdr} {o : XOps} {s : State}

theorem exec_xfetch (hr : Runs (.xfetch h o) s) : let r := xfetchOf s (s.cur.sreg o.sa.toNat) (o.xf.getLsbD 0)
    exec (.xfetch h o) s = .next (r.1.locked (oneS o.sb.toNat (BitVec.ofNat 32 r.2)) 0) := word_runs hr rfl

/-- The fields of a pin's status word. -/
theorem pinWord_fields (psn fill sat : Bool) {p : Nat} (hp : p ≤ 65535) : let w := pinWord false psn fill sat p
    (w.extractLsb' 0 16).toNat = p ∧ w.getLsbD 31 = false ∧ w.getLsbD 16 = sat := by
  have hlow : (pinWord false psn fill sat p).extractLsb' 0 16 = BitVec.ofNat 16 p := by
    apply BitVec.eq_of_getLsbD_eq
    intro i hi
    rw [BitVec.getLsbD_extractLsb', pinWord, BitVec.getLsbD_append]
    simp [hi]
  refine ⟨?_, ?_, ?_⟩
  · rw [hlow, BitVec.toNat_ofNat]
    exact Nat.mod_eq_of_lt (by omega)
  · simp only [pinWord, BitVec.getLsbD_append]
    simp [bit1]
  · simp only [pinWord, BitVec.getLsbD_append]
    cases sat <;> simp [bit1]

theorem exec_xpin (hr : Runs (.xpin h o) s) (hf : o.xf.getLsbD 0 = false) {i : Nat} (hi : s.tagIx? (s.cur.sreg o.sa.toNat) = some i) :
    let sat := decide (65535 ≤ (s.tag i).pins)
    let p := if sat then (s.tag i).pins else (s.tag i).pins + 1
    exec (.xpin h o) s =
      .next ((s.setTag i { s.tag i with pins := p }).locked (oneS o.sb.toNat (pinWord false (s.tag i).psn false sat p)) 0) := by
  refine word_runs hr ?_
  dsimp only
  rw [hi]
  simp only [hf, Bool.false_eq_true, if_false]
  rfl

theorem exec_xunpin (hr : Runs (.xunpin h o) s) {i : Nat} (hi : s.tagIx? (s.cur.sreg o.sa.toNat) = some i) :
    exec (.xunpin h o) s = .next ((s.setTag i { s.tag i with pins := (s.tag i).pins - 1 }).locked (oneS o.sb.toNat
      (pinWord false (s.tag i).psn false ((s.tag i).pins == 0) ((s.tag i).pins - 1))) 0) := by
  refine word_runs hr ?_
  dsimp only
  rw [hi]
  rfl

theorem exec_unknown (hi : s.tagIx? (s.cur.sreg o.sa.toNat) = none) :
    (Runs (.xpin h o) s → exec (.xpin h o) s = .next (s.locked (oneS o.sb.toNat 0x80000000#32) 0)) ∧
    (Runs (.xunpin h o) s → exec (.xunpin h o) s = .next (s.locked (oneS o.sb.toNat 0x80000000#32) 0)) ∧
    (Runs (.xqry h o) s → exec (.xqry h o) s = .next (s.locked (pairD o.sb.toNat (BitVec.allOnes 64)) 0)) := by
  refine ⟨fun hr => word_runs hr ?_, fun hr => word_runs hr ?_, fun hr => word_runs hr ?_⟩
  all_goals dsimp only
  all_goals rw [hi]
  all_goals rfl

/-! ### XPRED and XSNAP (R383, R388) -/

theorem exec_xpred_ends (hr : Runs (.xpred h o) s) (hv : (s.xslot (xidSlot (s.cur.sreg o.sb.toNat))).v = false) :
    exec (.xpred h o) s = .next (s.locked [.v (s.cur.physV o.vd.toNat) 0 allOnesV] 0) := by
  refine word_runs hr ((if_pos ?_).trans ?_)
  · simp [hv]
  · rfl

theorem exec_xpred_predicts (hr : Runs (.xpred h o) s) :
    let x := s.cur.sreg o.sb.toNat
    let l := xidLayer x
    (s.xslot (xidSlot x)).v = true → l + 1 < (s.xslot (xidSlot x)).layN → s.layerWaits (xidSlot x) l = false →
    s.layerWaits (xidSlot x) (l + 1) = false →
    let s0 := (s.layerUe (xidSlot x) l).layerUe (xidSlot x) (l + 1)
    let y := s0.layer (xidSlot x) l
    let next := s0.layer (xidSlot x) (l + 1)
    let va := descVa s0.cur (s0.cur.sreg o.sa.toNat)
    (y.pm ≠ 0 ∨ y.co ≠ 0) → va % 4 = 0 →
    ∀ s1 ls, reachPieces s0 s.iss.ctx .rd (pagePieces (4 * y.nexp / 4096 + 2) va (4 * y.nexp)) = .ok (s1, ls) →
    let s2 := wbAll s1 s.iss.ctx.core 2
    let v := leNat (engBytes s2 s.iss.ctx ls)
    let rg := predRange y y.nexp next.nexp
    unitWait s2 rg.1 rg.2 .rd = false → ∀ p, predictions s2 y next.nexp ((List.range y.nexp).map fun i => bits v (32 * i) 32) = some p →
    let ids := (topRanks p ((o.xf.extractLsb' 0 4).toNat + 1)).map fun j => xidOf (xidSlot x) (l + 1) j
    let s3 := ids.foldl predictFill s2
    exec (.xpred h o) s = .next ((s3.setBank s.iss.ctx ((s3.bank s.iss.ctx).lockV [(o.vd.toNat, vecOfWords ids)])).verdict .done) := by
  intro x l hv hl hw hw1 s0 y next va hy hva s1 ls hreach s2 v rg hunit p hp ids s3
  have hgo : ¬(!(s.xslot (xidSlot x)).v || decide ((s.xslot (xidSlot x)).layN ≤ l + 1)) = true := by
    simp [hv, Nat.not_le.mpr hl]
  have hready : ¬(s.layerWaits (xidSlot x) l || s.layerWaits (xidSlot x) (l + 1)) = true := by simp [hw, hw1]
  have htable : ¬(y.pm = 0 ∧ y.co = 0) := fun ⟨hpm, hco⟩ => hy.elim (· hpm) (· hco)
  have haligned : aligned s0 va 4 = .ok () := if_pos hva
  refine word_runs hr ((if_neg hgo).trans ((if_neg hready).trans ((if_neg htable).trans ?_)))
  change (match aligned s0 va 4 with | .error e => _ | .ok () => _) = _
  rw [haligned]
  change (match reachPieces s0 s.iss.ctx .rd (pagePieces (4 * y.nexp / 4096 + 2) va (4 * y.nexp)) with | .error e => _ | .ok (s1, ls) => _) = _
  rw [hreach]
  refine (if_neg (Bool.eq_false_iff.mp hunit)).trans ?_
  change (match predictions s2 y next.nexp ((List.range y.nexp).map fun i => bits v (32 * i) 32) with | none => _ | some p => _) = _
  rw [hp]

theorem exec_xsnap (hr : Runs (.xsnap h o) s) :
    let n := (s.cur.sreg (o.sb.toNat + 1)).toNat
    let va := descVa s.cur (s.cur.sreg o.sa.toNat)
    let ps := pagePieces (4 * n / 4096 + 2) va (4 * n)
    1 ≤ n → n ≤ 4096 → va % 4 = 0 → ∀ s1 ls s2, reachPieces s s.iss.ctx .wr ps = .ok (s1, ls) →
      clearPlaces s1 s.iss.ctx ((ps.map Prod.fst).zip ls) = .ok s2 →
      let r := snapCounters s2 (s.cur.sreg o.sb.toNat) (List.range n)
      exec (.xsnap h o) s = .next ((engPut (overPlaces r.1 s.iss.ctx ls) s.iss.ctx ls (r.2.flatMap fun w => natLe 4 w.toNat)).verdict .done) := by
  intro n va ps hpos hmax hva s1 ls s2 hreach hclear r
  have haligned : aligned s va 4 = .ok () := if_pos hva
  refine word_runs hr ((if_neg (Nat.not_lt.mpr hmax)).trans ((if_neg (Nat.pos_iff_ne_zero.mp hpos)).trans ?_))
  change (match aligned s va 4 with | .error e => _ | .ok () => _) = _
  rw [haligned]
  change (match reachPieces s s.iss.ctx .wr ps with | .error e => _ | .ok (s1, ls) => _) = _
  rw [hreach]
  change (match clearPlaces s1 s.iss.ctx ((ps.map Prod.fst).zip ls) with | .error e => _ | .ok s2 => _) = _
  rw [hclear]

end

/-- Settles O51: each word by the state of its expert, and the lanes that the pairs of an XROUTE fill. -/
theorem expertWords : Obligations.ExpertWords := by
  refine ⟨fun h o s hr hn hslots => ?_, fun c s r l hon hz hroutes => ?_, fun n1 n2 k v1 v2 m1 m2 w hk => ?_, fun s c xpol row x hx => ?_,
    fun h o s hr => exec_xclose hr, fun h o s hr => ⟨fun hv hl => ?_, fun hv => ?_⟩, fun h o s hr => ?_, fun h o s hr hf i hi hp => ?_,
    fun h o s hr i hi hp => ?_, fun h o s hi => exec_unknown hi, fun h o s hr i hi => word_runs hr ?_, fun h o s hr => word_runs hr rfl,
    fun h o s hr hv => ⟨0, exec_xpred_ends hr hv, rfl⟩, fun h o s hr => exec_xpred_predicts hr, fun h o s hr hn => word_runs hr ?_,
    fun h o s hr => exec_xsnap hr⟩
  · obtain ⟨hbank, hiss, hres, hsched⟩ := release_frame s s.iss.ctx.core 2 ((s.cur.sreg o.sa.toNat).toNat = 0)
    have hexec := exec_xroute hr hn hslots
    dsimp only at hexec hbank hiss hres hsched ⊢
    generalize (if (s.cur.sreg o.sa.toNat).toNat = 0 then s else wbAll s s.iss.ctx.core 2) = s1 at *
    have hcur1 : s1.cur = s.cur := by rw [State.cur, hiss]; exact hbank _
    have hcur : ((s1.setBank s.iss.ctx (routedBank s.cur o (s.cur.sreg o.sa.toNat).toNat)).verdict .done).cur =
        routedBank s.cur o (s.cur.sreg o.sa.toNat).toNat := by
      rw [State.cur]
      change (s1.setBank s.iss.ctx _).bank s1.iss.ctx = _
      rw [hiss]
      exact State.bank_setBank _ _ _
    rw [hcur1]
    exact ⟨_, hexec, rfl, hcur, by simp [routeSteps], fun k hk => routeSteps_getElem? _ _ _ hk, rfl, hres, hsched,
      fun d hd => (State.bank_setBank_other _ _ _ _ hd).trans (hbank d)⟩
  · change Host.Outcome.next (if s.plat.power = .on ∧ (s.core c.core).freeze = 0 then nextRoute c s else s) = _
    rw [if_pos ⟨hon, hz⟩, nextRoute]
    dsimp only
    rw [hroutes]
    rfl
  · obtain ⟨hfirst, -⟩ := fillWrites_pair (n1 := n1) (n2 := n2) (off := 4 * k) v1 v2 m1 m2 (natLe 4 w.toNat) (by omega)
    obtain ⟨-, hsecond⟩ := fillWrites_pair (n1 := n1) (n2 := n2) (off := 4 * k) v1 v2 m1 m2 (natLe 4 w.toNat) (by omega)
    exact ⟨_, _, hfirst, hsecond, fun j hj => ⟨lane32_fill hj v1 w, lane32_fill hj v2 w⟩⟩
  · rw [routePair, hx]
  · exact (exec_xcloseFinal hr).trans (congrArg Host.Outcome.next
      (congrArg (State.verdict · .done) (if_pos (Bool.and_eq_true_iff.mpr ⟨hv, decide_eq_true hl⟩))))
  · exact (exec_xcloseFinal hr).trans (congrArg Host.Outcome.next
      (congrArg (State.verdict · .done) (if_neg (by rw [hv]; exact Bool.false_ne_true))))
  · obtain ⟨hnone, hsome⟩ := xfetchOf_cases s (s.cur.sreg o.sa.toNat) (o.xf.getLsbD 0)
    have hexec := exec_xfetch hr
    refine ⟨fun hi => ?_, fun i hi hp => ?_, fun i hi hp => ?_⟩
    · rw [hexec, hnone hi]
      rfl
    · rw [hexec, (hsome i hi).1 hp]
      rfl
    · obtain ⟨hresident, hfilling, hno, habsent⟩ := (hsome i hi).2 hp
      refine ⟨fun hst => ?_, fun hst => ?_, fun hst => ?_, fun hst => ?_⟩
      · rw [hexec, hresident hst]
        rfl
      · rw [hexec, hfilling hst]
        rfl
      · rw [hexec, hno hst]
        rfl
      · rw [hexec, habsent hst]
        cases (requestFill s i (o.xf.getLsbD 0) 4).2 <;> rfl
  · have hmin : (if decide (65535 ≤ (s.tag i).pins) then (s.tag i).pins else (s.tag i).pins + 1) = min 65535 ((s.tag i).pins + 1) := by
      simp only [decide_eq_true_eq]
      split <;> omega
    have hexec := exec_xpin hr hf hi
    dsimp only at hexec
    rw [hmin] at hexec
    obtain ⟨hlow, hunk, hsat⟩ := pinWord_fields (s.tag i).psn false (decide (65535 ≤ (s.tag i).pins))
      (p := min 65535 ((s.tag i).pins + 1)) (min_le_left _ _)
    refine ⟨_, hexec, hlow, hunk, ?_⟩
    rw [hsat, decide_eq_true_eq]
    exact ⟨fun hge => le_antisymm hp hge, fun heq => heq.ge⟩
  · obtain ⟨hlow, hunk, hsat⟩ := pinWord_fields (s.tag i).psn false ((s.tag i).pins == 0) (p := (s.tag i).pins - 1) (by omega)
    refine ⟨_, exec_xunpin hr hi, hlow, hunk, ?_⟩
    rw [hsat, beq_iff_eq]
  · dsimp only
    rw [hi]
    rfl
  · have hn0 : (s.cur.sreg (o.sb.toNat + 1)).toNat = 0 := by rw [hn]; rfl
    dsimp only
    rw [hn0]
    rfl

end Sys2Proof.Machine
end

section
/-! OBLIGATION O47. Resolve and the words of a referenced object (R169, R172, R178, R315, R316, R318). -/

namespace Sys2Proof.Machine

/-! ### Resolve (R172) -/

/-- The device after a live, unmoved object has been found: the time of the access is recorded. -/
def touched (s : State) (i : Nat) : State := s.setObj i { s.obj i with last := nowMs s }

theorem resolve_of_plain {s : State} {r : DWord} {i : Nat} (full : Bool) (h : PlainObject s r i) :
    resolve s r full = .ok (touched s i, { h := refAddr r, oti := i, valid := true, null := false }) := by
  obtain ⟨hen, hnull, hcol, hgood, halign, hsize, hfrom, hpsn, hue, hoti, hst, hgen, haddr⟩ := h
  have hhere : fwdLoop s 3 (refCol r == s.heap.goodc) (refAddr r) = refAddr r := by
    rw [hgood, fwdLoop, beq_self_eq_true, hfrom]
    rfl
  have hcol' : (refCol r == 0) = false := beq_eq_false_iff_ne.mpr hcol
  simp only [resolve, hnull, hhere, hen, hcol', halign, hpsn, hue, hoti, hst, hgen, haddr]
  simp [Nat.not_le.mpr hsize, touched, hst]
  rw [hgen, haddr]

theorem resolve_of_null {s : State} {r : DWord} (h : refNull r = true) : resolve s r true = .error (stopAddr 0x0B (refAddr r), s) := by
  simp [resolve, h]

theorem resolve_of_bad {s : State} {r : DWord} (full : Bool) (h : refNull r = false)
    (hbad : s.heap.en = false ∨ refCol r = 0 ∨ refAddr r % 32 ≠ 0 ∨ s.heapBytes ≤ refAddr r) :
    resolve s r full = .error (stopAddr 0x0B (refAddr r), s) := by
  have hfails : (!s.heap.en || refCol r == 0 || refAddr r % 32 != 0 || decide (s.heapBytes ≤ refAddr r)) = true := by
    simp only [Bool.or_eq_true, Bool.not_eq_true', beq_iff_eq, bne_iff_ne, decide_eq_true_eq]
    tauto
  simp only [resolve, h, hfails, Bool.false_eq_true, if_false, if_true]

/-! ### What a pin's write-back and the end of handles leave alone (R165, R178) -/

/-- A write-back leaves the banks, and every block but the cores', the memory's and the platform's. -/
theorem evictRange_frame (s : State) (k : Fin 32) (pa n : Nat) :
    (evictRange s k pa n).banks = s.banks ∧ besideAccess (evictRange s k pa n) = besideAccess s := by
  refine ⟨congrArg Prod.fst (foldl_keeps lineKept (op := fun s (x : Nat × Line) => _) (fun t x => ?_) _ s),
    foldl_keeps besideAccess (op := fun s (x : Nat × Line) => _) (fun t x => ?_) _ s⟩
  · split
    · exact evictLine_lineKept _ _ _
    · rfl
  · split
    · exact evictLine_beside _ _ _
    · rfl

/-- The state but for the handles and holds of a thread. -/
def besideHandles (c : Ctx) (s : State) : MemBlk × Tab Obj × Sched × Iss × Bank :=
  (s.mem, s.heap.ot, s.sched, s.iss, { s.bank c with h := [] })

theorem releaseHandle_besideHandles (s : State) (c : Ctx) (n : Nat) : besideHandles c (releaseHandle s c n) = besideHandles c s := by
  obtain ⟨l, hl⟩ := releaseHandle_bank s c n
  have hrest : ((releaseHandle s c n).mem, (releaseHandle s c n).heap.ot, (releaseHandle s c n).sched, (releaseHandle s c n).iss) =
      (s.mem, s.heap.ot, s.sched, s.iss) := by
    unfold releaseHandle
    split <;> rfl
  simp only [Prod.mk.injEq] at hrest
  obtain ⟨hmem, hot, hsched, hiss⟩ := hrest
  simp only [besideHandles, hmem, hot, hsched, hiss, hl]

theorem releaseObjHandles_besideHandles (s : State) (c : Ctx) (oti : Nat) :
    besideHandles c (releaseObjHandles s c oti) = besideHandles c s := by
  unfold releaseObjHandles
  split
  · rfl
  · refine foldl_keeps (besideHandles c) (fun t n => ?_) _ s
    split
    · exact releaseHandle_besideHandles _ _ _
    · rfl

/-- What the end of the handles on an object leaves alone, part by part. -/
theorem releaseObjHandles_parts (s : State) (c : Ctx) (oti : Nat) : let t := releaseObjHandles s c oti
    t.mem = s.mem ∧ t.heap.ot = s.heap.ot ∧ t.sched = s.sched ∧ t.iss = s.iss ∧ (t.bank c).th = (s.bank c).th ∧
      (t.bank c).regs = (s.bank c).regs := by
  have hkept := releaseObjHandles_besideHandles s c oti
  simp only [besideHandles, Prod.mk.injEq] at hkept
  obtain ⟨hmem, hot, hsched, hiss, hbank⟩ := hkept
  have hth := congrArg Bank.th hbank
  have hregs := congrArg Bank.regs hbank
  exact ⟨hmem, hot, hsched, hiss, hth, hregs⟩

/-- A bank of the same thread has the same member record. -/
theorem member_setBank {s : State} {c : Ctx} {b : Bank} (hth : b.th = (s.bank c).th) : (s.setBank c b).member c = s.member c :=
  member_of_same rfl (by rw [State.bank_setBank]; exact hth)

/-! ### The words (R315, R316, R318) -/

/-- The entry of a pin made since the last boundary. -/
def madePin (i : Nat) : PinEntry := { oti := i, releasing := false, logged := true }

/-- The last usable entry of a pin set for an object is its last entry. -/
theorem lastPin_append (l : List PinEntry) (i : Nat) :
    lastPin (l ++ [madePin i]) i = some l.length := by
  have hlast : ((l ++ [madePin i]).getD l.length
      { oti := 0, releasing := true, logged := false } : PinEntry) = madePin i := by
    simp
  rw [lastPin, List.length_append, List.length_singleton, List.range_succ, List.filter_append, List.filter_cons, hlast]
  simp [madePin]

section
variable {o : KOps} {s : State}

/-- A word that begins with a null base reference takes its fault. -/
theorem objPlace_of_null (hn : refNull (s.cur.kreg o.kb.toNat) = true) :
    objPlace o s = .error (stopAddr 0x0B (refAddr (s.cur.kreg o.kb.toNat)), s) := by
  rw [objPlace, resolve_of_null hn]

variable {h : Hdr} {i : Nat}

theorem exec_of_null_base (hn : refNull (s.cur.kreg o.kb.toNat) = true) :
    let t := takeStop (stopAddr 0x0B (refAddr (s.cur.kreg o.kb.toNat))) s
    (Runs (.kget h o) s → exec (.kget h o) s = .next t) ∧ (Runs (.kput h o) s → exec (.kput h o) s = .next t) ∧
    (Runs (.kldObject h o) s → exec (.kldObject h o) s = .next t) ∧ (Runs (.kstObject h o) s → exec (.kstObject h o) s = .next t) ∧
    (Runs (.kpin h o) s → exec (.kpin h o) s = .next t) := by
  have hres := resolve_of_null (s := s) hn
  have hplace := objPlace_of_null hn
  refine ⟨fun hr => word_stops hr ?_, fun hr => word_stops hr ?_, fun hr => word_stops hr ?_, fun hr => word_stops hr ?_,
    fun hr => word_stops hr ?_⟩
  · dsimp only
    rw [hres]
  · dsimp only
    rw [hres]
  · rw [hplace]
  · rw [hplace]
  · dsimp only
    rw [hres]

theorem exec_kget (hp : PlainObject s (s.cur.kreg o.kb.toNat) i) (hr : Runs (.kget h o) s) :
    let a := refAddr (s.cur.kreg o.kb.toNat)
    objRange (touched s i) a (kOff o) (szAlign o.sz) (szBytes o.sz) = .ok () →
      ∀ s2 pa, objReach (touched s i) s.iss.ctx a (kOff o) (szBytes o.sz) = .ok (s2, pa) →
        let r := rowLoad s2 s.iss.ctx pa (szBytes o.sz) o.ord
        exec (.kget h o) s = .next ((afterAcquire (r.1.setBank s.iss.ctx ((r.1.bank s.iss.ctx).lockWrites
          (dataWrites s.cur o.sz o.dr.toNat r.2) 0 true)) s.iss.ctx (o.ord == 2) 2).verdict .done) := by
  intro a hrange s2 pa hreach r
  refine word_runs hr ?_
  dsimp only
  rw [resolve_of_plain true hp]
  dsimp only
  rw [hrange]
  dsimp only
  rw [hreach]

/-- KPUT past its checks, on a live object. -/
theorem exec_kput (hp : PlainObject s (s.cur.kreg o.kb.toNat) i) (hr : Runs (.kput h o) s) :
    let a := refAddr (s.cur.kreg o.kb.toNat)
    objRange (touched s i) a (kOff o) (szAlign o.sz) (szBytes o.sz) = .ok () →
      (kOff o < 0x18 ∧ ¬(kOff o = 8 ∧ o.sz = 0) → exec (.kput h o) s = .next (takeStop (stopAddr 0x0B (a + (kOff o).toNat)) s)) ∧
      (¬(kOff o < 0x18 ∧ ¬(kOff o = 8 ∧ o.sz = 0)) →
        ∀ s2 pa, objReach (touched s i) s.iss.ctx a (kOff o) (szBytes o.sz) = .ok (s2, pa) → exec (.kput h o) s =
          .next ((putData (beforeRelease s2 s.iss.ctx (o.ord == 2) 2) s.iss.ctx { h := a, oti := i, valid := true, null := false }
            (kOff o) pa (dataBytes s.cur o.sz o.dr.toNat)).verdict .done)) := by
  intro a hrange
  have hlive : ((touched s i).obj i).st ≠ .reloc := by
    obtain ⟨-, -, -, -, -, -, -, -, -, -, hst, -⟩ := hp
    rw [touched, State.obj_setObj]
    simp [hst]
  refine ⟨fun hbad => word_stops hr ?_, fun hok s2 pa hreach => word_runs hr ?_⟩
  · dsimp only
    rw [resolve_of_plain true hp]
    dsimp only
    rw [hrange]
    exact if_pos hbad
  · dsimp only
    rw [resolve_of_plain true hp]
    dsimp only
    rw [hrange]
    refine (if_neg hok).trans ((if_neg hlive).trans ?_)
    rw [hreach]

/-- The byte of a scalar that a KPUT of one byte stores. -/
theorem dataBytes_byte (b : Bank) (n : Nat) : (dataBytes b 0 n).length = 1 ∧
    ((dataBytes b 0 n).headD 0).getLsbD 0 = (b.sreg n).getLsbD 0 := by
  have hbytes : dataBytes b 0 n = [BitVec.ofNat 8 (b.sreg n).toNat] := rfl
  rw [hbytes]
  refine ⟨rfl, ?_⟩
  rw [List.headD_cons, BitVec.getLsbD_ofNat, BitVec.testBit_toNat]
  rfl

/-- A byte at offset 8 of an object marks it dead where its bit 0 is set, and else does nothing (R169). -/
theorem putData_mark (s : State) (c : Ctx) (f : Found) (pa : Nat) {b : Bank} {n : Nat} (hbit : (b.sreg n).getLsbD 0 = true) :
    putData s c f 8 pa (dataBytes b 0 n) = (sysStore s c pa [1]).setObj f.oti { s.obj f.oti with st := .dead } := by
  obtain ⟨hlen, hbyte⟩ := dataBytes_byte b n
  rw [putData, if_pos ⟨rfl, hlen⟩, if_pos (hbyte.trans hbit)]

theorem putData_keep (s : State) (c : Ctx) (f : Found) (pa : Nat) {b : Bank} {n : Nat} (hbit : (b.sreg n).getLsbD 0 = false) :
    putData s c f 8 pa (dataBytes b 0 n) = s := by
  obtain ⟨hlen, hbyte⟩ := dataBytes_byte b n
  rw [putData, if_pos ⟨rfl, hlen⟩, if_neg (Bool.eq_false_iff.mp (hbyte.trans hbit))]

theorem exec_kpin (hp : PlainObject s (s.cur.kreg o.kb.toNat) i) (hr : Runs (.kpin h o) s)
    (hroom : (s.member s.iss.ctx).pins.length < 16) (hcount : (s.obj i).pins < 65535) :
    let s2 := ((touched s i).setObj i { (touched s i).obj i with pins := ((touched s i).obj i).pins + 1 }).setMember s.iss.ctx
      { s.member s.iss.ctx with pins := (s.member s.iss.ctx).pins ++ [madePin i] }
    exec (.kpin h o) s = .next ((s2.setBank s.iss.ctx ((s2.bank s.iss.ctx).lockD o.dr.toNat
      (BitVec.ofNat 64 (s.heap.va.toNat + refAddr (s.cur.kreg o.kb.toNat))))).verdict .done) := by
  have hlive : ((touched s i).obj i).st ≠ .reloc := by
    obtain ⟨-, -, -, -, -, -, -, -, -, -, hst, -⟩ := hp
    rw [touched, State.obj_setObj]
    simp [hst]
  have hfree : ¬(16 ≤ ((touched s i).member s.iss.ctx).pins.length ∨ 65535 ≤ ((touched s i).obj i).pins) := by
    have hpins : ((touched s i).obj i).pins = (s.obj i).pins := by rw [touched, State.obj_setObj]
    have hset : ((touched s i).member s.iss.ctx).pins = (s.member s.iss.ctx).pins := rfl
    rw [hpins, hset]
    omega
  refine word_runs hr ?_
  dsimp only
  rw [resolve_of_plain true hp]
  exact (if_neg hlive).trans (if_neg hfree)

theorem exec_kunpin (hp : PlainObject s (s.cur.kreg o.kb.toNat) i) (hr : Runs (.kunpin h o) s) {l : List PinEntry}
    (hl : (s.member s.iss.ctx).pins = l ++ [madePin i]) :
    exec (.kunpin h o) s = .next ((releaseObjHandles (decPins ((writeObjBack (touched s i) s.iss.ctx i).setMember s.iss.ctx
      { s.member s.iss.ctx with pins := l }) i) s.iss.ctx i).verdict .done) := by
  have hmember : (touched s i).member s.iss.ctx = s.member s.iss.ctx := rfl
  have hlast := lastPin_append l i
  have hentry : ((l ++ [madePin i]).getD l.length
      { oti := 0, releasing := false, logged := false } : PinEntry).logged = true := by simp [madePin]
  have herase : (l ++ [madePin i]).eraseIdx l.length = l := by
    simp [List.eraseIdx_append_of_length_le]
  refine word_runs hr ?_
  dsimp only
  rw [resolve_of_plain false hp]
  dsimp only
  rw [hmember, hl, hlast]
  dsimp only
  rw [hentry, herase]
  rfl

end

/-- Settles O47: Resolve's cases, and each word past it. -/
theorem objectWords : Obligations.ObjectWords := by
  refine ⟨fun s r i full h => resolve_of_plain full h, fun s r h => resolve_of_null h, fun s r full h hbad => resolve_of_bad full h hbad,
    fun h o s hn => exec_of_null_base hn, fun h o s i hp => ⟨fun hr => exec_kget hp hr, fun hr hrange hoff s2 pa hreach => ?_,
      fun hr hrange hoff hsz s2 pa hreach => ?_, fun hr hrange hoff hne => ?_, fun hr hroom hcount => ?_, fun hr l hl => ?_⟩⟩
  · obtain ⟨-, hok⟩ := exec_kput hp hr hrange
    refine (hok (fun hbad => absurd hbad.1 (not_lt.mpr hoff)) s2 pa hreach).trans ?_
    rw [putData, if_neg fun h8 => ?_]
    have := h8.1
    omega
  · obtain ⟨-, hok⟩ := exec_kput hp hr (by rw [hoff, hsz]; exact hrange)
    have hexec := hok (fun hbad => hbad.2 ⟨hoff, hsz⟩) s2 pa (by rw [hoff, hsz]; exact hreach)
    rw [hoff, hsz] at hexec
    refine ⟨_, hexec, rfl, fun hbit => ?_, fun hbit => ?_⟩
    · rw [putData_mark _ _ _ _ hbit]
      exact congrArg Obj.st (State.obj_setObj _ _ _)
    · rw [putData_keep _ _ _ _ hbit]
  · obtain ⟨hbad, -⟩ := exec_kput hp hr hrange
    exact hbad ⟨hoff, fun h8 => hne.elim (· h8.1) (· h8.2)⟩
  · refine ⟨_, exec_kpin hp hr hroom hcount, rfl, ?_, rfl, ?_, State.cur_setCur _ _⟩
    · refine (congrArg Obj.pins (State.obj_setObj _ _ _)).trans ?_
      rw [touched, State.obj_setObj]
    · have hmember := member_setBank (s := ((touched s i).setObj i { (touched s i).obj i with pins := ((touched s i).obj i).pins + 1 }).setMember
        s.iss.ctx { s.member s.iss.ctx with pins := (s.member s.iss.ctx).pins ++ [madePin i] }) (c := s.iss.ctx)
        (b := s.cur.lockD o.dr.toNat (BitVec.ofNat 64 (s.heap.va.toNat + refAddr (s.cur.kreg o.kb.toNat)))) rfl
      rw [State.member_setMember] at hmember
      exact congrArg MemberRec.pins hmember
  · obtain ⟨hmem, hot, hsched, hiss, hth, hregs⟩ := releaseObjHandles_parts (decPins ((writeObjBack (touched s i) s.iss.ctx i).setMember
      s.iss.ctx { s.member s.iss.ctx with pins := l }) i) s.iss.ctx i
    obtain ⟨hbanks, hbeside⟩ := evictRange_frame (touched s i) s.iss.ctx.core ((touched s i).heapPa ((touched s i).obj i).addr)
      ((touched s i).objSize ((touched s i).obj i).addr)
    rw [← writeObjBack] at hbanks hbeside
    have hheap := congrArg State.heap hbeside
    have hsched1 := congrArg State.sched hbeside
    have hctx := congrArg State.iss hbeside
    have hbank (c : Ctx) : (writeObjBack (touched s i) s.iss.ctx i).bank c = s.bank c := by
      rw [State.bank, hbanks]
      rfl
    have hback : (writeObjBack (touched s i) s.iss.ctx i).obj i = { s.obj i with last := nowMs s } := by
      rw [State.obj, show (writeObjBack (touched s i) s.iss.ctx i).heap = (touched s i).heap from hheap]
      exact State.obj_setObj _ _ _
    have hexec := exec_kunpin hp hr hl
    change ∃ t, exec (.kunpin h o) s = .next t ∧ t.iss.verdict = .done ∧ (t.obj i).pins = (s.obj i).pins - 1 ∧
      (t.member s.iss.ctx).pins = l ∧ t.cur.regs = s.cur.regs ∧ t.mem = (writeObjBack (touched s i) s.iss.ctx i).mem
    generalize writeObjBack (touched s i) s.iss.ctx i = sw at *
    have hmember : (decPins (sw.setMember s.iss.ctx { s.member s.iss.ctx with pins := l }) i).member s.iss.ctx =
        { s.member s.iss.ctx with pins := l } := State.member_setMember _ _ _
    have hpins : (sw.obj i).pins = (s.obj i).pins := by rw [hback]
    refine ⟨_, hexec, rfl, ?_, ?_, ?_, hmem⟩
    · have hobj := congrArg (fun t => (tabGet t i { pins := 0, last := 0, st := .free, gen := 1, addr := 0 } : Obj).pins) hot
      refine hobj.trans ?_
      rw [← hpins]
      exact congrArg Obj.pins (State.obj_setObj _ _ _)
    · have hkeep := (member_of_same (congrArg Sched.nodes hsched) hth).trans hmember
      exact congrArg MemberRec.pins hkeep
    · have hcur : (releaseObjHandles (decPins (sw.setMember s.iss.ctx { s.member s.iss.ctx with pins := l }) i) s.iss.ctx i).cur.regs =
          ((releaseObjHandles (decPins (sw.setMember s.iss.ctx { s.member s.iss.ctx with pins := l }) i) s.iss.ctx i).bank s.iss.ctx).regs := by
        rw [State.cur, hiss]
        exact congrArg (fun x : Iss => ((releaseObjHandles _ s.iss.ctx i).bank x.ctx).regs) hctx
      exact hcur.trans (hregs.trans (congrArg Bank.regs (hbank s.iss.ctx)))

end Sys2Proof.Machine
end

section
/-! OBLIGATION O48. Reference words: KEQ, KLD, KST and KNEW (R146, R169, R173, R174, R315, R317, R319). -/

namespace Sys2Proof.Machine

/-! ### KLD (R173, R315) -/

/-- A reference made of its own colour, fields and address is itself. -/
theorem refMake_self (w : DWord) : refMake (refCol w) w (refAddr w) = w := by
  apply BitVec.eq_of_getLsbD_eq
  intro i hi
  simp only [refMake, refCol, refAddr, BitVec.ofNat_toNat, BitVec.setWidth_eq, BitVec.getLsbD_append, BitVec.getLsbD_extractLsb']
  by_cases hlow : i < 48
  · simp [hlow]
  · by_cases hmid : i - 48 < 14
    · have hpos : 48 + (i - 48) = i := by omega
      simp [hlow, hmid, hpos]
    · have hpos : 62 + (i - 48 - 14) = i := by omega
      have hhigh : i - 48 - 14 < 2 := by omega
      simp [hlow, hmid, hpos, hhigh]

/-- A KLD after the word `v` is known: k[KH] takes it. -/
def kldDone (o : KOps) (c : Ctx) (p : RefPlace) (u : State) (v : DWord) : State :=
  afterAcquire (u.setBank c ((u.bank c).lockWrites [.k o.kh.toNat v] 0 true)) c (o.ord == 2) p.scope

section
variable {o : KOps} {s0 : State} {p : RefPlace}

theorem kldFrom_of_null (h : refNull (loadRef s0 s0.iss.ctx p o.ord).2 = true) :
    kldFrom o s0 p = .ok (kldDone o s0.iss.ctx p (loadRef s0 s0.iss.ctx p o.ord).1 nullRef) := by
  have hres : resolve (loadRef s0 s0.iss.ctx p o.ord).1 (loadRef s0 s0.iss.ctx p o.ord).2 false =
      .ok ((loadRef s0 s0.iss.ctx p o.ord).1, { h := 0, oti := 0, valid := false, null := true }) := by simp [resolve, h]
  rw [kldFrom]
  dsimp only
  rw [hres]
  rfl

theorem kldFrom_of_found {s2 : State} {f : Found} (hres : resolve (loadRef s0 s0.iss.ctx p o.ord).1 (loadRef s0 s0.iss.ctx p o.ord).2 false =
    .ok (s2, f)) (hf : f.null = false) :
    let w := (loadRef s0 s0.iss.ctx p o.ord).2
    let v := refMake s2.heap.goodc w f.h
    kldFrom o s0 p = .ok (kldDone o s0.iss.ctx p (if w = v then s2 else healRef s2 s0.iss.ctx p w v) v) := by
  rw [kldFrom]
  dsimp only
  rw [hres]
  dsimp only
  simp only [hf, Bool.false_eq_true, if_false, Bool.not_false, Bool.true_and]
  by_cases hw : (loadRef s0 s0.iss.ctx p o.ord).2 = refMake s2.heap.goodc (loadRef s0 s0.iss.ctx p o.ord).2 f.h
  · have hne : ((loadRef s0 s0.iss.ctx p o.ord).2 != refMake s2.heap.goodc (loadRef s0 s0.iss.ctx p o.ord).2 f.h) = false := by
      rw [← hw]
      exact bne_self_eq_false _
    rw [hne, if_pos hw]
    rfl
  · rw [bne_iff_ne.mpr hw, if_neg hw]
    rfl

theorem kldFrom_of_plain {k : Nat} (hp : PlainObject (loadRef s0 s0.iss.ctx p o.ord).1 (loadRef s0 s0.iss.ctx p o.ord).2 k) :
    kldFrom o s0 p = .ok (kldDone o s0.iss.ctx p (touched (loadRef s0 s0.iss.ctx p o.ord).1 k) (loadRef s0 s0.iss.ctx p o.ord).2) := by
  have hmake : refMake (touched (loadRef s0 s0.iss.ctx p o.ord).1 k).heap.goodc (loadRef s0 s0.iss.ctx p o.ord).2
      (refAddr (loadRef s0 s0.iss.ctx p o.ord).2) = (loadRef s0 s0.iss.ctx p o.ord).2 := by
    obtain ⟨-, -, -, hgood, -⟩ := hp
    have hcol : (touched (loadRef s0 s0.iss.ctx p o.ord).1 k).heap.goodc = refCol (loadRef s0 s0.iss.ctx p o.ord).2 := hgood.symm
    rw [hcol]
    exact refMake_self _
  have hfound := kldFrom_of_found (resolve_of_plain false hp) rfl
  dsimp only at hfound
  rw [hmake, if_pos rfl] at hfound
  exact hfound

theorem kldFrom_of_error {st : Stop} {s2 : State}
    (hres : resolve (loadRef s0 s0.iss.ctx p o.ord).1 (loadRef s0 s0.iss.ctx p o.ord).2 false = .error (st, s2)) :
    kldFrom o s0 p = .error (st, s2) := by
  rw [kldFrom]
  dsimp only
  rw [hres]

/-- What a word that ends as KLD from a place does, by what it finds. -/
theorem loads_of_kldFrom {i : Instr} {s : State} (hrun : ∀ t, kldFrom o s0 p = .ok t → exec i s = .next (t.verdict .done))
    (hstop : ∀ st t, kldFrom o s0 p = .error (st, t) → exec i s = .next (takeStop st t)) :
    let s1 := (loadRef s0 s0.iss.ctx p o.ord).1
    let w := (loadRef s0 s0.iss.ctx p o.ord).2
    (refNull w = true → exec i s = .next ((kldDone o s0.iss.ctx p s1 nullRef).verdict .done)) ∧
    (∀ k, PlainObject s1 w k → exec i s = .next ((kldDone o s0.iss.ctx p (touched s1 k) w).verdict .done)) ∧
    (∀ s2 f, resolve s1 w false = .ok (s2, f) → f.null = false →
      let v := refMake s2.heap.goodc w f.h
      exec i s = .next ((kldDone o s0.iss.ctx p (if w = v then s2 else healRef s2 s0.iss.ctx p w v) v).verdict .done)) ∧
    (∀ st s2, resolve s1 w false = .error (st, s2) → exec i s = .next (takeStop st s2)) :=
  ⟨fun h => hrun _ (kldFrom_of_null h), fun _ hp => hrun _ (kldFrom_of_plain hp), fun _ _ hres hf => hrun _ (kldFrom_of_found hres hf),
    fun _ _ hres => hstop _ _ (kldFrom_of_error hres)⟩

end

/-! ### KST (R315, R168) -/

theorem kstInto_of_allowed {o : KOps} {s0 s : State} {p : RefPlace} {a : Nat}
    (h : (s.cur.kreg o.kh.toNat).getLsbD 61 = false ∨ inHeap s p = true) : kstInto o s0 s p a =
      .ok (writeRef (beforeRelease s s.iss.ctx (o.ord == 2) p.scope) s.iss.ctx p (s.cur.kreg o.kh.toNat)) := by
  have hok : ¬((s.cur.kreg o.kh.toNat).getLsbD 61 && !inHeap s p) = true := by
    rcases h with h | h
    · rw [h]
      exact Bool.false_ne_true
    · rw [h, Bool.not_true, Bool.and_false]
      exact Bool.false_ne_true
  exact if_neg hok

theorem kstInto_of_outside {o : KOps} {s0 s : State} {p : RefPlace} {a : Nat} (hv : (s.cur.kreg o.kh.toNat).getLsbD 61 = true)
    (hin : inHeap s p = false) : kstInto o s0 s p a = .error (stopAddr 0x0B a, s0) := by
  refine if_pos ?_
  rw [hv, hin]
  rfl

/-! ### The words (R315, R319) -/

section
variable {h : Hdr} {o : KOps} {s : State}

theorem exec_keq (hr : Runs (.keq h o) s) : exec (.keq h o) s = .next (s.locked (oneS o.dr.toNat
    (if keqValue s (s.cur.kreg o.kh.toNat) (s.cur.kreg o.kb.toNat) then 1 else 0)) 0) := by
  have hbit (v : Bool) : (bit1 v).setWidth 32 = if v then (1 : Word) else 0 := by cases v <;> rfl
  refine word_runs hr (congrArg (fun x => Except.ok (s.setCur (s.cur.lockS o.dr.toNat x))) (hbit _))

theorem heapOn_off (he : s.heap.en = false) (a : Nat) : heapOn s a = .error (stopAddr 0x0B a, s) := by simp [heapOn, he]
theorem heapOn_on (he : s.heap.en = true) (a : Nat) : heapOn s a = .ok () := by simp [heapOn, he]

theorem refReach_misaligned {c : Ctx} {va : Nat} {acc : Acc} (hva : va % 8 ≠ 0) : refReach s c va acc = .error (stopAddr 0x04 va, s) := by
  have hal : aligned s va 8 = .error (stopAddr 0x04 va, s) := if_neg hva
  rw [refReach, hal]

theorem exec_kld_stops (hr : Runs (.kld h o) s) : let va := kVa s.cur o
    (s.heap.en = false → exec (.kld h o) s = .next (takeStop (stopAddr 0x0B va) s)) ∧
    (s.heap.en = true → va % 8 ≠ 0 → exec (.kld h o) s = .next (takeStop (stopAddr 0x04 va) s)) := by
  refine ⟨fun he => word_stops hr ?_, fun he hva => word_stops hr ?_⟩
  · dsimp only
    rw [heapOn_off he]
  · dsimp only
    rw [heapOn_on he]
    dsimp only
    rw [refReach_misaligned hva]

theorem exec_kst_stops (hr : Runs (.kst h o) s) : let va := kVa s.cur o
    (s.heap.en = false → exec (.kst h o) s = .next (takeStop (stopAddr 0x0B va) s)) ∧
    (s.heap.en = true → va % 8 ≠ 0 → exec (.kst h o) s = .next (takeStop (stopAddr 0x04 va) s)) := by
  refine ⟨fun he => word_stops hr ?_, fun he hva => word_stops hr ?_⟩
  · dsimp only
    rw [heapOn_off he]
  · dsimp only
    rw [heapOn_on he]
    dsimp only
    rw [refReach_misaligned hva]

/-- Past its checks KLD goes on from the place of its word. -/
theorem exec_kld_of_kldFrom (hr : Runs (.kld h o) s) (he : s.heap.en = true) {s1 : State} {l : Loc}
    (hreach : refReach s s.iss.ctx (kVa s.cur o) .rd = .ok (s1, l)) :
    (∀ t, kldFrom o s1 (.loc l (kVa s.cur o)) = .ok t → exec (.kld h o) s = .next (t.verdict .done)) ∧
    (∀ st t, kldFrom o s1 (.loc l (kVa s.cur o)) = .error (st, t) → exec (.kld h o) s = .next (takeStop st t)) := by
  refine ⟨fun t ht => word_runs hr ?_, fun st t ht => word_stops hr ?_⟩
  all_goals dsimp only
  all_goals rw [heapOn_on he]
  all_goals dsimp only
  all_goals rw [hreach]
  all_goals exact ht

theorem exec_kst_of_kstInto (hr : Runs (.kst h o) s) (he : s.heap.en = true) {s1 : State} {l : Loc}
    (hreach : refReach s s.iss.ctx (kVa s.cur o) .wr = .ok (s1, l)) :
    (∀ t, kstInto o s s1 (.loc l (kVa s.cur o)) (kVa s.cur o) = .ok t → exec (.kst h o) s = .next (t.verdict .done)) ∧
    (∀ st t, kstInto o s s1 (.loc l (kVa s.cur o)) (kVa s.cur o) = .error (st, t) → exec (.kst h o) s = .next (takeStop st t)) := by
  refine ⟨fun t ht => word_runs hr ?_, fun st t ht => word_stops hr ?_⟩
  all_goals dsimp only
  all_goals rw [heapOn_on he]
  all_goals dsimp only
  all_goals rw [hreach]
  all_goals exact ht

theorem exec_kldObject_of_kldFrom (hr : Runs (.kldObject h o) s) {s1 : State} {f : Found} {pa : Nat}
    (hplace : objPlace o s = .ok (s1, f, pa)) : let p := RefPlace.obj pa ((s1.obj f.oti).st != .reloc)
    (∀ t, kldFrom o s1 p = .ok t → exec (.kldObject h o) s = .next (t.verdict .done)) ∧
    (∀ st t, kldFrom o s1 p = .error (st, t) → exec (.kldObject h o) s = .next (takeStop st t)) := by
  refine ⟨fun t ht => word_runs hr ?_, fun st t ht => word_stops hr ?_⟩
  all_goals rw [hplace]
  all_goals exact ht

theorem exec_kstObject (hr : Runs (.kstObject h o) s) {s1 : State} {f : Found} {pa : Nat} (hplace : objPlace o s = .ok (s1, f, pa)) :
    ((s1.obj f.oti).st ≠ .reloc → exec (.kstObject h o) s = .next ((writeRef (beforeRelease s1 s1.iss.ctx (o.ord == 2)
      (RefPlace.obj pa false).scope) s1.iss.ctx (.obj pa false) (s1.cur.kreg o.kh.toNat)).verdict .done)) ∧
    ((s1.obj f.oti).st = .reloc → exec (.kstObject h o) s = .next (s.verdict .stalled)) := by
  refine ⟨fun hst => word_runs hr ?_, fun hst => word_stops (st := .stall) hr ?_⟩
  · rw [hplace]
    exact (if_neg hst).trans (kstInto_of_allowed (.inr rfl))
  · rw [hplace]
    exact if_pos hst

theorem exec_of_objPlace_error {st : Stop} {s1 : State} (hplace : objPlace o s = .error (st, s1)) :
    (Runs (.kldObject h o) s → exec (.kldObject h o) s = .next (takeStop st s1)) ∧
    (Runs (.kstObject h o) s → exec (.kstObject h o) s = .next (takeStop st s1)) := by
  refine ⟨fun hr => word_stops hr ?_, fun hr => word_stops hr ?_⟩
  all_goals rw [hplace]

end

/-! ### KNEW: the space and the bytes of a new object (R169, R174) -/

/-- What finding space for an object never changes. -/
def allocKept (s : State) : MemBlk × Addr × BitVec 2 × Tab Obj × Tab Bank × Sched × Iss :=
  (s.mem, s.heap.base, s.heap.goodc, s.heap.ot, s.banks, s.sched, s.iss)

theorem heapSpace_fresh_allocKept {s : State} {core : Fin 32} {old : Option Nat} {n : Nat} {x : State × Nat}
    (h : heapSpace.fresh s core old n = some x) : allocKept x.1 = allocKept s := by
  obtain ⟨g, -, rfl⟩ := Option.map_eq_some_iff.mp h
  cases old <;> rfl

theorem heapSpace_allocKept {s : State} {core : Fin 32} {n : Nat} {x : State × Nat} (h : heapSpace s core n = some x) :
    allocKept x.1 = allocKept s := by
  unfold heapSpace at h
  split at h
  · obtain ⟨g, -, rfl⟩ := Option.map_eq_some_iff.mp h
    exact foldl_keeps allocKept (op := fun s j => s.setGran (g + j) .used) (fun _ _ => rfl) _ s.bump
  · simp only [] at h
    split at h
    · split at h
      · cases h
        rfl
      · exact heapSpace_fresh_allocKept h
    · exact heapSpace_fresh_allocKept h

theorem freeObj_lt {s : State} {n i j : Nat} (h : freeObj s n i = some j) : j < i + n := by
  induction n generalizing i with
  | zero => cases h
  | succ n ih =>
    rw [freeObj] at h
    split at h
    · cases h
      omega
    · have := ih h
      omega

theorem memBytes_memSetBytes_same (m : Mem) (a : Nat) (l : List Byte) : memBytes (memSetBytes m a l) a l.length = l := by
  refine List.ext_getElem (memBytes_length _ _ _) fun k hk hk' => ?_
  rw [← List.getD_eq_getElem _ 0 hk, memBytes_getD _ _ hk', memByte_memSetBytes_same _ _ _ _ hk']

theorem memBytes_memSetBytes_apart (m : Mem) {a b n : Nat} {l : List Byte} (h : b + n ≤ a ∨ a + l.length ≤ b) :
    memBytes (memSetBytes m a l) b n = memBytes m b n := by
  refine List.map_congr_left fun i hi => memByte_memSetBytes_other _ _ _ _ ?_
  have := List.mem_range.mp hi
  omega

/-- The bytes of a new object in main memory: its header over a cleared range. -/
def newObjMem (m : Mem) (pa size : Nat) (ty : Word) (oti : Nat) : Mem :=
  memSetBytes (memSetBytes (memSetBytes (zeroRange m pa size) pa (natLe 4 size)) (pa + 16) (natLe 4 oti)) (pa + 20) (natLe 4 ty.toNat)

theorem writeHeader_main (s : State) (h size : Nat) (ty : Word) (oti : Nat) :
    (writeHeader s h size ty oti).mem.main = newObjMem s.mem.main (s.heapPa h) size ty oti := by
  have hadd (k : Nat) : s.heap.base.toNat + (h + k) = s.heapPa h + k := (Nat.add_assoc _ _ _).symm
  rw [newObjMem, ← hadd, ← hadd]
  rfl

section
variable {m : Mem} {pa size oti : Nat} {ty : Word}

theorem memByte_newObjMem_outside {b : Nat} (hsize : 24 ≤ size) (hb : b < pa ∨ pa + size ≤ b) :
    memByte (newObjMem m pa size ty oti) b = memByte m b := by
  rw [newObjMem, memByte_memSetBytes_other _ _ _ _ (by rw [natLe_length]; omega),
    memByte_memSetBytes_other _ _ _ _ (by rw [natLe_length]; omega), memByte_memSetBytes_other _ _ _ _ (by rw [natLe_length]; omega),
    memByte_zeroRange, if_neg (by omega)]

theorem memByte_newObjMem_body {k : Nat} (hk : k < size) (hk' : (4 ≤ k ∧ k < 16) ∨ 24 ≤ k) :
    memByte (newObjMem m pa size ty oti) (pa + k) = 0 := by
  rw [newObjMem, memByte_memSetBytes_other _ _ _ _ (by rw [natLe_length]; omega),
    memByte_memSetBytes_other _ _ _ _ (by rw [natLe_length]; omega), memByte_memSetBytes_other _ _ _ _ (by rw [natLe_length]; omega),
    memByte_zeroRange, if_pos (by omega)]

/-- The size word of a new object's header. -/
theorem memBytes_newObjMem_size : memBytes (newObjMem m pa size ty oti) pa 4 = natLe 4 size := by
  rw [newObjMem, memBytes_memSetBytes_apart _ (.inl (by omega)), memBytes_memSetBytes_apart _ (.inl (by omega))]
  exact memBytes_memSetBytes_same _ _ (natLe 4 size)

/-- Its object-table entry. -/
theorem memBytes_newObjMem_entry : memBytes (newObjMem m pa size ty oti) (pa + 16) 4 = natLe 4 oti := by
  rw [newObjMem, memBytes_memSetBytes_apart _ (.inl (by omega))]
  exact memBytes_memSetBytes_same _ _ (natLe 4 oti)

/-- Its type. -/
theorem memBytes_newObjMem_type : memBytes (newObjMem m pa size ty oti) (pa + 20) 4 = natLe 4 ty.toNat :=
  memBytes_memSetBytes_same _ _ (natLe 4 ty.toNat)

end

/-! ### KNEW: what was read ahead (R146, log 8) -/

theorem ctxOf_ctxIx (c : Ctx) : ctxOf (ctxIx c) = c := by
  obtain ⟨k, b⟩ := c
  simp only [ctxOf, ctxIx, Ctx.mk.injEq, Fin.ext_iff, Fin.val_ofNat]
  omega

theorem foldl_noEarly_bank (c : Ctx) (l : Tab Bank) (s : State) (h : (s.bank c).pipe.early = [] ∨ ∃ e ∈ l, ctxOf e.1 = c) :
    (l.foldl (fun s e => s.noEarly (ctxOf e.1)) s).bank c = (s.bank c).withEarly [] := by
  induction l generalizing s with
  | nil => exact (Bank.withEarly_self (h.resolve_right (by simp))).symm
  | cons e r ih =>
    rw [List.foldl_cons]
    by_cases he : ctxOf e.1 = c
    · rw [ih _ (.inl (by rw [he, State.noEarly_bank]; rfl)), he, State.noEarly_bank]
      rfl
    · have hsame : (s.noEarly (ctxOf e.1)).bank c = s.bank c := (State.noEarly_frame s _).2.1 c (Ne.symm he)
      rw [ih _ ?_, hsame]
      rw [hsame]
      refine h.imp_right fun ⟨x, hx, hxc⟩ => ⟨x, (List.mem_cons.mp hx).resolve_left ?_, hxc⟩
      rintro rfl
      exact he hxc

/-- To forget what every thread has read ahead empties each bank's list. -/
theorem dropEarly_bank (s : State) (c : Ctx) : (dropEarly s).bank c = (s.bank c).withEarly [] := by
  refine foldl_noEarly_bank c s.banks s ?_
  cases hb : tabGet? s.banks (ctxIx c) with
  | none =>
    have hreset : s.bank c = .reset := by rw [State.bank, tabGet, hb]; rfl
    exact .inl (by rw [hreset]; rfl)
  | some b => exact .inr ⟨_, mem_of_tabGet? hb, ctxOf_ctxIx c⟩

theorem dropEarly_iss (s : State) : (dropEarly s).iss = s.iss := 
  foldl_keeps State.iss (op := fun t (e : Nat × Bank) => t.noEarly (ctxOf e.1)) (fun t e => (State.noEarly_frame t (ctxOf e.1)).2.2) _ s

/-! ### KNEW: the word (R174, R317) -/

/-- The device once KNEW has made object `i` of `size` bytes at `a`, in the state `s1` that found its space. -/
def knewMade (s1 : State) (i a size : Nat) (ty : Word) (last : BitVec 16) : State :=
  dropEarly ((writeHeader s1 a size ty i).setObj i { s1.obj i with pins := 0, last := last, st := .live, addr := a })

/-- The reference that it gives. -/
def knewRef (s : State) (o : KOps) (i a : Nat) : DWord :=
  s.heap.goodc ++ bit1 (o.off.getLsbD 0) ++ (0 : BitVec 1) ++ (s.obj i).gen ++ BitVec.ofNat 48 a

section
variable {h : Hdr} {o : KOps} {s : State}

theorem exec_knew_stops (hr : Runs (.knew h o) s)
    (hbad : s.heap.en = false ∨ (s.cur.sreg o.dr.toNat).toNat < 256 ∨ 16777216 < (s.cur.sreg o.dr.toNat).toNat) :
    ∃ e v, exec (.knew h o) s = .next (takeStop (.trap 0x0B e v false false) s.bump.bump) := by
  refine ⟨_, _, word_stops hr (if_pos ?_)⟩
  simpa [or_assoc] using hbad

theorem exec_knew_full (hr : Runs (.knew h o) s) (he : s.heap.en = true) (hlow : 256 ≤ (s.cur.sreg o.dr.toNat).toNat)
    (hhigh : (s.cur.sreg o.dr.toNat).toNat ≤ 16777216)
    (hfull : freeObj s 262144 0 = none ∨ heapSpace s s.iss.ctx.core (((s.cur.sreg o.dr.toNat).toNat + 63) / 64 * 64) = none) :
    exec (.knew h o) s = .next (((knewFail s).setCur (s.cur.lockWrites [.k o.kh.toNat nullRef] 0 true)).verdict .done) := by
  refine word_runs hr ((if_neg ?_).trans ?_)
  · simp [he]
    omega
  · cases hfree : freeObj s 262144 0 with
    | none => rfl
    | some i =>
      rw [hfree] at hfull
      dsimp only
      rw [hfull.resolve_left (by simp)]
      rfl

theorem exec_knew_made (hr : Runs (.knew h o) s) (he : s.heap.en = true) (hlow : 256 ≤ (s.cur.sreg o.dr.toNat).toNat)
    (hhigh : (s.cur.sreg o.dr.toNat).toNat ≤ 16777216) {i a : Nat} {s1 : State} (hfree : freeObj s 262144 0 = some i)
    (hspace : heapSpace s s.iss.ctx.core (((s.cur.sreg o.dr.toNat).toNat + 63) / 64 * 64) = some (s1, a)) :
    let made := knewMade s1 i a (((s.cur.sreg o.dr.toNat).toNat + 63) / 64 * 64) (s.cur.sreg (o.dr.toNat + 1)) (nowMs s)
    exec (.knew h o) s = .next ((made.setBank s.iss.ctx
      ((made.bank s.iss.ctx).lockWrites [.k o.kh.toNat (knewRef s1 o i a)] 0 true)).verdict .done) := by
  refine word_runs hr ((if_neg ?_).trans ?_)
  · simp [he]
    omega
  · rw [hfree]
    dsimp only
    rw [hspace]
    rfl

end

section
variable {s s1 : State} {i a size : Nat} {ty : Word} {last : BitVec 16}

theorem knewMade_main : (knewMade s1 i a size ty last).mem.main = newObjMem s1.mem.main (s1.heapPa a) size ty i := by
  obtain ⟨hmem, -⟩ := dropEarly_frame ((writeHeader s1 a size ty i).setObj i { s1.obj i with pins := 0, last := last, st := .live, addr := a })
  rw [knewMade, hmem]
  exact writeHeader_main s1 a size ty i

theorem knewMade_heap : (knewMade s1 i a size ty last).heap =
    { s1.heap with ot := tabSet s1.heap.ot i { s1.obj i with pins := 0, last := last, st := .live, addr := a } } := by
  obtain ⟨-, hheap, -⟩ :=
    dropEarly_frame ((writeHeader s1 a size ty i).setObj i { s1.obj i with pins := 0, last := last, st := .live, addr := a })
  exact hheap

theorem knewMade_bank (c : Ctx) : (knewMade s1 i a size ty last).bank c = (s1.bank c).withEarly [] := dropEarly_bank _ c

theorem knewMade_iss : (knewMade s1 i a size ty last).iss = s1.iss := dropEarly_iss _

theorem knewMade_obj_same : (knewMade s1 i a size ty last).obj i = { s1.obj i with pins := 0, last := last, st := .live, addr := a } := by
  rw [State.obj, knewMade_heap]
  exact tabGet_tabSet_same _ _ _ _

theorem knewMade_obj_other {k : Nat} (h : k ≠ i) : (knewMade s1 i a size ty last).obj k = s1.obj k := by
  rw [State.obj, knewMade_heap]
  exact tabGet_tabSet_other _ _ _ _ _ h

theorem knewMade_heapPa : (knewMade s1 i a size ty last).heapPa a = s1.heapPa a := by
  rw [State.heapPa, knewMade_heap]
  rfl

/-- The header of a new object: its size, its entry and its type. -/
theorem knewMade_header (hsize : size ≤ 2 ^ 24) (hi : i < 262144) : let t := knewMade s1 i a size ty last
    t.objSize a = size ∧ t.headerOti a = i ∧ rawLe t (t.heapPa a + 20) 4 = ty.toNat := by
  intro t
  have hpa : t.heapPa a = s1.heapPa a := knewMade_heapPa
  have hmain : t.mem.main = newObjMem s1.mem.main (s1.heapPa a) size ty i := knewMade_main
  have hty : ty.toNat < 2 ^ 32 := ty.isLt
  refine ⟨?_, ?_, ?_⟩
  · rw [State.objSize, rawLe, rawBytes, hpa, hmain, memBytes_newObjMem_size, leNat_natLe, bits]
    omega
  · rw [State.headerOti, rawLe, rawBytes, hpa, hmain, memBytes_newObjMem_entry, leNat_natLe, bits]
    omega
  · rw [rawLe, rawBytes, hpa, hmain, memBytes_newObjMem_type, leNat_natLe]
    omega

/-- The rest of its bytes is zero, and no other byte changes. -/
theorem knewMade_bytes (hsize : 24 ≤ size) : let t := knewMade s1 i a size ty last
    (∀ k, k < size → (4 ≤ k ∧ k < 16) ∨ 24 ≤ k → t.mainByte (t.heapPa a + k) = 0) ∧
    (∀ b, b < t.heapPa a ∨ t.heapPa a + size ≤ b → t.mainByte b = s1.mainByte b) := by
  intro t
  have hpa : t.heapPa a = s1.heapPa a := knewMade_heapPa
  have hmain : t.mem.main = newObjMem s1.mem.main (s1.heapPa a) size ty i := knewMade_main
  rw [hpa]
  refine ⟨fun k hk hk' => ?_, fun b hb => ?_⟩
  · rw [State.mainByte, hmain]
    exact memByte_newObjMem_body hk hk'
  · rw [State.mainByte, hmain]
    exact memByte_newObjMem_outside hsize hb

end

theorem cur_setBank_done {m : State} {c : Ctx} {b : Bank} (h : m.iss.ctx = c) : ((m.setBank c b).verdict .done).cur = b := by
  subst h
  exact State.bank_setBank _ _ _

theorem withEarly_lockWrites (b : Bank) (l : List Early) (ws : List RegWrite) : (b.withEarly l).lockWrites ws 0 true =
    (b.lockWrites ws 0 true).withEarly l := rfl

/-- Settles O48: each word is the run of its own body; KLD by what Resolve finds in the loaded word, KST by the check of an interior
reference, KNEW by the object that it makes in the space it has found. -/
theorem referenceWords : Obligations.ReferenceWords := by
  unfold Obligations.ReferenceWords
  refine ⟨fun _ _ _ hr => exec_keq hr, fun h o s => ⟨fun hr => ?_, fun hr => ?_⟩, fun h o s s1 f pa hplace => ⟨fun hr => ?_, fun hr => ?_⟩,
    fun _ _ _ _ _ hplace => exec_of_objPlace_error hplace, fun h o s hr => ⟨exec_knew_stops hr, fun he hlow hhigh => ⟨?_, ?_⟩⟩⟩
  · obtain ⟨hoff, hmis⟩ := exec_kld_stops hr
    refine ⟨hoff, hmis, fun he s1 l hreach => ?_⟩
    obtain ⟨hdone, hstop⟩ := exec_kld_of_kldFrom hr he hreach
    exact loads_of_kldFrom hdone hstop
  · obtain ⟨hoff, hmis⟩ := exec_kst_stops hr
    refine ⟨hoff, hmis, fun he s1 l hreach => ?_⟩
    obtain ⟨hdone, hstop⟩ := exec_kst_of_kstInto hr he hreach
    exact ⟨fun hok => hdone _ (kstInto_of_allowed hok), fun hv hin => hstop _ _ (kstInto_of_outside hv hin)⟩
  · obtain ⟨hdone, hstop⟩ := exec_kldObject_of_kldFrom hr hplace
    exact loads_of_kldFrom hdone hstop
  · obtain ⟨hdone, hwait⟩ := exec_kstObject hr hplace
    exact ⟨fun hst _ => hdone hst, hwait⟩
  · intro hfull
    exact ⟨_, exec_knew_full hr he hlow hhigh hfull, rfl, rfl, raiseEvent_evtst (e := 4) (by decide) _, rfl, State.bank_setBank _ _ _⟩
  · intro i s1 a hfree hspace
    have hkept := heapSpace_allocKept hspace
    simp only [allocKept, Prod.mk.injEq] at hkept
    obtain ⟨hmem, hbase, hgoodc, hot, hbanks, -, hiss⟩ := hkept
    have hobj (k : Nat) : s1.obj k = s.obj k := by rw [State.obj, State.obj, hot]
    have hbank : s1.bank s.iss.ctx = s.cur := by rw [State.bank, hbanks]; rfl
    have hlt : i < 262144 := by
      have := freeObj_lt hfree
      omega
    refine ⟨_, exec_knew_made hr he hlow hhigh hfree hspace, rfl, ?_, fun k hk => ?_, ?_⟩
    · exact knewMade_obj_same.trans (by rw [hobj])
    · exact (knewMade_obj_other hk).trans (hobj k)
    · have hn : ((s.cur.sreg o.dr.toNat).toNat + 63) / 64 * 64 ≤ 2 ^ 24 ∧ 24 ≤ ((s.cur.sreg o.dr.toNat).toNat + 63) / 64 * 64 := by omega
      obtain ⟨hsz, hoti, hty⟩ := knewMade_header (s1 := s1) (a := a) (ty := s.cur.sreg (o.dr.toNat + 1)) (last := nowMs s) hn.1 hlt
      obtain ⟨hzero, hother⟩ := knewMade_bytes (s1 := s1) (i := i) (a := a) (ty := s.cur.sreg (o.dr.toNat + 1)) (last := nowMs s) hn.2
      refine ⟨hsz, hoti, hty, hzero, fun b hb => (hother b hb).trans ?_, ?_⟩
      · rw [State.mainByte, State.mainByte, hmem]
      · refine (cur_setBank_done (congrArg Iss.ctx (knewMade_iss.trans hiss))).trans ?_
        rw [knewMade_bank, hbank, withEarly_lockWrites, knewRef, hgoodc, hobj]
        rfl

end Sys2Proof.Machine
end

section
/-! OBLIGATION O42. Stores: the words, and the steps that are granted (R118, R241, R346, R347). -/

namespace Sys2Proof.Machine

/-! ### The words (R346, R347) -/

section
variable {o : MOps} {s : State}

theorem storeEffect_of_stored (ha : mVa s.cur o % szAlign o.sz = 0) {t : State}
    (h : storeVa s s.iss.ctx (mVa s.cur o) (dataBytes s.cur o.sz o.dr.toNat) (viaL1 (o.ord != 0) o.sc) (o.ord == 2) o.sc = .ok t) :
    storeEffect o s = .ok t := by
  rw [storeEffect]
  rw [aligned_of_dvd s ha]
  exact h

theorem stvEffect_of_reached (ha : mVa s.cur o % szAlign o.sz = 0) {s1 : State} {ls : List (Loc × Nat)}
    (h : reachAll s s.iss.ctx (mVa s.cur o) .wr (steps (szBytes o.sz)) = .ok (s1, ls)) : stvEffect o s =
      .ok (startSteps (beforeRelease s1 s.iss.ctx (o.ord == 2) (scopeAt s.cur (mVa s.cur o) o.sc)) s.iss.ctx
        (storeSteps (ls.map Prod.fst) (dataBytes s.cur o.sz o.dr.toNat) (viaL1 (o.ord != 0) o.sc) o.sc)) := by
  rw [stvEffect]
  rw [aligned_of_dvd s ha]
  dsimp only
  rw [h]

theorem stmEffect_of_reached (ha : rangeVa s.cur o 0 % 64 = 0) {s1 : State} {l : Loc × Nat} {ls : List (Loc × Nat)}
    (h : reachRange o s.cur s.iss.ctx .wr (rangeLeft s.cur o) (xferStart s.cur) s [] = (s1, l :: ls, none)) :
    let s2 := startSteps (beforeRelease s1 s.iss.ctx (o.ord == 2) (scopeAt s.cur (rangeVa s.cur o 0) o.sc)) s.iss.ctx
      (storeSteps ((l :: ls).map Prod.fst) (rangeBytes s.cur o) (viaL1 (o.ord != 0) o.sc) o.sc)
    stmEffect o s = .ok (s2.setBank s.iss.ctx ((s2.bank s.iss.ctx).setXfer 0)) := by
  rw [stmEffect]
  dsimp only
  rw [aligned_of_dvd s ha]
  dsimp only
  rw [h]
  rfl

end

/-! ### A step of a store that is granted (R241) -/

/-- The state in which the step at the head of a thread's list is performed. -/
def stepTaken (s : State) (c : Ctx) (r : List MemStep) : State := s.setBank c { s.bank c with pipe := { (s.bank c).pipe with steps := r } }

theorem stepTaken_bank (s : State) (c : Ctx) (r : List MemStep) :
    (stepTaken s c r).bank c = { s.bank c with pipe := { (s.bank c).pipe with steps := r } } := State.bank_setBank _ _ _

section
variable {s : State} {c : Ctx} {m : MemStep} {r : List MemStep} {x : List Byte}

theorem nextStep_store (hs : (s.bank c).pipe.steps = m :: r) (hd : m.data = some x) :
    nextStep s c = writeLoc (stepTaken s c r) c m.loc x m.l1 m.sc := by
  simp only [nextStep, hs, performStep, hd, stepTaken]

/-- A step into the pool writes there alone. -/
theorem nextStep_scratch_rest {o : Nat} (hs : (s.bank c).pipe.steps = m :: r) (hl : m.loc = .sp o) (hd : m.data = some x) :
    (∀ a, a < o ∨ o + x.length ≤ a → ((nextStep s c).bank c).scrByte a = (s.bank c).scrByte a) ∧
    (nextStep s c).mem.main = s.mem.main := by
  rw [nextStep_store hs hd, hl]
  refine ⟨fun a ha => ?_, rfl⟩
  have hbank : (writeLoc (stepTaken s c r) c (.sp o) x m.l1 m.sc).bank c = ((stepTaken s c r).bank c).scrWrite o x :=
    State.bank_setBank _ _ _
  rw [hbank, scrByte_scrWrite_other _ _ ha, stepTaken_bank]
  rfl

end

/-! ### A line of the L1 that is written (R118) -/

theorem storeOver_scr (s : State) (c : Ctx) (pa n : Nat) : ((s.storeOver c pa n).bank c).scr = (s.bank c).scr := by
  unfold State.storeOver
  split
  · rfl
  · rw [State.setEarly, State.bank_setBank]

/-- A byte of a list by the number that the list makes (R7). -/
theorem getElem_eq_ofNat_leNat (l : List Byte) {i : Nat} (hi : i < l.length) : l[i] = BitVec.ofNat 8 (leNat l / 256 ^ i) := by
  rw [← natLe_getElem (n := l.length) (leNat l) (by rwa [natLe_length])]
  simp only [natLe_leNat]

/-- Bytes that make a line are its bytes. -/
theorem bytesOfLine_lineOfBytes {l : List Byte} (h : l.length = 128) : bytesOfLine (lineOfBytes l) = l := by
  refine List.ext_getElem (by simp [bytesOfLine, h]) fun i hi hi' => ?_
  have hline : (lineOfBytes l).toNat = leNat l := by
    rw [lineOfBytes, BitVec.toNat_ofNat]
    exact Nat.mod_eq_of_lt ((leNat_lt l).trans_eq (by rw [h, pow_256]))
  rw [getElem_eq_ofNat_leNat l hi', pow_256]
  apply BitVec.eq_of_toNat_eq
  simp [bytesOfLine, hline, Nat.shiftRight_eq_div_pow]

theorem bytesOfLine_length (d : BitVec 1024) : (bytesOfLine d).length = 128 := by simp [bytesOfLine]

theorem bytesOfLine_patchLine (d : BitVec 1024) {o : Nat} {x : List Byte} (h : o + x.length ≤ 128) {k : Nat} (hk : k < x.length) :
    (bytesOfLine (patchLine d o x)).getD (o + k) 0 = x.getD k 0 := by
  have hd := bytesOfLine_length d
  rw [patchLine, bytesOfLine_lineOfBytes (by simp [hd]; omega), List.append_assoc, List.getD_append_right _ _ _ _ (by simp [hd]),
    List.getD_append _ _ _ _ (by simp [hd]; omega)]
  congr 1
  simp [hd]
  omega

theorem byteMask_getLsbD {o n k : Nat} (h : o + n ≤ 128) (hk : k < n) : (byteMask o n).getLsbD (o + k) = true := by
  have hpos : o + k < 128 := by omega
  rw [byteMask, BitVec.getLsbD_ofNat, decide_eq_true hpos, Bool.true_and, Nat.testBit_mul_two_pow]
  simp [hk]

theorem State.l1?_l1Put (s : State) (k : Fin 32) (ln : Nat) (l : Line) : (s.l1Put k ln l).l1? k ln = some l := by
  rw [State.l1?, State.l1Put, State.core, State.setCore, tabGet_tabSet_same]
  exact tabGet?_tabSet_same _ _ _

/-- The line that a store into the L1 makes of one that it finds there. -/
def Line.stored (l : Line) (o : Nat) (x : List Byte) : Line :=
  { data := patchLine l.data o x, dirty := l.dirty ||| byteMask o x.length, tag := 0 }

theorem cacheWrite_via (s : State) (k : Fin 32) (pa : Nat) (x : List Byte) (sc : BitVec 2) : cacheWrite s k pa x true sc =
    (fillLine s k (lineOf pa)).1.l1Put k (lineOf pa) ((fillLine s k (lineOf pa)).2.stored (pa % 128) x) := rfl

/-- What a store into the L1 leaves: its bytes stand in the line and are dirty (R118). -/
theorem cacheWrite_line (s : State) (k : Fin 32) {pa : Nat} {x : List Byte} (h : pa % 128 + x.length ≤ 128) (sc : BitVec 2) :
    let t := cacheWrite s k pa x true sc
    t.mem = s.mem ∧ ∃ l, t.l1? k (lineOf pa) = some l ∧ ∀ j, j < x.length →
      (bytesOfLine l.data).getD (pa % 128 + j) 0 = x.getD j 0 ∧ l.dirty.getLsbD (pa % 128 + j) = true := by
  have hfill : (fillLine s k (lineOf pa)).1.mem = s.mem := by
    unfold fillLine
    split <;> rfl
  rw [cacheWrite_via]
  refine ⟨hfill, _, State.l1?_l1Put _ _ _ _, fun j hj => ⟨bytesOfLine_patchLine _ h hj, ?_⟩⟩
  rw [Line.stored, BitVec.getLsbD_or, byteMask_getLsbD h hj, Bool.or_true]

/-! ### A step in main memory or in the L1 -/

section
variable {s : State} {c : Ctx} {m : MemStep} {r : List MemStep} {x : List Byte} {a : Nat}

theorem writeLoc_pa_banks (t : State) (c : Ctx) (l1 : Bool) (sc : BitVec 2) :
    (writeLoc t c (.pa a) x l1 sc).banks = (t.storeOver c a x.length).banks :=
  congrArg Prod.fst (cacheWrite_lineKept (t.storeOver c a x.length) c.core a x l1 sc)

/-- Such a step leaves the registers, the pool and the other threads. -/
theorem nextStep_pa_frame (hs : (s.bank c).pipe.steps = m :: r) (hl : m.loc = .pa a) (hd : m.data = some x) :
    ((nextStep s c).bank c).regs = (s.bank c).regs ∧ ((nextStep s c).bank c).scr = (s.bank c).scr ∧ OnlyBank c s (nextStep s c) := by
  obtain ⟨-, honly, -, hregs, -⟩ := storeOver_frame (stepTaken s c r) c a x.length
  have hbank (d : Ctx) : (nextStep s c).bank d = ((stepTaken s c r).storeOver c a x.length).bank d := by
    rw [nextStep_store hs hd, hl, State.bank, writeLoc_pa_banks]
    rfl
  refine ⟨?_, ?_, fun d hd => ?_⟩
  · rw [hbank, hregs, stepTaken_bank]
  · rw [hbank, storeOver_scr, stepTaken_bank]
  · rw [hbank, honly d hd, stepTaken, State.bank_setBank_other _ _ _ _ hd]

/-- A strong step whose line is in no L1 of the core writes main memory. -/
theorem nextStep_through (hs : (s.bank c).pipe.steps = m :: r) (hl : m.loc = .pa a) (hd : m.data = some x) (hm : m.l1 = false)
    (hline : s.l1? c.core (lineOf a) = none) (hwf : s.memWf = true) : let t := nextStep s c
    t.memWf = true ∧ (∀ k, k < x.length → t.mainByte (a + k) = x.getD k 0) ∧
    (∀ b, b < a ∨ a + x.length ≤ b → t.mainByte b = s.mainByte b) ∧ t.mem.near = s.mem.near ∧ t.mem.far = s.mem.far ∧
    t.cores = s.cores := by
  obtain ⟨tmain, tnear, tfar, -, -, -, tcores, -⟩ := writeLoc_through (s := stepTaken s c r) (c := c) hline x m.sc
  intro t
  have ht : t = writeLoc (stepTaken s c r) c (.pa a) x false m.sc := by rw [← hl, ← hm]; exact nextStep_store hs hd
  rw [← ht] at tmain tnear tfar tcores
  refine ⟨memWf_of_main hwf ?_ tnear tfar, fun k hk => ?_, fun b hb => ?_, tnear, tfar, tcores⟩
  · rw [tmain]
    exact memSetBytes_wf _ _ _ ((memWf_iff s).mp hwf).1
  · rw [State.mainByte, tmain, memByte_memSetBytes_same _ _ _ _ hk, List.getD_eq_getElem _ 0 hk]
  · rw [State.mainByte, tmain]
    exact memByte_memSetBytes_other _ _ _ _ hb

/-- A weak step, or one at core scope, writes the line of the L1. -/
theorem nextStep_line (hs : (s.bank c).pipe.steps = m :: r) (hl : m.loc = .pa a) (hd : m.data = some x) (hm : m.l1 = true)
    (hlen : a % 128 + x.length ≤ 128) : (nextStep s c).mem = s.mem ∧
    ∃ l, (nextStep s c).l1? c.core (lineOf a) = some l ∧ ∀ k, k < x.length →
      (bytesOfLine l.data).getD (a % 128 + k) 0 = x.getD k 0 ∧ l.dirty.getLsbD (a % 128 + k) = true := by
  obtain ⟨⟨-, -, -, hmem, -⟩, -⟩ := storeOver_frame (stepTaken s c r) c a x.length
  obtain ⟨tmem, tline⟩ := cacheWrite_line ((stepTaken s c r).storeOver c a x.length) c.core hlen m.sc
  rw [nextStep_store hs hd, hl, hm]
  exact ⟨tmem.trans hmem, tline⟩

end

/-- Settles O42: each word is the run of its own body, and a step that is granted is one write at its place. -/
theorem stores : Obligations.Stores := by
  unfold Obligations.Stores
  refine ⟨fun h o s hr ha t ht => word_runs hr (storeEffect_of_stored ha ht),
    fun h o s hr ha s1 ls hreach => word_runs hr (stvEffect_of_reached ha hreach),
    fun h o s hr ha _ s1 l ls hreach => word_runs hr (stmEffect_of_reached ha hreach),
    fun s c m r x hs hd => ⟨?_, fun o hl => ?_, fun a hl => ?_⟩⟩
  · rw [(nextStep_kept s c).1, hs]
    rfl
  · exact ⟨fun k hk => nextStep_scratch hs hl hd hk, nextStep_scratch_rest hs hl hd⟩
  · obtain ⟨hregs, hscr, honly⟩ := nextStep_pa_frame hs hl hd
    exact ⟨hregs, hscr, honly, fun hm hline hwf => nextStep_through hs hl hd hm hline hwf, fun hm hlen => nextStep_line hs hl hd hm hlen⟩

end Sys2Proof.Machine
end

section
/-! OBLIGATION O38. Loads: the words, a monitor's load of main memory, and the steps that fill a result (R118, R148, R241, R320, R321, R331). -/

namespace Sys2Proof.Machine

/-! ### The words (R320, R321) -/

section
variable {o : MOps} {s : State}

theorem loadEffect_of_loaded (ha : mVa s.cur o % szAlign o.sz = 0) {s1 : State} {x : List Byte}
    (h : loadVa (coreStrong s o (mVa s.cur o)) s.iss.ctx (mVa s.cur o) (szBytes o.sz) (viaL1 (o.ord != 0) o.sc) = .ok (s1, x)) :
    loadEffect o s = .ok (afterAcquire (s1.setBank s.iss.ctx ((s1.bank s.iss.ctx).lockWrites (dataWrites s.cur o.sz o.dr.toNat x) 0 true))
      s.iss.ctx (o.ord == 2) (scopeAt s.cur (mVa s.cur o) o.sc)) := by
  rw [loadEffect]
  dsimp only
  rw [aligned_of_dvd s ha]
  dsimp only
  rw [h]

theorem ldvEffect_of_reached (ha : mVa s.cur o % szAlign o.sz = 0) {s1 : State} {ls : List (Loc × Nat)}
    (h : reachAll (coreStrong s o (mVa s.cur o)) s.iss.ctx (mVa s.cur o) .rd (steps (szBytes o.sz)) = .ok (s1, ls)) :
    ldvEffect o s = .ok (fillSteps s1 s.iss.ctx o (dataWrites s.cur o.sz o.dr.toNat []) (ls.map Prod.fst)
      (scopeAt s.cur (mVa s.cur o) o.sc)) := by
  rw [ldvEffect]
  rw [aligned_of_dvd s ha]
  dsimp only
  rw [h]

end

/-! ### A range reaches a place for each register -/

theorem reachAll_length {s : State} {c : Ctx} {va : Nat} {acc : Acc} {l : List (Nat × Nat)} {x : State × List (Loc × Nat)}
    (h : reachAll s c va acc l = .ok x) : x.2.length = l.length := by
  induction l generalizing s x with
  | nil =>
    cases h
    rfl
  | cons e r ih =>
    rw [reachAll] at h
    split at h
    · cases h
    · split at h
      · cases h
      next hr =>
        cases h
        exact congrArg (· + 1) (ih hr)

theorem steps_ne_nil {n : Nat} : steps n ≠ [] := by
  unfold steps
  split
  · exact List.cons_ne_nil _ _
  · have hpos : n / 64 ≠ 0 := by omega
    simpa using hpos

/-- What a range has reached it keeps. -/
theorem reachRange_keeps {o : MOps} {b : Bank} {c : Ctx} {acc : Acc} {k i : Nat} {s t : State} {ls ms : List (Loc × Nat)}
    (h : reachRange o b c acc k i s ls = (t, ms, none)) : ls.length ≤ ms.length := by
  induction k generalizing i s ls with
  | zero =>
    cases h
    exact le_rfl
  | succ k ih =>
    rw [reachRange] at h
    split at h
    · cases h
    · have := ih h
      rw [List.length_append] at this
      omega

theorem reachRange_ne_nil {o : MOps} {b : Bank} {c : Ctx} {acc : Acc} {k i : Nat} {s t : State} {ls ms : List (Loc × Nat)} (hk : k ≠ 0)
    (h : reachRange o b c acc k i s ls = (t, ms, none)) : ms ≠ [] := by
  obtain ⟨k, rfl⟩ := Nat.exists_eq_succ_of_ne_zero hk
  rw [reachRange] at h
  split at h
  · cases h
  next hr =>
    have hlen := reachRange_keeps h
    have hsteps : _ = (steps (szBytes o.sz)).length := reachAll_length hr
    dsimp only at hsteps
    have hpos := List.length_pos_iff.mpr (steps_ne_nil (n := szBytes o.sz))
    rw [List.length_append] at hlen
    exact List.length_pos_iff.mp (by omega)

theorem ldmEffect_of_reached {o : MOps} {s : State} (ha : rangeVa s.cur o 0 % 64 = 0) (hk : rangeLeft s.cur o ≠ 0) {s1 : State}
    {ls : List (Loc × Nat)} (h : reachRange o s.cur s.iss.ctx .rd (rangeLeft s.cur o) (xferStart s.cur)
      (coreStrong s o (rangeVa s.cur o 0)) [] = (s1, ls, none)) :
    let u := fillSteps s1 s.iss.ctx o (rangeWrites s.cur o (rangeLeft s.cur o) []) (ls.map Prod.fst) (scopeAt s.cur (rangeVa s.cur o 0) o.sc)
    ldmEffect o s = .ok (u.setBank s.iss.ctx ((u.bank s.iss.ctx).setXfer 0)) := by
  have hne : ls.isEmpty = false := List.isEmpty_eq_false_iff.mpr (reachRange_ne_nil hk h)
  rw [ldmEffect]
  dsimp only
  rw [aligned_of_dvd s ha]
  dsimp only
  rw [h]
  dsimp only
  rw [hne]
  rfl

/-! ### PREF (R331) -/

section
variable {h : Hdr} {o : MOps} {s : State}

theorem exec_pref_window (hr : Runs (.pref h o) s) (hm : s.cur.tr.mode = false) (hw : inWindow (mVa s.cur o) = true) :
    exec (.pref h o) s = .next (s.verdict .done) := by
  refine word_runs hr (if_pos ?_)
  rw [hm, hw]
  rfl

theorem exec_pref (hr : Runs (.pref h o) s) (hout : s.cur.tr.mode = true ∨ inWindow (mVa s.cur o) = false) :
    (prefetchPa s s.iss.ctx s.cur.tr.mode (mVa s.cur o) = none → exec (.pref h o) s = .next (s.verdict .done)) ∧
    (∀ s1 pa, prefetchPa s s.iss.ctx s.cur.tr.mode (mVa s.cur o) = some (s1, pa) → exec (.pref h o) s =
      .next ((if o.sc = 0 then (fillLine s1 s.iss.ctx.core (lineOf pa)).1 else s1).verdict .done)) := by
  have hno : ¬(!s.cur.tr.mode && inWindow (mVa s.cur o)) = true := by
    rcases hout with h | h <;> simp [h]
  refine ⟨fun hp => word_runs hr ((if_neg hno).trans ?_), fun s1 pa hp => word_runs hr ((if_neg hno).trans ?_)⟩
  all_goals rw [hp]

end

/-! ### Bytes of main memory as a load finds them (R118, R127, R148) -/

/-- A read of words that no REL has written last finds nothing to go out before it. -/
theorem syncRead_of_no_rel {s : State} {pa n : Nat} (h : ∀ w ∈ wordsOfRange pa n, (s.syncWord w).rels = []) : s.syncRead pa n = s := by
  unfold State.syncRead
  generalize wordsOfRange pa n = l at h
  induction l with
  | nil => rfl
  | cons w r ih =>
    obtain ⟨hw, hr⟩ := List.forall_mem_cons.mp h
    rw [List.foldl_cons, if_pos (by rw [hw]; rfl)]
    exact ih hr

/-- The system cache gives plain bytes of a frame that is not compressed, outside the device's tables. -/
theorem sysBytes_plain {s : State} {pa n : Nat} (hc : s.famHas (frameOf pa) famCMP = false)
    (ht : ((s.region pa).any fun r => r.cls == 3) = false ∨ ∀ i, i < n → tableByte s (pa + i) = none) :
    sysBytes s pa n = memBytes s.mem.main pa n := by
  have hplain : plainBytes s pa n = memBytes s.mem.main pa n := by
    unfold plainBytes
    split
    next hcls =>
      refine List.map_congr_left fun i hi => ?_
      rw [ht.resolve_left (by simp [hcls]) i (List.mem_range.mp hi)]
      rfl
    next => rfl
  rw [sysBytes, sysRead?, if_neg (by simp [hc]), hplain]
  rfl

theorem memBytes_drop_take (m : Mem) (a : Nat) {o n k : Nat} (h : o + n ≤ k) : ((memBytes m a k).drop o).take n = memBytes m (a + o) n := by
  refine List.ext_getElem (by simp [memBytes]; omega) fun i hi hi' => ?_
  simp [memBytes, Nat.add_assoc]

/-- The conditions under which the line at an address holds plain bytes of main memory. -/
def PlainLine (s : State) (a : Nat) : Prop :=
  s.famHas (frameOf a) famCMP = false ∧
  ((∀ b, b / 128 = a / 128 → ((s.region b).any fun r => r.cls == 3) = false) ∨ ∀ b, b / 128 = a / 128 → tableByte s b = none)

theorem PlainLine.sysBytes {s : State} {a pa n : Nat} (h : PlainLine s a) (hpa : pa / 128 = a / 128) (hn : pa % 128 + n ≤ 128) :
    sysBytes s pa n = memBytes s.mem.main pa n := by
  obtain ⟨hcmp, htab⟩ := h
  have hframe : frameOf pa = frameOf a := by
    unfold frameOf
    omega
  refine sysBytes_plain (hframe ▸ hcmp) (htab.imp (fun h => h pa hpa) fun h i hi => h _ ?_)
  omega

/-- A read whose line is in no L1 of the core returns main memory's bytes, through the L1 or not. -/
theorem cacheRead_absent {s : State} {k : Fin 32} {a n : Nat} (hl : s.l1? k (lineOf a) = none) (hp : PlainLine s a)
    (hn : a % 128 + n ≤ 128) (l1 : Bool) :
    (cacheRead s k a n l1).2 = memBytes s.mem.main a n ∧ (cacheRead s k a n l1).1.mem = s.mem := by
  cases l1 with
  | true =>
    have hfill := hp.sysBytes (pa := 128 * lineOf a) (n := 128) (by unfold lineOf; omega) (by omega)
    have hpos : 128 * lineOf a + a % 128 = a := by
      unfold lineOf
      omega
    simp only [cacheRead, if_true, fillLine, hl, hfill]
    refine ⟨?_, rfl⟩
    rw [bytesOfLine_lineOfBytes (memBytes_length _ _ _), memBytes_drop_take _ _ hn, hpos]
  | false =>
    simp only [cacheRead, writeBack, hl, Bool.false_eq_true, if_false]
    exact ⟨hp.sysBytes rfl hn, trivial⟩

theorem loc_read_absent {s : State} {c : Ctx} {a n : Nat} {l1 : Bool} (he : (s.bank c).pipe.early = [])
    (hrel : l1 = false → ∀ w ∈ wordsOfRange a n, (s.syncWord w).rels = []) : readLoc s c (.pa a) n l1 = cacheRead s c.core a n l1 := by
  have hsync : (if l1 then s else s.syncRead a n) = s := by
    cases l1 with
    | true => rfl
    | false => exact syncRead_of_no_rel (hrel rfl)
  rw [readLoc]
  dsimp only
  rw [he]
  dsimp only
  rw [hsync]

/-! ### A monitor's load (R320) -/

section
variable {s : State} {o : MOps}

theorem scalar_in_line {a : Nat} {sz : BitVec 3} (hsz : sz.toNat ≤ 5) (ha : a % szBytes sz = 0) : a % 128 + szBytes sz ≤ 128 := by
  have hsizes : ∀ sz : BitVec 3, sz.toNat ≤ 5 → szBytes sz = 1 ∨ szBytes sz = 2 ∨ szBytes sz = 4 ∨ szBytes sz = 8 := by decide
  rcases hsizes sz hsz with h | h | h | h <;> rw [h] at ha ⊢ <;> omega

/-- What a monitor's load of a plain line leaves, before its acquire. -/
theorem loadEffect_monitor (hsz : o.sz.toNat ≤ 5) (hm : s.cur.tr.mode = true) (he : s.cur.pipe.early = [])
    (ha : mVa s.cur o % szBytes o.sz = 0) (hc : checkPa s s.iss.ctx true (mVa s.cur o) (szBytes o.sz) .rd = none)
    (hl : s.l1? s.iss.ctx.core (lineOf (mVa s.cur o)) = none)
    (hrel : viaL1 (o.ord != 0) o.sc = false → ∀ w ∈ wordsOfRange (mVa s.cur o) (szBytes o.sz), (s.syncWord w).rels = []) :
    let r := cacheRead s s.iss.ctx.core (mVa s.cur o) (szBytes o.sz) (viaL1 (o.ord != 0) o.sc)
    loadEffect o s = .ok (afterAcquire (r.1.setBank s.iss.ctx ((r.1.bank s.iss.ctx).lockWrites (loadedWrites o (leNat r.2)) 0 true))
      s.iss.ctx (o.ord == 2) (scopeAt s.cur (mVa s.cur o) o.sc)) := by
  have hstrong : coreStrong s o (mVa s.cur o) = s := by
    rw [coreStrong, State.noStrong_nil s _ he, ite_self]
  have hread := loadVa_of_reach (viaL1 (o.ord != 0) o.sc) ((szBytes_scalar _ hsz).trans (by decide))
    (reachWord_monitor (c := s.iss.ctx) hm hc hl)
  rw [loc_read_absent he hrel] at hread
  intro r
  rw [← dataWrites_scalar hsz s.cur]
  exact loadEffect_of_loaded (by rwa [szAlign_scalar hsz]) (by rw [hstrong]; exact hread)

theorem iss_of_beside {t u : State} (h : besideAccess u = besideAccess t) : u.iss = t.iss := by
  have hiss := congrArg State.iss h
  exact hiss

theorem afterAcquire_frame (t : State) (c : Ctx) (acq : Bool) (sc : BitVec 2) : let u := afterAcquire t c acq sc
    (u.bank c).pipe.locks = (t.bank c).pipe.locks ∧ (u.bank c).regs = (t.bank c).regs ∧ OnlyBank c t u ∧ u.iss = t.iss ∧
    (acq = false → u = t) := by
  cases acq with
  | false => exact ⟨rfl, rfl, fun _ _ => rfl, rfl, fun _ => rfl⟩
  | true =>
    have hbanks : (invAll t c.core sc).banks = t.banks := congrArg Prod.fst (invAll_lineKept t c.core sc)
    have hiss : (invAll t c.core sc).iss = t.iss := iss_of_beside (invAll_beside t c.core sc)
    have hbank (d : Ctx) : (invAll t c.core sc).bank d = t.bank d := by rw [State.bank, hbanks]; rfl
    obtain ⟨-, honly, hsame⟩ := (invAll t c.core sc).noEarly_frame c
    intro u
    have hu : u.bank c = (t.bank c).withEarly [] := (State.noEarly_bank _ c).trans (by rw [hbank])
    rw [hu]
    exact ⟨rfl, rfl, fun d hd => (honly d hd).trans (hbank d), hsame.trans hiss, nofun⟩

theorem monitor_load {h : Hdr} (hr : Runs (.ld h o) s) (hm : s.cur.tr.mode = true) (he : s.cur.pipe.early = []) :
    let a := mVa s.cur o
    let n := szBytes o.sz
    a % n = 0 → checkPa s s.iss.ctx true a n .rd = none → s.l1? s.iss.ctx.core (lineOf a) = none → PlainLine s a →
    (viaL1 (o.ord != 0) o.sc = false → ∀ w ∈ wordsOfRange a n, (s.syncWord w).rels = []) →
    ∃ t, exec (.ld h o) s = .next t ∧ t.iss.verdict = .done ∧
      t.cur.pipe.locks = s.cur.pipe.locks ++
        [{ id := s.cur.lockId, ws := loadedWrites o (leNat (memBytes s.mem.main a n)), af := 0, ready := true }] ∧
      t.cur.regs = s.cur.regs ∧ (o.ord ≠ 2 → t.mem = s.mem) ∧ OnlyBank s.iss.ctx s t := by
  intro a n ha hc hl hp hrel
  have hsz := (load_fields hr).1
  obtain ⟨hdata, hmem⟩ := cacheRead_absent hl hp (scalar_in_line hsz ha) (viaL1 (o.ord != 0) o.sc)
  have hbanks : (cacheRead s s.iss.ctx.core a n (viaL1 (o.ord != 0) o.sc)).1.banks = s.banks :=
    congrArg Prod.fst (cacheRead_lineKept _ _ _ _ _)
  have hiss : (cacheRead s s.iss.ctx.core a n (viaL1 (o.ord != 0) o.sc)).1.iss = s.iss :=
    iss_of_beside (cacheRead_beside _ _ _ _ _)
  have hexec := word_runs hr (loadEffect_monitor hsz hm he ha hc hl hrel)
  rw [hdata] at hexec
  generalize (cacheRead s s.iss.ctx.core a n (viaL1 (o.ord != 0) o.sc)).1 = u at *
  have hbank (d : Ctx) : u.bank d = s.bank d := by rw [State.bank, hbanks]; rfl
  obtain ⟨tlocks, tregs, tonly, tiss, tsame⟩ := afterAcquire_frame (u.setBank s.iss.ctx ((u.bank s.iss.ctx).lockWrites
    (loadedWrites o (leNat (memBytes s.mem.main a n))) 0 true)) s.iss.ctx (o.ord == 2) (scopeAt s.cur a o.sc)
  generalize afterAcquire (u.setBank s.iss.ctx ((u.bank s.iss.ctx).lockWrites (loadedWrites o (leNat (memBytes s.mem.main a n))) 0 true))
    s.iss.ctx (o.ord == 2) (scopeAt s.cur a o.sc) = t at *
  have hcur : (t.verdict .done).cur = t.bank s.iss.ctx := by
    rw [State.cur_verdict, State.cur, tiss.trans hiss]
  refine ⟨_, hexec, rfl, ?_, ?_, fun hord => ?_, fun d hd => ?_⟩
  · rw [hcur, tlocks, State.bank_setBank, hbank]
    rfl
  · rw [hcur, tregs, State.bank_setBank, hbank]
    rfl
  · rw [State.verdict_mem, tsame (beq_false_of_ne hord)]
    exact hmem
  · rw [State.bank_verdict, tonly d hd, State.bank_setBank_other _ _ _ _ hd, hbank]

end

/-! ### The steps of a vector (R241) -/

theorem leNat_append (x y : List Byte) : leNat (x ++ y) = leNat x + 256 ^ x.length * leNat y := by
  induction x with
  | nil => simp [leNat]
  | cons b r ih =>
    rw [List.cons_append, leNat_cons, leNat_cons, ih, List.length_cons, pow_succ]
    ring

/-- Fields that do not overlap are put together by `or`. -/
theorem ofNat_or_shift {w n x y : Nat} (h : x < 2 ^ n) : BitVec.ofNat w x ||| (BitVec.ofNat w y <<< n) = BitVec.ofNat w (x + 2 ^ n * y) := by
  apply BitVec.eq_of_getLsbD_eq
  intro i hi
  rw [Nat.add_comm x, Nat.two_pow_add_eq_or_of_lt h, BitVec.getLsbD_or, BitVec.getLsbD_shiftLeft, BitVec.getLsbD_ofNat, BitVec.getLsbD_ofNat,
    BitVec.getLsbD_ofNat, Nat.testBit_or, Nat.testBit_two_pow_mul]
  by_cases hin : i < n
  · simp [hin, hi, Nat.not_le.mpr hin]
  · have hsub : i - n < w := by omega
    simp [hin, hi, hsub, Nat.not_lt.mp hin, Bool.or_comm]

/-- The first `k` steps of a vector make the number of the first `64 k` bytes. -/
theorem fillWrites_steps (r : Nat) (m : VReg) {x : List Byte} (hx : x.length = 512) {k : Nat} (hk : k ≤ 8) :
    (List.range k).foldl (fun ws j => fillWrites ws (64 * j) ((x.drop (64 * j)).take 64)) [.v r 0 m] =
      [.v r (BitVec.ofNat 4096 (leNat (x.take (64 * k)))) m] := by
  induction k with
  | zero => rfl
  | succ k ih =>
    have hlen : (x.take (64 * k)).length = 64 * k := by
      rw [List.length_take]
      omega
    have hlow : leNat (x.take (64 * k)) < 2 ^ (8 * (64 * k)) := by
      rw [← pow_256]
      exact (leNat_lt _).trans_eq (by rw [hlen])
    have hin : 64 * k < 512 := by omega
    rw [List.range_succ, List.foldl_append, ih (by omega), List.foldl_cons, List.foldl_nil, fillWrites, if_pos hin, ofNat_or_shift hlow,
      Nat.mul_succ, List.take_add, leNat_append, hlen, pow_256]

/-- Settles O38: each word is the run of its own body; a monitor's load reads the line's plain bytes; the steps of a vector fill disjoint
fields. -/
theorem loads : Obligations.Loads := by
  unfold Obligations.Loads
  refine ⟨fun h o s hr ha => ?_, fun h o s hr hm he => ?_, fun h o s hr ha s1 ls hreach => word_runs hr (ldvEffect_of_reached ha hreach),
    fun r m x hx => ?_, fun h o s hr ha hk s1 ls hreach => word_runs hr (ldmEffect_of_reached ha hk hreach),
    fun h o s hr => exec_pref_window hr, fun h o s hr => exec_pref hr⟩
  · intro sc s1 x hload
    exact word_runs hr (loadEffect_of_loaded ha hload)
  · intro a n ha hc hl hcmp htab
    exact monitor_load hr hm he ha hc hl ⟨hcmp, htab⟩
  · rw [fillWrites_steps r m hx (le_refl 8), List.take_of_length_le hx.le]

end Sys2Proof.Machine
end
